-- ==== Sys2Proof/Word.lean ====
section
/-!
DEFINITION. The word types of the GN-4800 and their plainest arithmetic (R5, R38).
-/

namespace Sys2Proof

/-- A byte of memory. -/
abbrev Byte := BitVec 8
/-- A 16-bit halfword: a field of a parameter block, a scale record, a handle. -/
abbrev Half := BitVec 16
/-- A lane register or an instruction word (R11, R38). -/
abbrev Word := BitVec 32
/-- A register pair, an address, a 64-bit register (R5). -/
abbrev DWord := BitVec 64
/-- A mask of a cohort: bit i belongs to lane i (R5, R26). -/
abbrev Mask := BitVec 64
/-- A register code (R17). -/
abbrev Reg := BitVec 6

/-- The 64-bit value of an even and an odd register (R5). -/
def pairOf (lo hi : Word) : DWord := hi ++ lo
/-- Bits [31:0] of a pair. -/
def loOf (x : DWord) : Word := x.setWidth 32
/-- Bits [63:32] of a pair. -/
def hiOf (x : DWord) : Word := (x >>> 32).setWidth 32
/-- A Bool as a 32-bit 0 or 1. -/
def boolWord (b : Bool) : Word := if b then 1 else 0
/-- Bits [lo + n - 1 : lo] of a natural number. -/
def bitsOf (x lo n : Nat) : Nat := (x >>> lo) % 2 ^ n

end Sys2Proof
end

