-- ==== Sys2Proof/Syntax.lean ====
section
/-!
DEFINITION. The instructions and steps of the machine: one constructor of Instr for each row of spec/opcode_table.json,
with the operand types of R50 to R56. A row without an encoding is a step of an engine or of an outside party; its
constructor carries what names that step.
-/

namespace Sys2Proof

/-- Integer compare conditions (R55). -/
inductive IntCond where
  | eq | ne | lt | le | gt | ge
  deriving DecidableEq, Repr

/-- Float compare conditions (R55, R130). -/
inductive FloatCond where
  | eq | ne | lt | le | gt | ge | ord | unord
  deriving DecidableEq, Repr

/-- Compare types of CMP (R87). -/
inductive CmpType where
  | i32 | n32 | i64 | n64
  deriving DecidableEq, Repr

/-- Reductions of VRED (R93). -/
inductive RedOp where
  | add | min | max | and | or | xor
  deriving DecidableEq, Repr

/-- Float types (R55). -/
inductive FType where
  | f32 | f16 | b16
  deriving DecidableEq, Repr

/-- Rounding codes (R55). -/
inductive Rnd where
  | rn | rz | ru | rd | rs
  deriving DecidableEq, Repr

/-- Conversion types (R55). -/
inductive CvtType where
  | i8 | i16 | i32 | i64 | n8 | n16 | n32 | n64 | f32 | f16 | b16 | e4m3 | e5m2 | e3m2 | e2m3 | e2m1
  deriving DecidableEq, Repr

/-- Block formats (R55). -/
inductive BlkFmt where
  | e4m3 | e5m2 | e3m2 | e2m3 | e2m1 | e2m1s | q8 | q4
  deriving DecidableEq, Repr

/-- Access sizes (R50). -/
inductive MSize where
  | b | h | w | d | q
  deriving DecidableEq, Repr

/-- Cache levels of PREF (R186). -/
inductive CacheLevel where
  | l1 | cluster | llc
  deriving DecidableEq, Repr

/-- Orderings (R55). -/
inductive MOrd where
  | rlx | acq | rel | ar | sc
  deriving DecidableEq, Repr

/-- Scopes (R55, R329). -/
inductive Scope where
  | cohort | team | cluster | die | pkg
  deriving DecidableEq, Repr

/-- Branch conditions (R50). -/
inductive BrCond where
  | any | all | none | always
  deriving DecidableEq, Repr

/-- Conditions of WAITA: eq, ne, unsigned less, unsigned greater or equal, signed less, signed greater or equal (R190, R191). -/
inductive WaitCond where
  | eq | ne | ltn | gen | lti | gei
  deriving DecidableEq, Repr

/-- The qualifier word of an atomic (R50, R187). -/
structure AtomQual where
  scope : Scope
  ord   : MOrd
  w64   : Bool
  sgn   : Bool
  off   : BitVec 24
  deriving DecidableEq, Repr

/-- A parameter block: the eight 16-bit fields h0 to h7 (R52). -/
structure PBlock where
  h0 : Half
  h1 : Half
  h2 : Half
  h3 : Half
  h4 : Half
  h5 : Half
  h6 : Half
  h7 : Half
  deriving DecidableEq, Repr

/-- What a page walk is for (R347, R348). -/
inductive AccessKind where
  | read | write | fetch
  deriving DecidableEq, Repr

/-- The operations of a hart's AMO (R330). -/
inductive HartAmo where
  | swap | add | xor | and | or | min | max | minu | maxu
  deriving DecidableEq, Repr

/-- A memory operation of a CPU hart (R330): loads, stores, the fences of the table, and LR, SC and AMO with their annotation. A
size is 1, 2, 4 or 8 bytes; LR, SC and AMO have 4 or 8. -/
inductive HartOp where
  | load (rd : BitVec 5) (va : Nat) (size : Nat)
  | store (va : Nat) (size : Nat) (value : DWord)
  | fence (acq rel : Bool)
  | lr (rd : BitVec 5) (va : Nat) (size : Nat) (aq rl : Bool)
  | sc (rd : BitVec 5) (va : Nat) (size : Nat) (value : DWord) (aq rl : Bool)
  | amo (op : HartAmo) (rd : BitVec 5) (va : Nat) (size : Nat) (value : DWord) (aq rl : Bool)
  deriving DecidableEq, Repr

/-- A firmware image (R432): its security version, its SHA-256 digest, and whether its signature verifies against the fused root key. -/
structure FwImage where
  version : Nat
  digest  : Nat
  good    : Bool
  deriving DecidableEq, Repr

/-- A message of the side-band management port (R434). -/
inductive SbmpMsg where
  | versionDiscovery                          -- MCTP and SPDM version discovery, allowed outside a session
  | openSession                               -- an SPDM secured session is opened
  | readFaultLog (ctx slot : Nat)             -- OEM PLDM: one slot of a context's fault log
  | readRas (slot : Nat)                      -- OEM PLDM: one slot of the RAS log
  | ctxCmd (ctx : Nat) (cmd : BitVec 3)       -- OEM PLDM: a write of ctx_cmd
  | pwrCmd (state : BitVec 3)                 -- OEM PLDM: a write of pwr_cmd
  | regWrite (pa : Nat) (v : DWord)           -- a write of a control register (R395)
  | updateSlot (image : Nat) (img : FwImage)  -- PLDM type 5: a new image for the inactive slot of the CPU firmware (0), the FMP (1) or the TKC (2)
  deriving DecidableEq, Repr

/-- A request on the PCIe port (R394, R431): its IDE stream, 0 for the link stream and 1 to 4 for the selective ones, whether it comes under the
stream's new key set, and whether its integrity check holds. -/
inductive PcieReq where
  | read (stream pa size : Nat) (newKeys intact : Bool)
  | write (stream pa : Nat) (bytes : List Byte) (newKeys intact : Bool)
  deriving DecidableEq, Repr

/-- A fabric operation that a packet carries to its target (R446, R449 to R458). The parts of a contribution are the source ranks
and sequences that it contains: more than one when a switch has merged it (R453, R454). -/
inductive NetOp where
  | put (dst : Nat) (bytes : List Byte)
  | get (src len : Nat)
  | slice (dst : Nat) (rows : List Byte) (cdst : Nat) (count : Nat)    -- a peer's rows and count word (R451)
  | reduce (dst : Nat) (ty : BitVec 2) (op : BitVec 2) (sat : Bool) (coll : Nat) (parts : List (Nat × Nat))
      (inr hop : Bool) (bytes : List Byte)     -- inr: switches may merge it; hop: an add at a switch overflowed (R440, R454)
  | counterAdd (value : Word)
  deriving DecidableEq, Repr

/-- The transport kinds of a packet (R440): reliable unordered, reliable ordered, unreliable unordered, idempotent. -/
inductive Transport where
  | rud | rod | uud | rudi
  deriving DecidableEq, Repr

/-- A message between Charabancs: its source rank, the target on this module, the job it carries, the secret of the key that protects it,
its transport, its counter update and its payload (R440, R441, R443, R446, R448). cmd numbers the command of its module that sent it;
stream and number say which message of which stream of its source it is, by which the target knows a retransmission and keeps the order
of an ordered stream. -/
structure NetMsg where
  srcModule : Nat
  srcRank   : Nat
  die       : Nat
  ctx       : Nat
  job       : BitVec 24
  key       : Nat
  kind      : Transport
  cmd       : Nat
  stream    : Nat
  number    : Nat
  rctr      : Nat
  rctrAdd   : Nat
  op        : NetOp
  deriving DecidableEq, Repr

/-- Whether a message is ordered (R440, R448). -/
def NetMsg.ordered (m : NetMsg) : Bool := m.kind == .rod

/-- One constructor for each row of spec/opcode_table.json. -/
inductive Instr where
  -- integer, logic, address and cross-lane (R77 to R97)
  | iadd (u : Bool) (d a b : Reg) | isub (u : Bool) (d a b : Reg) | imul (u : Bool) (d a b : Reg)
  | imulhI32 (u : Bool) (d a b : Reg) | imulhN32 (u : Bool) (d a b : Reg)
  | iminI32 (u : Bool) (d a b : Reg) | iminN32 (u : Bool) (d a b : Reg)
  | imaxI32 (u : Bool) (d a b : Reg) | imaxN32 (u : Bool) (d a b : Reg)
  | iabs (u : Bool) (d a : Reg) | ineg (u : Bool) (d a : Reg)
  | imad (d a b c : Reg)
  | iadd64 (u : Bool) (d a b : Reg) | isub64 (u : Bool) (d a b : Reg)
  | lea (u : Bool) (d a b : Reg) (s : BitVec 3) (sx : Bool) (off : Word)
  | iaddImm (u : Bool) (d a : Reg) (imm : BitVec 11) | andImm (u : Bool) (d a : Reg) (imm : BitVec 11)
  | orImm (u : Bool) (d a : Reg) (imm : BitVec 11) | xorImm (u : Bool) (d a : Reg) (imm : BitVec 11)
  | movi (u : Bool) (d : Reg) (lit : Word)
  | andR (u : Bool) (d a b : Reg) | orR (u : Bool) (d a b : Reg) | xorR (u : Bool) (d a b : Reg)
  | andnR (u : Bool) (d a b : Reg) | notR (u : Bool) (d a : Reg) | mov (u : Bool) (d a : Reg)
  | shl (u : Bool) (d a b : Reg) | shr (u : Bool) (d a b : Reg) | sar (u : Bool) (d a b : Reg) | rot (u : Bool) (d a b : Reg)
  | shlImm (u : Bool) (d a : Reg) (n : BitVec 5) | shrImm (u : Bool) (d a : Reg) (n : BitVec 5)
  | sarImm (u : Bool) (d a : Reg) (n : BitVec 5) | rotImm (u : Bool) (d a : Reg) (n : BitVec 5)
  | popc (u : Bool) (d a : Reg) | clz (u : Bool) (d a : Reg) | brev (u : Bool) (d a : Reg)
  | bfxN32 (u : Bool) (d a : Reg) (len : BitVec 6) (pos : BitVec 5)
  | bfxI32 (u : Bool) (d a : Reg) (len : BitVec 6) (pos : BitVec 5)
  | bfi (u : Bool) (d a : Reg) (len : BitVec 6) (pos : BitVec 5)
  | sel (d a b m : Reg)
  | cmp (u : Bool) (d a b : Reg) (t : CmpType) (k : IntCond)
  | mpop (u : Bool) (d a : Reg) | mfirst (u : Bool) (d a : Reg)
  | perm (u : Bool) (d a b : Reg) | shup (u : Bool) (d a b : Reg) | shdn (u : Bool) (d a b : Reg) | shxr (u : Bool) (d a b : Reg)
  | shupImm (u : Bool) (d a : Reg) (n : BitVec 6) | shdnImm (u : Bool) (d a : Reg) (n : BitVec 6)
  | shxrImm (u : Bool) (d a : Reg) (n : BitVec 6)
  | bcst (u : Bool) (d a b : Reg)
  | vred (u : Bool) (d a : Reg) (wide uns : Bool) (op : RedOp)
  | scan (u : Bool) (d a : Reg) (excl uns : Bool) (op : RedOp)
  | rds (u : Bool) (d : Reg) (idx : BitVec 6) | wrs (u : Bool) (a : Reg) (idx : BitVec 6)
  -- float, conversion and special function (R127 to R143)
  | fadd (u : Bool) (d a b : Reg) (t : FType) | fsub (u : Bool) (d a b : Reg) (t : FType) | fmul (u : Bool) (d a b : Reg) (t : FType)
  | fmin (u : Bool) (d a b : Reg) (t : FType) | fmax (u : Bool) (d a b : Reg) (t : FType)
  | ffma (d a b c : Reg)
  | fcmp (u : Bool) (d a b : Reg) (t : FType) (k : FloatCond)
  | fclass (u : Bool) (d a : Reg) (t : FType)
  | frint (u : Bool) (d a : Reg) (t : FType) (r : Rnd) | fscale (u : Bool) (d a b : Reg) (t : FType) (r : Rnd)
  | fxp2 (u : Bool) (d a : Reg) (f : Bool) | flog2 (u : Bool) (d a : Reg) (f : Bool)
  | frcp (u : Bool) (d a : Reg) (f : Bool) | frsq (u : Bool) (d a : Reg) (f : Bool)
  | fsqrt (u : Bool) (d a : Reg) (f : Bool) | fsinpi (u : Bool) (d a : Reg) (f : Bool)
  | fcospi (u : Bool) (d a : Reg) (f : Bool) | ftanh (u : Bool) (d a : Reg) (f : Bool)
  | hadd2 (u : Bool) (d a b : Reg) (bf : Bool) | hmul2 (u : Bool) (d a b : Reg) (bf : Bool)
  | hfma2F16 (d a b c : Reg) | hfma2B16 (d a b c : Reg)
  | cvt (u : Bool) (d a : Reg) (r : Rnd) (t s : CvtType) | cvtSat (u : Bool) (d a : Reg) (r : Rnd) (t s : CvtType)
  | qnt (d a : Reg) (r : Rnd) (k : BlkFmt) | dqt (u : Bool) (d a : Reg) (k : BlkFmt)
  | srnd (a b : Reg)
  -- control, windows and traps (R147 to R169)
  | bra (u : Bool) (m : Reg) (k : BrCond) (o : BitVec 15) | brc (u : Bool) (m : Reg) (k : BrCond) (o : BitVec 15)
  | brd (u : Bool) (m : Reg) (k : BrCond) (o : BitVec 15)
  | join | brx (u : Bool) (a : Reg)
  | call (u : Bool) (k : BitVec 6) (o : BitVec 15) | callx (u : Bool) (a : Reg) (k : BitVec 5)
  | ret | exit | yieldI | trap (code : Byte) | eret | nop | wdepth (d : Reg)
  -- memory (R170 to R193)
  | ld (f : Bool) (d b x : Reg) (s : MSize) (off : Option Word) (sx : Bool)
  | ldRo (f : Bool) (d b x : Reg) (s : MSize) (off : Option Word) (sx : Bool)
  | ldC (f : Bool) (d b x : Reg) (s : MSize) (off : Option Word) (sx : Bool)
  | ldNt (f : Bool) (d b x : Reg) (s : MSize) (off : Option Word) (sx : Bool)
  | ldU (f : Bool) (d b x : Reg) (s : MSize) (off : Option Word) (sx : Bool)
  | st (f : Bool) (d b x : Reg) (s : MSize) (off : Option Word)
  | stNt (f : Bool) (d b x : Reg) (s : MSize) (off : Option Word)
  | lds (f : Bool) (d b x : Reg) (s : MSize) (off : Option Word) (sx : Bool)
  | sts (f : Bool) (d b x : Reg) (s : MSize) (off : Option Word)
  | ldf (f : Bool) (d b x : Reg) (off : Option Word) | stf (f : Bool) (d b x : Reg) (off : Option Word)
  | pref (f : Bool) (b x : Reg) (l : CacheLevel) (off : Option Word)
  | aadd (f : Bool) (d b v : Reg) (q : AtomQual) | amin (f : Bool) (d b v : Reg) (q : AtomQual)
  | amax (f : Bool) (d b v : Reg) (q : AtomQual) | aand (f : Bool) (d b v : Reg) (q : AtomQual)
  | aor (f : Bool) (d b v : Reg) (q : AtomQual) | axor (f : Bool) (d b v : Reg) (q : AtomQual)
  | axch (f : Bool) (d b v : Reg) (q : AtomQual) | acas (f : Bool) (d b v : Reg) (q : AtomQual)
  | afadd (f : Bool) (d b v : Reg) (q : AtomQual)
  | fence (o : MOrd) (sc : Scope) (ro : Bool)
  | waita (d a b : Reg) (w64 : Bool) (k : WaitCond) | wakea (a : Reg)
  | cinv (f : Bool) (a b : Reg) | cwb (f : Bool) (a b : Reg) | tlbq (f : Bool) (d a : Reg) | clkrd (d : Reg)
  | sysc (f : Bool) (d a : Reg) | bkpt
  -- copy engine (R229 to R237)
  | cpy (f : Bool) (d a b : Reg) | cpy2d (f : Bool) (d a : Reg) (p : PBlock) | cpyg (f : Bool) (d a b : Reg) (p : PBlock)
  | cpyo (f : Bool) (d a b : Reg) | plnx (f : Bool) (d a b : Reg) (p : PBlock) | sbq (d a : Reg)
  -- matrix array and residencies (R262 to R283)
  | resa (d a : Reg) | respin (a : Reg) | respinUnpin (a : Reg) | resrel (a : Reg) | resq (d a : Reg)
  | resl (f : Bool) (a b : Reg) (p : PBlock) | mma (f : Bool) (d a b : Reg) (p : PBlock) | mma1 (f : Bool) (d a b : Reg) (p : PBlock)
  | accz (f : Bool) (a : Reg) | accrd (f : Bool) (a b : Reg) | accwr (f : Bool) (a b : Reg)
  | scld (f : Bool) (a : Reg) (p : PBlock)
  -- barriers and routing (R294, R315, R318)
  | barinit (t n b : Reg) (cl : Bool) | bararr (d b : Reg) (cl : Bool) | barwait (k b : Reg) (cl : Bool)
  | barsync (b : Reg) (cl : Bool) | barq (d b : Reg) (cl : Bool)
  | route (f : Bool) (d a b : Reg) (p : PBlock) | routeq (d : Reg)
  -- launches, events, generations (R380 to R384)
  | launch (f : Bool) (d a : Reg) | evsig (f : Bool) (a b : Reg) | evwait (d a b : Reg)
  | galloc (d a : Reg) | gfree (d a : Reg) | gadv | gqry (d : Reg)
  -- fabric (R444 to R458)
  | nput (f : Bool) (d a b : Reg) (p : PBlock) | nget (f : Bool) (d a b : Reg) (p : PBlock) | ncoll (f : Bool) (d a b : Reg) (p : PBlock)
  | na2a (f : Bool) (d a b : Reg) (p : PBlock) | nred (f : Bool) (d a b : Reg) (p : PBlock)
  | trigarm (f : Bool) (d a : Reg) | ctrset (f : Bool) (a b : Reg) | ctradd (f : Bool) (a b : Reg) | ctrrd (d b : Reg)
  -- append engine (R413 to R418)
  | app (f : Bool) (d a b : Reg) | appsync (f : Bool) (d a b : Reg) | appseal (f : Bool) (d b : Reg) | fmpreq (f : Bool) (d a b : Reg)
  -- CPU-die extension (R385)
  | glaunch (rd rs1 rs2 : BitVec 5) | gevsig (rd rs1 rs2 : BitVec 5) | gevwait (rd rs1 rs2 : BitVec 5) | gctx (rd rs1 rs2 : BitVec 5)
  -- steps of the core (R287, R134, R167, R163, R179, R186, R188, R190, R191, R195, R198)
  | selectClause (core : Nat) | sfuResult (co op : Nat) | cohortEnd (co : Nat) | trapEntry (cause sub : Byte)
  | loadComplete (co op : Nat) | storeComplete (co op : Nat) | atomicComplete (co op : Nat) | prefComplete (co op : Nat)
  | fenceComplete (co : Nat) | waitaWake (co : Nat) | waitaTimeout (co : Nat) | cacheMaintComplete (co op : Nat)
  | syscAnswer (co : Nat) | sysTailWrite (ctx : Nat) (v : Word)
  -- steps of the engines (R226, R240, R241, R281, R282, R295, R298, R299, R317, R382)
  | copyRetire (core cmd : Nat) | matrixCommandStart (core : Nat) | matrixCommandRetire (core : Nat)
  | accRetire (core cmd : Nat) | scldRetire (core cmd : Nat)
  | barrierTimeout (cl : Bool) (team b : Nat) | siblingStop (co : Nat) | teamHalt (team : Nat)
  | routeRetire (cluster : Nat) | evwaitWake (co : Nat) | evwaitTimeout (co : Nat)
  -- steps of the harts and of the PCIe port (R330, R385, R394)
  | gevwaitWake (hart : Nat) | hartMemoryOperation (hart : Nat) (op : HartOp) | pcieInboundRequest (r : PcieReq)
  -- steps of the Ringmasters (R375, R376, R378)
  | dependenceTest (ctx q : Nat) | teamPlace (ctx q index slot granule : Nat) | launchComplete (ctx lid : Nat)
  -- steps of the fabric (R446, R447, R460, R441)
  | fabricCommandComplete (cmd : Nat) (status : Byte) (hop : Bool) (bytes : List Byte)
  | fabricPacketReceive (m : NetMsg) | keepalive (module : Nat) | peerLost (module : Nat) | retransmission (cmd : Nat)
  -- steps of the Flash Management Processor (R408 to R418, R355)
  | appComplete (req : Nat) | durabilityAdvance (log n : Nat)
  | logquery (req : Nat) | logtrim (req : Nat) | fmpResult (req : Nat) | logcreate (req : Nat) | logmap (req : Nat)
  | logunmap (req : Nat) | logdelete (req : Nat) | appendS (req : Nat) | syncS (req : Nat) | sealS (req : Nat)
  | fmpMboxSubmit (pa : Nat)
  | flashRelocation (granule frame : Nat) | relocationCopyEnd (granule : Nat) | granuleClear (granule : Nat) | fmpRestart
  -- steps of translation, faults and contexts (R349 to R366)
  | shootdownComplete (die : Nat) | preemptDrained (ctx : Nat) | stopDrainEnd (ctx : Nat) | contextTermination (ctx : Nat)
  | preemptDeadline (ctx : Nat)
  -- steps of memory (R345, R400)
  | wcFlush (core : Nat) | hbmRebuildEnd (stack : Nat)
  -- steps of the Tenant Key Controller (R427 to R432)
  | keygen (req : Nat) | region (req : Nat) | fabbind (req : Nat) | revoke (req : Nat) | tkcResult (req : Nat) | attest (req : Nat)
  -- the supervisor's commands, and events from outside (R349 to R366, R367 to R369, R398 to R402, R428 to R438, R7)
  | pageWalkComplete (cluster ctx va : Nat) (kind : AccessKind) (waiters : List Nat)
  | replayAll (die ctx : Nat) | shootdownGo (die : Nat) | preempt (ctx : Nat) | stop (ctx : Nat) | resume (ctx : Nat)
  | terminate (ctx : Nat) | release (ctx : Nat) | continueC (ctx : Nat)
  | uncorrectableError (pa : Nat) | hartPoisonTrap (hart pa : Nat) | refreshRetry (stack : Nat)
  | channelRetirement (stack channel : Nat) | shadowSwitch (stack : Nat) | patrolScrub (pa : Nat)
  | tkcMboxSubmit (pa : Nat) | sbmpMessage (m : SbmpMsg) | thermalTrip (die : Nat) (temp : Half) | registerWrite (pa : Nat) (v : DWord)
  | tkcRestart | ideKeySwitch | ps0 | ps1 | ps2 | ps3 | ps4 | powerTransitionEnd | pcieWake | coldBoot | sequencerMark | powerLoss
  deriving DecidableEq, Repr

end Sys2Proof
end

