-- ==== Sys2Proof/WellFormed.lean ====
section
/-!
DEFINITION. Which instructions can be written as words: the limits on operands that R21, R32, R50 to R56 and R177 put on
an instruction's fields. A step without an encoding (a row of the table with no words) has no word, and is not well formed
in this sense.
-/

namespace Sys2Proof

/-- An even register code: the even member of a pair (R21). -/
def Reg.even (r : Reg) : Bool := r.toNat % 2 == 0
/-- A register code that may start a group of four registers (R177). -/
def Reg.quad (r : Reg) : Bool := r.toNat % 4 == 0

/-- A field of a parameter block that is a substitution marker (R53). -/
def Half.isMarker (h : Half) : Bool := h.toNat / 4096 == 15
/-- A substitutable field is well formed when it is no marker or a marker whose bits [11:6] are 0 (R53, R57). -/
def Half.markerOk (h : Half) : Bool := h.toNat / 4096 != 15 || h.toNat / 64 % 64 == 0

/-- The register operand of a load or store of a size (R177). -/
def MSize.regOk (s : MSize) (d : Reg) : Bool :=
  match s with
  | .b | .h | .w => true
  | .d => d.even
  | .q => d.quad

/-- Sign extension is legal only for sizes b and h (R50). -/
def MSize.sxOk (s : MSize) (sx : Bool) : Bool :=
  match s with
  | .b | .h => true
  | .w | .d | .q => !sx

/-- VRED and SCAN: the unsigned bit is assigned only with min and max (R93, R94). -/
def RedOp.unsOk (o : RedOp) (uns : Bool) : Bool :=
  match o with
  | .min | .max => true
  | .add | .and | .or | .xor => !uns

/-- The reductions that SCAN has (R94). -/
def RedOp.scanOk : RedOp → Bool
  | .add | .min | .max => true
  | .and | .or | .xor => false

/-- A 64-bit conversion operand is a pair (R137). -/
def CvtType.regOk (t : CvtType) (r : Reg) : Bool :=
  match t with
  | .i64 | .n64 => r.even
  | .i8 | .i16 | .i32 | .n8 | .n16 | .n32 | .f32 | .f16 | .b16 | .e4m3 | .e5m2 | .e3m2 | .e2m3 | .e2m1 => true

/-- The 64-bit compare types name pairs (R87). -/
def CmpType.wide : CmpType → Bool
  | .i64 | .n64 => true
  | .i32 | .n32 => false

/-- RDS: an assigned index, and an even D for the registers that are 64 bits at every width (R31, R32, R95). -/
def rdsOk (d : Reg) (idx : BitVec 6) : Bool :=
  idx.toNat < 18 && (if idx.toNat == 13 || idx.toNat == 15 || idx.toNat == 16 then d.even else true)

/-- WRS: a writable index, and an even A for trappc and seed (R31, R32, R95). -/
def wrsOk (a : Reg) (idx : BitVec 6) : Bool :=
  idx.toNat == 0 || idx.toNat == 12 || ((idx.toNat == 13 || idx.toNat == 15) && a.even)

/-- The field limits of an atomic (R187). -/
def atomOk (d b v : Reg) (q : AtomQual) (minmax fadd : Bool) : Bool :=
  b.even && (minmax || !q.sgn) && !(fadd && q.w64) && (!q.w64 || (d.even && v.even))

/-- The fields of a load (R170, R176, R177). -/
def loadOk (d b : Reg) (s : MSize) (sx : Bool) : Bool := b.even && s.regOk d && s.sxOk sx

/-- Whether the instruction has a word and every operand is one the word can hold. -/
def Instr.wf : Instr → Bool
  | .iadd64 _ d a b | .isub64 _ d a b => d.even && a.even && b.even
  | .lea _ d a _ s _ _ => d.even && a.even && decide (s.toNat ≤ 4)
  | .bfxN32 _ _ _ len _ | .bfxI32 _ _ _ len _ | .bfi _ _ _ len _ => decide (1 ≤ len.toNat) && decide (len.toNat ≤ 32)
  | .cmp _ _ a b t _ => !t.wide || (a.even && b.even)
  | .vred _ d a wide uns op => op.unsOk uns && (!wide || (d.even && a.even))
  | .scan _ _ _ _ uns op => op.scanOk && op.unsOk uns
  | .rds _ d idx => rdsOk d idx
  | .wrs _ a idx => wrsOk a idx
  | .cvt _ d a _ t s | .cvtSat _ d a _ t s => t.regOk d && s.regOk a
  | .qnt d _ _ _ => d.even
  | .dqt _ _ a _ => a.even
  | .srnd a _ => a.even
  | .bra _ m k _ => (match k with | .always => m.toNat == 0 | .any | .all | .none => true)
  | .brc _ _ k _ | .brd _ _ k _ => (match k with | .always => false | .any | .all | .none => true)
  | .brx _ a => a.even
  | .call _ k _ => decide (1 ≤ k.toNat) && decide (k.toNat ≤ 11)
  | .callx _ a k => a.even && decide (1 ≤ k.toNat) && decide (k.toNat ≤ 11)
  | .ld _ d b _ s _ sx | .ldRo _ d b _ s _ sx | .ldC _ d b _ s _ sx | .ldNt _ d b _ s _ sx | .ldU _ d b _ s _ sx
  | .lds _ d b _ s _ sx => loadOk d b s sx
  | .st _ d b _ s _ | .stNt _ d b _ s _ | .sts _ d b _ s _ => b.even && s.regOk d
  | .ldf _ _ b _ _ | .stf _ _ b _ _ => b.even
  | .pref _ b _ _ _ => b.even
  | .aadd _ d b v q | .aand _ d b v q | .aor _ d b v q | .axor _ d b v q | .axch _ d b v q | .acas _ d b v q =>
    atomOk d b v q false false
  | .amin _ d b v q | .amax _ d b v q => atomOk d b v q true false
  | .afadd _ d b v q => atomOk d b v q false true
  | .fence o sc ro => (match o with | .rlx => false | .acq | .rel | .ar | .sc => true) &&
      (match sc with | .cohort => !ro | .team | .cluster | .die | .pkg => true)
  | .waita _ a b w _ => a.even && (!w || b.even)
  | .wakea a => a.even
  | .cinv _ a _ | .cwb _ a _ => a.even
  | .tlbq _ d a => d.even && a.even
  | .clkrd d => d.even
  | .sysc _ d a => d.even && a.even
  | .cpy _ d a _ => d.even && a.even
  | .cpy2d _ d a p => d.even && a.even && p.h0.markerOk && p.h1.markerOk
  | .cpyg _ d a _ p => d.even && a.even && p.h1.markerOk
  | .cpyo _ _ a _ => a.even
  | .plnx _ _ _ _ p => p.h0.markerOk && p.h1.markerOk
  | .resq d _ => d.quad
  | .resl _ _ b p => b.even && p.h1.markerOk && p.h2.markerOk
  | .mma _ _ _ _ p => p.h0.markerOk && p.h2.markerOk && p.h4.markerOk && p.h5.markerOk && p.h6.markerOk && p.h7.markerOk
  | .mma1 _ _ _ _ p => p.h0.markerOk && p.h2.markerOk
  | .scld _ a p => a.even && p.h0.markerOk && p.h2.markerOk && p.h3.markerOk
  | .barinit _ _ b _ | .bararr _ b _ | .barwait _ b _ | .barsync b _ | .barq _ b _ => decide (b.toNat < 48)
  | .route _ _ _ _ p => p.h0.markerOk && p.h2.markerOk && p.h3.markerOk
  | .launch _ d a => d.even && a.even
  | .evsig _ a _ => a.even
  | .evwait _ a b => a.even && b.even
  | .galloc d _ => d.even
  | .gfree _ a => a.even
  | .gqry d => d.even
  | .nput _ d a _ p | .nget _ d a _ p | .ncoll _ d a _ p => d.even && a.even && p.h0.markerOk && p.h1.markerOk && p.h3.markerOk
  | .na2a _ d a _ p =>
    d.even && a.even && p.h0.markerOk && p.h1.markerOk && p.h3.markerOk && p.h5.markerOk && p.h6.markerOk
  | .nred _ d a _ p => d.even && a.even && p.h0.markerOk && p.h1.markerOk && p.h3.markerOk && p.h4.markerOk
  | .trigarm _ _ a => a.even
  | .app _ d a b => d.quad && a.even && b.even
  | .appsync _ d a _ => d.quad && a.even
  | .appseal _ d _ => d.quad
  | .fmpreq _ d a _ => d.quad && a.even
  | .iadd .. | .isub .. | .imul .. | .imulhI32 .. | .imulhN32 .. | .iminI32 .. | .iminN32 .. | .imaxI32 .. | .imaxN32 ..
  | .iabs .. | .ineg .. | .imad .. | .iaddImm .. | .andImm .. | .orImm .. | .xorImm .. | .movi .. | .andR .. | .orR ..
  | .xorR .. | .andnR .. | .notR .. | .mov .. | .shl .. | .shr .. | .sar .. | .rot .. | .shlImm .. | .shrImm ..
  | .sarImm .. | .rotImm .. | .popc .. | .clz .. | .brev .. | .sel .. | .mpop .. | .mfirst .. | .perm .. | .shup ..
  | .shdn .. | .shxr .. | .shupImm .. | .shdnImm .. | .shxrImm .. | .bcst ..
  | .fadd .. | .fsub .. | .fmul .. | .fmin .. | .fmax .. | .ffma .. | .fcmp .. | .fclass .. | .frint .. | .fscale ..
  | .fxp2 .. | .flog2 .. | .frcp .. | .frsq .. | .fsqrt .. | .fsinpi .. | .fcospi .. | .ftanh .. | .hadd2 .. | .hmul2 ..
  | .hfma2F16 .. | .hfma2B16 .. | .join | .ret | .exit | .yieldI | .trap .. | .eret | .nop | .wdepth .. | .bkpt | .sbq ..
  | .resa .. | .respin .. | .respinUnpin .. | .resrel .. | .accz .. | .accrd .. | .accwr .. | .routeq .. | .gadv
  | .ctrset .. | .ctradd .. | .ctrrd .. | .glaunch .. | .gevsig .. | .gevwait .. | .gctx .. => true
  | .selectClause .. | .sfuResult .. | .cohortEnd .. | .trapEntry .. | .loadComplete .. | .storeComplete ..
  | .atomicComplete .. | .prefComplete .. | .fenceComplete .. | .waitaWake .. | .waitaTimeout .. | .cacheMaintComplete ..
  | .syscAnswer .. | .sysTailWrite .. | .copyRetire .. | .matrixCommandStart .. | .matrixCommandRetire .. | .accRetire ..
  | .scldRetire .. | .barrierTimeout .. | .siblingStop .. | .teamHalt .. | .routeRetire .. | .evwaitWake ..
  | .evwaitTimeout .. | .dependenceTest .. | .teamPlace .. | .launchComplete .. | .fabricCommandComplete ..
  | .fabricPacketReceive .. | .keepalive .. | .peerLost .. | .retransmission .. | .appComplete .. | .durabilityAdvance ..
  | .logquery .. | .logtrim .. | .fmpResult .. | .logcreate .. | .logmap .. | .logunmap .. | .logdelete .. | .appendS ..
  | .syncS .. | .sealS .. | .fmpMboxSubmit .. | .flashRelocation .. | .relocationCopyEnd .. | .granuleClear ..
  | .fmpRestart | .pageWalkComplete .. | .replayAll .. | .shootdownGo .. | .shootdownComplete .. | .preempt ..
  | .preemptDrained .. | .stop .. | .stopDrainEnd .. | .resume .. | .terminate .. | .contextTermination .. | .release ..
  | .continueC .. | .preemptDeadline .. | .wcFlush .. | .uncorrectableError .. | .hartPoisonTrap .. | .refreshRetry ..
  | .channelRetirement .. | .hbmRebuildEnd .. | .shadowSwitch .. | .patrolScrub .. | .tkcMboxSubmit .. | .keygen ..
  | .region .. | .fabbind .. | .revoke .. | .tkcResult .. | .attest .. | .tkcRestart | .ideKeySwitch | .sbmpMessage ..
  | .ps0 | .ps1 | .ps2 | .ps3 | .ps4 | .powerTransitionEnd | .pcieWake | .thermalTrip .. | .coldBoot | .sequencerMark
  | .registerWrite .. | .gevwaitWake .. | .hartMemoryOperation .. | .pcieInboundRequest .. | .powerLoss => false

/-- Mask operands and exec at width 64 are pairs (R76, R95, R145). -/
def Instr.widthOk (w : Nat) (i : Instr) : Bool :=
  if w == 64 then
    match i with
    | .sel _ _ _ m => m.even
    | .cmp _ d _ _ _ _ | .fcmp _ d _ _ _ _ => d.even
    | .mpop _ _ a | .mfirst _ _ a => a.even
    | .rds _ d idx => idx.toNat != 0 || d.even
    | .wrs _ a idx => idx.toNat != 0 || a.even
    | .bra _ m _ _ | .brc _ m _ _ | .brd _ m _ _ => m.even
    | _ => true
  else true

end Sys2Proof
end

