-- ==== Sys2Proof/Decode.lean ====
section
/-!
DEFINITION. Decoding (R38 to R59, R283) and, after it, encoding. Words are natural numbers below 2^32. A word that is no
instruction is rejected with its ILLEGAL_WORD subcause (R57); the lowest subcause of the word is reported (R58).
-/

namespace Sys2Proof

/-- Bits [lo + n - 1 : lo] of a word. -/
def fld (w lo n : Nat) : Nat := w / 2 ^ lo % 2 ^ n
/-- One bit of a word. -/
def bitAt (w lo : Nat) : Bool := w / 2 ^ lo % 2 == 1
/-- A register code field. -/
def rfld (w lo : Nat) : Reg := BitVec.ofNat 6 (w / 2 ^ lo)

/-- The number of literal words that an opcode brings (R39, R50, R56). -/
def literalCount (w : Nat) : Nat :=
  let op := fld w 24 7
  if op == 0x04 || op == 0x09 then 1
  else if 0x48 ≤ op && op ≤ 0x53 then (if bitAt w 1 then 1 else 0)
  else if 0x54 ≤ op && op ≤ 0x5C then 1
  else if op == 0x61 || op == 0x62 || op == 0x64 || op == 0x69 || op == 0x6A || op == 0x6B || op == 0x6D || op == 0x71
    || op == 0x78 then 4
  else 0

/-- Whether the literal words of an opcode are a parameter block (subcause 0x07 when they overrun). -/
def hasBlock (w : Nat) : Bool := literalCount w == 4

/-- The decode result: an instruction, or the subcause of R57. -/
abbrev Decoded := Except Nat Instr

/-- Reject with a subcause unless the condition holds. -/
def need (c : Bool) (sub : Nat) (k : Decoded) : Decoded := if c then k else .error sub

def decIntCond : Nat → Option IntCond
  | 0 => some .eq | 1 => some .ne | 2 => some .lt | 3 => some .le | 4 => some .gt | 5 => some .ge | _ => none
def decFloatCond : Nat → Option FloatCond
  | 0 => some .eq | 1 => some .ne | 2 => some .lt | 3 => some .le | 4 => some .gt | 5 => some .ge | 6 => some .ord
  | 7 => some .unord | _ => none
def decCmpType : Nat → Option CmpType
  | 0 => some .i32 | 1 => some .n32 | 2 => some .i64 | 3 => some .n64 | _ => none
def decRedOp : Nat → Option RedOp
  | 0 => some .add | 1 => some .min | 2 => some .max | 3 => some .and | 4 => some .or | 5 => some .xor | _ => none
def decFType : Nat → Option FType
  | 0 => some .f32 | 1 => some .f16 | 2 => some .b16 | _ => none
def decRnd : Nat → Option Rnd
  | 0 => some .rn | 1 => some .rz | 2 => some .ru | 3 => some .rd | 4 => some .rs | _ => none
def decCvt : Nat → Option CvtType
  | 0 => some .i8 | 1 => some .i16 | 2 => some .i32 | 3 => some .i64 | 4 => some .n8 | 5 => some .n16 | 6 => some .n32
  | 7 => some .n64 | 8 => some .f32 | 9 => some .f16 | 10 => some .b16 | 11 => some .e4m3 | 12 => some .e5m2
  | 13 => some .e3m2 | 14 => some .e2m3 | 15 => some .e2m1 | _ => none
def decBlk : Nat → Option BlkFmt
  | 0 => some .e4m3 | 1 => some .e5m2 | 2 => some .e3m2 | 3 => some .e2m3 | 4 => some .e2m1 | 5 => some .e2m1s
  | 6 => some .q8 | 7 => some .q4 | _ => none
def decSize : Nat → Option MSize
  | 0 => some .b | 1 => some .h | 2 => some .w | 3 => some .d | 4 => some .q | _ => none
def decLevel : Nat → Option CacheLevel
  | 0 => some .l1 | 1 => some .cluster | 2 => some .llc | _ => none
def decOrd : Nat → Option MOrd
  | 0 => some .rlx | 1 => some .acq | 2 => some .rel | 3 => some .ar | 4 => some .sc | _ => none
def decScope : Nat → Option Scope
  | 0 => some .cohort | 1 => some .team | 2 => some .cluster | 3 => some .die | 4 => some .pkg | _ => none
def decBr : Nat → BrCond
  | 0 => .any | 1 => .all | 2 => .none | _ => .always
def decWait : Nat → Option WaitCond
  | 0 => some .eq | 1 => some .ne | 2 => some .ltn | 3 => some .gen | 4 => some .lti | 5 => some .gei | _ => none

/-- Continue with an assigned subfield value, or reject it with subcause 0x02. -/
def sub2 {α : Type} (o : Option α) (k : α → Decoded) : Decoded :=
  match o with
  | some x => k x
  | none => .error 2

/-- The first literal word, or subcause 0x06 when it lies past the clause (R57). -/
def lit1 (ls : List Nat) (k : Nat → Decoded) : Decoded :=
  match ls with
  | l :: _ => k l
  | [] => .error 6

/-- The parameter block (R52), or subcause 0x07 when it extends past the clause (R57). -/
def block4 (ls : List Nat) (k : PBlock → Decoded) : Decoded :=
  match ls with
  | a :: b :: c :: d :: _ =>
    k ⟨.ofNat 16 a, .ofNat 16 (a / 65536), .ofNat 16 b, .ofNat 16 (b / 65536), .ofNat 16 c, .ofNat 16 (c / 65536),
       .ofNat 16 d, .ofNat 16 (d / 65536)⟩
  | _ => .error 7

/-- Accept an instruction whose register fields keep the pair rules, or reject it with subcause 0x0A (R21). -/
def pair10 (c : Bool) (i : Instr) : Decoded := need c 10 (.ok i)

/-- The offset word of format M (R50). -/
def memOff (w : Nat) (ls : List Nat) (k : Option Word → Decoded) : Decoded :=
  if bitAt w 1 then lit1 ls (fun l => k (some (.ofNat 32 l))) else k none

/-- A load of format M (R176, R177). -/
def decLoad (w : Nat) (ls : List Nat) (mk : Bool → Reg → Reg → Reg → MSize → Option Word → Bool → Instr) : Decoded :=
  sub2 (decSize (fld w 2 3)) fun s =>
  need (s.sxOk (bitAt w 0)) 3 <|
  memOff w ls fun off =>
  pair10 ((rfld w 11).even && s.regOk (rfld w 17)) (mk (bitAt w 23) (rfld w 17) (rfld w 11) (rfld w 5) s off (bitAt w 0))

/-- A store of format M (R176, R177). -/
def decStore (w : Nat) (ls : List Nat) (mk : Bool → Reg → Reg → Reg → MSize → Option Word → Instr) : Decoded :=
  sub2 (decSize (fld w 2 3)) fun s =>
  need (!bitAt w 0) 3 <|
  memOff w ls fun off =>
  pair10 ((rfld w 11).even && s.regOk (rfld w 17)) (mk (bitAt w 23) (rfld w 17) (rfld w 11) (rfld w 5) s off)

/-- An atomic and its qualifier word (R50, R187). -/
def decAtom (w : Nat) (ls : List Nat) (minmax fadd : Bool) (mk : Bool → Reg → Reg → Reg → AtomQual → Instr) : Decoded :=
  match ls with
  | [] => need (fld w 0 5 == 0) 3 (.error 6)
  | q :: _ =>
    sub2 (decScope (fld q 29 3)) fun sc =>
    sub2 (decOrd (fld q 26 3)) fun o =>
    need (fld w 0 5 == 0 && (minmax || !bitAt q 24) && !(fadd && bitAt q 25)) 3 <|
    pair10 ((rfld w 11).even && (!bitAt q 25 || ((rfld w 17).even && (rfld w 5).even)))
      (mk (bitAt w 23) (rfld w 17) (rfld w 11) (rfld w 5) ⟨sc, o, bitAt q 25, bitAt q 24, .ofNat 24 q⟩)

/-- Opcodes 0x01 to 0x1A: integer, logic, address and cross-lane (R77 to R97). -/
def decInt (op w : Nat) (ls : List Nat) : Decoded :=
  let u := bitAt w 23
  let d := rfld w 17
  let a := rfld w 11
  let b := rfld w 5
  let fn := fld w 0 5
  let b0 := fld w 5 6 == 0
  match op with
  | 0x01 =>
    match fn with
    | 0 => .ok (.iadd u d a b)
    | 1 => .ok (.isub u d a b)
    | 2 => .ok (.imul u d a b)
    | 3 => .ok (.imulhI32 u d a b)
    | 4 => .ok (.imulhN32 u d a b)
    | 5 => .ok (.iminI32 u d a b)
    | 6 => .ok (.iminN32 u d a b)
    | 7 => .ok (.imaxI32 u d a b)
    | 8 => .ok (.imaxN32 u d a b)
    | 9 => need b0 3 (.ok (.iabs u d a))
    | 10 => need b0 3 (.ok (.ineg u d a))
    | _ => .error 2
  | 0x02 => .ok (.imad (rfld w 18) (rfld w 12) (rfld w 6) (rfld w 0))
  | 0x03 =>
    match fn with
    | 0 => pair10 (d.even && a.even && b.even) (.iadd64 u d a b)
    | 1 => pair10 (d.even && a.even && b.even) (.isub64 u d a b)
    | _ => .error 2
  | 0x04 =>
    need (decide (fld w 2 3 ≤ 4) && !bitAt w 0) 2 <| lit1 ls fun l =>
    pair10 (d.even && a.even) (.lea u d a b (.ofNat 3 (fld w 2 3)) (bitAt w 1) (.ofNat 32 l))
  | 0x05 => .ok (.iaddImm u d a (.ofNat 11 w))
  | 0x06 => .ok (.andImm u d a (.ofNat 11 w))
  | 0x07 => .ok (.orImm u d a (.ofNat 11 w))
  | 0x08 => .ok (.xorImm u d a (.ofNat 11 w))
  | 0x09 => need (fn == 0) 2 <| need (fld w 5 12 == 0) 3 <| lit1 ls fun l => .ok (.movi u d (.ofNat 32 l))
  | 0x0A =>
    match fn with
    | 0 => .ok (.andR u d a b)
    | 1 => .ok (.orR u d a b)
    | 2 => .ok (.xorR u d a b)
    | 3 => .ok (.andnR u d a b)
    | 4 => need b0 3 (.ok (.notR u d a))
    | 5 => need b0 3 (.ok (.mov u d a))
    | _ => .error 2
  | 0x0B =>
    match fn with
    | 0 => .ok (.shl u d a b)
    | 1 => .ok (.shr u d a b)
    | 2 => .ok (.sar u d a b)
    | 3 => .ok (.rot u d a b)
    | _ => .error 2
  | 0x0C =>
    need (fld w 5 4 == 0) 3 <|
    match fld w 9 2 with
    | 0 => .ok (.shlImm u d a (.ofNat 5 w))
    | 1 => .ok (.shrImm u d a (.ofNat 5 w))
    | 2 => .ok (.sarImm u d a (.ofNat 5 w))
    | _ => .ok (.rotImm u d a (.ofNat 5 w))
  | 0x0D =>
    match fn with
    | 0 => need b0 3 (.ok (.popc u d a))
    | 1 => need b0 3 (.ok (.clz u d a))
    | 2 => need b0 3 (.ok (.brev u d a))
    | _ => .error 2
  | 0x0E => need (decide (1 ≤ fld w 5 6) && decide (fld w 5 6 ≤ 32)) 2 (.ok (.bfxN32 u d a (.ofNat 6 (fld w 5 6)) (.ofNat 5 w)))
  | 0x0F => need (decide (1 ≤ fld w 5 6) && decide (fld w 5 6 ≤ 32)) 2 (.ok (.bfxI32 u d a (.ofNat 6 (fld w 5 6)) (.ofNat 5 w)))
  | 0x10 => need (decide (1 ≤ fld w 5 6) && decide (fld w 5 6 ≤ 32)) 2 (.ok (.bfi u d a (.ofNat 6 (fld w 5 6)) (.ofNat 5 w)))
  | 0x11 => .ok (.sel (rfld w 18) (rfld w 12) (rfld w 6) (rfld w 0))
  | 0x12 =>
    sub2 (decCmpType (fld w 3 2)) fun t => sub2 (decIntCond (fld w 0 3)) fun k =>
    pair10 (!t.wide || (a.even && b.even)) (.cmp u d a b t k)
  | 0x13 =>
    match fn with
    | 0 => need b0 3 (.ok (.mpop u d a))
    | 1 => need b0 3 (.ok (.mfirst u d a))
    | _ => .error 2
  | 0x14 =>
    match fn with
    | 0 => .ok (.perm u d a b)
    | 1 => .ok (.shup u d a b)
    | 2 => .ok (.shdn u d a b)
    | 3 => .ok (.shxr u d a b)
    | _ => .error 2
  | 0x15 =>
    match fld w 9 2 with
    | 1 => need (fld w 6 3 == 0) 3 (.ok (.shupImm u d a (.ofNat 6 w)))
    | 2 => need (fld w 6 3 == 0) 3 (.ok (.shdnImm u d a (.ofNat 6 w)))
    | 3 => need (fld w 6 3 == 0) 3 (.ok (.shxrImm u d a (.ofNat 6 w)))
    | _ => .error 2
  | 0x16 => need (fn == 0) 2 (.ok (.bcst u d a b))
  | 0x17 =>
    sub2 (decRedOp (fld w 0 3)) fun o => need (o.unsOk (bitAt w 3)) 2 <| need b0 3 <|
    pair10 (!bitAt w 4 || (d.even && a.even)) (.vred u d a (bitAt w 4) (bitAt w 3) o)
  | 0x18 =>
    sub2 (decRedOp (fld w 0 3)) fun o => need (o.scanOk && o.unsOk (bitAt w 3)) 2 <|
    need b0 3 (.ok (.scan u d a (bitAt w 4) (bitAt w 3) o))
  | 0x19 => need (fld w 6 11 == 0) 3 <| need (rdsOk d (.ofNat 6 w)) 10 (.ok (.rds u d (.ofNat 6 w)))
  | 0x1A => need (fld w 6 5 == 0 && fld w 17 6 == 0) 3 <| need (wrsOk a (.ofNat 6 w)) 10 (.ok (.wrs u a (.ofNat 6 w)))
  | _ => .error 1

/-- Opcodes 0x20 to 0x2E: float, conversion and special function (R127 to R143). -/
def decFloat (op w : Nat) : Decoded :=
  let u := bitAt w 23
  let d := rfld w 17
  let a := rfld w 11
  let b := rfld w 5
  let fn := fld w 0 5
  let b0 := fld w 5 6 == 0
  match op with
  | 0x20 =>
    sub2 (decFType (fld w 3 2)) fun t =>
    match fld w 0 3 with
    | 0 => .ok (.fadd u d a b t)
    | 1 => .ok (.fsub u d a b t)
    | 2 => .ok (.fmul u d a b t)
    | 3 => .ok (.fmin u d a b t)
    | 4 => .ok (.fmax u d a b t)
    | _ => .error 2
  | 0x21 => .ok (.ffma (rfld w 18) (rfld w 12) (rfld w 6) (rfld w 0))
  | 0x22 => sub2 (decFType (fld w 3 2)) fun t => sub2 (decFloatCond (fld w 0 3)) fun k => .ok (.fcmp u d a b t k)
  | 0x23 => sub2 (decFType (fld w 3 2)) fun t => need (fld w 0 3 == 0) 2 <| need b0 3 (.ok (.fclass u d a t))
  | 0x24 => sub2 (decFType (fld w 3 2)) fun t => sub2 (decRnd (fld w 0 3)) fun r => need b0 3 (.ok (.frint u d a t r))
  | 0x25 => sub2 (decFType (fld w 3 2)) fun t => sub2 (decRnd (fld w 0 3)) fun r => .ok (.fscale u d a b t r)
  | 0x26 =>
    need (!bitAt w 4) 2 <| need b0 3 <|
    match fld w 0 3 with
    | 0 => .ok (.fxp2 u d a (bitAt w 3))
    | 1 => .ok (.flog2 u d a (bitAt w 3))
    | 2 => .ok (.frcp u d a (bitAt w 3))
    | 3 => .ok (.frsq u d a (bitAt w 3))
    | 4 => .ok (.fsqrt u d a (bitAt w 3))
    | 5 => .ok (.fsinpi u d a (bitAt w 3))
    | 6 => .ok (.fcospi u d a (bitAt w 3))
    | _ => .ok (.ftanh u d a (bitAt w 3))
  | 0x27 =>
    need (!bitAt w 3) 2 <|
    match fld w 0 3 with
    | 0 => .ok (.hadd2 u d a b (bitAt w 4))
    | 1 => .ok (.hmul2 u d a b (bitAt w 4))
    | _ => .error 2
  | 0x28 => .ok (.hfma2F16 (rfld w 18) (rfld w 12) (rfld w 6) (rfld w 0))
  | 0x29 => .ok (.hfma2B16 (rfld w 18) (rfld w 12) (rfld w 6) (rfld w 0))
  | 0x2A =>
    sub2 (decRnd (fld w 8 3)) fun r => sub2 (decCvt (fld w 4 4)) fun t => sub2 (decCvt (fld w 0 4)) fun s =>
    pair10 (t.regOk d && s.regOk a) (.cvt u d a r t s)
  | 0x2B =>
    sub2 (decRnd (fld w 8 3)) fun r => sub2 (decCvt (fld w 4 4)) fun t => sub2 (decCvt (fld w 0 4)) fun s =>
    pair10 (t.regOk d && s.regOk a) (.cvtSat u d a r t s)
  | 0x2C =>
    sub2 (decRnd (fld w 8 3)) fun r => sub2 (decBlk (fld w 4 4)) fun k => need (!u && fld w 0 4 == 0) 3 <|
    pair10 d.even (.qnt d a r k)
  | 0x2D => sub2 (decBlk (fld w 4 4)) fun k => need (fld w 8 3 == 0 && fld w 0 4 == 0) 3 <| pair10 a.even (.dqt u d a k)
  | 0x2E => need (fn == 0) 2 <| need (!u && fld w 17 6 == 0) 3 <| pair10 a.even (.srnd a b)
  | _ => .error 1

/-- Opcodes 0x38 to 0x45: control, windows and traps (R147 to R169). -/
def decCtl (op w : Nat) : Decoded :=
  let u := bitAt w 23
  let fn := fld w 0 5
  let low := fld w 0 24 == 0
  match op with
  | 0x38 =>
    match decBr (fld w 15 2) with
    | .always => need (fld w 17 6 == 0) 3 (.ok (.bra u (rfld w 17) .always (.ofNat 15 w)))
    | k => .ok (.bra u (rfld w 17) k (.ofNat 15 w))
  | 0x39 =>
    match decBr (fld w 15 2) with
    | .always => .error 2
    | k => .ok (.brc u (rfld w 17) k (.ofNat 15 w))
  | 0x3A =>
    match decBr (fld w 15 2) with
    | .always => .error 2
    | k => .ok (.brd u (rfld w 17) k (.ofNat 15 w))
  | 0x3B => need (fn == 0) 2 <| need low 3 (.ok .join)
  | 0x3C => need (fn == 0) 2 <| need (fld w 17 6 == 0 && fld w 5 6 == 0) 3 <| pair10 (rfld w 11).even (.brx u (rfld w 11))
  | 0x3D =>
    need (decide (1 ≤ fld w 17 6) && decide (fld w 17 6 ≤ 11)) 2 <| need (fld w 15 2 == 0) 3
      (.ok (.call u (rfld w 17) (.ofNat 15 w)))
  | 0x3E =>
    need (decide (1 ≤ fn) && decide (fn ≤ 11)) 2 <| need (fld w 17 6 == 0 && fld w 5 6 == 0) 3 <|
    pair10 (rfld w 11).even (.callx u (rfld w 11) (.ofNat 5 fn))
  | 0x3F => need (fn == 0) 2 <| need low 3 (.ok .ret)
  | 0x40 => need (fn == 0) 2 <| need low 3 (.ok .exit)
  | 0x41 => need (fn == 0) 2 <| need low 3 (.ok .yieldI)
  | 0x42 => need (fld w 8 16 == 0) 3 (.ok (.trap (.ofNat 8 w)))
  | 0x43 => need (fn == 0) 2 <| need low 3 (.ok .eret)
  | 0x44 => need (fn == 0) 2 <| need low 3 (.ok .nop)
  | 0x45 => need (fn == 0) 2 <| need (!u && fld w 5 12 == 0) 3 (.ok (.wdepth (rfld w 17)))
  | _ => .error 1

/-- Opcodes 0x48 to 0x5F: memory (R170 to R193). -/
def decMem (op w : Nat) (ls : List Nat) : Decoded :=
  let f := bitAt w 23
  let d := rfld w 17
  let a := rfld w 11
  let b := rfld w 5
  let fn := fld w 0 5
  match op with
  | 0x48 => decLoad w ls .ld
  | 0x49 => decLoad w ls .ldRo
  | 0x4A => decLoad w ls .ldC
  | 0x4B => decLoad w ls .ldNt
  | 0x4C => decLoad w ls .ldU
  | 0x4D => decStore w ls .st
  | 0x4E => decStore w ls .stNt
  | 0x4F => decLoad w ls .lds
  | 0x50 => decStore w ls .sts
  | 0x51 => need (fld w 2 3 == 2) 2 <| need (!bitAt w 0) 3 <| memOff w ls fun off => pair10 a.even (.ldf f d a b off)
  | 0x52 => need (fld w 2 3 == 2) 2 <| need (!bitAt w 0) 3 <| memOff w ls fun off => pair10 a.even (.stf f d a b off)
  | 0x53 =>
    sub2 (decLevel (fld w 2 3)) fun l => need (!bitAt w 0 && fld w 17 6 == 0) 3 <|
    memOff w ls fun off => pair10 a.even (.pref f a b l off)
  | 0x54 => decAtom w ls false false .aadd
  | 0x55 => decAtom w ls true false .amin
  | 0x56 => decAtom w ls true false .amax
  | 0x57 => decAtom w ls false false .aand
  | 0x58 => decAtom w ls false false .aor
  | 0x59 => decAtom w ls false false .axor
  | 0x5A => decAtom w ls false false .axch
  | 0x5B => decAtom w ls false false .acas
  | 0x5C => decAtom w ls false true .afadd
  | 0x5D =>
    sub2 (decOrd (fld w 8 3)) fun o => sub2 (decScope (fld w 5 3)) fun sc =>
    need (fld w 8 3 != 0 && !(bitAt w 4 && fld w 5 3 == 0)) 2 <|
    need (fld w 11 13 == 0 && fld w 0 4 == 0) 3 (.ok (.fence o sc (bitAt w 4)))
  | 0x5E =>
    need (!bitAt w 4) 2 <| sub2 (decWait (fld w 0 3)) fun k => need (!f) 3 <|
    pair10 (a.even && (!bitAt w 3 || b.even)) (.waita d a b (bitAt w 3) k)
  | 0x5F => need (fn == 0) 2 <| need (!f && fld w 17 6 == 0 && fld w 5 6 == 0) 3 <| pair10 a.even (.wakea a)
  | _ => .error 1

/-- Check the substitutable fields of a parameter block: subcause 0x0B for a malformed marker (R53, R57). -/
def marks (hs : List Half) (k : Decoded) : Decoded := need (hs.all Half.markerOk) 11 k

/-- Opcodes 0x60 to 0x6D: copy engine and matrix array (R229 to R283). -/
def decEng (op w : Nat) (ls : List Nat) : Decoded :=
  let f := bitAt w 23
  let d := rfld w 17
  let a := rfld w 11
  let b := rfld w 5
  let fn := fld w 0 5
  let b0 := fld w 5 6 == 0
  let d0 := fld w 17 6 == 0
  match op with
  | 0x60 => need (fn == 0) 2 <| pair10 (d.even && a.even) (.cpy f d a b)
  | 0x61 =>
    need (fn == 0) 2 <| need b0 3 <| block4 ls fun p => need (d.even && a.even) 10 <| marks [p.h0, p.h1] (.ok (.cpy2d f d a p))
  | 0x62 => need (fn == 0) 2 <| block4 ls fun p => need (d.even && a.even) 10 <| marks [p.h1] (.ok (.cpyg f d a b p))
  | 0x63 => need (fn == 0) 2 <| pair10 a.even (.cpyo f d a b)
  | 0x64 => need (fn == 0) 2 <| block4 ls fun p => marks [p.h0, p.h1] (.ok (.plnx f d a b p))
  | 0x65 => need (fn == 0) 2 <| need (!f && b0) 3 (.ok (.sbq d a))
  | 0x68 =>
    match fn with
    | 0 => need (!f && b0) 3 (.ok (.resa d a))
    | 1 =>
      match fld w 5 6 with
      | 0 => need (!f && d0) 3 (.ok (.respinUnpin a))
      | 1 => need (!f && d0) 3 (.ok (.respin a))
      | _ => .error 2
    | 2 => need (!f && d0 && b0) 3 (.ok (.resrel a))
    | 3 => need (!f && b0) 3 <| pair10 d.quad (.resq d a)
    | _ => .error 2
  | 0x69 =>
    need (fn == 0) 2 <| need d0 3 <| block4 ls fun p => need b.even 10 <| marks [p.h1, p.h2] (.ok (.resl f a b p))
  | 0x6A =>
    need (fn == 0) 2 <| block4 ls fun p => marks [p.h0, p.h2, p.h4, p.h5, p.h6, p.h7] (.ok (.mma f d a b p))
  | 0x6B => need (fn == 0) 2 <| block4 ls fun p => marks [p.h0, p.h2] (.ok (.mma1 f d a b p))
  | 0x6C =>
    match fn with
    | 0 => need (d0 && b0) 3 (.ok (.accz f a))
    | 1 => need d0 3 (.ok (.accrd f a b))
    | 2 => need d0 3 (.ok (.accwr f a b))
    | _ => .error 2
  | 0x6D =>
    need (fn == 0) 2 <| need (d0 && b0) 3 <| block4 ls fun p => need a.even 10 <| marks [p.h0, p.h2, p.h3] (.ok (.scld f a p))
  | _ => .error 1

/-- Opcodes 0x70 to 0x7D: barriers, routing, launches, fabric, flash and system (R294, R315, R380, R444, R413, R194). -/
def decSys (op w : Nat) (ls : List Nat) : Decoded :=
  let f := bitAt w 23
  let d := rfld w 17
  let a := rfld w 11
  let b := rfld w 5
  let fn := fld w 0 5
  let d0 := fld w 17 6 == 0
  let a0 := fld w 11 6 == 0
  let b0 := fld w 5 6 == 0
  match op with
  | 0x70 =>
    need (!bitAt w 4 && decide (fld w 5 6 < 48)) 2 <|
    match fld w 0 3 with
    | 0 => need (!f) 3 (.ok (.barinit d a b (bitAt w 3)))
    | 1 => need (!f && a0) 3 (.ok (.bararr d b (bitAt w 3)))
    | 2 => need (!f && d0) 3 (.ok (.barwait a b (bitAt w 3)))
    | 3 => need (!f && d0 && a0) 3 (.ok (.barsync b (bitAt w 3)))
    | 4 => need (!f && a0) 3 (.ok (.barq d b (bitAt w 3)))
    | _ => .error 2
  | 0x71 => need (fn == 0) 2 <| block4 ls fun p => marks [p.h0, p.h2, p.h3] (.ok (.route f d a b p))
  | 0x72 => need (fn == 0) 2 <| need (!f && a0 && b0) 3 (.ok (.routeq d))
  | 0x74 => need (fn == 0) 2 <| need b0 3 <| pair10 (d.even && a.even) (.launch f d a)
  | 0x75 =>
    match fn with
    | 0 => need d0 3 <| pair10 a.even (.evsig f a b)
    | 1 => need (!f) 3 <| pair10 (a.even && b.even) (.evwait d a b)
    | _ => .error 2
  | 0x76 =>
    match fn with
    | 0 => need (!f && b0) 3 <| pair10 d.even (.galloc d a)
    | 1 => need (!f && b0) 3 <| pair10 a.even (.gfree d a)
    | 2 => need (!f && d0 && a0 && b0) 3 (.ok .gadv)
    | 3 => need (!f && a0 && b0) 3 <| pair10 d.even (.gqry d)
    | _ => .error 2
  | 0x78 =>
    match fn with
    | 0 => block4 ls fun p => need (d.even && a.even) 10 <| marks [p.h0, p.h1, p.h3] (.ok (.nput f d a b p))
    | 1 => block4 ls fun p => need (d.even && a.even) 10 <| marks [p.h0, p.h1, p.h3] (.ok (.nget f d a b p))
    | 2 => block4 ls fun p => need (d.even && a.even) 10 <| marks [p.h0, p.h1, p.h3] (.ok (.ncoll f d a b p))
    | 3 => block4 ls fun p => need (d.even && a.even) 10 <| marks [p.h0, p.h1, p.h3, p.h5, p.h6] (.ok (.na2a f d a b p))
    | 4 => block4 ls fun p => need (d.even && a.even) 10 <| marks [p.h0, p.h1, p.h3, p.h4] (.ok (.nred f d a b p))
    | _ => .error 2
  | 0x79 =>
    match fn with
    | 0 => need b0 3 <| pair10 a.even (.trigarm f d a)
    | 1 => need d0 3 (.ok (.ctrset f a b))
    | 2 => need d0 3 (.ok (.ctradd f a b))
    | 3 => need (!f && a0) 3 (.ok (.ctrrd d b))
    | _ => .error 2
  | 0x7A =>
    match fn with
    | 0 => pair10 (d.quad && a.even && b.even) (.app f d a b)
    | 1 => pair10 (d.quad && a.even) (.appsync f d a b)
    | 2 => need a0 3 <| pair10 d.quad (.appseal f d b)
    | _ => .error 2
  | 0x7B => need (fn == 0) 2 <| pair10 (d.quad && a.even) (.fmpreq f d a b)
  | 0x7C =>
    match fn with
    | 0 => need d0 3 <| pair10 a.even (.cinv f a b)
    | 1 => need d0 3 <| pair10 a.even (.cwb f a b)
    | 2 => need b0 3 <| pair10 (d.even && a.even) (.tlbq f d a)
    | 3 => need (!f && a0 && b0) 3 <| pair10 d.even (.clkrd d)
    | _ => .error 2
  | 0x7D =>
    match fn with
    | 0 => need b0 3 <| pair10 (d.even && a.even) (.sysc f d a)
    | 1 => need (!f && d0 && a0 && b0) 3 (.ok .bkpt)
    | _ => .error 2
  | _ => .error 1

/-- Decode one device instruction word with the literal words that follow it in its clause (R56, R57). The chain bit is
examined with the clause. -/
def decodeWord (w : Nat) (ls : List Nat) : Decoded :=
  let op := fld w 24 7
  if op < 0x20 then decInt op w ls
  else if op < 0x38 then decFloat op w
  else if op < 0x48 then decCtl op w
  else if op < 0x60 then decMem op w ls
  else if op < 0x70 then decEng op w ls
  else if op < 0x7F then decSys op w ls
  else .error 9

/-- Decode a hart instruction of the custom-0 major opcode (R385); any other funct7 or funct3 is none of the four. -/
def decodeHart (w : Nat) : Option Instr :=
  if fld w 0 7 == 0x0B && fld w 25 7 == 0 then
    let rd : BitVec 5 := .ofNat 5 (w / 2 ^ 7)
    let rs1 : BitVec 5 := .ofNat 5 (w / 2 ^ 15)
    let rs2 : BitVec 5 := .ofNat 5 (w / 2 ^ 20)
    match fld w 12 3 with
    | 0 => some (.glaunch rd rs1 rs2)
    | 1 => some (.gevsig rd rs1 rs2)
    | 2 => some (.gevwait rd rs1 rs2)
    | 3 => some (.gctx rd rs1 rs2)
    | _ => none
  else none

/-- Whether a table word is one of the hart's (R385): no device word has these bits, since opcode 0x00 is illegal and
opcode 0x01 assigns no function code 11. -/
def isHartWord (w : Nat) : Bool := (decodeHart w).isSome

/-- The first n words of a number, low word first. -/
def wordsOf : Nat → Nat → List Nat
  | 0, _ => []
  | n + 1, w => w % 2 ^ 32 :: wordsOf n (w / 2 ^ 32)

/-- The instruction that the decoder reads from a word and its operand words, numbered as the opcode table numbers bits:
the low 32 bits are the instruction word, and every bit at or above nbits is 0. The longest instruction has five words. -/
def decodeTableWord (nbits w : Nat) : Option Instr :=
  let x := w % 2 ^ nbits
  match wordsOf 5 x with
  | i :: ls =>
    match decodeHart i with
    | some h => some h
    | none =>
      match decodeWord i ls with
      | .ok v => some v
      | .error _ => none
  | [] => none

/-! ## Clauses (R38 to R47, R57, R58) -/

/-- The five pipes (R41). -/
inductive Pipe where
  | int | float | special | memory | engine
  deriving DecidableEq, Repr

/-- The pipe of a word, by its opcode (R56). -/
def pipeOf (w : Nat) : Pipe :=
  let op := fld w 24 7
  if op == 0x26 then .special
  else if op < 0x20 then .int
  else if op < 0x38 then .float
  else if op < 0x48 then .int
  else if op < 0x60 then .memory
  else if op == 0x7C then .memory
  else if op == 0x7D then .int
  else .engine

/-- A control-transfer instruction word (R47). -/
def isControl (w : Nat) : Bool :=
  let op := fld w 24 7
  (decide (0x38 ≤ op) && decide (op ≤ 0x43)) || (op == 0x7D && fld w 0 5 == 1)

/-- n register codes from r on, as far as there are codes: a run that an odd or too high first code takes past the last one breaks a pair
rule (R21). -/
def regRun (r n : Nat) : List Nat := ((List.range n).map (fun k => r + k)).filter (fun k => decide (k < 64))

/-- The destination registers that a word names (R42): pairs count as both registers, groups of four as four; 64 stands for
exec. -/
def destsOf (wd w : Nat) (ls : List Nat) : List Nat :=
  let op := fld w 24 7
  let d := fld w 17 6
  let fn := fld w 0 5
  let size := fld w 2 3
  let maskD := if wd == 64 then regRun d 2 else [d]
  if op == 0x02 || op == 0x11 || op == 0x21 || op == 0x28 || op == 0x29 then [fld w 18 6]
  else if op == 0x03 || op == 0x04 || op == 0x2C then regRun d 2
  else if op == 0x12 || op == 0x22 then maskD
  else if op == 0x17 then (if bitAt w 4 then regRun d 2 else [d])
  else if op == 0x19 then
    let ix := fld w 0 6
    if ix == 13 || ix == 15 || ix == 16 || (ix == 0 && wd == 64) then regRun d 2 else [d]
  else if op == 0x1A then (if fld w 0 6 == 0 then [64] else [])
  else if op == 0x2A || op == 0x2B then
    let t := fld w 4 4
    if t == 3 || t == 7 then regRun d 2 else [d]
  else if op == 0x2E then []
  else if op == 0x3A || op == 0x3B || op == 0x40 || op == 0x43 then [64]
  else if 0x38 ≤ op && op ≤ 0x44 then []
  else if op == 0x45 then [d]
  else if (0x48 ≤ op && op ≤ 0x4C) || op == 0x4F then
    (if size == 3 then regRun d 2 else if size == 4 then regRun d 4 else [d])
  else if op == 0x51 then [d]
  else if 0x54 ≤ op && op ≤ 0x5C then
    (match ls with | q :: _ => if bitAt q 25 then regRun d 2 else [d] | [] => [d])
  else if op == 0x5E then [d]
  else if op == 0x64 || op == 0x65 || op == 0x71 || op == 0x72 then [d]
  else if op == 0x68 then (if fn == 0 then [d] else if fn == 3 then regRun d 4 else [])
  else if op == 0x70 then (if fld w 0 3 == 1 || fld w 0 3 == 4 then [d] else [])
  else if op == 0x74 then regRun d 2
  else if op == 0x75 then (if fn == 1 then [d] else [])
  else if op == 0x76 then (if fn == 0 || fn == 3 then regRun d 2 else if fn == 1 then [d] else [])
  else if op == 0x79 then (if fn == 0 || fn == 3 then [d] else [])
  else if op == 0x7A || op == 0x7B then regRun d 4
  else if op == 0x7C then (if fn == 2 || fn == 3 then regRun d 2 else [])
  else if op == 0x7D then (if fn == 0 then regRun d 2 else [])
  else if op < 0x38 then [d]
  else []

/-- A clause header (R44). -/
structure Header where
  wait : BitVec 12
  seta : BitVec 4
  setb : BitVec 4
  npkt : Nat
  y    : Bool
  deriving DecidableEq, Repr

/-- Whether a word's opcode is 0x00, 0x7E or unassigned (R57, subcause 0x01). -/
def opUnassigned (w : Nat) : Bool :=
  match decodeWord (fld w 24 7 * 2 ^ 24) [] with
  | .error 1 => true
  | _ => false

/-- Whether a word's SETA or SETB is one of the reserved values 12 to 14 (R44). -/
def flagReserved (w : Nat) : Bool :=
  (decide (12 ≤ fld w 8 4) && decide (fld w 8 4 ≤ 14)) || (decide (12 ≤ fld w 4 4) && decide (fld w 4 4 ≤ 14))

/-- Reads a header word (R44, R57, R58): subcause 0x01 for an opcode that is none, 0x03 for a reserved flag number under opcode 0x7F,
0x09 for any other word that is no header; log entry 73 has what else could apply to such a word. -/
def decodeHeader (w : Nat) : Except Nat Header :=
  if opUnassigned w then .error 1
  else if fld w 24 7 != 0x7F then .error 9
  else if flagReserved w then .error 3
  else if bitAt w 31 then .error 9
  else .ok ⟨.ofNat 12 (fld w 12 12), .ofNat 4 (fld w 8 4), .ofNat 4 (fld w 4 4), fld w 1 3 + 1, bitAt w 0⟩

/-- The flags that must be clear before a clause starts (R45): a word that is no header names none. -/
def headerWait (w : Nat) : BitVec 12 := if fld w 24 7 == 0x7F && !bitAt w 31 then .ofNat 12 (fld w 12 12) else 0

/-- The number of words that a header word announces (R44). -/
def clauseWords (w : Nat) : Nat := 3 * (fld w 1 3 + 1)

/-- What decode keeps of one word of a chain group while it walks the group: pipe and destinations. -/
abbrev GroupSeen := List (Pipe × List Nat)

/-- Subcause 0x05: an earlier word of the chain group goes to the same pipe or names a common destination (R41, R42). A word of
opcode 0x7F goes to no pipe. -/
def groupClash (seen : GroupSeen) (p : Pipe) (ds : List Nat) : Bool :=
  seen.any fun e => e.1 == p || e.2.any (ds.contains ·)

/-- The lowest subcause of one word, or none (R58). -/
def minSub (l : List (Option Nat)) : Option Nat :=
  l.foldl (fun m x => match m, x with
    | some a, some b => some (min a b)
    | some a, none => some a
    | none, y => y) none

/-- The chain bit of a word is set against R40: last word of its packet, before a literal word, or on a control transfer. -/
def chainBad (w idx nlit : Nat) : Bool := bitAt w 31 && (idx % 3 == 2 || nlit != 0 || isControl w)

/-- Examine the words of a clause body from word idx on, in ascending order (R57, R58): the index and subcause of the first
malformed word. `lits` counts literal words still to skip, `done` says that a control transfer has been seen. A bad field in a literal
or qualifier word counts for the instruction word that owns it (DESIGN CHOICE, log entry 73). -/
def scanClause (wd : Nat) : List Nat → (idx lits : Nat) → (done : Bool) → GroupSeen → Option (Nat × Nat)
  | [], _, _, _, _ => none
  | _ :: ws, idx, lits + 1, done, _ => scanClause wd ws (idx + 1) lits done []
  | w :: ws, idx, 0, done, seen =>
    let nlit := literalCount w
    let p := pipeOf w
    let ds := destsOf wd w ws
    let own : Option Nat :=
      match decodeWord w (ws.take nlit) with
      | .error e => some e
      | .ok i => if i.widthOk wd then none else some 10
    let tooFar : Option Nat := if ws.length < nlit then some (if hasBlock w then 7 else 6) else none
    let chain : Option Nat := if chainBad w idx nlit then some 4 else none
    let clash : Option Nat := if fld w 24 7 != 0x7F && groupClash seen p ds then some 5 else none
    let after : Option Nat := if done && w % 2 ^ 31 != 0x44000000 then some 8 else none
    match minSub [own, tooFar, chain, clash, after] with
    | some e => some (idx, e)
    | none => scanClause wd ws (idx + 1) nlit (done || isControl w) (if bitAt w 31 then (p, ds) :: seen else [])

/-- Decode a whole clause for a cohort of width wd: its header, or the index and subcause of the offending word (R57). -/
def decodeClause (wd : Nat) (ws : List Nat) : Except (Nat × Nat) Header :=
  match ws with
  | [] => .error (0, 9)
  | h :: body =>
    match decodeHeader h with
    | .error e => .error (0, e)
    | .ok hd =>
      match scanClause wd body 1 0 false [] with
      | some e => .error e
      | none => .ok hd

/-! ## Encoding: the words of a well-formed instruction, from the encoding tables of R50 to R56 and of each entry -/

def IntCond.code : IntCond → Nat
  | .eq => 0 | .ne => 1 | .lt => 2 | .le => 3 | .gt => 4 | .ge => 5
def FloatCond.code : FloatCond → Nat
  | .eq => 0 | .ne => 1 | .lt => 2 | .le => 3 | .gt => 4 | .ge => 5 | .ord => 6 | .unord => 7
def CmpType.code : CmpType → Nat
  | .i32 => 0 | .n32 => 1 | .i64 => 2 | .n64 => 3
def RedOp.code : RedOp → Nat
  | .add => 0 | .min => 1 | .max => 2 | .and => 3 | .or => 4 | .xor => 5
def FType.code : FType → Nat
  | .f32 => 0 | .f16 => 1 | .b16 => 2
def Rnd.code : Rnd → Nat
  | .rn => 0 | .rz => 1 | .ru => 2 | .rd => 3 | .rs => 4
def CvtType.code : CvtType → Nat
  | .i8 => 0 | .i16 => 1 | .i32 => 2 | .i64 => 3 | .n8 => 4 | .n16 => 5 | .n32 => 6 | .n64 => 7 | .f32 => 8 | .f16 => 9
  | .b16 => 10 | .e4m3 => 11 | .e5m2 => 12 | .e3m2 => 13 | .e2m3 => 14 | .e2m1 => 15
def BlkFmt.code : BlkFmt → Nat
  | .e4m3 => 0 | .e5m2 => 1 | .e3m2 => 2 | .e2m3 => 3 | .e2m1 => 4 | .e2m1s => 5 | .q8 => 6 | .q4 => 7
def MSize.code : MSize → Nat
  | .b => 0 | .h => 1 | .w => 2 | .d => 3 | .q => 4
def CacheLevel.code : CacheLevel → Nat
  | .l1 => 0 | .cluster => 1 | .llc => 2
def MOrd.code : MOrd → Nat
  | .rlx => 0 | .acq => 1 | .rel => 2 | .ar => 3 | .sc => 4
def Scope.code : Scope → Nat
  | .cohort => 0 | .team => 1 | .cluster => 2 | .die => 3 | .pkg => 4
def BrCond.code : BrCond → Nat
  | .any => 0 | .all => 1 | .none => 2 | .always => 3
def WaitCond.code : WaitCond → Nat
  | .eq => 0 | .ne => 1 | .ltn => 2 | .gen => 3 | .lti => 4 | .gei => 5

/-- Bit n of a word, from a Bool. -/
def bit (b : Bool) (n : Nat) : Nat := if b then 2 ^ n else 0

/-- Format RRR (R50): opcode, bit 23, D, A, B, fn. -/
def encRRR (op : Nat) (u : Bool) (d a b : Nat) (fn : Nat) : Nat :=
  op * 2 ^ 24 + bit u 23 + d * 2 ^ 17 + a * 2 ^ 11 + b * 2 ^ 5 + fn
/-- Format RRRR (R50). -/
def encRRRR (op : Nat) (d a b c : Reg) : Nat :=
  op * 2 ^ 24 + d.toNat * 2 ^ 18 + a.toNat * 2 ^ 12 + b.toNat * 2 ^ 6 + c.toNat
/-- Format I (R50). -/
def encI (op : Nat) (u : Bool) (d a : Nat) (imm : Nat) : Nat :=
  op * 2 ^ 24 + bit u 23 + d * 2 ^ 17 + a * 2 ^ 11 + imm
/-- Format B (R50). -/
def encB (op : Nat) (u : Bool) (m k o : Nat) : Nat :=
  op * 2 ^ 24 + bit u 23 + m * 2 ^ 17 + k * 2 ^ 15 + o
/-- Format M (R50) and its offset word. -/
def encM (op : Nat) (f : Bool) (d b x : Reg) (size : Nat) (off : Option Word) (sx : Bool) : List Nat :=
  (op * 2 ^ 24 + bit f 23 + d.toNat * 2 ^ 17 + b.toNat * 2 ^ 11 + x.toNat * 2 ^ 5 + size * 2 ^ 2 + bit off.isSome 1
    + bit sx 0) :: (match off with | some o => [o.toNat] | none => [])
/-- An atomic and its qualifier word (R50). -/
def encA (op : Nat) (f : Bool) (d b v : Reg) (q : AtomQual) : List Nat :=
  [encRRR op f d.toNat b.toNat v.toNat 0,
   q.scope.code * 2 ^ 29 + q.ord.code * 2 ^ 26 + bit q.w64 25 + bit q.sgn 24 + q.off.toNat]
/-- A parameter block (R52). -/
def encP (p : PBlock) : List Nat :=
  [p.h0.toNat + p.h1.toNat * 65536, p.h2.toNat + p.h3.toNat * 65536, p.h4.toNat + p.h5.toNat * 65536,
   p.h6.toNat + p.h7.toNat * 65536]
/-- A hart instruction (R385). -/
def encH (f3 : Nat) (rd rs1 rs2 : BitVec 5) : Nat :=
  rs2.toNat * 2 ^ 20 + rs1.toNat * 2 ^ 15 + f3 * 2 ^ 12 + rd.toNat * 2 ^ 7 + 0x0B

/-- The words of an instruction with chain bit 0, and none for a step without an encoding. -/
def encode : Instr → List Nat
  | .iadd u d a b => [encRRR 0x01 u d.toNat a.toNat b.toNat 0]
  | .isub u d a b => [encRRR 0x01 u d.toNat a.toNat b.toNat 1]
  | .imul u d a b => [encRRR 0x01 u d.toNat a.toNat b.toNat 2]
  | .imulhI32 u d a b => [encRRR 0x01 u d.toNat a.toNat b.toNat 3]
  | .imulhN32 u d a b => [encRRR 0x01 u d.toNat a.toNat b.toNat 4]
  | .iminI32 u d a b => [encRRR 0x01 u d.toNat a.toNat b.toNat 5]
  | .iminN32 u d a b => [encRRR 0x01 u d.toNat a.toNat b.toNat 6]
  | .imaxI32 u d a b => [encRRR 0x01 u d.toNat a.toNat b.toNat 7]
  | .imaxN32 u d a b => [encRRR 0x01 u d.toNat a.toNat b.toNat 8]
  | .iabs u d a => [encRRR 0x01 u d.toNat a.toNat 0 9]
  | .ineg u d a => [encRRR 0x01 u d.toNat a.toNat 0 10]
  | .imad d a b c => [encRRRR 0x02 d a b c]
  | .iadd64 u d a b => [encRRR 0x03 u d.toNat a.toNat b.toNat 0]
  | .isub64 u d a b => [encRRR 0x03 u d.toNat a.toNat b.toNat 1]
  | .lea u d a b s sx off => [encRRR 0x04 u d.toNat a.toNat b.toNat (s.toNat * 4 + bit sx 1), off.toNat]
  | .iaddImm u d a i => [encI 0x05 u d.toNat a.toNat i.toNat]
  | .andImm u d a i => [encI 0x06 u d.toNat a.toNat i.toNat]
  | .orImm u d a i => [encI 0x07 u d.toNat a.toNat i.toNat]
  | .xorImm u d a i => [encI 0x08 u d.toNat a.toNat i.toNat]
  | .movi u d l => [encRRR 0x09 u d.toNat 0 0 0, l.toNat]
  | .andR u d a b => [encRRR 0x0A u d.toNat a.toNat b.toNat 0]
  | .orR u d a b => [encRRR 0x0A u d.toNat a.toNat b.toNat 1]
  | .xorR u d a b => [encRRR 0x0A u d.toNat a.toNat b.toNat 2]
  | .andnR u d a b => [encRRR 0x0A u d.toNat a.toNat b.toNat 3]
  | .notR u d a => [encRRR 0x0A u d.toNat a.toNat 0 4]
  | .mov u d a => [encRRR 0x0A u d.toNat a.toNat 0 5]
  | .shl u d a b => [encRRR 0x0B u d.toNat a.toNat b.toNat 0]
  | .shr u d a b => [encRRR 0x0B u d.toNat a.toNat b.toNat 1]
  | .sar u d a b => [encRRR 0x0B u d.toNat a.toNat b.toNat 2]
  | .rot u d a b => [encRRR 0x0B u d.toNat a.toNat b.toNat 3]
  | .shlImm u d a n => [encI 0x0C u d.toNat a.toNat n.toNat]
  | .shrImm u d a n => [encI 0x0C u d.toNat a.toNat (512 + n.toNat)]
  | .sarImm u d a n => [encI 0x0C u d.toNat a.toNat (1024 + n.toNat)]
  | .rotImm u d a n => [encI 0x0C u d.toNat a.toNat (1536 + n.toNat)]
  | .popc u d a => [encRRR 0x0D u d.toNat a.toNat 0 0]
  | .clz u d a => [encRRR 0x0D u d.toNat a.toNat 0 1]
  | .brev u d a => [encRRR 0x0D u d.toNat a.toNat 0 2]
  | .bfxN32 u d a l p => [encI 0x0E u d.toNat a.toNat (l.toNat * 32 + p.toNat)]
  | .bfxI32 u d a l p => [encI 0x0F u d.toNat a.toNat (l.toNat * 32 + p.toNat)]
  | .bfi u d a l p => [encI 0x10 u d.toNat a.toNat (l.toNat * 32 + p.toNat)]
  | .sel d a b m => [encRRRR 0x11 d a b m]
  | .cmp u d a b t k => [encRRR 0x12 u d.toNat a.toNat b.toNat (t.code * 8 + k.code)]
  | .mpop u d a => [encRRR 0x13 u d.toNat a.toNat 0 0]
  | .mfirst u d a => [encRRR 0x13 u d.toNat a.toNat 0 1]
  | .perm u d a b => [encRRR 0x14 u d.toNat a.toNat b.toNat 0]
  | .shup u d a b => [encRRR 0x14 u d.toNat a.toNat b.toNat 1]
  | .shdn u d a b => [encRRR 0x14 u d.toNat a.toNat b.toNat 2]
  | .shxr u d a b => [encRRR 0x14 u d.toNat a.toNat b.toNat 3]
  | .shupImm u d a n => [encI 0x15 u d.toNat a.toNat (512 + n.toNat)]
  | .shdnImm u d a n => [encI 0x15 u d.toNat a.toNat (1024 + n.toNat)]
  | .shxrImm u d a n => [encI 0x15 u d.toNat a.toNat (1536 + n.toNat)]
  | .bcst u d a b => [encRRR 0x16 u d.toNat a.toNat b.toNat 0]
  | .vred u d a wide uns o => [encRRR 0x17 u d.toNat a.toNat 0 (bit wide 4 + bit uns 3 + o.code)]
  | .scan u d a ex uns o => [encRRR 0x18 u d.toNat a.toNat 0 (bit ex 4 + bit uns 3 + o.code)]
  | .rds u d i => [encI 0x19 u d.toNat 0 i.toNat]
  | .wrs u a i => [encI 0x1A u 0 a.toNat i.toNat]
  | .fadd u d a b t => [encRRR 0x20 u d.toNat a.toNat b.toNat (t.code * 8)]
  | .fsub u d a b t => [encRRR 0x20 u d.toNat a.toNat b.toNat (t.code * 8 + 1)]
  | .fmul u d a b t => [encRRR 0x20 u d.toNat a.toNat b.toNat (t.code * 8 + 2)]
  | .fmin u d a b t => [encRRR 0x20 u d.toNat a.toNat b.toNat (t.code * 8 + 3)]
  | .fmax u d a b t => [encRRR 0x20 u d.toNat a.toNat b.toNat (t.code * 8 + 4)]
  | .ffma d a b c => [encRRRR 0x21 d a b c]
  | .fcmp u d a b t k => [encRRR 0x22 u d.toNat a.toNat b.toNat (t.code * 8 + k.code)]
  | .fclass u d a t => [encRRR 0x23 u d.toNat a.toNat 0 (t.code * 8)]
  | .frint u d a t r => [encRRR 0x24 u d.toNat a.toNat 0 (t.code * 8 + r.code)]
  | .fscale u d a b t r => [encRRR 0x25 u d.toNat a.toNat b.toNat (t.code * 8 + r.code)]
  | .fxp2 u d a f => [encRRR 0x26 u d.toNat a.toNat 0 (bit f 3)]
  | .flog2 u d a f => [encRRR 0x26 u d.toNat a.toNat 0 (bit f 3 + 1)]
  | .frcp u d a f => [encRRR 0x26 u d.toNat a.toNat 0 (bit f 3 + 2)]
  | .frsq u d a f => [encRRR 0x26 u d.toNat a.toNat 0 (bit f 3 + 3)]
  | .fsqrt u d a f => [encRRR 0x26 u d.toNat a.toNat 0 (bit f 3 + 4)]
  | .fsinpi u d a f => [encRRR 0x26 u d.toNat a.toNat 0 (bit f 3 + 5)]
  | .fcospi u d a f => [encRRR 0x26 u d.toNat a.toNat 0 (bit f 3 + 6)]
  | .ftanh u d a f => [encRRR 0x26 u d.toNat a.toNat 0 (bit f 3 + 7)]
  | .hadd2 u d a b bf => [encRRR 0x27 u d.toNat a.toNat b.toNat (bit bf 4)]
  | .hmul2 u d a b bf => [encRRR 0x27 u d.toNat a.toNat b.toNat (bit bf 4 + 1)]
  | .hfma2F16 d a b c => [encRRRR 0x28 d a b c]
  | .hfma2B16 d a b c => [encRRRR 0x29 d a b c]
  | .cvt u d a r t s => [encI 0x2A u d.toNat a.toNat (r.code * 256 + t.code * 16 + s.code)]
  | .cvtSat u d a r t s => [encI 0x2B u d.toNat a.toNat (r.code * 256 + t.code * 16 + s.code)]
  | .qnt d a r k => [encI 0x2C false d.toNat a.toNat (r.code * 256 + k.code * 16)]
  | .dqt u d a k => [encI 0x2D u d.toNat a.toNat (k.code * 16)]
  | .srnd a b => [encRRR 0x2E false 0 a.toNat b.toNat 0]
  | .bra u m k o => [encB 0x38 u m.toNat k.code o.toNat]
  | .brc u m k o => [encB 0x39 u m.toNat k.code o.toNat]
  | .brd u m k o => [encB 0x3A u m.toNat k.code o.toNat]
  | .join => [0x3B * 2 ^ 24]
  | .brx u a => [encRRR 0x3C u 0 a.toNat 0 0]
  | .call u k o => [encB 0x3D u k.toNat 0 o.toNat]
  | .callx u a k => [encRRR 0x3E u 0 a.toNat 0 k.toNat]
  | .ret => [0x3F * 2 ^ 24]
  | .exit => [0x40 * 2 ^ 24]
  | .yieldI => [0x41 * 2 ^ 24]
  | .trap c => [0x42 * 2 ^ 24 + c.toNat]
  | .eret => [0x43 * 2 ^ 24]
  | .nop => [0x44 * 2 ^ 24]
  | .wdepth d => [encRRR 0x45 false d.toNat 0 0 0]
  | .ld f d b x s o sx => encM 0x48 f d b x s.code o sx
  | .ldRo f d b x s o sx => encM 0x49 f d b x s.code o sx
  | .ldC f d b x s o sx => encM 0x4A f d b x s.code o sx
  | .ldNt f d b x s o sx => encM 0x4B f d b x s.code o sx
  | .ldU f d b x s o sx => encM 0x4C f d b x s.code o sx
  | .st f d b x s o => encM 0x4D f d b x s.code o false
  | .stNt f d b x s o => encM 0x4E f d b x s.code o false
  | .lds f d b x s o sx => encM 0x4F f d b x s.code o sx
  | .sts f d b x s o => encM 0x50 f d b x s.code o false
  | .ldf f d b x o => encM 0x51 f d b x 2 o false
  | .stf f d b x o => encM 0x52 f d b x 2 o false
  | .pref f b x l o => encM 0x53 f 0 b x l.code o false
  | .aadd f d b v q => encA 0x54 f d b v q
  | .amin f d b v q => encA 0x55 f d b v q
  | .amax f d b v q => encA 0x56 f d b v q
  | .aand f d b v q => encA 0x57 f d b v q
  | .aor f d b v q => encA 0x58 f d b v q
  | .axor f d b v q => encA 0x59 f d b v q
  | .axch f d b v q => encA 0x5A f d b v q
  | .acas f d b v q => encA 0x5B f d b v q
  | .afadd f d b v q => encA 0x5C f d b v q
  | .fence o sc ro => [0x5D * 2 ^ 24 + o.code * 2 ^ 8 + sc.code * 2 ^ 5 + bit ro 4]
  | .waita d a b w k => [encRRR 0x5E false d.toNat a.toNat b.toNat (bit w 3 + k.code)]
  | .wakea a => [encRRR 0x5F false 0 a.toNat 0 0]
  | .cinv f a b => [encRRR 0x7C f 0 a.toNat b.toNat 0]
  | .cwb f a b => [encRRR 0x7C f 0 a.toNat b.toNat 1]
  | .tlbq f d a => [encRRR 0x7C f d.toNat a.toNat 0 2]
  | .clkrd d => [encRRR 0x7C false d.toNat 0 0 3]
  | .sysc f d a => [encRRR 0x7D f d.toNat a.toNat 0 0]
  | .bkpt => [0x7D * 2 ^ 24 + 1]
  | .cpy f d a b => [encRRR 0x60 f d.toNat a.toNat b.toNat 0]
  | .cpy2d f d a p => encRRR 0x61 f d.toNat a.toNat 0 0 :: encP p
  | .cpyg f d a b p => encRRR 0x62 f d.toNat a.toNat b.toNat 0 :: encP p
  | .cpyo f d a b => [encRRR 0x63 f d.toNat a.toNat b.toNat 0]
  | .plnx f d a b p => encRRR 0x64 f d.toNat a.toNat b.toNat 0 :: encP p
  | .sbq d a => [encRRR 0x65 false d.toNat a.toNat 0 0]
  | .resa d a => [encRRR 0x68 false d.toNat a.toNat 0 0]
  | .respin a => [encRRR 0x68 false 0 a.toNat 1 1]
  | .respinUnpin a => [encRRR 0x68 false 0 a.toNat 0 1]
  | .resrel a => [encRRR 0x68 false 0 a.toNat 0 2]
  | .resq d a => [encRRR 0x68 false d.toNat a.toNat 0 3]
  | .resl f a b p => encRRR 0x69 f 0 a.toNat b.toNat 0 :: encP p
  | .mma f d a b p => encRRR 0x6A f d.toNat a.toNat b.toNat 0 :: encP p
  | .mma1 f d a b p => encRRR 0x6B f d.toNat a.toNat b.toNat 0 :: encP p
  | .accz f a => [encRRR 0x6C f 0 a.toNat 0 0]
  | .accrd f a b => [encRRR 0x6C f 0 a.toNat b.toNat 1]
  | .accwr f a b => [encRRR 0x6C f 0 a.toNat b.toNat 2]
  | .scld f a p => encRRR 0x6D f 0 a.toNat 0 0 :: encP p
  | .barinit t n b cl => [encRRR 0x70 false t.toNat n.toNat b.toNat (bit cl 3)]
  | .bararr d b cl => [encRRR 0x70 false d.toNat 0 b.toNat (bit cl 3 + 1)]
  | .barwait k b cl => [encRRR 0x70 false 0 k.toNat b.toNat (bit cl 3 + 2)]
  | .barsync b cl => [encRRR 0x70 false 0 0 b.toNat (bit cl 3 + 3)]
  | .barq d b cl => [encRRR 0x70 false d.toNat 0 b.toNat (bit cl 3 + 4)]
  | .route f d a b p => encRRR 0x71 f d.toNat a.toNat b.toNat 0 :: encP p
  | .routeq d => [encRRR 0x72 false d.toNat 0 0 0]
  | .launch f d a => [encRRR 0x74 f d.toNat a.toNat 0 0]
  | .evsig f a b => [encRRR 0x75 f 0 a.toNat b.toNat 0]
  | .evwait d a b => [encRRR 0x75 false d.toNat a.toNat b.toNat 1]
  | .galloc d a => [encRRR 0x76 false d.toNat a.toNat 0 0]
  | .gfree d a => [encRRR 0x76 false d.toNat a.toNat 0 1]
  | .gadv => [0x76 * 2 ^ 24 + 2]
  | .gqry d => [encRRR 0x76 false d.toNat 0 0 3]
  | .nput f d a b p => encRRR 0x78 f d.toNat a.toNat b.toNat 0 :: encP p
  | .nget f d a b p => encRRR 0x78 f d.toNat a.toNat b.toNat 1 :: encP p
  | .ncoll f d a b p => encRRR 0x78 f d.toNat a.toNat b.toNat 2 :: encP p
  | .na2a f d a b p => encRRR 0x78 f d.toNat a.toNat b.toNat 3 :: encP p
  | .nred f d a b p => encRRR 0x78 f d.toNat a.toNat b.toNat 4 :: encP p
  | .trigarm f d a => [encRRR 0x79 f d.toNat a.toNat 0 0]
  | .ctrset f a b => [encRRR 0x79 f 0 a.toNat b.toNat 1]
  | .ctradd f a b => [encRRR 0x79 f 0 a.toNat b.toNat 2]
  | .ctrrd d b => [encRRR 0x79 false d.toNat 0 b.toNat 3]
  | .app f d a b => [encRRR 0x7A f d.toNat a.toNat b.toNat 0]
  | .appsync f d a b => [encRRR 0x7A f d.toNat a.toNat b.toNat 1]
  | .appseal f d b => [encRRR 0x7A f d.toNat 0 b.toNat 2]
  | .fmpreq f d a b => [encRRR 0x7B f d.toNat a.toNat b.toNat 0]
  | .glaunch rd r1 r2 => [encH 0 rd r1 r2]
  | .gevsig rd r1 r2 => [encH 1 rd r1 r2]
  | .gevwait rd r1 r2 => [encH 2 rd r1 r2]
  | .gctx rd r1 r2 => [encH 3 rd r1 r2]
  | _ => []

/-- Decode the words of one instruction: a device word with its literal words, or a hart word. -/
def decode (ws : List Nat) : Option Instr :=
  match ws with
  | [] => none
  | w :: ls =>
    match decodeHart w with
    | some h => some h
    | none =>
      match decodeWord w ls with
      | .ok i => some i
      | .error _ => none

end Sys2Proof
end

