-- ==== Sys2Proof/Machine/Tab.lean ====
section
/-!
DEFINITION. Sparse maps from numbers: a list of keys and values with rising keys in which no entry holds the value that an
unlisted key reads as. Memory, registers and every table of the machine's parts are kept in this one form.
-/

namespace Sys2Proof.Machine

/-- A sparse map. -/
abbrev Tab (α : Type) := List (Nat × α)

/-- The value at a key: the first entry of the key, or d. -/
def Tab.get {α : Type} (d : α) : Tab α → Nat → α
  | [], _ => d
  | (k, v) :: t, n => if k = n then v else Tab.get d t n

/-- The entry at a key, if there is one. -/
def Tab.find {α : Type} : Tab α → Nat → Option α
  | [], _ => none
  | (k, v) :: t, n => if k = n then some v else Tab.find t n

/-- The map without a key. -/
def Tab.erase {α : Type} : Tab α → Nat → Tab α
  | [], _ => []
  | (k, v) :: t, n => if k = n then Tab.erase t n else (k, v) :: Tab.erase t n

/-- The map with a key set to a value, at its place in rising order. -/
def Tab.put {α : Type} : Tab α → Nat → α → Tab α
  | [], n, x => [(n, x)]
  | (k, v) :: t, n, x =>
    if k < n then (k, v) :: Tab.put t n x
    else if k = n then (n, x) :: t
    else (n, x) :: (k, v) :: t

/-- Sets a key: writing the value that an unlisted key reads as removes the entry. -/
def Tab.set {α : Type} [DecidableEq α] (d : α) (t : Tab α) (n : Nat) (x : α) : Tab α :=
  if x = d then t.erase n else t.put n x

/-- Changes the value at a listed key. -/
def Tab.modify {α : Type} (t : Tab α) (n : Nat) (f : α → α) : Tab α :=
  t.map (fun e => if e.1 = n then (e.1, f e.2) else e)

/-- The values of a map, in rising key order. -/
def Tab.vals {α : Type} (t : Tab α) : List α := t.map Prod.snd

/-- Every key above n, rising, and no default value listed. -/
def Tab.okAbove {α : Type} [DecidableEq α] (d : α) : Nat → Tab α → Bool
  | _, [] => true
  | n, (k, v) :: t => decide (n ≤ k) && decide (v ≠ d) && Tab.okAbove d (k + 1) t

/-- The canonical form: keys strictly rising, no entry equal to what an unlisted key reads as. -/
def Tab.ok {α : Type} [DecidableEq α] (d : α) (t : Tab α) : Bool := Tab.okAbove d 0 t

/-- Puts an element at its place in a list sorted by f, after its equals. -/
def insertBy {α : Type} (f : α → Nat) (x : α) : List α → List α
  | [] => [x]
  | y :: ys => if f x < f y then x :: y :: ys else y :: insertBy f x ys

/-- Sorts by f; equals keep their order. -/
def sortBy {α : Type} (f : α → Nat) (l : List α) : List α := l.foldl (fun t x => insertBy f x t) []

end Sys2Proof.Machine
end

