-- ==== Sys2Proof/Machine/Parts.lean ====
section
/-!
DEFINITION. The records that State is made of for the parts of the package: fabric, flash and its logs, the Tenant Key
Controller, power, RAS, HBM and LPDDR6 tiers, boot flash and the management ports (R396 to R461). Records are plain data.
-/

namespace Sys2Proof.Machine

/-- A trigger record as copied at arm, with the arming launch (R457). -/
structure Trigger where
  op     : Nat
  ord    : Bool
  recd   : Bool
  ctr    : Nat
  thr    : Word
  rank   : Nat
  len16  : Nat
  rctr   : Nat
  lctr   : Nat
  tag    : Nat
  loc    : Nat
  rem    : Nat
  lid    : Nat
  deriving DecidableEq, Repr

/-- The 64-entry window of contributions that a target keeps for a collective identifier and source (R454): the sequences
added, and the least that it still tells apart. -/
structure RedWin where
  coll  : Nat
  src   : Nat
  low   : Nat
  added : List Nat
  deriving DecidableEq, Repr

/-- What a target knows of a stream of messages of another module's rank (R440, R446, R448): every message below next, and those in done, have
been performed or refused; those in held wait for a REPLAY_ALL of the target. -/
structure RxStream where
  module : Nat
  rank   : Nat
  stream : Nat
  ord    : Bool
  next   : Nat
  done   : List Nat
  held   : List Nat
  deriving DecidableEq, Repr

/-- The fabric block of a context on a die (R443), its receive counters (R455), its armed triggers in arming order, the fired
triggers that wait, in firing order, each with whether it waits for a REPLAY_ALL (R342, R458, R462), the next contribution
number by collective and rank, the windows (R454), and the streams that come from other modules. -/
structure FabBlk where
  job      : Nat
  rank     : Nat
  nranks   : Nat
  ranktab  : Nat
  cqBase   : Nat
  cqSize   : Nat
  cqHead   : Nat
  cqTail   : Nat
  cqDrops  : Nat
  inr      : Bool
  dups     : Nat
  lost     : Bool
  lostRank : Nat
  ctrs     : Tab Word
  trigs    : List Trigger
  waiting  : List (Trigger × Bool)
  redNext  : Tab Nat
  wins     : List RedWin
  rx       : List RxStream
  deriving DecidableEq, Repr

/-- A message of a command to a rank: what it carries, whether it has been performed, and with which status; held while a fault
of the target waits for a replay; reply holds what a get read, lines the 64-byte lines written here (R446, R449). -/
structure OutMsg where
  module : Nat
  rank   : Nat
  msg    : NetMsg
  done   : Bool
  status : Nat
  hop    : Bool
  held   : Bool
  reply  : List Byte
  lines  : List Nat
  deriving DecidableEq, Repr

/-- A fabric command in flight (R445, R447). co and opId name the cohort and its outstanding operation; core 0 with co 0 stands
for a fired trigger. lpas are the local destination bytes of a get, by physical address. -/
structure FabCmd where
  id     : Nat
  die    : Nat
  ctx    : Nat
  core   : Nat
  co     : Nat
  opId   : Nat
  code   : Nat
  tag    : Nat
  rank   : Nat
  lctr   : Nat
  recd   : Bool
  trig   : Bool
  ord    : Bool
  lid    : Nat
  bytes  : Nat
  order  : Nat                 -- order of acceptance of a cohort, for ordered commands (R448)
  msgs   : List OutMsg
  lpas   : List Nat
  pages  : List Nat
  reads  : List Nat            -- the 64-byte lines that it reads here
  poison : Option (Nat × Nat)
  pc     : Nat
  deriving DecidableEq, Repr

/-- A live record of a log (R407, R410): its offset and lines, count, epoch and client identifier. -/
structure LogRec where
  off   : Nat
  lines : Nat
  count : Nat
  epoch : Nat
  ident : Nat
  deriving DecidableEq, Repr

/-- A window of a log in a context (R405, R418); index 0 is the writable one. -/
structure LogWin where
  ctx    : Nat
  tenant : Nat
  base   : Nat
  size   : Nat
  attr   : Nat                 -- EFMT and BGEO as PTE bits [60:55]
  table  : Nat                 -- first level-0 table page
  deriving DecidableEq, Repr

/-- A log (R405 to R408, R417). granules maps a 64 KiB granule of the log to its physical flash granule. -/
structure FLog where
  wins    : Tab LogWin
  recs    : List LogRec
  stop    : Nat                -- the log's end
  last    : Nat                -- last count assigned
  lastSeq : Nat                -- last sequence number assigned
  durable : Nat                -- durable count
  durSeq  : Nat                -- durable sequence
  durEnd  : Nat                -- the end of the durable prefix (R409)
  first   : Nat                -- first live offset
  sealedS : List Nat           -- sealed segments
  granules : Tab Nat
  gone     : List LogRec       -- the records that trim removed before they were durable (R408, R418)
  deriving DecidableEq, Repr

/-- Where a request to the Flash Management Processor came from: a cohort (with its operation and result registers), or the
supervisor's mailbox. -/
inductive ReqSrc where
  | cohort (core co op ctx tenant : Nat)
  | mbox
  deriving DecidableEq, Repr

/-- What an APPSYNC waits for, which its acceptance settles (R416): nothing, a durable count, or nothing since the record was lost. -/
inductive SyncGoal where
  | now
  | upTo (count : Nat)
  | lost
  deriving DecidableEq, Repr

/-- An accepted request to the Flash Management Processor (R414 to R418). op is 0 APP, 1 APPSYNC, 2 APPSEAL, or 16 + the operation
of a request block; block is the block's physical address. -/
structure FmpReq where
  id    : Nat
  src   : ReqSrc
  op    : Nat
  log   : Nat
  bad   : Bool                 -- an invalid operation, argument or reserved bit: REFUSED
  lines : Nat
  ident : Nat
  goal  : SyncGoal
  args  : List Nat
  data  : List Byte            -- the record's bytes as read at acceptance
  block : Nat
  va    : Nat                  -- the block's address as its cohort names it
  reads : List Nat             -- the 64-byte lines that it reads
  poison : Option (Nat × Nat)
  pages : List Nat
  pc    : Nat
  deriving DecidableEq, Repr

/-- A kept result of an identified request (R411, R430). -/
structure Kept where
  tenant : Nat
  ident  : Nat
  code   : Nat
  res    : List Nat
  deriving DecidableEq, Repr

/-- A relocation of a flash granule under way (R412): the log, the granule of the log, old and new physical granule, whether its leaves
name the new one (step 3), and the dies at which its shootdown is pending (step 4). -/
structure Reloc where
  log   : Nat
  index : Nat
  old   : Nat
  new   : Nat
  fresh : Bool
  dies  : List Nat
  deriving DecidableEq, Repr

/-- The registers of the Flash Management Processor block (R418) and its epoch. -/
structure Fmp where
  epoch    : Nat
  rejected : Bool
  msiAddr  : Nat
  msiData  : Nat
  deriving DecidableEq, Repr

/-- A tenant key (R427). -/
structure TKey where
  handle : Nat
  fabric : Bool
  ident  : Nat
  secret : Nat
  deriving DecidableEq, Repr

/-- An outstanding request of the Tenant Key Controller (R428): the block's address and its bytes at submission. -/
structure TkcReq where
  id     : Nat
  block  : Nat
  tenant : Nat
  ident  : Nat
  epoch  : Nat
  op     : Nat
  args   : List Nat
  bad    : Bool
  deriving DecidableEq, Repr

/-- What an attestation report holds (R432): the nonce, the digest of the configuration record, and the digest and version of every image that is
running. -/
structure Report where
  nonce  : List Byte
  config : Nat
  images : List (Nat × Nat)
  deriving DecidableEq, Repr

/-- The Tenant Key Controller (R427 to R432): keys, region table, fabric bindings by context, kept results, signatures used, the last report, and
what its keys are known to make of the 16-byte blocks of memory: secret, block number, plaintext and ciphertext (R429). -/
structure Tkc where
  epoch    : Nat
  rejected : Bool
  keys     : List TKey
  serial   : Nat
  regions  : List (Nat × Nat × Nat)
  binds    : Tab Nat
  kept     : List Kept
  reqs     : List TkcReq
  signed   : Nat
  report   : Option Report
  vault    : List (Nat × Nat × BitVec 128 × BitVec 128)
  deriving DecidableEq, Repr

/-- The power and RAS block (R435 to R437). target is the state of a transition in progress. -/
structure Power where
  state   : Nat
  target  : Option Nat
  cmderr  : Bool
  therm   : Nat
  rasBase : Nat
  rasSize : Nat
  rasHead : Nat
  rasTail : Nat
  deriving DecidableEq, Repr

/-- An HBM stack block (R400, R401). -/
structure Stack where
  retired : Word
  parity  : Bool
  rebuild : Bool
  shadow  : Bool
  event   : Bool
  ce      : Nat
  retry   : Nat
  deriving DecidableEq, Repr

/-- The LPDDR6 block (R402). -/
structure Lpddr where
  ce    : Nat
  ue    : Nat
  event : Bool
  deriving DecidableEq, Repr

/-- A copy of the configuration record (R433): serial number, part number, trip temperature in units of 0.125 degrees, the least security
version of each image, and whether its signature verifies. -/
structure CfgRec where
  serial : Nat
  part   : Nat
  trip   : Nat
  least  : Tab Nat
  good   : Bool
  deriving DecidableEq, Repr

/-- An IDE stream (R431): whether a key set has been switched in under which no packet has arrived, and whether the stream is secure. -/
structure IdeStream where
  newKeys : Bool
  secure  : Bool
  deriving DecidableEq, Repr

/-- Boot flash and the management ports (R431 to R438): the sequencer's stored mark, the trip record, the two copies of the configuration
record, the images by twice the image's number and the slot (0 for A, 1 for B), the slot marked active and the slot that runs of each image, the
secured session of the SBMP, the IDE streams, and the uncorrectable errors of the PCIe port. -/
structure Boot where
  mark    : Nat
  tripRec : Option Nat
  cfgA    : CfgRec
  cfgB    : CfgRec
  images  : Tab FwImage
  active  : Tab Nat
  slots   : Tab Nat
  session : Bool
  ide     : Tab IdeStream
  errors  : Nat
  stopped : Option Nat         -- the step at which the last boot stopped (R438)
  deriving DecidableEq, Repr

end Sys2Proof.Machine
end

