-- ==== Sys2Proof/Machine/Types.lean ====
section
/-!
DEFINITION. The records that State is made of, for cohorts, teams, launches, cores, translation and contexts (R11 to R37,
R149 to R166, R214 to R225, R284 to R299, R346 to R366, R370 to R386). Records are plain data.
-/

namespace Sys2Proof.Machine

/-- What an outstanding operation of a cohort is (R30, R46). -/
inductive OpKind where
  | load | sfu | store | atomic | pref | maint | engine | sysc
  deriving DecidableEq, Repr

/-- An operation of a cohort that is outstanding: the completion flag it named, the register keys that it will write (which
are interlocked until then, R43), and the values when they are known. -/
structure Op where
  id     : Nat
  kind   : OpKind
  flag   : Option Nat
  clause : Nat                 -- the clause that issued it: where t0-t3 land (R20)
  keys   : List Nat
  writes : List (Nat × Word)
  deriving DecidableEq, Repr

/-- The registers of a cohort that instruction words read and write. Words of one chain group read them as they stood before
the group (R42). A register is held at slot * 64 + lane: slots 0-11 hold g0-g11, 12-15 t0-t3, 16 + e ring entry e (R17, R18);
a register that is not listed holds 0. -/
structure View where
  regs      : Tab Word
  exec      : Mask
  live      : Mask
  wdepth    : Nat
  trapcause : Half
  trappc    : DWord
  seed      : DWord
  sw        : Word             -- the stream word s (R116)
  k         : Word             -- the draw count (R116)
  ops       : List Op          -- outstanding operations: the flags of R30
  deriving DecidableEq, Repr

/-- What trap entry saves (R163). -/
structure Saved where
  hdr    : Nat
  mid    : Bool
  words  : List Nat
  idx    : Nat
  clause : Nat
  temps  : Tab Word
  sw     : Word
  k      : Word
  jd     : Nat
  calld  : Nat
  trappc : DWord               -- the value that step 4 wrote, for R165
  deriving DecidableEq, Repr

/-- What a suspended cohort waits for (R285). The limit of a wait with a timeout is clk at its issue and T (R191). -/
inductive Wait where
  | waita (va pa : Nat) (w64 : Bool) (k : WaitCond) (b : DWord) (d : Reg) (limit : Option (Nat × Nat))
  | evwait (va pa : Nat) (b : DWord) (d : Reg) (limit : Option (Nat × Nat))
  | sysRoom
  | sysAnswer (va pa : Nat) (d : Reg) (op : Nat)
  | barrier (cl : Bool) (b : Nat) (token : Word)
  | arrive (cl : Bool) (b : Nat)
  deriving DecidableEq, Repr

/-- How a saved point is to be resumed where the word must not be performed again from its start (R198, R285). -/
inductive Mark where
  | sysIssued (op : Nat)
  | sysPosted (pa : Nat) (d : Reg) (op : Nat)
  | barArrived (cl : Bool) (b : Nat) (token : Word)
  deriving DecidableEq, Repr

/-- A fault as a meaning raises it: cause and subcause (R357), the failing address, the physical address where one is known,
the kind of access, and the flash granule of a LONG_LATENCY (R354). -/
structure FaultInfo where
  cause : Nat
  sub   : Nat
  addr  : Nat
  paddr : Nat
  rd    : Bool
  wr    : Bool
  ft    : Bool
  eng   : Bool
  gran  : Nat
  deriving DecidableEq, Repr

/-- A cohort (R11, R36). -/
structure Cohort where
  id       : Nat
  team     : Nat
  core     : Nat               -- on-chip slot of its core (R171)
  slot     : Nat               -- cohort slot number (R287)
  cohid    : Nat
  ctx      : Nat
  tenant   : Nat
  teamid   : Nat
  teamN    : Nat
  launchid : Word
  cls      : Nat
  W        : Nat
  S        : Nat
  wlimit   : Nat
  spill    : Nat               -- base of the spill stack (R154, R372)
  P        : Nat               -- spill count (R152)
  shareB   : Nat               -- first granule of the team's share on this core (R217)
  shareN   : Nat
  pair     : Bool
  launched : Mask
  v        : View
  pre      : Option View       -- the registers before the chain group being issued (R42)
  jd       : Nat
  calld    : Nat
  handler  : Option Saved      -- in a trap handler exactly when present (R163)
  hdr      : Nat               -- address of the clause in progress, or of the next clause
  mid      : Bool              -- a clause is in progress
  words    : List Nat          -- its words as fetched (R48)
  idx      : Nat               -- the next word of it
  clause   : Nat               -- counts the clauses started: t0-t3 belong to one
  y        : Bool              -- Y of the last clause (R286)
  skip     : Nat               -- skip count (R287)
  stamp    : Nat
  overAt   : Nat               -- when the skip count reached 64
  wait     : Option Wait
  mark     : Option Mark
  strong   : Bool              -- the word that it waits on lies on a strongly ordered page (R345)
  reads    : List (Nat × List Nat)  -- the 64-byte lines that its loads and atomics in flight read, by operation (R401)
  fence    : Bool              -- a memory fence is pending (R190)
  halted   : Bool              -- stopped by a halt request (R298)
  asked    : Bool              -- a halt request is on its way or pending (R298)
  fault    : Option FaultInfo  -- the fault that stopped it, if one did
  faultAt  : Nat               -- the word of that fault
  skid     : Bool
  exited   : Bool              -- no live lane remains; ends when its operations complete (R167)
  ended    : Bool
  deriving DecidableEq, Repr

/-- A fault or event record (R356). -/
structure FaultRec where
  seq     : Nat
  pc      : Nat
  addr    : Nat
  paddr   : Nat
  ctx     : Nat
  tenant  : Nat
  cause   : Nat
  sub     : Nat
  die     : Nat
  cluster : Nat
  core    : Nat
  cohort  : Nat
  team    : Nat
  lid     : Nat
  skid    : Nat
  flags   : Nat
  waiters : Nat
  deriving DecidableEq, Repr

/-- A bound named barrier (R291). left: for arrivals in this phase whose team has departed since, the fault record that names the cohort,
by rank * 64 + cohid (R295, R312). -/
structure Barrier where
  E     : Nat
  T     : Nat
  arr   : Word
  phase : Word
  pcs   : Tab Nat              -- the word by which each cohort arrived in this phase (R295), by rank * 64 + cohid
  left  : List (Nat × FaultRec)
  wd    : Option Nat           -- clk when the watchdog began to count: wd = clk minus it (R295)
  deriving DecidableEq, Repr

/-- Why a team halts (R299, R199, R362, R364). -/
inductive HaltKind where
  | fault (co pc : Nat) (f : FaultInfo)
  | bkpt (co : Nat)
  | stop
  | terminate
  deriving DecidableEq, Repr

/-- Where a team stands (R298, R299). -/
inductive TeamStatus where
  | running
  | halting (k : HaltKind)
  | parked
  | descheduled (granule : Nat)
  | held
  | stopped
  deriving DecidableEq, Repr

/-- A resident team (R11, R36). -/
structure Team where
  key     : Nat
  ctx     : Nat
  tenant  : Nat
  lid     : Nat                -- launchid of its launch
  order   : Nat                -- its launch's order of acceptance, which tells launches of one launchid apart
  teamid  : Nat
  N       : Nat
  W       : Nat
  core    : Nat                -- its core, or the leader of its pair (R13)
  pair    : Bool
  cohorts : List Nat
  shareB  : Nat
  shareN  : Nat
  shareB2 : Nat                -- its share on the follower of a pair
  gen     : Word               -- generation (R383)
  rank    : Nat                -- cluster rank of its first cohort (R312)
  bars    : Tab Barrier        -- its bound names (R291)
  done    : Word               -- cohorts that have ended, by cohid
  diag    : List Byte          -- the barrier diagnostic record of a watchdog expiry (R297), else nothing
  status  : TeamStatus
  deriving DecidableEq, Repr

/-- A launch record as copied at acceptance (R370, R373), and how far the launch has come. -/
structure Launch where
  ctx     : Nat
  queue   : Nat
  W       : Nat
  pair    : Bool
  walk    : Bool
  dies    : Nat
  N       : Nat
  S       : Nat
  rf      : Nat
  sp      : Nat
  l1      : Nat
  wlimit  : Nat
  stagger : Nat
  teams   : Nat
  share   : Nat
  gen     : Word
  spill   : Nat
  entry   : Nat
  param   : DWord
  deps    : List (Nat × Nat)
  event   : Nat
  lid     : Nat
  order   : Nat                -- order of acceptance (R376)
  held    : Nat                -- dependences found to hold so far, in ascending j (R375)
  started : List Nat           -- team indices started
  ended   : Nat                -- teams ended
  queued  : Bool               -- still in its queue (R374)
  stuck   : Bool               -- waits for a replay on die 0 (R375, R378)
  lastAt  : Nat                -- clk when its last team started (R376)
  deriving DecidableEq, Repr

/-- A line of an L1 (R222, R223). own marks the bytes that the core's cohorts have stored and that have not been written back: the bytes of
its dirty sectors that no level beyond the L1 holds yet. -/
structure L1Line where
  valid : BitVec 4
  dirty : BitVec 4
  tag   : Scope
  reg   : Bool                 -- registered as a sharer with the directory of its tag
  own   : BitVec 64
  bad   : BitVec 4             -- sectors of this copy that are poisoned (R367)
  data  : List Byte            -- 64 bytes
  deriving DecidableEq, Repr

/-- A line of a cluster cache (R307 to R309). A valid sector has the bytes of the home slice, but for the bytes in data: those the
cluster cache has accepted while the line is not owned, so that they are performed at .cluster and not yet beyond. low: filled with the
lowest retention (R176, R310). -/
structure CcLine where
  valid : BitVec 4
  dirty : BitVec 4
  owned : Bool                 -- owned, as the home slice granted it; else shared
  low   : Bool
  bad   : BitVec 4             -- sectors of this copy that are poisoned (R367)
  data  : Tab Byte             -- by byte of the line
  deriving DecidableEq, Repr

/-- A buffered store to a write-combining page (R345). -/
structure WcLine where
  co    : Nat
  line  : Nat
  bytes : Tab Byte
  deriving DecidableEq, Repr

/-- An entry of the range scoreboard (R224): slot offsets [lo, hi), or the registers of one cohort (R232). -/
structure SbEntry where
  slot : Nat                   -- 0-15
  cmd  : Nat
  wr   : Bool
  lo   : Nat
  hi   : Nat
  co   : Option Nat            -- a range of register indices [lo, hi) of this cohort
  deriving DecidableEq, Repr

/-- Which engine holds an accepted command. -/
inductive EngKind where
  | copy | acc | scld | route
  deriving DecidableEq, Repr

/-- An accepted engine command and what its retirement will do (R226, R227). -/
structure EngCmd where
  id      : Nat
  kind    : EngKind
  co      : Nat
  op      : Nat
  ctx     : Nat
  writes  : List (Nat × Byte)        -- memory bytes, by physical address
  regs    : List (Nat × Nat × Word)  -- registers of other cohorts: cohort, key, value (R232)
  dest    : List (Nat × Word)        -- the issuing cohort's D
  dst     : List (Nat × Nat × Nat)   -- where its memory bytes lie: physical address, length and address of each piece
  reads   : List Nat                 -- the 64-byte lines that it reads
  poison  : Option (Nat × Nat)       -- the poisoned sector it read (R227), and the address of its first byte there
  pages   : List Nat                 -- virtual page numbers whose translations it holds (R350)
  status  : Nat                      -- bits that it ORs into the core's matrix status word (R272)
  pc      : Nat                      -- address of its word
  deriving DecidableEq, Repr

/-- A leaf of the page table as the device reads it (R112, R347), for one 4 KiB virtual page. -/
structure Leaf where
  pa   : Nat                   -- physical address of the 4 KiB page
  r    : Bool
  w    : Bool
  x    : Bool
  u    : Bool
  pbmt : Nat
  so   : Bool
  efmt : Nat
  bgeo : Nat
  size : Nat                   -- page size code of R196
  mig  : Bool                  -- migrating (R347)
  dirty : Bool                 -- D was set when the leaf was read
  deriving DecidableEq, Repr

/-- A translation held by a TLB (R349). -/
structure TlbEnt where
  ctx  : Nat
  vpn  : Nat
  leaf : Leaf
  deriving DecidableEq, Repr

/-- Why a walk fails: cause and subcause, and the poisoned sector. -/
structure WalkFail where
  cause : Nat
  sub   : Nat
  pa    : Nat
  deriving DecidableEq, Repr

/-- A walk of a cluster whose end in a fault has not been answered yet (R349): the cohorts that queue on it, and whether it has ended. -/
structure Walk where
  ctx   : Nat
  vpn   : Nat
  fail  : WalkFail
  reqs  : List Nat
  ended : Bool
  shut  : Bool                 -- began before a REPLAY_ALL of its context: no later access joins it (R353)
  deriving DecidableEq, Repr

/-- A fault buffer of one context on one die (R351, R352). -/
structure FaultBuf where
  ents  : List (Option FaultRec)   -- eight
  drop  : Bool
  drops : Nat
  deriving DecidableEq, Repr

/-- A live allocation of a generation heap (R383). -/
structure Alloc where
  base : Nat
  size : Nat
  gen  : Word
  deriving DecidableEq, Repr

/-- Context states (R360). -/
inductive CtxState where
  | free | running | preempting | preempted | stopping | stopped | terminated
  deriving DecidableEq, Repr

/-- A thread of the CPU die (R330, R369, R385, R386). -/
structure Hart where
  regs : Tab DWord             -- x1-x31
  pc   : Nat
  mode : Nat                   -- 0 U, 1 S, 3 M
  root : DWord                 -- satp
  bind : Option Nat            -- bound context
  wait : Option (Nat × Nat × Nat)  -- a GEVWAIT: rd, physical address of the word, bound
  pend : Bool                  -- a pending interrupt
  trap : Option (Nat × Nat)    -- the last trap: RISC-V cause code and address
  resv : Option Nat            -- the 64-byte line that an LR reserved
  late : List (Nat × Byte)     -- bytes that its stores have overwritten since its last release, the latest first (R330)
  deriving DecidableEq, Repr

/-- Residency states (R253). -/
inductive ResState where
  | free | empty | loading | valid | stale | evicted
  deriving DecidableEq, Repr

/-- A residency descriptor with its source, the lines it is registered for and its cell contents (R248 to R253). -/
structure Residency where
  state     : ResState
  serial    : Nat
  ctx       : Nat
  tenant    : Nat
  fmt       : Nat              -- format code of R268
  s         : Nat
  pair      : Bool
  policy    : Bool             -- true: REFRESH
  pinned    : Bool
  bl        : Nat              -- block length of the loaded contents; 0 for none
  ebase     : Nat
  sbase     : Nat              -- the scale layout record of the source (R110)
  spitch    : Nat
  rowlen    : Nat
  n0        : Nat
  k0        : Nat
  gload     : Word
  gsrc      : Word
  refreshes : Word
  rebuilds  : Word
  lines     : List Nat         -- registered 64-byte lines, by physical line number (R254)
  gains     : List (Nat × Nat × Nat)  -- fabric commands, by module and number, that have advanced gsrc for a line since the last load (R254)
  codes     : Tab Nat          -- element code of cell (k, n), at n * 256 + k
  scales    : Tab Nat          -- weight scale record (b, n), at n * 16 + b (R249)
  deriving DecidableEq, Repr

/-- Where the source of a residency lies, as an accepted command translated it (R264): for each column the physical address, the
length and the virtual address of the pieces of its elements, and the scale records by virtual address with their pieces; the runs among
them, by physical address and length, that lie on cached pages, and whether a page is strongly ordered. -/
structure MtxSrc where
  idx  : Nat
  near : List (Nat × Nat)
  so   : Bool
  cols : List (List (Nat × Nat × Nat))
  recs : List (Nat × List (Nat × Nat × Nat))
  deriving DecidableEq, Repr

/-- What a command of the array queue is (R275, R278, R280). -/
inductive MtxKind where
  | resl (idx : Nat) (ebase sbase spitch rowlen n0 k0 soff bl : Nat)
  | mma (fmt bl mp asoff plane s0 a0 : Nat) (groups : List (Nat × Nat))   -- (descriptor index, count), nonempty groups with
                                                                          -- index 16 for a group of count 0
  deriving DecidableEq, Repr

/-- A command of the array queue of a core (R240). -/
structure MtxCmd where
  id      : Nat
  co      : Nat
  op      : Nat
  ctx     : Nat
  tenant  : Nat
  pair    : Bool
  kind    : MtxKind
  hold    : Bool               -- its cohort stays at the word until the command starts (R265)
  started : Bool
  pages   : List Nat
  poison  : Option (Nat × Nat)
  accs    : List (Nat × Nat × Word)  -- accumulator words to write when it retires: core, address, value
  status  : Nat                -- bits for the matrix status word (R272): [2:0] of its core, [6:4] of the follower
  pc      : Nat                -- address of its word
  srcs    : List MtxSrc        -- the sources that it may load
  deriving DecidableEq, Repr

/-- A core (R214 to R225, R240 to R252, R287, R291). -/
structure Core where
  rf      : Nat                -- pool boundaries in granules (R215)
  sp      : Nat
  l1g     : Nat
  tlb     : List TlbEnt        -- the first-level TLB (R349)
  l1      : Tab L1Line         -- by 64-byte line number
  ro      : Tab Word           -- the read-only cache: 4-byte units (R180)
  cst     : Tab Word           -- the constant cache
  roBad   : List (Bool × Nat)  -- poisoned units of the constant cache (true) and of the read-only cache (R367)
  wc      : List WcLine
  sb      : List SbEntry
  cmds    : List EngCmd        -- copy, accumulator and scale commands in flight
  mq      : List MtxCmd        -- array queue, oldest first, the executing command included
  claim   : Option Nat         -- the context that holds the matrix claim (R245)
  mstat   : Nat                -- matrix status word (R272)
  res     : Tab Residency      -- descriptors 0-15
  prev    : Option Nat         -- R287
  prevOk  : Bool               -- prev became ready when its clause ended
  run     : Nat
  holder  : List Nat           -- cohorts of the clause in the slot: the issue, and its pack mates (R284, R289)
  deriving DecidableEq, Repr

/-- A cluster (R307 to R314, R349). -/
structure Cluster where
  tlb   : List TlbEnt
  walks : List Walk
  cc    : Tab CcLine           -- the cluster cache, by 64-byte line number
  route : List (Nat × EngCmd)  -- Turnstile queue, oldest first: issuing core and command
  bars  : Tab Barrier          -- cluster barriers, by (context * 2^32 + launchid) * 64 + name
  ranks : Tab Nat              -- next cluster rank of each launch with a team here, by context * 2^32 + launchid
  deriving DecidableEq, Repr

/-- A compute die's shootdown registers (R355) and fault buffers by context (R351). -/
structure Die where
  sfAddr : Nat
  sfLen  : Nat
  asid   : Nat
  allAsid : Bool
  busy   : Bool
  fbufs  : Tab FaultBuf
  deriving DecidableEq, Repr

/-- A team, its cohorts and what the capture of R362 keeps for it. -/
structure CapTeam where
  team    : Team
  cohorts : List Cohort
  bytes   : List (Nat × Byte)        -- its scratchpad shares, by physical address
  deriving DecidableEq, Repr

/-- A capture (R362): teams, accumulator and scale bytes of claimed cores, descriptors by core, the queued launches, and the counters and
armed triggers of each die's fabric block (R459). image: the bytes of the save area, when it has been written. -/
structure Capture where
  teams   : List CapTeam
  claims  : List (Nat × Nat × List (Nat × Byte))   -- core, status word, bytes
  res     : List (Nat × Nat × Residency)           -- core, index, descriptor
  bars    : List (Nat × Nat × Barrier)             -- cluster, key, cluster barrier
  ranks   : List (Nat × Nat × Nat)                 -- cluster, key, next cluster rank
  launches : List Launch
  fabs    : List (Nat × FabBlk)                    -- die, block
  marks   : List Nat                               -- poisoned sectors of its shares, accumulator stores and scale memories (R367)
  major   : Nat
  size    : Nat
  image   : List Byte
  deriving DecidableEq, Repr

/-- A device context: its block (R358 to R366), launch block (R383), queues (R374) and captured state (R362). -/
structure Ctx where
  root     : DWord
  tenant   : Nat
  state    : CtxState
  cmderr   : Bool
  short    : Bool
  cause    : Nat
  causeSet : Bool              -- a first cause stands, a commanded termination's 0x00 included (R364)
  deadline : Nat
  since    : Nat               -- clk when PREEMPTING or STOPPING began (R360)
  save     : Nat
  savesz   : Nat
  map      : Nat
  logBase  : Nat
  logSize  : Nat
  logHead  : Nat
  logTail  : Nat
  drops    : Nat
  logfault : Bool
  llrec    : Bool
  msiAddr  : Nat
  msiData  : Nat
  savelim  : Nat
  sysBase  : Nat
  sysSize  : Nat
  sysHead  : Nat
  sysTail  : Nat
  bkpt     : Bool
  genBase  : Nat
  genSize  : Nat
  allocs   : List Alloc
  nextLid  : Nat
  launches : List Launch       -- accepted and not complete, in order of acceptance
  capture  : Option Capture
  ending   : Bool              -- a termination is under way (R364)
  release  : Bool              -- RELEASE was written meanwhile (R360)
  drained  : Bool              -- STOPPING has come to the end of step 3 of R362
  deriving DecidableEq, Repr

/-- A tenant's quota registers (R258). -/
structure Tenant where
  quota : Nat
  used  : Nat
  deriving DecidableEq, Repr

end Sys2Proof.Machine
end

