-- ==== Sys2Proof/Config.lean ====
section
/-!
DEFINITION. What one implementation fixes and the manual leaves open. Every constant without a body is a free value: no
proof can learn anything of it, so a claim about the model holds whatever it is. The first argument of most of them is the
model's counter State.tick, which every step advances, so that each use is a fresh value.
-/

namespace Sys2Proof.Config

/-- A choice between two outcomes that the manual allows, at a tick and a place within the step. -/
opaque pick : (tick site : Nat) → Bool
/-- A choice of one of several outcomes that the manual allows, at a tick and a place within the step. -/
opaque choose : (tick site : Nat) → Nat
/-- Compute cycles that pass in a step (R31, R34). -/
opaque clkAdvance : (tick : Nat) → Nat
/-- Ticks of the package timer that pass in a step (R197). -/
opaque timerAdvance : (tick : Nat) → Nat
/-- A special-function result where the model's own bounds do not decide the rounding (R133). -/
opaque sfuValue : (function operand : Nat) → Word
/-- The bytes that the capture of a context needs (R366). -/
opaque captureSize : (tick context : Nat) → Nat
/-- A byte of a save area, whose layout is not architectural (R362). -/
opaque captureByte : (tick offset : Nat) → Byte
/-- The capture that the bytes of a save area give, where this module has not written them itself (R362, R363): a module of the same major
firmware version can read what another has written (log entry 57). none: they are no capture. -/
opaque captureFrom : (bytes : List Byte) → Option Sys2Proof.Machine.Capture
/-- A key that the Tenant Key Controller generates from its entropy source (R427, R428). -/
opaque keyMaterial : (tick : Nat) → Nat
/-- A byte of an attestation report with some contents, whose layout is open and whose signature depends on keys that never leave the module
(R432). -/
opaque reportByte : (tick : Nat) → (report : Sys2Proof.Machine.Report) → (offset : Nat) → Byte
/-- The digest of a configuration record (R432). -/
opaque configDigest : (record : Sys2Proof.Machine.CfgRec) → Nat
/-- A byte that a device, another module or a host memory behind the PCIe port returns. -/
opaque deviceByte : (tick address : Nat) → Byte
/-- The number of a physical HBM or flash frame that a management block chooses (R404, R405). -/
opaque frame : (tick site : Nat) → Nat
/-- What AES-XTS-256 under a key makes of a 16-byte block of memory, and what decryption makes of one, where no earlier use of the key on that
block shows it (R429). -/
opaque encipher : (secret block : Nat) → BitVec 128 → BitVec 128
opaque decipher : (secret block : Nat) → BitVec 128 → BitVec 128
/-- The stack, 0 to 7 in its low three bits, and the channel, 0 to 31 in the next five, on which a 256-byte granule of HBM lies while
the channels of a mask are retired: the hash is not architectural (R396, R400). -/
opaque hbmPlace : (retired granule : Nat) → Nat
/-- How a RAS record names a stack and a channel (R437). -/
opaque rasPlace : (stack channel : Nat) → Nat
/-- The major firmware version of this module (R362, R363). -/
opaque firmwareMajor : Nat

end Sys2Proof.Config
end

