-- ==== Sys2Proof/Machine/State.lean ====
section
/-!
DEFINITION. The whole state of the machine as plain data, the reasons for which a step can stop, and the state after reset.
-/

namespace Sys2Proof.Machine

/-- Why the machine stops. -/
inductive Fault where
  /-- Raised by the step when a CPU hart's next word is no instruction of the opcode table: the spec gives only the custom-0
  extension of R385, and the base instruction set of the harts stands outside it. Safe: a hart of the hardware goes on. -/
  | hartWord (hart : Nat)
  deriving DecidableEq, Repr

/-- Why an instruction is refused. -/
inductive Refusal where
  /-- Raised by exec for an instruction that has no meaning in the model yet. Safe. -/
  | notModelled (mnemonic : String)
  deriving DecidableEq, Repr

/-- The registers of a cohort before anything is written. -/
def View.init : View :=
  { regs := [], exec := 0, live := 0, wdepth := 0, trapcause := 0, trappc := 0, seed := 0, sw := 0, k := 0, ops := [] }

/-- A cohort that holds nothing: what the issue slot's focus shows before any team is placed. One that has issued no clause has Y = 0 (log
entry 87). -/
def Cohort.init : Cohort :=
  { id := 0, team := 0, core := 0, slot := 0, cohid := 0, ctx := 0, tenant := 0, teamid := 0, teamN := 1, launchid := 0,
    cls := 0, W := 8, S := 64, wlimit := 64, spill := 0, P := 0, shareB := 0, shareN := 0, pair := false, launched := 0,
    v := View.init, pre := none, jd := 0, calld := 0, handler := none, hdr := 0, mid := false, words := [], idx := 0,
    clause := 0, y := false, skip := 0, stamp := 0, overAt := 0, wait := none, mark := none, strong := false, reads := [], fence := false, halted := false,
    asked := false, fault := none, faultAt := 0, skid := false, exited := false, ended := true }

/-- A core after reset (R215). -/
def Core.init : Core :=
  { rf := 24, sp := 16, l1g := 8, tlb := [], l1 := [], ro := [], cst := [], roBad := [], wc := [], sb := [], cmds := [], mq := [], claim := none,
    mstat := 0, res := [], prev := none, prevOk := false, run := 0, holder := [] }

/-- A cluster after reset. -/
def Cluster.init : Cluster := { tlb := [], walks := [], cc := [], route := [], bars := [], ranks := [] }

/-- A die after reset (R355). -/
def Die.init : Die := { sfAddr := 0, sfLen := 0, asid := 0, allAsid := false, busy := false, fbufs := [] }

/-- An empty fault buffer. -/
def FaultBuf.init : FaultBuf := { ents := List.replicate 8 none, drop := false, drops := 0 }

/-- A context after reset: FREE, every register 0 (R358, R360). The first launch after FREE receives launchid 1 (R373). -/
def Ctx.init : Ctx :=
  { root := 0, tenant := 0, state := .free, cmderr := false, short := false, cause := 0, causeSet := false, deadline := 0, since := 0,
    save := 0, savesz := 0, map := 0, logBase := 0, logSize := 0, logHead := 0, logTail := 0, drops := 0, logfault := false,
    llrec := false, msiAddr := 0, msiData := 0, savelim := 0, sysBase := 0, sysSize := 0, sysHead := 0, sysTail := 0,
    bkpt := false, genBase := 0, genSize := 0, allocs := [], nextLid := 1, launches := [], capture := none, ending := false
    release := false, drained := false }

/-- A residency descriptor that is FREE; its first allocation gives it serial 1 (R251, log entry 5). -/
def Residency.init : Residency :=
  { state := .free, serial := 0, ctx := 0, tenant := 0, fmt := 0, s := 0, pair := false, policy := false, pinned := false,
    bl := 0, ebase := 0, sbase := 0, spitch := 0, rowlen := 0, n0 := 0, k0 := 0, gload := 0, gsrc := 0, refreshes := 0,
    rebuilds := 0, lines := [], gains := [], codes := [], scales := [] }

/-- A tenant's registers after reset (R258). -/
def Tenant.init : Tenant := { quota := 0, used := 0 }

/-- A hart after reset: in S-mode (R438), no binding (R385), every register 0 and at address 0 (log entry 5). -/
def Hart.init : Hart :=
  { regs := [], pc := 0, mode := 1, root := 0, bind := none, wait := none, pend := false, trap := none, resv := none, late := [] }

/-- A fabric block after reset (R443). -/
def FabBlk.init : FabBlk :=
  { job := 0, rank := 0, nranks := 0, ranktab := 0, cqBase := 0, cqSize := 0, cqHead := 0, cqTail := 0, cqDrops := 0
    inr := false, dups := 0, lost := false, lostRank := 0, ctrs := [], trigs := [], waiting := []
    redNext := [], wins := [], rx := [] }

/-- A log that does not hold anything. -/
def FLog.init : FLog :=
  { wins := [], recs := [], stop := 0, last := 0, lastSeq := 0, durable := 0, durSeq := 0, durEnd := 0, first := 0
    sealedS := [], granules := [], gone := [] }

/-- The Flash Management Processor after reset (R418). -/
def Fmp.init : Fmp := { epoch := 0, rejected := false, msiAddr := 0, msiData := 0 }

/-- The Tenant Key Controller after reset: epoch 1 (R428). -/
def Tkc.init : Tkc :=
  { epoch := 1, rejected := false, keys := [], serial := 0, regions := [], binds := [], kept := [], reqs := [], signed := 0
    report := none, vault := [] }

/-- The power block after reset: PS0 (R435, R438). -/
def Power.init : Power :=
  { state := 0, target := none, cmderr := false, therm := 0, rasBase := 0, rasSize := 0, rasHead := 0, rasTail := 0 }

/-- An HBM stack after reset: protected by parity (R401). -/
def Stack.init : Stack :=
  { retired := 0, parity := true, rebuild := false, shadow := false, event := false, ce := 0, retry := 0 }

/-- The LPDDR6 block after reset (R402). -/
def Lpddr.init : Lpddr := { ce := 0, ue := 0, event := false }

/-- An image, the configuration record and boot flash as the model's module leaves manufacture (log entry 5). -/
def FwImage.init : FwImage := { version := 0, digest := 0, good := true }
def CfgRec.init : CfgRec := { serial := 0, part := 0, trip := 840, least := [], good := true }
def IdeStream.init : IdeStream := { newKeys := false, secure := true }
def Boot.init : Boot :=
  { mark := 0, tripRec := none, cfgA := CfgRec.init, cfgB := CfgRec.init, images := [], active := [], slots := [], session := false, ide := []
    errors := 0, stopped := none }

/-- What an unlisted byte of memory reads as (log entry 1). -/
def memDefault : Byte := 0

/-- The state of the machine. stalls lists the 64 KiB flash granules for which the Flash Management Processor answers a line
read with a stall, with the subcause of R354. fabs holds the fabric blocks by 64 * die + context, fcmds the fabric commands in
flight, heard when each other module was last heard of (R460), logs the flash logs, freqs the requests that the Flash Management
Processor has accepted, kept the results that it keeps, relocs the relocations under way, hbm the HBM stack blocks. The seven fields
from fresh to burst are the model's own: fresh is the next unused identity, agenda the events
that come next, tick a counter that the step advances and that selects fresh free values, turn a hart whose turn it is,
lastFault the fault that the last instruction raised, and burst how many more words the focused core issues before something else
may come. -/
structure State where
  mem      : List Host.Cell
  poison   : List Nat
  co       : Cohort
  cohorts  : List (Nat × Cohort)
  teams    : List (Nat × Team)
  cores    : List (Nat × Core)
  clusters : List (Nat × Cluster)
  dies     : List (Nat × Die)
  ctxs     : List (Nat × Ctx)
  tenants  : List (Nat × Tenant)
  harts    : List (Nat × Hart)
  stalls   : List (Nat × Nat)
  seq      : Nat
  clk      : Nat
  timer    : Nat
  fresh    : Nat
  agenda   : List Instr
  tick     : Nat
  turn     : Option Nat
  lastFault : Option FaultInfo
  burst    : Nat
  fabs     : List (Nat × FabBlk)
  fcmds    : List FabCmd
  fabMod   : Nat
  heard    : List (Nat × Nat)
  logs     : List (Nat × FLog)
  freqs    : List FmpReq
  kept     : List Kept
  fmp      : Fmp
  relocs   : List Reloc
  tkc      : Tkc
  pwr      : Power
  hbm      : List (Nat × Stack)
  lp       : Lpddr
  boot     : Boot
  deriving DecidableEq, Repr

/-- The machine after reset. -/
def State.reset : State :=
  { mem := [], poison := [], co := Cohort.init, cohorts := [], teams := [], cores := [], clusters := [], dies := [],
    ctxs := [], tenants := [], harts := [], stalls := [], seq := 0, clk := 0, timer := 0, fresh := 1, agenda := [], tick := 0,
    turn := none, lastFault := none, burst := 0, fabs := [], fcmds := [], fabMod := 0, heard := [], logs := [], freqs := [], kept := []
    fmp := Fmp.init, relocs := [], tkc := Tkc.init, pwr := Power.init, hbm := [], lp := Lpddr.init, boot := Boot.init }

/-- The canonical form of memory. -/
def Memory.wf (m : List Host.Cell) : Bool := Tab.ok memDefault m

end Sys2Proof.Machine
end

