-- ==== Sys2Proof/Machine/Access.lean ====
section
/-!
DEFINITION. How the parts of the state are read and changed: cores, clusters, dies, contexts, tenants, harts, teams and
cohorts by their numbers. Every part that is not listed reads as it stands after reset.
-/

namespace Sys2Proof.Machine

/-- The core in on-chip slot n. -/
def State.core (s : State) (n : Nat) : Core := Tab.get Core.init s.cores n
def State.setCore (s : State) (n : Nat) (c : Core) : State := { s with cores := Tab.put s.cores n c }
def State.modCore (s : State) (n : Nat) (f : Core → Core) : State := s.setCore n (f (s.core n))

/-- Cluster n of the package, 0 to 127: slot bits [10:4]. -/
def State.cluster (s : State) (n : Nat) : Cluster := Tab.get Cluster.init s.clusters n
def State.setCluster (s : State) (n : Nat) (c : Cluster) : State := { s with clusters := Tab.put s.clusters n c }
def State.modCluster (s : State) (n : Nat) (f : Cluster → Cluster) : State := s.setCluster n (f (s.cluster n))

/-- Compute die n. -/
def State.die (s : State) (n : Nat) : Die := Tab.get Die.init s.dies n
def State.setDie (s : State) (n : Nat) (d : Die) : State := { s with dies := Tab.put s.dies n d }
def State.modDie (s : State) (n : Nat) (f : Die → Die) : State := s.setDie n (f (s.die n))

/-- Context n. -/
def State.ctx (s : State) (n : Nat) : Ctx := Tab.get Ctx.init s.ctxs n
def State.setCtx (s : State) (n : Nat) (c : Ctx) : State := { s with ctxs := Tab.put s.ctxs n c }
def State.modCtx (s : State) (n : Nat) (f : Ctx → Ctx) : State := s.setCtx n (f (s.ctx n))

/-- Tenant n. -/
def State.ten (s : State) (n : Nat) : Tenant := Tab.get Tenant.init s.tenants n
def State.setTen (s : State) (n : Nat) (t : Tenant) : State := { s with tenants := Tab.put s.tenants n t }

/-- Hart n. -/
def State.hart (s : State) (n : Nat) : Hart := Tab.get Hart.init s.harts n
def State.setHart (s : State) (n : Nat) (h : Hart) : State := { s with harts := Tab.put s.harts n h }

/-- Core slot to cluster and die numbers (R171). -/
def clusterOf (slot : Nat) : Nat := slot / 16
def dieOf (slot : Nat) : Nat := slot / 512

/-- The team with a key. -/
def State.team? (s : State) (k : Nat) : Option Team := Tab.find s.teams k
def State.setTeam (s : State) (t : Team) : State := { s with teams := Tab.put s.teams t.key t }
def State.modTeam (s : State) (k : Nat) (f : Team → Team) : State := { s with teams := Tab.modify s.teams k f }
def State.dropTeam (s : State) (k : Nat) : State := { s with teams := Tab.erase s.teams k }
/-- The resident teams. -/
def State.allTeams (s : State) : List Team := Tab.vals s.teams
/-- The resident teams of a context. -/
def State.teamsOf (s : State) (ctx : Nat) : List Team := s.allTeams.filter (fun t => t.ctx == ctx)

/-- The cohort with an identity: the focused one, or one of the others. -/
def State.cohort? (s : State) (id : Nat) : Option Cohort :=
  if s.co.id = id then some s.co else Tab.find s.cohorts id
/-- Stores a cohort at its identity. -/
def State.setCohort (s : State) (c : Cohort) : State :=
  if s.co.id = c.id then { s with co := c } else { s with cohorts := Tab.put s.cohorts c.id c }
/-- Changes the cohort with an identity, if it exists; it keeps its identity. -/
def State.modCohort (s : State) (id : Nat) (f : Cohort → Cohort) : State :=
  if s.co.id = id then { s with co := f s.co } else { s with cohorts := Tab.modify s.cohorts id f }
/-- Every resident cohort: identity 0 is the empty focus. -/
def State.allCohorts (s : State) : List Cohort :=
  (if s.co.id = 0 then [] else [s.co]) ++ Tab.vals s.cohorts
/-- The cohorts of a team that have not ended. -/
def State.cohortsOf (s : State) (team : Nat) : List Cohort := s.allCohorts.filter (fun c => c.team == team && !c.ended)
/-- The cohorts of a resident team, those that have ended included: they keep what placement gave them until the team leaves (R23, R37). -/
def State.membersOf (s : State) (team : Nat) : List Cohort := s.allCohorts.filter (fun c => c.team == team)
/-- The cohorts placed on a core, those that have ended included. -/
def State.placedOn (s : State) (core : Nat) : List Cohort := s.allCohorts.filter (fun c => c.core == core)
/-- The cohorts on a core that have not ended. -/
def State.cohortsOn (s : State) (core : Nat) : List Cohort := s.allCohorts.filter (fun c => c.core == core && !c.ended)

/-- Makes the cohort with an identity the focused one. -/
def State.focus (s : State) (id : Nat) : State :=
  if s.co.id = id then s
  else match Tab.find s.cohorts id with
    | none => s
    | some c =>
      let others := Tab.erase s.cohorts id
      { s with co := c, cohorts := if s.co.id = 0 then others else Tab.put others s.co.id s.co }

/-- Removes a cohort from the machine. -/
def State.dropCohort (s : State) (id : Nat) : State :=
  if s.co.id = id then { s with co := Cohort.init } else { s with cohorts := Tab.erase s.cohorts id }

/-- Takes a fresh identity. -/
def State.freshId (s : State) : Nat × State := (s.fresh, { s with fresh := s.fresh + 1 })

/-- Takes the next number of the package sequencer (R340). Every 2^32 numbers its mark is to be stored (R438). -/
def State.nextSeq (s : State) : Nat × State :=
  let q := (s.seq + 1) % 2 ^ 64
  (s.seq, { s with seq := q, agenda := if q % 2 ^ 32 = 0 then .sequencerMark :: s.agenda else s.agenda })

/-- A free choice between two allowed outcomes, at a place within the step. -/
def State.pick (s : State) (site : Nat) : Bool := Config.pick s.tick site
/-- A free choice among n allowed outcomes. -/
def State.choose (s : State) (site n : Nat) : Nat := Config.choose s.tick site % n

/-- Puts an event at the front of the agenda. -/
def State.soon (s : State) (i : Instr) : State := { s with agenda := i :: s.agenda }

end Sys2Proof.Machine
end

