-- ==== Sys2Proof/Machine/Operands.lean ====
section
/-!
DEFINITION. Register operands of a cohort: where each code is held (R17, R18), per-lane and uniform reads and writes (R16,
R24, R26), masks, and the advance past an instruction's words.
-/

namespace Sys2Proof.Machine

/-- Where a register code is held at a window depth, in a ring of S entries (R17, R18, R152). -/
def regSlot (wdepth S : Nat) (r : Reg) : Nat :=
  if r.toNat < 48 then 16 + (wdepth + r.toNat) % S else r.toNat - 48

/-- The key of register code r in a lane. -/
def regKey (wdepth S : Nat) (r : Reg) (lane : Nat) : Nat := regSlot wdepth S r * 64 + lane

/-- The registers that an instruction reads: those from before its chain group (R42). -/
def Cohort.rd (c : Cohort) : View := c.pre.getD c.v

/-- The value that an instruction reads from a register in a lane. -/
def Cohort.get (c : Cohort) (r : Reg) (lane : Nat) : Word :=
  Tab.get 0 c.rd.regs (regKey c.rd.wdepth c.S r lane)

/-- The value of a pair in a lane (R5). -/
def Cohort.getPair (c : Cohort) (r : Reg) (lane : Nat) : DWord := pairOf (c.get r lane) (c.get (r + 1) lane)

/-- The lanes of a mask, ascending. -/
def lanesIn (m : Mask) (W : Nat) : List Nat := (List.range W).filter (fun l => m.getLsbD l)
/-- The active lanes. -/
def Cohort.active (c : Cohort) : List Nat := lanesIn c.rd.exec c.W
/-- The active and inactive lanes: launched and not exited (R16). -/
def Cohort.livel (c : Cohort) : List Nat := lanesIn c.rd.live c.W
/-- LowestActive() (R24). -/
def Cohort.lowest (c : Cohort) : Nat := c.active.head?.getD 0
/-- The lowest-numbered lane that is not exited (R160): launched lanes that are live; lane 0 if there is none. -/
def Cohort.lowestLive (c : Cohort) : Nat := ((List.range c.W).find? (fun l => c.rd.live.getLsbD l || !c.launched.getLsbD l)).getD 0

/-- A register as a uniform source. -/
def Cohort.uget (c : Cohort) (r : Reg) : Word := c.get r c.lowest
def Cohort.ugetPair (c : Cohort) (r : Reg) : DWord := c.getPair r c.lowest

/-- Writes one register key. -/
def View.setKey (v : View) (key : Nat) (w : Word) : View := { v with regs := Tab.set 0 v.regs key w }
/-- Writes a register in one lane. -/
def Cohort.setLane (c : Cohort) (r : Reg) (lane : Nat) (w : Word) : Cohort :=
  { c with v := c.v.setKey (regKey c.v.wdepth c.S r lane) w }
/-- Writes a register in each of some lanes, ascending. -/
def Cohort.setLanes (c : Cohort) (r : Reg) (f : Nat → Word) : List Nat → Cohort
  | [] => c
  | l :: ls => (c.setLane r l (f l)).setLanes r f ls

/-- The lanes that an instruction with a U bit writes, and the lane each takes its sources from (R16, R24). -/
def Cohort.targets (c : Cohort) (u : Bool) : List Nat := if u then c.livel else c.active
def Cohort.source (c : Cohort) (u : Bool) (lane : Nat) : Nat := if u then c.lowest else lane

/-- Writes one register as a lane operation does: per lane, or once for the whole cohort. -/
def Cohort.lanes (c : Cohort) (u : Bool) (d : Reg) (f : Nat → Word) : Cohort :=
  c.setLanes d (fun l => f (c.source u l)) (c.targets u)
/-- The same for a pair destination. -/
def Cohort.lanesPair (c : Cohort) (u : Bool) (d : Reg) (f : Nat → DWord) : Cohort :=
  (c.lanes u d (fun l => loOf (f l))).lanes u (d + 1) (fun l => hiOf (f l))
/-- Writes one value in every active and inactive lane. -/
def Cohort.uniform (c : Cohort) (d : Reg) (w : Word) : Cohort := c.setLanes d (fun _ => w) c.livel
def Cohort.uniformPair (c : Cohort) (d : Reg) (w : DWord) : Cohort := (c.uniform d (loOf w)).uniform (d + 1) (hiOf w)

/-- The bits of a mask below W. -/
def maskW (W : Nat) : Mask := BitVec.ofNat 64 (2 ^ W - 1)
/-- A mask operand: a uniform source, one register for W at most 32 and a pair for W = 64; bits W and above are ignored (R26). -/
def Cohort.mask (c : Cohort) (r : Reg) : Mask :=
  (if c.W = 64 then c.ugetPair r else (c.uget r).setWidth 64) &&& maskW c.W
/-- Writes a mask as a uniform value (R26, R27). -/
def Cohort.putMask (c : Cohort) (d : Reg) (m : Mask) : Cohort :=
  if c.W = 64 then c.uniformPair d m else c.uniform d (loOf m)
/-- The mask of the active lanes in which p holds. -/
def Cohort.maskWhere (c : Cohort) (p : Nat → Bool) : Mask :=
  c.active.foldl (fun m l => if p l then m ||| BitVec.ofNat 64 (2 ^ l) else m) 0

/-- Sets exec: the written value AND the live mask, bits W and above cleared (R28). -/
def Cohort.setExec (c : Cohort) (m : Mask) : Cohort := { c with v := { c.v with exec := m &&& c.v.live &&& maskW c.W } }

/-- Goes on past an instruction of n words: itself and its literal words. -/
def Cohort.past (c : Cohort) (n : Nat) : Cohort := { c with idx := c.idx + n }

/-- The address of the word at the cohort's place in its clause. -/
def Cohort.wordAddr (c : Cohort) : Nat := (c.hdr + 4 * c.idx) % 2 ^ 64
/-- The address of the clause that follows the clause in progress (R47). -/
def Cohort.nextClause (c : Cohort) : Nat := (c.hdr + 4 * clauseWords (c.words.headD 0)) % 2 ^ 64
/-- The header word of the clause in progress. -/
def Cohort.header (c : Cohort) : Nat := c.words.headD 0

/-- Ends the clause in progress; the cohort goes on at the clause whose header is at pc (R47). -/
def Cohort.goto (c : Cohort) (pc : Nat) : Cohort :=
  { c with hdr := pc % 2 ^ 64, mid := false, words := [], idx := 0, y := c.header % 2 == 1
           v := { c.v with regs := c.v.regs.filter (fun e => !(decide (768 ≤ e.1) && decide (e.1 < 1024))) } }

/-- The focused cohort does an operation without effect outside it, and goes on. -/
def State.lane (s : State) (f : Cohort → Cohort) (n : Nat) : State := { s with co := (f s.co).past n }

end Sys2Proof.Machine
end

