-- ==== Sys2Proof/Machine/Flags.lean ====
section
/-!
DEFINITION. Completion flags and outstanding operations (R30, R43, R45, R46, R179): which flag an instruction names, the
register keys that an operation interlocks, and what its completion writes. The machine has no arithmetic flags (R103).
-/

namespace Sys2Proof.Machine

/-- f0 to f11: a flag is set while an operation that named it is outstanding (R30). -/
def View.flags (v : View) : BitVec 12 :=
  v.ops.foldl (fun m o => match o.flag with
    | some f => m ||| BitVec.ofNat 12 (2 ^ f)
    | none => m) 0

/-- The flag that an F bit selects in the clause header: SETA or SETB, 15 for none (R44, R46). -/
def Cohort.flagOf (c : Cohort) (f : Bool) : Option Nat :=
  let n := if f then fld c.header 4 4 else fld c.header 8 4
  if n < 12 then some n else none

/-- Adds an outstanding operation to the cohort. -/
def Cohort.addOp (c : Cohort) (o : Op) : Cohort := { c with v := { c.v with ops := c.v.ops ++ [o] } }
/-- Removes an outstanding operation. -/
def Cohort.dropOp (c : Cohort) (id : Nat) : Cohort := { c with v := { c.v with ops := c.v.ops.filter (fun o => o.id != id) } }
/-- The outstanding operation with an identity. -/
def Cohort.op? (c : Cohort) (id : Nat) : Option Op := c.v.ops.find? (fun o => o.id == id)

/-- The outstanding operation that holds one of some register keys (R43). -/
def Cohort.blockedBy (c : Cohort) (keys : List Nat) : Option Op :=
  c.v.ops.find? (fun o => o.keys.any (fun k => keys.contains k))

/-- Whether a register key is one of t0-t3. -/
def isTemp (key : Nat) : Bool := decide (768 ≤ key) && decide (key < 1024)

/-- One value lands: in t0-t3 only for the clause that issued the operation, in progress or saved (R20, R163); a lane that has
exited meanwhile keeps its value (R16). -/
def Cohort.land (c : Cohort) (clause : Nat) (w : Nat × Word) : Cohort :=
  if !c.v.live.getLsbD (w.1 % 64) then c
  else if isTemp w.1 then
    if c.mid && clause == c.clause then { c with v := c.v.setKey w.1 w.2 }
    else match c.handler with
      | some sv => if sv.clause == clause then { c with handler := some { sv with temps := Tab.set 0 sv.temps w.1 w.2 } } else c
      | none => c
  else { c with v := c.v.setKey w.1 w.2 }

/-- The operation with an identity completes with some values: they are written, the interlock ends and its flag clears. -/
def Cohort.complete (c : Cohort) (id : Nat) (ws : List (Nat × Word)) : Cohort :=
  match c.op? id with
  | some o => (ws.foldl (fun c w => c.land o.clause w) c).dropOp id
  | none => c

/-- The keys of a register in some lanes. -/
def Cohort.keysOf (c : Cohort) (r : Reg) (ls : List Nat) : List Nat := ls.map (fun l => regKey c.v.wdepth c.S r l)

/-- Registers a new outstanding operation of the focused cohort. -/
def State.startOp (s : State) (kind : OpKind) (flag : Option Nat) (keys : List Nat) (ws : List (Nat × Word)) : Nat × State :=
  let id := s.fresh
  let o : Op := { id := id, kind := kind, flag := flag, clause := s.co.clause, keys := keys, writes := ws }
  (id, { s with fresh := id + 1, co := s.co.addOp o })

end Sys2Proof.Machine
end

