-- ==== Sys2Proof/Machine/Mem.lean ====
section
/-!
DEFINITION. Physical memory as the home slices hold it: bytes, little-endian values, poison marks (R5, R367), the physical map
(R394), and what a write does beside the bytes: registered copies are invalidated (R223, R308), and residencies registered for the
lines count it (R254).
-/

namespace Sys2Proof.Machine

/-- The byte at a physical address. -/
def State.byte (s : State) (a : Nat) : Byte := Tab.get memDefault s.mem a
/-- Stores one byte. -/
def State.setByte (s : State) (a : Nat) (b : Byte) : State := { s with mem := Tab.set memDefault s.mem a b }

/-- n bytes as a little-endian number. -/
def leNat : List Byte → Nat
  | [] => 0
  | b :: bs => b.toNat + 256 * leNat bs
/-- The n low bytes of a number, little-endian. -/
def natLe : Nat → Nat → List Byte
  | 0, _ => []
  | n + 1, x => BitVec.ofNat 8 x :: natLe n (x / 256)

/-- The n bytes from a physical address. -/
def State.bytes (s : State) (a n : Nat) : List Byte := (List.range n).map (fun i => s.byte (a + i))
/-- The n bytes from a physical address as a little-endian number. -/
def State.readN (s : State) (a n : Nat) : Nat := leNat (s.bytes a n)

/-- Bytes with their addresses, from an address up. -/
def cellsFrom : Nat → List Byte → List (Nat × Byte)
  | _, [] => []
  | a, b :: bs => (a, b) :: cellsFrom (a + 1) bs

/-- Writes cells of memory in list order, and nothing else. -/
def State.pokes (s : State) : List (Nat × Byte) → State
  | [] => s
  | (a, b) :: l => (s.setByte a b).pokes l

/-- Writes a little-endian value, and nothing else. -/
def State.pokeN (s : State) (a n v : Nat) : State := s.pokes (cellsFrom a (natLe n v))

/-- A write of all 16 bytes of a sector clears its poison mark (R367). -/
def clearPoison (poison : List Nat) (cells : List (Nat × Byte)) : List Nat :=
  poison.filter (fun p => !((List.range 16).all (fun i => cells.any (fun c => c.1 == 16 * p + i))))

/-- The lowest poisoned sector that a range of bytes touches. -/
def State.poisonIn (s : State) (a n : Nat) : Option Nat :=
  ((s.poison.filter (fun p => decide (16 * p < a + n) && decide (a < 16 * p + 16) && decide (0 < n))).min?).map (fun p => 16 * p)

/-- No sector is marked anywhere (R367). -/
def State.unmarked (s : State) : Bool :=
  s.poison.isEmpty && s.cores.all (fun e => e.2.roBad.isEmpty && e.2.l1.all (fun l => l.2.bad == 0)) &&
  s.clusters.all (fun e => e.2.cc.all (fun l => l.2.bad == 0))

/-- The first poisoned sector that a partial write would merge into (R368). -/
def State.poisonMerge (s : State) (cells : List (Nat × Byte)) : Option Nat :=
  match s.poison with
  | [] => none
  | _ =>
    let touched := s.poison.filter (fun p => cells.any (fun c => c.1 / 16 == p))
    let left := clearPoison touched cells
    left.head?.map (fun p => 16 * p)

/-- The marks of some sectors of a line at its home slice, or in a memory, become those given (R367). -/
def State.markSectors (s : State) (line : Nat) (m bad : BitVec 4) : State :=
  { s with poison := s.poison.filter (fun p => !(p / 4 == line && m.getLsbD (p % 4))) ++
      ((List.range 4).filter (fun k => m.getLsbD k && bad.getLsbD k)).map (fun k => 4 * line + k) }
/-- The marked sectors of a line there, as bits. -/
def State.homeMarks (s : State) (line : Nat) : BitVec 4 :=
  (s.poison.filter (fun p => p / 4 == line)).foldl (fun m p => m ||| BitVec.ofNat 4 (2 ^ (p % 4))) 0

/-- The areas of the physical map (R394). -/
inductive Area where
  | hbm | lpddr | flash | onchip | control | hole
  deriving DecidableEq, Repr

def areaOf (pa : Nat) : Area :=
  if pa < 0x8000000000 then .hbm
  else if 0x10000000000 ≤ pa ∧ pa < 0x30000000000 then .lpddr
  else if 0x100000000000 ≤ pa ∧ pa < 0x180000000000 then .flash
  else if 0x300000000000 ≤ pa ∧ pa < 0x300200000000 then .onchip
  else if 0x3F0000000000 ≤ pa ∧ pa < 0x400000000000 then .control
  else .hole

/-- HBM or LPDDR6: where tables, records and MSIs may lie (R346, R359, R366). -/
def areaRam (pa : Nat) : Bool := areaOf pa == .hbm || areaOf pa == .lpddr

/-- The sectors of a line, as bits, that bytes at some offsets touch. -/
def sectorBits (offs : List Nat) : BitVec 4 := offs.foldl (fun m o => m ||| BitVec.ofNat 4 (2 ^ (o % 64 / 16))) 0

/-- The distinct 64-byte line numbers of cells. -/
def linesOf (cells : List (Nat × Byte)) : List Nat := (cells.map (fun c => c.1 / 64)).eraseDups

/-- One residency after a write that gains ownership of lines (R254): it advances by at most 1 for each registered line. src names the fabric
command that writes, if one does: its messages advance a line once between two loads. -/
def Residency.written (src : Option (Nat × Nat)) (lines : List Nat) (r : Residency) : Residency :=
  if r.lines.isEmpty then r
  else
    let hit := r.lines.filter (fun l => lines.contains l && !src.any (fun x => r.gains.contains (x.1, x.2, l)))
    if hit.isEmpty then r
    else { r with gsrc := r.gsrc + BitVec.ofNat 32 hit.length, state := if r.state = .valid then .stale else r.state
                  gains := r.gains ++ (match src with
                    | some x => hit.map (fun l => (x.1, x.2, l))
                    | none => []) }

/-- One core's caches and residencies after a write by an agent outside it (R223, R254). -/
def Core.written (src : Option (Nat × Nat)) (lines : List Nat) (c : Core) : Core :=
  { c with
    l1 := if c.l1.isEmpty then c.l1 else c.l1.filter (fun e => !(e.2.reg && lines.contains e.1))
    res := c.res.map (fun e => (e.1, e.2.written src lines)) }

/-- The captured residencies of a stopped context go on counting writes to their sources (R254, R261). -/
def Ctx.written (src : Option (Nat × Nat)) (lines : List Nat) (x : Ctx) : Ctx :=
  match x.capture with
  | none => x
  | some k => { x with capture := some { k with res := k.res.map (fun e => (e.1, e.2.1, e.2.2.written src lines)) } }

/-- A write to a reserved line ends a hart's reservation (R330). -/
def Hart.written (lines : List Nat) (h : Hart) : Hart :=
  match h.resv with
  | none => h
  | some l => if lines.contains l then { h with resv := none } else h

/-- A cluster's cache after a write by an agent outside it (R308): the lines are recalled. Bytes that it has accepted and that are not
performed beyond it yet stay, with the marks of their sectors: they come later in coherence order. -/
def Cluster.written (lines : List Nat) (q : Cluster) : Cluster :=
  if q.cc.isEmpty then q
  else
    { q with cc := q.cc.filterMap (fun e =>
        if lines.contains e.1 then
          (if e.2.data.isEmpty then none
          else some (e.1, { e.2 with valid := 0, dirty := 0, owned := false, bad := e.2.bad &&& sectorBits (e.2.data.map Prod.fst) }))
        else some e) }

/-- A write of cells to memory that is performed for every agent of the package (R309, R331): every write of the machine to memory goes
through here. Cached copies elsewhere that are registered are invalidated (R223, R308), and residencies of the lines count it (R254). src names
the fabric command whose write it is, if it is one's. -/
def State.writeBy (s : State) (src : Option (Nat × Nat)) (cells : List (Nat × Byte)) : State :=
  match cells with
  | [] => s
  | _ =>
    let s := if s.poison.isEmpty then s else { s with poison := clearPoison s.poison cells }
    let s := s.pokes cells
    let lines := linesOf cells
    { s with
      ctxs := s.ctxs.map (fun e => (e.1, e.2.written src lines))
      harts := s.harts.map (fun e => (e.1, e.2.written lines))
      clusters := s.clusters.map (fun e => (e.1, e.2.written lines))
      cores := s.cores.map (fun e => (e.1, e.2.written src lines)) }
/-- A write of any other agent. -/
def State.write (s : State) (cells : List (Nat × Byte)) : State := s.writeBy none cells

/-- A write of an n-byte little-endian value. -/
def State.writeN (s : State) (a n v : Nat) : State := s.write (cellsFrom a (natLe n v))

end Sys2Proof.Machine
end

