-- ==== Sys2Proof/Machine/Translate.lean ====
section
/-!
DEFINITION. Addresses: the windows of R171, Sv57 translation with the Omantavo attributes (R112, R346 to R349), and the
resolution of one access to its physical bytes with the checks of R200.
-/

namespace Sys2Proof.Machine

/-- Cause codes (R357). -/
def causeIllegal : Nat := 0x01
def causeUniformity : Nat := 0x02
def causeSoftTrap : Nat := 0x03
def causeMisaligned : Nat := 0x04
def causeStraddle : Nat := 0x05
def causeNotPresent : Nat := 0x06
def causeProtection : Nat := 0x07
def causeFormat : Nat := 0x08
def causeLongLatency : Nat := 0x09
def causeWindowLimit : Nat := 0x0A
def causeWindowSpill : Nat := 0x0B
def causeStale : Nat := 0x0C
def causeQuota : Nat := 0x0D
def causeHandle : Nat := 0x0E
def causeBarrier : Nat := 0x0F
def causePoison : Nat := 0x10
def causeCopyRange : Nat := 0x11
def causeRemote : Nat := 0x12
def causeDeadline : Nat := 0x13
def causeFabric : Nat := 0x14

/-- A fault with nothing but its cause and subcause. -/
def flt (cause sub : Nat) : FaultInfo :=
  { cause := cause, sub := sub, addr := 0, paddr := 0, rd := false, wr := false, ft := false, eng := false, gran := 0 }

/-- A fault of an access. -/
def fltAt (cause sub addr : Nat) (k : AccessKind) : FaultInfo :=
  { flt cause sub with addr := addr, rd := k = .read, wr := k = .write, ft := k = .fetch }

/-- The windows of R171. -/
inductive Window where
  | loc (x : Nat) | onchip (x : Nat) | glob
  deriving DecidableEq, Repr

def windowOf (a : Nat) : Window :=
  if 0x00F0000000000000 ≤ a ∧ a ≤ 0x00F000000007FFFF then .loc (a - 0x00F0000000000000)
  else if 0x00F1000000000000 ≤ a ∧ a ≤ 0x00F10001FFFFFFFF then .onchip (a - 0x00F1000000000000)
  else .glob

/-- Which window, without the offset. -/
def Window.code : Window → Nat
  | .loc _ => 0
  | .onchip _ => 1
  | .glob => 2

/-- Base of the on-chip map. -/
def onchipBase : Nat := 0x300000000000
/-- Physical address of a slot offset. -/
def slotAddr (slot off : Nat) : Nat := onchipBase + 0x400000 * slot + off
/-- Slot offset of the scratchpad, the accumulator store and the scale memory (R218). -/
def spOffset : Nat := 0x100000
def accOffset : Nat := 0x200000
def scaleOffset : Nat := 0x240000

/-- Canonical Sv57 addresses: bits [63:57] equal bit 56 (R171). -/
def canonical (va : Nat) : Bool := va / 2 ^ 56 == 0 || va / 2 ^ 56 == 255

/-- A page-table entry's address and value beside the leaf it gave. -/
structure Walked where
  leaf : Leaf
  at_  : Nat
  pte  : Nat
  deriving DecidableEq, Repr

def malformed : Except WalkFail Walked := .error ⟨causeNotPresent, 2, 0⟩

/-- Makes the leaf of a leaf PTE found at a level (R112, R347). cpu: the walk of a CPU core, which reads no device rule on the frame; a
physical address that its page maps to a hole fails at the access (R394). -/
def leafOf (cpu : Bool) (va at_ pte level : Nat) : Except WalkFail Walked :=
  let ppn := bitsOf pte 10 44
  let napot := pte / 2 ^ 63 % 2 == 1
  let pa :=
    if napot then (ppn / 16 * 16 + va / 4096 % 16) * 4096
    else (ppn + va / 4096 % 2 ^ (9 * level)) * 4096
  let area := areaOf pa
  if level = 4 && !cpu then malformed
  else if napot && !(level == 0 && ppn % 16 == 8) then malformed
  else if !napot && ppn % 2 ^ (9 * level) != 0 then malformed
  else if area = .hole && !cpu then malformed
  else if area = .flash && level == 0 && !napot && !cpu then malformed
  else
    .ok { leaf :=
            { pa := pa, r := bitsOf pte 1 1 == 1, w := bitsOf pte 2 1 == 1, x := bitsOf pte 3 1 == 1, u := bitsOf pte 4 1 == 1
              pbmt := bitsOf pte 61 2, so := bitsOf pte 54 1 == 1, efmt := bitsOf pte 57 4, bgeo := bitsOf pte 55 2
              size := if napot then 1 else if level = 0 then 0 else level + 1
              mig := area = .flash && bitsOf pte 8 2 == 3, dirty := bitsOf pte 7 1 == 1 }
          at_ := at_, pte := pte }

/-- The Sv57 walk from a table at a level (R346, R347). A CPU core ignores bits [60:54] of every PTE (R112). A, D and U of a PTE that names
a table are ignored (log entry 89). -/
def walkFrom (s : State) (cpu : Bool) (va : Nat) : (level table : Nat) → Except WalkFail Walked
  | level, table =>
    let go (next : Nat → Except WalkFail Walked) : Except WalkFail Walked :=
      let at_ := table * 4096 + 8 * (va / 2 ^ (12 + 9 * level) % 512)
      if !areaRam at_ then malformed
      else match s.poisonIn at_ 8 with
        | some p => .error ⟨causePoison, 6, p⟩
        | none =>
          let pte := s.readN at_ 8
          if pte % 2 == 0 then .error ⟨causeNotPresent, 1, 0⟩
          else if bitsOf pte 1 2 == 2 then malformed
          else if bitsOf pte 1 3 == 0 then
            if (if cpu then pte / 2 ^ 61 else pte / 2 ^ 54) != 0 then malformed else next (bitsOf pte 10 44)
          else leafOf cpu va at_ pte level
    match level with
    | 0 => go (fun _ => malformed)
    | l + 1 => go (fun t => walkFrom s cpu va l t)

/-- A walk of a root register (R346). -/
def walkOf (s : State) (cpu : Bool) (root : DWord) (va : Nat) : Except WalkFail Walked :=
  if !canonical va then .error ⟨causeNotPresent, 3, 0⟩
  else if bitsOf root.toNat 60 4 != 10 then .error ⟨causeNotPresent, 1, 0⟩
  else walkFrom s cpu va 4 (bitsOf root.toNat 0 44)
/-- The device's walk. -/
def walkRoot (s : State) (root : DWord) (va : Nat) : Except WalkFail Walked := walkOf s false root va

/-- Whether a leaf permits an access of the context's cohorts, and what stops it (R347, R348, R201, R345, R354). -/
def permit (l : Leaf) (k : AccessKind) : Except WalkFail Unit :=
  let denied : Bool := match k with
    | .read => !l.u || !l.r
    | .write => !l.u || !l.w || areaOf l.pa == .flash
    | .fetch => !l.u || !l.x
  let sub := match k with
    | .read => 2
    | .write => 1
    | .fetch => 7
  if denied then .error ⟨causeProtection, sub, 0⟩
  else if l.pbmt = 3 then .error ⟨causeProtection, 6, 0⟩
  else if l.mig then .error ⟨causeLongLatency, 1, l.pa / 65536⟩
  else .ok ()

/-- Sets A, and D for a write, in the PTE of a walk (R348); an Svnapot leaf stands in sixteen PTEs, which stay alike (R422). -/
def setAD (s : State) (w : Walked) (k : AccessKind) : State :=
  let a := bitsOf w.pte 6 1 == 1
  let d := bitsOf w.pte 7 1 == 1
  let add := (if a then 0 else 64) + (if d || k != .write then 0 else 128)
  if add = 0 then s
  else if w.leaf.size = 1 then
    let base := w.at_ / 128 * 128
    s.write ((List.range 16).flatMap (fun i =>
      let at_ := base + 8 * i
      if s.readN at_ 8 = w.pte then cellsFrom at_ (natLe 8 (w.pte + add)) else []))
  else s.writeN w.at_ 8 (w.pte + add)

/-- The fault of a failed walk or a refused permission. -/
def failAt (f : WalkFail) (va : Nat) (k : AccessKind) : FaultInfo :=
  if f.cause = causePoison then { fltAt f.cause f.sub va k with paddr := f.pa }
  else if f.cause = causeLongLatency then { fltAt f.cause f.sub va k with paddr := 65536 * f.pa, gran := f.pa }
  else fltAt f.cause f.sub va k

/-- The TLB entry for a page. -/
def tlbFind (l : List TlbEnt) (ctx vpn : Nat) : Option Leaf :=
  (l.find? (fun e => e.ctx == ctx && e.vpn == vpn)).map TlbEnt.leaf

/-- Replaces the TLB entry for a page. -/
def tlbPut (l : List TlbEnt) (ctx vpn : Nat) (leaf : Leaf) : List TlbEnt :=
  { ctx := ctx, vpn := vpn, leaf := leaf } :: l.filter (fun e => !(e.ctx == ctx && e.vpn == vpn))

/-- The translations that a core's two TLBs hold for a page (R349). -/
def State.tlbHeld (s : State) (core ctx vpn : Nat) : Option Leaf :=
  match tlbFind (s.core core).tlb ctx vpn with
  | some l => some l
  | none => tlbFind (s.cluster (clusterOf core)).tlb ctx vpn
/-- A walk's translation enters both TLBs of a core; the cluster's holds 4,096 entries (R349). -/
def State.tlbFill (s : State) (core ctx vpn : Nat) (l : Leaf) : State :=
  (s.modCore core (fun k => { k with tlb := tlbPut k.tlb ctx vpn l })).modCluster (clusterOf core) (fun q =>
    { q with tlb := (tlbPut q.tlb ctx vpn l).take 4096 })

/-- Memory as a walk may still find it (R330, R393): a store of a hart that no release has followed may be performed after
the walk (log entry 95). -/
def State.aged (s : State) (site : Nat) : State :=
  (s.harts.flatMap (fun h => h.2.late)).foldl (fun t c => if s.pick (site + 8192 * (c.1 / 8)) then t.write [c] else t) s
/-- The walk of a page: where it meets an entry as it stood before such a store, it sets no bit in it. -/
def walkSeen (s : State) (root : DWord) (va : Nat) (k : AccessKind) (site : Nat) : Except WalkFail Walked :=
  if s.harts.all (fun h => h.2.late.isEmpty) then walkRoot s root va
  else match walkRoot (s.aged site) root va with
    | .error e => .error e
    | .ok w =>
      if s.readN w.at_ 8 = w.pte || (bitsOf w.pte 6 1 == 1 && (k != .write || w.leaf.dirty)) then .ok w else walkRoot s root va

/-- Translates one page for a context: a TLB entry that differs from what a walk finds may be used or not (R350); a fault
fills no entry (R349). core is the core whose TLBs serve the access. -/
def translate (s : State) (core : Option Nat) (ctx va : Nat) (k : AccessKind) (site : Nat) :
    State × Except FaultInfo Leaf :=
  let vpn := va / 4096
  let cached := core.bind (fun c => s.tlbHeld c ctx vpn)
  let walked := walkSeen s (s.ctx ctx).root va k site
  let useOld : Option Leaf := match cached with
    | none => none
    | some l =>
      if k = .write && !l.dirty then none
      else match walked with
        | .ok n => if { n.leaf with dirty := true } = { l with dirty := true } then none else if s.pick site then some l else none
        | .error _ => if s.pick site then some l else none
  match useOld with
  | some l =>
    match permit l k with
    | .ok () => (s, .ok l)
    | .error f => (s, .error (failAt f va k))
  | none =>
    match walked with
    | .error f => (s, .error (failAt f va k))
    | .ok w =>
      match permit w.leaf k with
      | .error f => (s, .error (failAt f va k))
      | .ok () =>
        let s := setAD s w k
        let leaf := { w.leaf with dirty := w.leaf.dirty || k = .write }
        (match core with
          | some c => s.tlbFill c ctx vpn leaf
          | none => s, .ok leaf)

/-- An access that waits for a walk in flight: no fault, cause 0. -/
def queued (va : Nat) (k : AccessKind) : FaultInfo := fltAt 0 0 va k

/-- A cohort queues on a walk of its cluster, if that walk takes it. -/
def Walk.join (co : Nat) (w : Walk) : Walk := if w.shut || w.ended || w.reqs.contains co then w else { w with reqs := w.reqs ++ [co] }
def Walk.is (ctx vpn : Nat) (w : Walk) : Bool := w.ctx == ctx && w.vpn == vpn
/-- Changes a cluster's walk of a page; one that has been answered to all of its requesters is gone. -/
def State.modWalk (s : State) (cl ctx vpn : Nat) (f : Walk → Walk) : State :=
  s.modCluster cl (fun q => { q with
    walks := (q.walks.map (fun w => if w.is ctx vpn then f w else w)).filter (fun w => !w.ended || !w.reqs.isEmpty) })

/-- The walk of a page that concerns an access of a cohort: the one on which it has queued, or else one in flight that takes it (R353). -/
def Cluster.walkFor (q : Cluster) (co ctx vpn : Nat) : Option Walk :=
  match q.walks.find? (fun w => w.is ctx vpn && w.reqs.contains co) with
  | some w => some w
  | none => q.walks.find? (fun w => w.is ctx vpn && !w.ended && !w.shut)

/-- Translates one page for an access of a cohort (R349). A miss joins the walk that its cluster has in flight for the page, and takes that
walk's fault when it has ended. A walk that is to end in a fault may stay in flight for some time; one that finds a translation is over at
once, since nothing shows how long it took. -/
def State.lookup (s : State) (c : Cohort) (va : Nat) (k : AccessKind) (site : Nat) : State × Except FaultInfo Leaf :=
  let cl := clusterOf c.core
  let vpn := va / 4096
  let own := translate s (some c.core) c.ctx va k site
  match (s.cluster cl).walkFor c.id c.ctx vpn with
  | some w =>
    if (s.tlbHeld c.core c.ctx vpn).isSome then own
    else if !w.ended then (s.modWalk cl c.ctx vpn (Walk.join c.id), .error (queued va k))
    else if w.reqs.contains c.id then
      (s.modWalk cl c.ctx vpn (fun w => { w with reqs := w.reqs.filter (fun i => i != c.id) }), .error (failAt w.fail va k))
    else own
  | none =>
    match own.2, walkRoot s (s.ctx c.ctx).root va with
    | .error f, .error e =>
      if e.sub != 3 && f == failAt e va k && s.pick (6000 + site) then
        (own.1.modCluster cl (fun q => { q with
          walks := q.walks ++ [{ ctx := c.ctx, vpn := vpn, fail := e, reqs := [c.id], ended := false, shut := false }] }), .error (queued va k))
      else own
    | _, _ => own

/-- A device page or a strongly ordered page (R174, R345). -/
def Leaf.ordered (l : Leaf) : Bool := l.so || l.pbmt == 2
/-- A normal page. -/
def Leaf.normal (l : Leaf) : Bool := l.pbmt == 0 && !l.so
/-- A page of memory that the caches hold: on-chip bytes stand at their core alone. -/
def Leaf.cached (l : Leaf) : Bool := l.normal && areaOf l.pa != .onchip
/-- A write-combining page. -/
def Leaf.combining (l : Leaf) : Bool := l.pbmt == 1 && !l.so

/-- The protected spill areas of a context's launches (R201). -/
def spillStride (W wlimit : Nat) : Nat := (4 * W * (wlimit + 96) + 4095) / 4096 * 4096
def Launch.cohortsPer (l : Launch) : Nat := (l.N + l.W - 1) / l.W
def Launch.spillArea (l : Launch) : Nat × Nat :=
  (l.spill * 65536, l.spill * 65536 + l.teams * l.cohortsPer * spillStride l.W l.wlimit)
def State.spillHit (s : State) (ctx va n : Nat) : Bool :=
  (s.ctx ctx).launches.any (fun l => decide (va < l.spillArea.2) && decide (l.spillArea.1 < va + n))

/-- Whether slot offset off of a slot lies in the scratchpad share of a team of the context resident there (R173). -/
def State.inShare (s : State) (ctx slot off : Nat) : Bool :=
  s.allCohorts.any (fun c => c.ctx == ctx && c.core == slot && !c.ended &&
    decide (spOffset + 16384 * c.shareB ≤ off) && decide (off < spOffset + 16384 * (c.shareB + c.shareN))) ||
  s.allTeams.any (fun t => t.ctx == ctx && ((t.core == slot &&
      decide (spOffset + 16384 * t.shareB ≤ off) && decide (off < spOffset + 16384 * (t.shareB + t.shareN))) ||
    (t.pair && t.core + 1 == slot &&
      decide (spOffset + 16384 * t.shareB2 ≤ off) && decide (off < spOffset + 16384 * (t.shareB2 + t.shareN)))))

/-- Physical address of byte x of a cohort's scratchpad share (R217). -/
def Cohort.shareAddr (c : Cohort) (x : Nat) : Nat := slotAddr c.core (spOffset + 16384 * c.shareB + x)
/-- The size of its share in bytes. -/
def Cohort.shareSize (c : Cohort) : Nat := 16384 * c.shareN

/-- An access resolved: its physical bytes in order, and the page's leaf (none for on-chip bytes). An access of two pages has the second
page's leaf beside the number of bytes that lie on the first. -/
structure Resolved where
  pas  : List Nat
  leaf : Option Leaf
  next : Option (Nat × Option Leaf)
  deriving DecidableEq, Repr

/-- The bytes of an access by the page that they lie on. -/
def Resolved.parts (r : Resolved) : List (Option Leaf × List Nat) :=
  match r.next with
  | none => [(r.leaf, r.pas)]
  | some (n, l) => [(r.leaf, r.pas.take n), (l, r.pas.drop n)]
/-- The leaves of an access. -/
def Resolved.leaves (r : Resolved) : List Leaf := r.parts.filterMap Prod.fst

/-- Which path a load takes (R176, R180). -/
inductive Path where
  | plain | nt | ro | const
  deriving DecidableEq, Repr
/-- The read-only cache that a path reads: true for the constant cache. -/
def Path.cache : Path → Option Bool
  | .plain | .nt => none
  | .ro => some false
  | .const => some true
/-- The units of a core's read-only cache, or of its constant cache. -/
def Core.roTab (c : Core) (k : Bool) : Tab Word := if k then c.cst else c.ro

/-- A byte that the caches on a core's path hold: its read reaches no home slice (R403, R426). An engine or the Hamper (no path) reads past
the core's own. -/
def State.sectorHeld (s : State) (core : Nat) (p : Option Path) (pa : Nat) : Bool :=
  (p.bind Path.cache).any (fun k => (Tab.find ((s.core core).roTab k) (pa / 4)).isSome) ||
  (p.isSome && (Tab.find (s.core core).l1 (pa / 64)).any (fun e => e.valid.getLsbD (pa % 64 / 16))) ||
  ((Tab.find (s.cluster (clusterOf core)).cc (pa / 64)).any (fun e => e.valid.getLsbD (pa % 64 / 16)))
/-- The first byte whose line read the Flash Management Processor answers with a stall (R354, R403): its place and the subcause. -/
def State.stallOf (s : State) (core : Nat) (p : Option Path) (pas : List Nat) : Option (Nat × Nat) :=
  if s.stalls.isEmpty then none
  else (List.range pas.length).findSome? (fun i =>
    let pa := pas.getD i 0
    match Tab.find s.stalls (pa / 65536) with
    | some sub => if areaOf pa = .flash && !s.sectorHeld core p pa then some (i, sub) else none
    | none => none)

/-- Window straddle and the reach of the LOCAL and ONCHIP windows (R172, R173, R200 rows 2 and 3), which need no translation (R201). A straddle
reports the first byte of the access (log entry 84). -/
def windowBad (s : State) (c : Cohort) (va n : Nat) (k : AccessKind) : Option FaultInfo :=
  let last := (va + (n - 1)) % 2 ^ 64
  if (windowOf va).code != (windowOf last).code then some (fltAt causeStraddle 0 va k)
  else match windowOf va with
    | .loc x => if x + n ≤ c.shareSize then none else some (fltAt causeProtection 4 (va + (c.shareSize - x)) k)
    | .onchip x =>
      ((List.range n).find? (fun i => !(s.inShare c.ctx ((x + i) / 0x400000) ((x + i) % 0x400000)))).map (fun i =>
        fltAt causeRemote 6 (va + i) k)
    | .glob => none

/-- The lowest of n bytes that lies in a protected spill area of the context. -/
def State.spillByte (s : State) (ctx va n : Nat) : Option Nat :=
  ((s.ctx ctx).launches.filterMap (fun l =>
    if va < l.spillArea.2 ∧ l.spillArea.1 < va + n then some (max va l.spillArea.1) else none)).min?

/-- On-chip bytes that a global page maps: as through the ONCHIP window, only the context's own shares are reached, whatever agent of the
context uses the page (log entry 88; the accumulator store of R243 is never reached so). -/
def State.pageBad (s : State) (ctx va : Nat) (pas : List Nat) (k : AccessKind) : Option FaultInfo :=
  ((List.range pas.length).find? (fun i => let pa := pas.getD i 0
    areaOf pa == .onchip && !(s.inShare ctx ((pa - onchipBase) / 0x400000) ((pa - onchipBase) % 0x400000)))).map (fun i =>
      fltAt causeRemote 6 (va + i) k)

/-- The pages of an access that has passed its window tests: translation in ascending order, and what a translated page cannot be used for
(R171, R200 row 4). An access of at most a page spans at most two pages. -/
def resolvePages (s : State) (c : Cohort) (va n : Nat) (k : AccessKind) (p : Path) (site : Nat) : State × Except FaultInfo Resolved :=
  let last := (va + (n - 1)) % 2 ^ 64
  let fin (s : State) (pas : List Nat) (l : Leaf) (next : Option (Nat × Option Leaf)) : State × Except FaultInfo Resolved :=
    match s.pageBad c.ctx va pas k, (match k with | .write => none | .read | .fetch => s.stallOf c.core (some p) pas) with
    | some f, _ => (s, .error f)
    | none, some (i, sub) =>
      (s, .error (failAt ⟨causeLongLatency, sub, pas.getD i 0 / 65536⟩ ((va + i) % 2 ^ 64) k))
    | none, none => (s, .ok { pas := pas, leaf := some l, next := next })
  match windowOf va with
  | .loc x => (s, .ok { pas := (List.range n).map (fun i => c.shareAddr (x + i)), leaf := none, next := none })
  | .onchip x =>
    (s, .ok { pas := (List.range n).map (fun i => slotAddr (x / 0x400000) (x % 0x400000 + i)), leaf := none, next := none })
  | .glob =>
    match (match k with | .write => s.spillByte c.ctx va n | .read | .fetch => none) with
    | some b => (s, .error (fltAt causeProtection 3 b k))
    | none =>
      match s.lookup c va k site with
      | (s, .error f) => (s, .error f)
      | (s, .ok l) =>
        if va / 4096 == last / 4096 then fin s ((List.range n).map (fun i => l.pa + va % 4096 + i)) l none
        else
          match s.lookup c (last / 4096 * 4096) k (site + 1) with
          | (s, .error f) => (s, .error f)
          | (s, .ok l2) =>
            let n1 := 4096 - va % 4096
            fin s ((List.range n).map (fun i => if i < n1 then l.pa + va % 4096 + i else l2.pa + (i - n1))) l
              (some (n1, some l2))

/-- An access to a device or strongly ordered page that is not naturally aligned (R174, R200 row 5). -/
def Resolved.misaligned (r : Resolved) (va n : Nat) : Bool := va % n != 0 && r.leaves.any Leaf.ordered

/-- Resolves the n bytes at va for a cohort's access by a path (R200 rows 2 to 5). -/
def resolveBy (s : State) (c : Cohort) (va n : Nat) (k : AccessKind) (p : Path) (site : Nat) : State × Except FaultInfo Resolved :=
  match windowBad s c va n k with
  | some f => (s, .error f)
  | none =>
    match resolvePages s c va n k p site with
    | (s, .error f) => (s, .error f)
    | (s, .ok r) => if r.misaligned va n then (s, .error (fltAt causeMisaligned 0 va k)) else (s, .ok r)
/-- The same by the path of an ordinary access. -/
def resolve (s : State) (c : Cohort) (va n : Nat) (k : AccessKind) (site : Nat) : State × Except FaultInfo Resolved :=
  resolveBy s c va n k .plain site

/-- A scratchpad access of LDS and STS: an offset into the share, no translation and no window check (R182). A fault
reports an offset into the share (log entry 84). -/
def resolveShare (s : State) (c : Cohort) (x n : Nat) (k : AccessKind) : State × Except FaultInfo Resolved :=
  if x + n ≤ c.shareSize then (s, .ok { pas := (List.range n).map (fun i => c.shareAddr (x + i)), leaf := none, next := none })
  else (s, .error (fltAt causeProtection 4 (max x c.shareSize) k))

end Sys2Proof.Machine
end

