-- ==== Sys2Proof/Machine/Levels.lean ====
section
/-!
DEFINITION. The levels between a cohort and the home slices: the first-level cache with its scope tags (R222, R223), the cluster cache
(R307 to R310), the write-combining buffer (R345), the read-only paths (R180, R181), and releases, acquires and tickets (R190, R332,
R336 to R339).
-/

namespace Sys2Proof.Machine

/-! ## The cluster cache (R307 to R309); what it holds and evicts is free within these rules (log entry 85) -/

/-- A line of which nothing is held. -/
def CcLine.init : CcLine := { valid := 0, dirty := 0, owned := false, low := false, bad := 0, data := [] }
/-- The marked sectors of a line as a cluster's cores read it (R367): those of the copy that its cache holds, and where it holds none those of
the home slice. -/
def State.clMarks (s : State) (cl line : Nat) : BitVec 4 :=
  match Tab.find (s.cluster cl).cc line with
  | some e => e.bad ||| (s.homeMarks line &&& ~~~e.valid)
  | none => s.homeMarks line
def State.clMark (s : State) (cl sec : Nat) : Bool := (s.clMarks cl (sec / 4)).getLsbD (sec % 4)

/-- A byte as the cores of a cluster read it from their cache: one that the cache has accepted, or what the home slice holds. -/
def State.clByte (s : State) (cl pa : Nat) : Byte :=
  match Tab.find (s.cluster cl).cc (pa / 64) with
  | some e => (Tab.find e.data (pa % 64)).getD (s.byte pa)
  | none => s.byte pa

def State.modCc (s : State) (cl line : Nat) (f : CcLine → CcLine) : State :=
  s.modCluster cl (fun q => { q with cc := Tab.put q.cc line (f (Tab.get CcLine.init q.cc line)) })

/-- The home slice grants a cluster's cache the ownership of a line: what the cache has accepted is performed for every agent (R309), and
its sectors' marks go with it (R367). -/
def State.ownLine (s : State) (cl line : Nat) : State :=
  match Tab.find (s.cluster cl).cc line with
  | none => s
  | some e =>
    if e.data.isEmpty then s
    else
      ((s.write (e.data.map (fun x => (64 * line + x.1, x.2)))).markSectors line (sectorBits (e.data.map Prod.fst)) e.bad).modCluster cl (fun q =>
        { q with cc := Tab.put q.cc line { e with owned := true, data := [] } })

/-- A line leaves a cluster's cache: its dirty sectors are written to the home slice. -/
def State.ccEvict (s : State) (cl line : Nat) : State :=
  (s.ownLine cl line).modCluster cl (fun q => { q with cc := Tab.erase q.cc line })

/-- Makes room for a line in its set of 16 ways (R307): lines of the lowest retention go first; which one is free. -/
def State.ccRoom (s : State) (cl line site : Nat) : State :=
  let set := (s.cluster cl).cc.filter (fun e => e.1 % 4096 == line % 4096)
  if decide (set.length < 16) || set.any (fun e => e.1 == line) then s
  else
    let low := set.filter (fun e => e.2.low)
    let l := if low.isEmpty then set else low
    match l[s.choose site l.length]? with
    | some e => s.ccEvict cl e.1
    | none => s

/-- A read of a line by a cluster recalls another cluster's ownership to shared (R308). -/
def State.ccShare (s : State) (cl line : Nat) : State :=
  { s with clusters := s.clusters.map (fun e =>
      if e.1 = cl then e
      else (e.1, { e.2 with cc := e.2.cc.map (fun l => if l.1 = line then (l.1, { l.2 with owned := false, dirty := 0 }) else l) })) }

/-- Fills sectors of a line in a cluster's cache (R307), with the lowest retention or not; a sector comes with its mark (R367). -/
def State.ccFill (s : State) (cl line : Nat) (sectors : BitVec 4) (low : Bool) : State :=
  ((s.ccRoom cl line 7301).ccShare cl line).modCc cl line (fun e =>
    { e with valid := e.valid ||| sectors, bad := e.bad ||| (s.homeMarks line &&& sectors &&& ~~~e.valid)
             low := if e.valid = 0 then low else e.low && low })

/-- Registered copies of lines in the L1s of a cluster are invalidated by a write that its cache accepts (R223, R308). -/
def State.dropReg (s : State) (cl : Nat) (lines : List Nat) : State :=
  { s with cores := s.cores.map (fun e =>
      if clusterOf e.1 = cl then (e.1, { e.2 with l1 := e.2.l1.filter (fun l => !(l.2.reg && lines.contains l.1)) }) else e) }

/-- A cluster's cache accepts cells of one line (R309): performed at .cluster; where it owns the line, performed for every agent. The
sectors that they touch come whole, with their marks (R222, R367). -/
def State.ccTake (s : State) (cl line : Nat) (cells : List (Nat × Byte)) (bad : BitVec 4) : State :=
  let s := s.ccRoom cl line 7302
  let m := sectorBits (cells.map Prod.fst)
  let e := Tab.get CcLine.init (s.cluster cl).cc line
  let e := { e with valid := e.valid ||| m, dirty := e.dirty ||| m, bad := (e.bad &&& ~~~m) ||| (bad &&& m) }
  if e.owned then ((s.write cells).markSectors line m bad).modCc cl line (fun _ => e)
  else s.modCc cl line (fun _ => { e with data := cells.foldl (fun t x => Tab.put t (x.1 % 64) x.2) e.data })
def State.ccAccept (s : State) (cl : Nat) (cells : List (Nat × Byte)) (bad : Nat → BitVec 4) : State :=
  let lines := linesOf cells
  lines.foldl (fun s line => s.ccTake cl line (cells.filter (fun x => x.1 / 64 == line)) (bad line)) (s.dropReg cl lines)

/-- Everything that a cluster's cache has accepted is performed for every agent: the ownership that a release at .die or .pkg waits for
(R309, R336). -/
def State.flushCluster (s : State) (cl : Nat) : State :=
  ((s.cluster cl).cc.map Prod.fst).foldl (fun s line => s.ownLine cl line) s

/-! ## The first-level cache (R222, R223) -/

/-- A line that holds nothing. -/
def L1Line.init : L1Line := { valid := 0, dirty := 0, tag := .cohort, reg := false, own := 0, bad := 0, data := List.replicate 64 0 }
/-- Sector k of a line. -/
def L1Line.sector (e : L1Line) (k : Nat) : List Byte := (e.data.drop (16 * k)).take 16
/-- The bytes of a line that its core has stored and not written back. -/
def L1Line.ownCells (line : Nat) (e : L1Line) : List (Nat × Byte) :=
  (List.range 64).filterMap (fun i => if e.own.getLsbD i then some (64 * line + i, e.data.getD i 0) else none)

/-- A byte as a core has it: its own store, if its L1 holds one that has not been written back, or what the cluster's cache gives. -/
def State.nearByte (s : State) (core pa : Nat) : Byte :=
  match Tab.find (s.core core).l1 (pa / 64) with
  | some e => if e.own.getLsbD (pa % 64) then e.data.getD (pa % 64) 0 else s.clByte (clusterOf core) pa
  | none => s.clByte (clusterOf core) pa
/-- n bytes as a core has them. -/
def State.nearBytes (s : State) (core pa n : Nat) : List Byte := (List.range n).map (fun i => s.nearByte core (pa + i))
def State.nearN (s : State) (core pa n : Nat) : Nat := leNat (s.nearBytes core pa n)

/-- Whether a sector is marked as a core's loads find it (R367): in its L1's copy, or beyond. -/
def State.nearMark (s : State) (core sec : Nat) : Bool :=
  match Tab.find (s.core core).l1 (sec / 4) with
  | some e => if e.valid.getLsbD (sec % 4) then e.bad.getLsbD (sec % 4) else s.clMark (clusterOf core) sec
  | none => s.clMark (clusterOf core) sec
/-- Whether a byte is poisoned as an access of a core meets it: on a cached page by the copy that its path reads; on another page at its
home, to which what the core and its cluster hold dirty goes first. -/
def State.markAt (s : State) (core : Nat) (p : Path) (cached : Bool) (pa : Nat) : Bool :=
  let sec := pa / 16
  if cached then
    match p.cache with
    | some k =>
      if (Tab.find ((s.core core).roTab k) (pa / 4)).isSome then (s.core core).roBad.contains (k, pa / 4) else s.nearMark core sec
    | none => s.nearMark core sec
  else
    s.poison.contains sec ||
      ((Tab.find (s.core core).l1 (sec / 4)).any (fun e => e.dirty.getLsbD (sec % 4) && e.bad.getLsbD (sec % 4))) ||
      ((Tab.find (s.cluster (clusterOf core)).cc (sec / 4)).any (fun e => e.dirty.getLsbD (sec % 4) && e.bad.getLsbD (sec % 4)))

/-- A clean line with the bytes that its cluster's cache gives; a sector that is marked there keeps what it holds (R367). -/
def State.refreshed (s : State) (cl line : Nat) (e : L1Line) : L1Line :=
  let m := s.clMarks cl line
  { e with
    data := (List.range 64).map (fun i => if m.getLsbD (i / 16) then e.data.getD i 0 else s.clByte cl (64 * line + i))
    bad := e.bad &&& m }

/-- A line with one sector filled, with its mark: tag core, no registration (R223, R367). -/
def L1Line.fill (e : L1Line) (k : Nat) (mark : Bool) (bs : List Byte) : L1Line :=
  { e with valid := e.valid ||| BitVec.ofNat 4 (2 ^ k), tag := .cohort, reg := false
           bad := (e.bad &&& ~~~BitVec.ofNat 4 (2 ^ k)) ||| (if mark then BitVec.ofNat 4 (2 ^ k) else 0)
           data := e.data.take (16 * k) ++ bs ++ e.data.drop (16 * k + 16) }

/-- A core's cells of some lines are written back to its cluster's cache; the lines are clean then, with the bytes that it gives. -/
def State.writeBack (s : State) (core : Nat) (lines : List Nat) : State :=
  let mine := (s.core core).l1.filter (fun e => lines.contains e.1 && e.2.own != 0)
  if mine.isEmpty then s
  else
    let s := s.ccAccept (clusterOf core) (mine.flatMap (fun e => e.2.ownCells e.1)) (fun line => (Tab.get L1Line.init mine line).bad)
    s.modCore core (fun c => { c with l1 := c.l1.map (fun e =>
      if lines.contains e.1 && e.2.own != 0 then (e.1, s.refreshed (clusterOf core) e.1 { e.2 with own := 0, dirty := 0 }) else e) })
/-- Lines leave a core's L1: what it has stored is written back first. -/
def State.dropLines (s : State) (core : Nat) (lines : List Nat) : State :=
  (s.writeBack core lines).modCore core (fun c => { c with l1 := c.l1.filter (fun e => !lines.contains e.1) })
/-- What a core and its cluster hold of some lines is performed for every agent. -/
def State.publish (s : State) (core : Nat) (lines : List Nat) : State :=
  lines.foldl (fun s line => s.ownLine (clusterOf core) line) (s.writeBack core lines)
/-- The core goes past its caches for some lines: what it holds of them is performed for every agent, and they leave its L1. -/
def State.past (s : State) (core : Nat) (lines : List Nat) : State := (s.publish core lines).dropLines core lines
/-- Everything that a core and its cluster hold is performed for every agent. -/
def State.flushCore (s : State) (core : Nat) : State :=
  (s.writeBack core ((s.core core).l1.map Prod.fst)).flushCluster (clusterOf core)

/-- Makes room in a core's L1 for a line (R215, R222): its size is that of its granules; which line goes is free. -/
def State.l1Room (s : State) (core line : Nat) : State :=
  let k := s.core core
  if decide (k.l1.length < 256 * k.l1g) || k.l1.any (fun e => e.1 == line) then s
  else match k.l1[s.choose 7303 k.l1.length]? with
    | some e => s.dropLines core [e.1]
    | none => s

/-- Fills a sector, by sector number, from the cluster's cache into a core's L1; bytes that the core has stored there stay. -/
def State.fillSector (s : State) (core sec : Nat) (low : Bool) : State :=
  let s := (s.l1Room core (sec / 4)).ccFill (clusterOf core) (sec / 4) (BitVec.ofNat 4 (2 ^ (sec % 4))) low
  s.modCore core (fun c =>
    { c with l1 := Tab.put c.l1 (sec / 4) ((Tab.get L1Line.init c.l1 (sec / 4)).fill (sec % 4)
      (s.clMark (clusterOf core) sec) (s.nearBytes core (16 * sec) 16)) })
/-- Fills a sector that the L1 does not hold. -/
def State.needSector (s : State) (core sec : Nat) (low : Bool) : State :=
  match Tab.find (s.core core).l1 (sec / 4) with
  | some e => if e.valid.getLsbD (sec % 4) then s else s.fillSector core sec low
  | none => s.fillSector core sec low

/-- A sector as a load through a core's L1 reads it: a held copy that differs from what the levels beyond would give may be returned or be
fetched anew, as when its line has been evicted meanwhile (R331, R342; log entry 4). It is not fetched anew from a poisoned copy. -/
def State.l1Sector (s : State) (core sec site : Nat) (low : Bool) : State × List Byte :=
  let now := s.nearBytes core (16 * sec) 16
  match Tab.find (s.core core).l1 (sec / 4) with
  | none => (s.fillSector core sec low, now)
  | some e =>
    if !e.valid.getLsbD (sec % 4) then (s.fillSector core sec low, now)
    else
      let old := e.sector (sec % 4)
      if old = now then (s, now)
      else if s.clMark (clusterOf core) sec || s.pick site then (s, old)
      else (s.fillSector core sec low, now)

/-- Bytes loaded through a core's L1, each sector once. -/
def State.l1Bytes (s : State) (core site : Nat) (low : Bool) (pas : List Nat) : State × List Byte :=
  let secs := (pas.map (fun a => a / 16)).eraseDups
  let r := secs.foldl (fun (t : State × Tab (List Byte)) sec =>
    let q := t.1.l1Sector core sec site low
    (q.1, t.2 ++ [(sec, q.2)])) (s, [])
  (r.1, pas.map (fun a => (Tab.get [] r.2 (a / 16)).getD (a % 16) 0))

/-- The sectors of a line of which cells name every byte, as bits. -/
def fullSectors (cells : List (Nat × Byte)) : BitVec 4 :=
  (List.range 4).foldl (fun m k =>
    if (List.range 16).all (fun i => cells.any (fun c => c.1 % 64 == 16 * k + i)) then m ||| BitVec.ofNat 4 (2 ^ k) else m) 0

/-- A store into a line of the L1: it is dirty and the core's own there, tagged core and unregistered (R222, R223); a sector of which it
writes every byte loses its mark (R367). -/
def L1Line.store (e : L1Line) (cells : List (Nat × Byte)) : L1Line :=
  { e with
    data := cells.foldl (fun d c => d.set (c.1 % 64) c.2) e.data
    own := cells.foldl (fun m c => m ||| BitVec.ofNat 64 (2 ^ (c.1 % 64))) e.own
    dirty := e.dirty ||| sectorBits (cells.map Prod.fst)
    valid := e.valid ||| sectorBits (cells.map Prod.fst)
    bad := e.bad &&& ~~~fullSectors cells
    tag := .cohort, reg := false }
/-- Stores cells into a core's L1 line by line; each line's sectors that they touch are filled first. -/
def State.l1Store (s : State) (core : Nat) (cells : List (Nat × Byte)) : State :=
  (linesOf cells).foldl (fun (s : State) line =>
    let mine := cells.filter (fun x => x.1 / 64 == line)
    let s := ((mine.map (fun x => x.1 / 16)).eraseDups).foldl (fun s q => s.needSector core q false) s
    s.modCore core (fun c => { c with l1 := Tab.put c.l1 line ((Tab.get L1Line.init c.l1 line).store mine) })) s

/-- Stores of a core; a whole line of ST.nt goes past its L1 (R176). -/
def State.l1Put (s : State) (core : Nat) (wide : Bool) (cells : List (Nat × Byte)) : State :=
  let full (line : Nat) : Bool := wide && (List.range 64).all (fun i => cells.any (fun x => x.1 == 64 * line + i))
  let whole := cells.filter (fun x => full (x.1 / 64))
  let rest := cells.filter (fun x => !full (x.1 / 64))
  let s := if rest.isEmpty then s else s.l1Store core rest
  if whole.isEmpty then s else (s.dropLines core (linesOf whole)).ccAccept (clusterOf core) whole (fun _ => 0)

/-! ## The read-only paths (R180, R181) -/

/-- A unit enters a read-only cache without a mark: what is poisoned is not read into it. -/
def Core.putRo (c : Core) (k : Bool) (u : Nat) (w : Word) : Core :=
  let c := { c with roBad := c.roBad.filter (fun e => e != (k, u)) }
  if k then { c with cst := Tab.put c.cst u w } else { c with ro := Tab.put c.ro u w }
/-- The units that a test names stay in the read-only caches. -/
def Core.keepRo (c : Core) (q : Nat → Bool) : Core :=
  { c with ro := c.ro.filter (fun e => q e.1), cst := c.cst.filter (fun e => q e.1), roBad := c.roBad.filter (fun e => q e.2) }

/-- One aligned 4-byte unit through a read-only cache of a core: a held value that differs from what an LD would give may be returned. -/
def State.roUnit (s : State) (core : Nat) (k : Bool) (u site : Nat) : State × Word :=
  let now := BitVec.ofNat 32 (s.nearN core (4 * u) 4)
  match Tab.find ((s.core core).roTab k) u with
  | none => (s.modCore core (fun c => c.putRo k u now), now)
  | some old =>
    if old = now then (s, now)
    else if s.nearMark core (u / 4) || s.pick site then (s, old)
    else (s.modCore core (fun c => c.putRo k u now), now)

/-- Bytes loaded through a read-only cache, each unit once. -/
def State.roBytes (s : State) (core : Nat) (k : Bool) (site : Nat) (pas : List Nat) : State × List Byte :=
  let us := (pas.map (fun a => a / 4)).eraseDups
  let r := us.foldl (fun (t : State × Tab Word) u =>
    let q := t.1.roUnit core k u site
    (q.1, t.2 ++ [(u, q.2)])) (s, [])
  (r.1, pas.map (fun a => BitVec.ofNat 8 ((Tab.get 0 r.2 (a / 4)).toNat / 256 ^ (a % 4))))

/-- Empties the read-only caches of a core. -/
def State.dropRo (s : State) (core : Nat) : State := s.modCore core (fun c => { c with ro := [], cst := [], roBad := [] })
/-- A frame that gets new contents leaves every cache of the module (R405, R412): no agent reads what stood there before. -/
def State.forget (s : State) (lo hi : Nat) : State :=
  let away (u n : Nat) : Bool := decide (lo < (u + 1) * n) && decide (u * n < hi)
  { s with
    cores := s.cores.map (fun e => (e.1, { e.2.keepRo (fun u => !away u 4) with l1 := e.2.l1.filter (fun l => !away l.1 64) }))
    clusters := s.clusters.map (fun e => (e.1, { e.2 with cc := e.2.cc.filter (fun l => !away l.1 64) })) }
/-- The cores that serve a cohort's team. -/
def Cohort.teamCores (c : Cohort) : List Nat :=
  if c.pair then [c.core - c.core % 2, c.core - c.core % 2 + 1] else [c.core]

/-! ## The write-combining buffer (R345) -/

/-- A buffered line becomes visible; what its core holds of the line, by a page of another type, is performed first and goes (R331). -/
def State.drainLine (core : Nat) (s : State) (w : WcLine) : State :=
  (s.past core [w.line]).write (w.bytes.map (fun e => (64 * w.line + e.1, e.2)))
/-- The buffered lines of a core that a test names become visible in order. -/
def State.drainThose (s : State) (core : Nat) (mine : WcLine → Bool) : State :=
  let t := (s.core core).wc
  if t.any mine then
    (t.filter mine).foldl (State.drainLine core) (s.modCore core (fun c => { c with wc := c.wc.filter (fun w => !mine w) }))
  else s
/-- The buffered stores of a core, of one cohort or of all, become visible in order. -/
def State.drainWc (s : State) (core : Nat) (co : Option Nat) : State :=
  s.drainThose core (fun w => match co with
    | some c => w.co == c
    | none => true)

/-- Puts cells into the combining buffer of a cohort's core. -/
def Core.bufferCell (co : Nat) (c : Core) (x : Nat × Byte) : Core :=
  if c.wc.any (fun w => w.co == co && w.line == x.1 / 64) then
    { c with wc := c.wc.map (fun w =>
        if w.co == co && w.line == x.1 / 64 then { w with bytes := Tab.put w.bytes (x.1 % 64) x.2 } else w) }
  else { c with wc := c.wc ++ [{ co := co, line := x.1 / 64, bytes := [(x.1 % 64, x.2)] }] }
def State.buffer (s : State) (core co : Nat) (cells : List (Nat × Byte)) : State :=
  s.modCore core (fun c => cells.foldl (Core.bufferCell co) c)

/-- A byte as a cohort loads it from a write-combining page: its own buffered store, or memory. -/
def State.wcByte (s : State) (core co pa : Nat) : Byte :=
  match (s.core core).wc.findSome? (fun w => if w.co == co && w.line == pa / 64 then Tab.find w.bytes (pa % 64) else none) with
  | some b => b
  | none => s.byte pa

/-! ## Releases, acquires and tickets -/

/-- A cohort's scope as the width of what a line's tag must cover (R223, R336): a pair team's .team lies beyond its core. -/
def scopeRank (pair : Bool) : Scope → Nat
  | .cohort => 0
  | .team => if pair then 1 else 0
  | .cluster => 1
  | .die => 2
  | .pkg => 3
def rankTag : Nat → Scope
  | 0 => .cohort
  | 1 => .cluster
  | 2 => .die
  | _ => .pkg

/-- The dirty lines of a core. -/
def Core.dirtyLines (c : Core) : List Nat := (c.l1.filter (fun e => e.2.own != 0)).map Prod.fst

/-- Lines that a release at a scope has written back: tagged with the scope, registered, and clean, with the bytes that stand at that
scope now (R223). -/
def State.tagLines (s : State) (core : Nat) (lines : List Nat) (r : Nat) : State :=
  s.modCore core (fun k => { k with l1 := k.l1.map (fun e =>
    if lines.contains e.1 then
      (e.1, { s.refreshed (clusterOf core) e.1 e.2 with tag := rankTag r, reg := true })
    else e) })

/-- A release of a cohort at a scope (R190, R223, R336): buffered stores become visible; at a scope beyond the core, the core's dirty lines
are written back to the cluster's cache, tagged and registered; at .die and .pkg the cluster's cache owns what it has accepted. -/
def State.release (s : State) (c : Cohort) (sc : Scope) : State :=
  let r := scopeRank c.pair sc
  let s := s.drainWc c.core (some c.id)
  if r = 0 then s
  else
    let lines := (s.core c.core).dirtyLines
    let s := s.writeBack c.core lines
    let s := if r = 1 then s else s.flushCluster (clusterOf c.core)
    s.tagLines c.core lines r

/-- The sectors of a line in which its core holds stores that have not been written back, and those which it has stored whole, as bits. -/
def L1Line.ownSectors (e : L1Line) : BitVec 4 := sectorBits ((e.ownCells 0).map Prod.fst)
def L1Line.ownWhole (e : L1Line) : BitVec 4 := fullSectors (e.ownCells 0)

/-- An acquire of a cohort at a scope (R190, R223, R337): clean lines tagged narrower are invalidated; dirty ones keep the sectors in which
the core has stored, with the other bytes of these as the cluster's cache gives them, poison included. -/
def State.acquire (s : State) (c : Cohort) (sc : Scope) : State :=
  let r := scopeRank c.pair sc
  s.modCore c.core (fun k => { k with
    l1 := k.l1.filterMap (fun e =>
      if scopeRank false e.2.tag < r then
        if e.2.own == 0 then none
        else some (e.1, { e.2 with data := s.nearBytes c.core (64 * e.1) 64, valid := e.2.ownSectors
                                   bad := e.2.bad ||| (s.clMarks (clusterOf c.core) e.1 &&& ~~~e.2.ownWhole) })
      else some e) })

/-- A ticket of the package sequencer (R338). -/
def State.ticket (s : State) : State := s.nextSeq.2

/-- Whether an ordering includes a release or an acquire (R332). -/
def MOrd.releases (o : MOrd) : Bool := o == .rel || o == .ar || o == .sc
def MOrd.acquires (o : MOrd) : Bool := o == .acq || o == .ar || o == .sc
/-- The release half and the acquire half of an ordering at a scope; .sc takes its ticket before it is performed. -/
def State.before (s : State) (c : Cohort) (o : MOrd) (sc : Scope) : State :=
  let s := if MOrd.releases o then s.release c sc else s
  if o = .sc then s.ticket else s
def State.after (s : State) (c : Cohort) (o : MOrd) (sc : Scope) : State :=
  if MOrd.acquires o then s.acquire c sc else s

/-! ## One access performed -/

/-- Whether a page's accesses go past every cache and are ordered among themselves, after the cohort's buffered stores. -/
def State.orderedFirst (s : State) (c : Cohort) (l : Option Leaf) : State :=
  match l with
  | some l =>
    if l.so then ((s.release c .pkg).ticket).acquire c .pkg
    else if l.pbmt == 2 then s.drainWc c.core (some c.id)
    else s
  | none => s

/-- The cohort's earlier operations on the same bytes by a page of another memory type, or through a window, come first (R178): buffered
stores to the lines of an access that is not write-combining become visible, and an access past the caches finds what the core holds of its
lines performed. -/
def State.aliasFirst (s : State) (c : Cohort) (l : Option Leaf) (pas : List Nat) : State :=
  let lines := (pas.map (fun a => a / 64)).eraseDups
  let s := if l.any Leaf.combining then s else s.drainThose c.core (fun w => w.co == c.id && lines.contains w.line)
  if l.elim true Leaf.normal then s else s.past c.core lines

/-- Reads the bytes of a resolved access that lie on one page. A page that names the control range reaches no register (R395): what
comes back is a free value (log entry 13). -/
def State.fetchPart (s : State) (c : Cohort) (p : Path) (part : Option Leaf × List Nat) (site : Nat) : State × List Byte :=
  let t := (s.orderedFirst c part.1).aliasFirst c part.1 part.2
  match part.1 with
  | none => (t, part.2.map t.byte)
  | some l =>
    if areaOf l.pa = .control then (s, part.2.map (fun a => Config.deviceByte s.tick a))
    else
      let s := t
      if l.cached then
        match p with
        | .plain => s.l1Bytes c.core site false part.2
        | .nt => s.l1Bytes c.core site true part.2
        | .ro => s.roBytes c.core false site part.2
        | .const => s.roBytes c.core true site part.2
      else if l.combining then (s, part.2.map (s.wcByte c.core c.id))
      else (s, part.2.map s.byte)
def State.fetchParts (c : Cohort) (p : Path) (site : Nat) : List (Option Leaf × List Nat) → State → State × List Byte
  | [], s => (s, [])
  | x :: xs, s =>
    let (s, bs) := s.fetchPart c p x site
    let (s, more) := State.fetchParts c p site xs s
    (s, bs ++ more)
/-- Reads the bytes of a resolved access for a cohort, page by page. -/
def State.fetchBytes (s : State) (c : Cohort) (p : Path) (r : Resolved) (site : Nat) : State × List Byte :=
  State.fetchParts c p site r.parts s

/-- Performs the stores of a cohort to one page type: through the L1, which fills each sector it writes; into the combining
buffer; or at the target, on-chip bytes included. wide: full lines are not allocated (R176). -/
def State.storeBytes (s : State) (c : Cohort) (leaf : Option Leaf) (wide : Bool) (cells : List (Nat × Byte)) : State :=
  let t := s.aliasFirst c leaf (cells.map Prod.fst)
  match leaf with
  | none => t.write cells
  | some l =>
    if areaOf l.pa = .control then s
    else
      let s := t
      if l.cached then s.l1Put c.core wide cells
      else if l.combining then s.buffer c.core c.id cells
      else s.write cells

/-! ## What comes about by itself -/

/-- A line may be written back, and a cluster may gain the ownership of a line, between any two steps (R222, R309). -/
def State.seep (s : State) : State :=
  let s :=
    match s.cores.flatMap (fun e => e.2.dirtyLines.map (fun l => (e.1, l))) with
    | [] => s
    | l => if s.pick 7310 then
        (match l[s.choose 7311 l.length]? with
        | some e => s.dropLines e.1 [e.2]
        | none => s)
      else s
  match s.clusters.flatMap (fun e => (e.2.cc.filter (fun l => !l.2.data.isEmpty)).map (fun l => (e.1, l.1))) with
  | [] => s
  | l => if s.pick 7312 then
      (match l[s.choose 7313 l.length]? with
      | some e => s.ownLine e.1 e.2
      | none => s)
    else s

end Sys2Proof.Machine
end

