-- ==== Sys2Proof/Machine/Interlock.lean ====
section
/-!
DEFINITION. Interlocks (R43, R134, R179, R194, R225): the registers that an instruction names, the operation that holds one of
them, and the step by which that operation completes.
-/

namespace Sys2Proof.Machine

/-- The registers that the substitution markers in some substitutable fields of a parameter block name (R53). -/
def markedRegs (hs : List Half) : List (Reg × Nat) := (hs.filter (fun h => h.isMarker)).map (fun h => (h.setWidth 6, 1))

/-- n registers in place of an optional index field: an index equal to the base names none (R170). -/
def idxRegs (b x : Reg) : List (Reg × Nat) := if b = x then [] else [(x, 1)]

/-- The registers of a load or store of a size (R177). -/
def sizeRegs (s : MSize) : Nat :=
  match s with
  | .b | .h | .w => 1
  | .d => 2
  | .q => 4

/-- Register codes that an instruction reads or writes, with how many registers from each, for a cohort of width W: masks are
pairs at W = 64 (R26). -/
def usesOf (W : Nat) : Instr → List (Reg × Nat)
  | .iadd _ d a b | .isub _ d a b | .imul _ d a b | .imulhI32 _ d a b | .imulhN32 _ d a b | .iminI32 _ d a b
  | .iminN32 _ d a b | .imaxI32 _ d a b | .imaxN32 _ d a b | .andR _ d a b | .orR _ d a b | .xorR _ d a b | .andnR _ d a b
  | .shl _ d a b | .shr _ d a b | .sar _ d a b | .rot _ d a b | .perm _ d a b | .shup _ d a b | .shdn _ d a b
  | .shxr _ d a b | .bcst _ d a b | .fadd _ d a b _ | .fsub _ d a b _ | .fmul _ d a b _ | .fmin _ d a b _
  | .fmax _ d a b _ | .fscale _ d a b _ _ | .hadd2 _ d a b _ | .hmul2 _ d a b _ => [(d, 1), (a, 1), (b, 1)]
  | .iabs _ d a | .ineg _ d a | .notR _ d a | .mov _ d a | .popc _ d a | .clz _ d a | .brev _ d a
  | .iaddImm _ d a _ | .andImm _ d a _ | .orImm _ d a _ | .xorImm _ d a _ | .shlImm _ d a _ | .shrImm _ d a _
  | .sarImm _ d a _ | .rotImm _ d a _ | .bfxN32 _ d a _ _ | .bfxI32 _ d a _ _ | .bfi _ d a _ _ | .shupImm _ d a _
  | .shdnImm _ d a _ | .shxrImm _ d a _ | .scan _ d a _ _ _ | .fclass _ d a _ | .frint _ d a _ _ | .fxp2 _ d a _
  | .flog2 _ d a _ | .frcp _ d a _ | .frsq _ d a _ | .fsqrt _ d a _ | .fsinpi _ d a _ | .fcospi _ d a _ | .ftanh _ d a _ =>
    [(d, 1), (a, 1)]
  | .imad d a b c | .ffma d a b c | .hfma2F16 d a b c | .hfma2B16 d a b c => [(d, 1), (a, 1), (b, 1), (c, 1)]
  | .iadd64 _ d a b | .isub64 _ d a b => [(d, 2), (a, 2), (b, 2)]
  | .lea _ d a b _ _ _ => [(d, 2), (a, 2), (b, 1)]
  | .movi _ d _ => [(d, 1)]
  | .sel d a b m => [(d, 1), (a, 1), (b, 1), (m, if W = 64 then 2 else 1)]
  | .cmp _ d a b t _ => [(d, if W = 64 then 2 else 1), (a, if t.wide then 2 else 1), (b, if t.wide then 2 else 1)]
  | .fcmp _ d a b _ _ => [(d, if W = 64 then 2 else 1), (a, 1), (b, 1)]
  | .mpop _ d a | .mfirst _ d a => [(d, 1), (a, if W = 64 then 2 else 1)]
  | .vred _ d a w _ _ => [(d, if w then 2 else 1), (a, if w then 2 else 1)]
  | .rds _ d idx => [(d, if idx = 13 || idx = 15 || idx = 16 || (idx = 0 && W = 64) then 2 else 1)]
  | .wrs _ a idx => [(a, if idx = 13 || idx = 15 || (idx = 0 && W = 64) then 2 else 1)]
  | .cvt _ d a _ t s | .cvtSat _ d a _ t s =>
    [(d, if t = .i64 || t = .n64 then 2 else 1), (a, if s = .i64 || s = .n64 then 2 else 1)]
  | .qnt d a _ _ => [(d, 2), (a, 1)]
  | .dqt _ d a _ => [(d, 1), (a, 2)]
  | .srnd a b => [(a, 2), (b, 1)]
  | .bra _ m k _ => if k = .always then [] else [(m, if W = 64 then 2 else 1)]
  | .brc _ m _ _ | .brd _ m _ _ => [(m, if W = 64 then 2 else 1)]
  | .brx _ a => [(a, 2)]
  | .call _ k _ => [(BitVec.ofNat 6 (4 * k.toNat - 4), 4), (BitVec.ofNat 6 (48 - 4 * k.toNat), 4 * k.toNat)]
  | .callx _ a k =>
    [(a, 2), (BitVec.ofNat 6 (4 * k.toNat - 4), 4), (BitVec.ofNat 6 (48 - 4 * k.toNat), 4 * k.toNat)]
  | .wdepth d => [(d, 1)]
  | .eret => [(0, if W = 64 then 2 else 1)]
  | .ld _ d b x s _ _ | .ldRo _ d b x s _ _ | .ldC _ d b x s _ _ | .ldNt _ d b x s _ _ | .ldU _ d b x s _ _
  | .lds _ d b x s _ _ => [(d, sizeRegs s), (b, 2)] ++ idxRegs b x
  | .st _ d b x s _ | .stNt _ d b x s _ | .sts _ d b x s _ => [(d, sizeRegs s), (b, 2)] ++ idxRegs b x
  | .ldf _ d b x _ | .stf _ d b x _ => [(d, 1), (b, 2)] ++ idxRegs b x
  | .pref _ b x _ _ => (b, 2) :: idxRegs b x
  | .aadd _ d b v q | .amin _ d b v q | .amax _ d b v q | .aand _ d b v q | .aor _ d b v q | .axor _ d b v q
  | .axch _ d b v q | .acas _ d b v q | .afadd _ d b v q =>
    [(d, if q.w64 then 2 else 1), (b, 2), (v, if q.w64 then 2 else 1)]
  | .waita d a b w _ => [(d, 1), (a, 2), (b, if w then 2 else 1)]
  | .wakea a => [(a, 2)]
  | .cinv _ a b | .cwb _ a b => [(a, 2), (b, 1)]
  | .tlbq _ d a => [(d, 2), (a, 2)]
  | .clkrd d => [(d, 2)]
  | .sysc _ d a => [(d, 2), (a, 2)]
  | .cpy _ d a b => [(d, 2), (a, 2), (b, 1)]
  | .cpy2d _ d a p => [(d, 2), (a, 2)] ++ markedRegs [p.h0, p.h1]
  | .cpyg _ d a b p => [(d, 2), (a, 2), (b, 1)] ++ markedRegs [p.h1]
  | .cpyo _ d a b => [(d, 1), (a, 2), (b, 1)]
  | .plnx _ d a b p => [(d, 1), (a, 1), (b, 1)] ++ markedRegs [p.h0, p.h1]
  | .sbq d a => [(d, 1), (a, 1)]
  | .resa d a => [(d, 1), (a, 1)]
  | .respin a | .respinUnpin a | .resrel a => [(a, 1)]
  | .resq d a => [(d, 4), (a, 1)]
  | .resl _ a b p => [(a, 1), (b, 2)] ++ markedRegs [p.h1, p.h2]
  | .mma _ d a b p => [(d, 1), (a, 1), (b, 1)] ++ markedRegs [p.h0, p.h2, p.h4, p.h5, p.h6, p.h7]
  | .mma1 _ d a b p => [(d, 1), (a, 1), (b, 1)] ++ markedRegs [p.h0, p.h2]
  | .accz _ a => [(a, 1)]
  | .accrd _ a b | .accwr _ a b => [(a, 1), (b, 1)]
  | .scld _ a p => (a, 2) :: markedRegs [p.h0, p.h2, p.h3]
  | .barinit t n _ _ => [(t, 1), (n, 1)]
  | .bararr d _ _ | .barq d _ _ => [(d, 1)]
  | .barwait k _ _ => [(k, 1)]
  | .route _ d a b p => [(d, 1), (a, 1), (b, 1)] ++ markedRegs [p.h0, p.h2, p.h3]
  | .routeq d => [(d, 1)]
  | .launch _ d a => [(d, 2), (a, 2)]
  | .evsig _ a b => [(a, 2), (b, 1)]
  | .evwait d a b => [(d, 1), (a, 2), (b, 2)]
  | .galloc d a => [(d, 2), (a, 1)]
  | .gfree d a => [(d, 1), (a, 2)]
  | .gqry d => [(d, 2)]
  | .nput _ d a b p | .nget _ d a b p | .ncoll _ d a b p => [(d, 2), (a, 2), (b, 1)] ++ markedRegs [p.h0, p.h1, p.h3]
  | .na2a _ d a b p => [(d, 2), (a, 2), (b, 1)] ++ markedRegs [p.h0, p.h1, p.h3, p.h5, p.h6]
  | .nred _ d a b p => [(d, 2), (a, 2), (b, 1)] ++ markedRegs [p.h0, p.h1, p.h3, p.h4]
  | .trigarm _ d a => [(d, 1), (a, 2)]
  | .ctrset _ a b | .ctradd _ a b => [(a, 1), (b, 1)]
  | .ctrrd d b => [(d, 1), (b, 1)]
  | .app _ d a b => [(d, 4), (a, 2), (b, 2)]
  | .appsync _ d a b | .fmpreq _ d a b => [(d, 4), (a, 2), (b, 1)]
  | .appseal _ d b => [(d, 4), (b, 1)]
  | _ => []

/-- Whether a register key belongs to one of the registers that an instruction names. -/
def Cohort.names (c : Cohort) (us : List (Reg × Nat)) (key : Nat) : Bool :=
  us.any (fun u => (List.range u.2).any (fun i => key / 64 == regSlot c.v.wdepth c.S (u.1 + BitVec.ofNat 6 i)))

/-- The operation that a call in progress has begun at its word (R198). -/
def Mark.op : Mark → Option Nat
  | .sysIssued op | .sysPosted _ _ op => some op
  | .barArrived .. => none

/-- The outstanding operation of the focused cohort that an instruction waits for (R43, R194); an operation
of its own chain group does not hold it, since it reads the registers from before the group (R42), nor does its own. -/
def State.interlock (s : State) (i : Instr) : Option Op :=
  let us := usesOf s.co.W i
  s.co.v.ops.find? (fun o => s.co.mark.bind Mark.op != some o.id && o.keys.any (fun k => s.co.names us k) &&
    (match s.co.pre with
     | some p => p.ops.any (fun q => q.id == o.id)
     | none => true))

/-- Whether an instruction moves the window, and so touches any register of the ring (R149, R159, R163). -/
def movesWindow : Instr → Bool
  | .brd .. | .join | .call .. | .callx .. | .ret | .eret | .trap _ => true
  | _ => false

/-- The register index of a register slot (R220): ring entries first, then g0-g11; t0-t3 have none. -/
def regIndex (S slot : Nat) : Option Nat :=
  if slot < 12 then some (S + slot) else if slot < 16 then none else some (slot - 16)

/-- The scoreboard entries on registers of the focused cohort (R232). -/
def State.regEntries (s : State) : List SbEntry := (s.core s.co.core).sb.filter (fun e => e.co == some s.co.id)

/-- The command whose scoreboard entry on registers of the focused cohort makes an instruction wait (R232). -/
def State.regHeld (s : State) (i : Instr) : Option Nat :=
  let c := s.co
  let mine := s.regEntries
  if mine.isEmpty then none
  else if movesWindow i then mine.head?.map SbEntry.cmd
  else
    let slots := (usesOf c.W i).flatMap (fun u =>
      (List.range u.2).filterMap (fun n => regIndex c.S (regSlot c.v.wdepth c.S (u.1 + BitVec.ofNat 6 n))))
    (mine.find? (fun e => slots.any (fun x => decide (e.lo ≤ x) && decide (x < e.hi)))).map SbEntry.cmd

/-- The accepted command of a core's engines that owns a global destination line until it retires (R341, R342), with its core. -/
def State.engOwner (s : State) (line : Nat) : Option (Nat × Nat) :=
  s.cores.findSome? (fun e => (e.2.cmds.find? (fun k => k.writes.any (fun w => w.1 / 64 == line))).map (fun k => (e.1, k.id)))
/-- The fabric command that owns a global destination line until it completes (R449). -/
def State.fabOwner (s : State) (line : Nat) : Option FabCmd := s.fcmds.find? (fun f => f.lpas.any (fun a => a / 64 == line))
/-- The accepted command that owns a global destination line. -/
def State.ownerOf (s : State) (line : Nat) : Option Nat :=
  match s.engOwner line with
  | some p => some p.2
  | none => (s.fabOwner line).map FabCmd.id

/-- The key bound to a context (R441, R443), and its secret. -/
def State.bound (s : State) (ctx : Nat) : Option Nat := Tab.find s.tkc.binds ctx
def State.secretOf (s : State) (ctx : Nat) : Option Nat :=
  (s.bound ctx).bind (fun h => (s.tkc.keys.find? (fun k => k.handle == h)).map TKey.secret)
/-- A packet under a key is authentic for a context (R441): that key is bound to it now. -/
def State.unlocks (s : State) (ctx key : Nat) : Bool := s.secretOf ctx == some key
/-- A message of this module's to itself gets through: under the key that it was sent with, or the one that a retransmission has. -/
def State.getsThrough (s : State) (f : FabCmd) (m : OutMsg) : Bool :=
  s.unlocks m.msg.ctx m.msg.key || (s.secretOf f.ctx).any (s.unlocks m.msg.ctx)

/-- The step by which a fabric command comes nearer to its completion: a message to this module is delivered by this module; what
another module does comes from outside. A message that fails authentication is never delivered, and its command ends with
PEER_LOST (R441); a command that read poison retires without sending (R227). -/
def State.fabNext (s : State) (f : FabCmd) : Option Instr :=
  if f.poison.isSome then some (.fabricCommandComplete f.id 0 false []) else
  match f.msgs.find? (fun m => !m.done && m.module == s.fabMod && s.getsThrough f m) with
  | some m => if m.held then none else some (.fabricPacketReceive m.msg)
  | none =>
    if f.msgs.any (fun m => m.module != s.fabMod) then none
    else some (.fabricCommandComplete f.id (if f.msgs.any (fun m => !m.done) then 3 else 0) false [])

/-- The step by which the owner of one of some lines comes nearer to its end. -/
def State.ownerNext (s : State) (lines : List Nat) : Option (Option Instr) :=
  lines.findSome? (fun l => match s.engOwner l with
    | some p => some (some (.copyRetire p.1 p.2))
    | none => (s.fabOwner l).map s.fabNext)

/-- The lines that an array command may load. -/
def MtxCmd.lines (m : MtxCmd) : List Nat :=
  (m.srcs.flatMap (fun x => (x.cols.flatten ++ x.recs.flatMap Prod.snd).flatMap (fun r =>
    (List.range ((r.1 % 64 + r.2.1 + 63) / 64)).map (fun i => r.1 / 64 + i)))).eraseDups

/-- The command that a core's array executes. -/
def Core.running (c : Core) : Option MtxCmd := (c.mq.head?).filter MtxCmd.started
/-- Whether a pair command stands at the head of the leader's queue: the follower's array then starts no command of its own (R240). -/
def State.pairAhead (s : State) (core : Nat) : Bool := core % 2 == 1 && ((s.core (core - 1)).mq.head?).any MtxCmd.pair
/-- The step by which the array queue of a core comes on (R240): its head retires when it has started, and else starts, once the
array that it needs beside its own has ended its command. -/
def State.mqNext (s : State) (core : Nat) : Option Instr :=
  match (s.core core).mq with
  | [] => none
  | m :: _ =>
    let other := if core % 2 = 0 then core + 1 else core - 1
    let lead := (s.core (core - 1)).mq.head?
    if m.started then some (.matrixCommandRetire core)
    else if s.pairAhead core then
      match lead with
      | none => none
      | some o => if o.started then some (.matrixCommandRetire (core - 1)) else match s.ownerNext o.lines with
        | some i => i
        | none => some (if (s.core core).running.isSome then .matrixCommandRetire core else .matrixCommandStart (core - 1))
    else
      match s.ownerNext m.lines with
      | some i => i
      | none =>
        match (s.core other).running with
        | some o => some (if m.pair || o.pair then .matrixCommandRetire other else .matrixCommandStart core)
        | none => some (.matrixCommandStart core)

/-- The step by which an accepted engine command of a core comes nearer to its retirement. -/
def State.engNext (s : State) (core cmd : Nat) : Option Instr :=
  let c := s.core core
  match c.cmds.find? (fun e => e.id == cmd) with
  | some e => match e.kind with
    | .copy => some (.copyRetire core cmd)
    | .acc => some (.accRetire core cmd)
    | .scld => some (.scldRetire core cmd)
    | .route => some (.routeRetire (clusterOf core))
  | none =>
    if c.mq.any (fun m => m.id == cmd) then s.mqNext core
    else if (s.cluster (clusterOf core)).route.any (fun r => r.2.id == cmd) then some (.routeRetire (clusterOf core))
    else none

/-- Requests that the Flash Management Processor takes in the order of their acceptance, log by log (R407): appends and seals. -/
def FmpReq.inOrder (r : FmpReq) : Bool := r.op == 0 || r.op == 2 || r.op == 48 || r.op == 50
/-- The request that stands before a request of the Flash Management Processor, or the request itself. -/
def State.fmpFirst (s : State) (r : FmpReq) : FmpReq :=
  if r.inOrder then (s.freqs.find? (fun q => q.inOrder && q.log == r.log)).getD r else r
/-- The step by which the Flash Management Processor performs a request (R415 to R418). -/
def fmpStep (r : FmpReq) : Option Instr :=
  match r.op with
  | 0 => some (.appComplete r.id)
  | 1 | 2 => some (.durabilityAdvance r.log 1)
  | 17 => some (.logquery r.id)
  | 18 => some (.logtrim r.id)
  | 19 => some (.fmpResult r.id)
  | 32 => some (.logcreate r.id)
  | 33 => some (.logmap r.id)
  | 34 => some (.logunmap r.id)
  | 35 => some (.logdelete r.id)
  | 48 => some (.appendS r.id)
  | 49 => some (.syncS r.id)
  | 50 => some (.sealS r.id)
  | _ => none
/-- The step that comes next for a request. -/
def State.fmpNext (s : State) (r : FmpReq) : Option Instr := fmpStep (s.fmpFirst r)

/-- The step by which a command comes nearer to its retirement, wherever it stands. -/
def State.cmdNext (s : State) (cmd : Nat) : Option Instr :=
  match s.cores.findSome? (fun e => s.engNext e.1 cmd) with
  | some i => some i
  | none =>
    match s.fcmds.find? (fun f => f.id == cmd) with
    | some f => s.fabNext f
    | none =>
      match s.freqs.find? (fun r => r.id == cmd) with
      | some r => s.fmpNext r
      | none => none

/-- The command behind an engine operation of a cohort. -/
def State.cmdOf (s : State) (c : Cohort) (o : Op) : Option Nat :=
  let lead := c.core - c.core % 2
  match (s.core c.core).cmds.find? (fun e => e.op == o.id) with
  | some e => some e.id
  | none =>
    match ((s.core c.core).mq ++ (s.core lead).mq).find? (fun m => m.op == o.id) with
    | some m => some m.id
    | none =>
      match (s.cluster (clusterOf c.core)).route.find? (fun r => r.2.op == o.id) with
      | some r => some r.2.id
      | none =>
        match s.fcmds.find? (fun f => f.opId == o.id) with
        | some f => some f.id
        | none =>
          (s.freqs.find? (fun r => match r.src with
            | .cohort _ _ op _ _ => op == o.id
            | .mbox => false)).map FmpReq.id

/-- The step by which an outstanding operation of a cohort completes, where a step of this module completes it. -/
def State.opNext (s : State) (c : Cohort) (o : Op) : Option Instr :=
  match o.kind with
  | .load => some (.loadComplete c.id o.id)
  | .sfu => some (.sfuResult c.id o.id)
  | .store => some (.storeComplete c.id o.id)
  | .atomic => some (.atomicComplete c.id o.id)
  | .pref => some (.prefComplete c.id o.id)
  | .maint => some (.cacheMaintComplete c.id o.id)
  | .engine => (s.cmdOf c o).bind s.cmdNext
  | .sysc => none

/-- Steps by which something else than the focused cohort comes on: clauses of other cores, and operations in flight. -/
def State.elsewhere (s : State) : List Instr :=
  (s.allCohorts.filter (fun c => c.core != s.co.core)).map (fun c => .selectClause c.core) ++
  s.allCohorts.flatMap (fun c => c.v.ops.filterMap (s.opNext c))

/-- Stays at the present word until a step has come about: that step comes next (R43, R225, R240, R284). Where no step of the
machine is known to end the wait, something else comes on meanwhile. -/
def State.waitFor (s : State) (i : Option Instr) : State :=
  match i with
  | some i => s.soon i
  | none =>
    let l := s.elsewhere
    match l[s.choose 7000 l.length]? with
    | some i => s.soon i
    | none => s

/-- Stays at the present word until a command has retired. -/
def State.waitCmd (s : State) (cmd : Nat) : State := s.waitFor (s.cmdNext cmd)

end Sys2Proof.Machine
end

