-- ==== Sys2Proof/Machine/Records.lean ====
section
/-!
DEFINITION. Records of faults and events (R356 to R359): their bytes, the fault log with its pads and drops, MSIs, and the
fault buffers (R351, R352).
-/

namespace Sys2Proof.Machine

/-- A record with nothing but a context's name (R356, R365). -/
def FaultRec.blank (ctx tenant cause sub : Nat) : FaultRec :=
  { seq := 0, pc := 0, addr := 0, paddr := 0, ctx := ctx, tenant := tenant, cause := cause, sub := sub, die := 0xFF,
    cluster := 0xFF, core := 0xFF, cohort := 0xFF, team := 0, lid := 0, skid := 0, flags := 0, waiters := 0 }

/-- The access flags of a record (R356). -/
def FaultInfo.flags (f : FaultInfo) (handler pair : Bool) : Nat :=
  (if f.rd then 1 else 0) + (if f.wr then 2 else 0) + (if f.ft then 4 else 0) + (if f.eng then 8 else 0) +
  (if handler then 16 else 0) + (if pair then 32 else 0)

/-- The record of a cohort's fault at a word (R356). -/
def FaultRec.of (c : Cohort) (pc : Nat) (f : FaultInfo) : FaultRec :=
  { seq := 0, pc := pc, addr := f.addr, paddr := f.paddr, ctx := c.ctx, tenant := c.tenant, cause := f.cause, sub := f.sub,
    die := dieOf c.core, cluster := clusterOf c.core % 32, core := c.core % 16, cohort := c.cohid, team := c.teamid,
    lid := c.launchid.toNat, skid := if c.skid then 1 else 0, flags := f.flags c.handler.isSome c.pair, waiters := 0 }

/-- The 64 bytes of a record (R356). -/
def FaultRec.toBytes (r : FaultRec) : List Byte :=
  natLe 8 r.seq ++ natLe 8 r.pc ++ natLe 8 r.addr ++ natLe 8 r.paddr ++
  [BitVec.ofNat 8 r.ctx, BitVec.ofNat 8 r.tenant, BitVec.ofNat 8 r.cause, BitVec.ofNat 8 r.sub, BitVec.ofNat 8 r.die,
   BitVec.ofNat 8 r.cluster, BitVec.ofNat 8 r.core, BitVec.ofNat 8 r.cohort] ++
  natLe 4 r.team ++ natLe 4 r.lid ++ [BitVec.ofNat 8 r.skid, BitVec.ofNat 8 r.flags] ++ natLe 2 r.waiters ++ natLe 12 0

/-- The special-function results of the cohort land (R135). -/
def Cohort.landSfu (c : Cohort) : Cohort :=
  (c.v.ops.filter (fun o => o.kind == .sfu)).foldl (fun c o => c.complete o.id o.writes) c

/-- The halt request comes to a cohort (R298): a suspended one stands where it is; another stops at its next clause boundary, and its
skid counts from here. A WAITA or EVWAIT of a team that a fault or BKPT halts goes on: it is woken, and its timeout runs (log entry 97). -/
def Cohort.askedToStop (c : Cohort) : Cohort :=
  if c.ended || c.halted then c
  else if c.wait.isSome then { c.landSfu with halted := true, asked := false, skid := false }
  else { c with asked := true, skid := c.skid && c.asked }

/-- Asks every cohort of a team to stop (R298, R362). -/
def State.askTeam (s : State) (key : Nat) : State :=
  let ask (c : Cohort) : Cohort := if c.team == key then c.askedToStop else c
  { s with co := ask s.co, cohorts := s.cohorts.map (fun e => (e.1, ask e.2)) }

/-- Termination of a context begins (R364): the first cause stays, sources stop, every team is asked to halt. -/
def State.beginEnd (s : State) (ctx cause : Nat) : State :=
  let x := s.ctx ctx
  if x.state = .free || x.state = .terminated then s
  else
    let s := s.modCtx ctx (fun x => { x with
      state := .terminated, ending := true, short := false
      cause := if x.causeSet then x.cause else cause, causeSet := true })
    (s.teamsOf ctx).foldl (fun s t =>
      match t.status with
      | .halting (.fault _ _ _) => s
      | .halting _ | .running | .parked | .descheduled _ | .held | .stopped =>
        (s.setTeam { t with status := .halting .terminate }).askTeam t.key) s

/-- A hart's interrupt file or RAM: where an MSI may be written (R359, R395). -/
def msiTarget (a : Nat) : Bool :=
  a % 4 == 0 && (areaRam a || (decide (0x3F0C00000000 ≤ a) && decide (a < 0x3F0C00000000 + 96 * 0x1000)))

/-- An MSI: a 4-byte write of data to a physical address; any other address takes no write (R359). -/
def State.sendMsi (s : State) (addr data : Nat) : State :=
  if addr = 0 || !msiTarget addr then s
  else if areaRam addr then s.writeN addr 4 data
  else
    let h := (addr - 0x3F0C00000000) / 0x1000
    s.setHart h { s.hart h with pend := true }

/-- Translates a 64-byte slot of a log or call ring through a context's table: it must lie on normal memory with R = W = 1 and
U = 0 (R358, R198). The walk sets A and D (R348). -/
def State.slotAt (s : State) (ctx va : Nat) : Option (State × Nat) :=
  match walkRoot s (s.ctx ctx).root va with
  | .error _ => none
  | .ok w =>
    if w.leaf.r && w.leaf.w && !w.leaf.u && w.leaf.normal && areaRam w.leaf.pa then
      some (setAD s w .write, w.leaf.pa + va % 4096)
    else none

/-- Writes 64-byte chunks into consecutive slots of a context's log, or none of them when a slot does not translate. -/
def State.logSlots (s : State) (ctx : Nat) : (head : Nat) → List (List Byte) → Option State
  | _, [] => some s
  | head, ch :: rest =>
    let x := s.ctx ctx
    match s.slotAt ctx ((x.logBase + 64 * (head % 2 ^ x.logSize)) % 2 ^ 64) with
    | none => none
    | some (s, pa) => (s.write (cellsFrom pa ch)).logSlots ctx (head + 1) rest

/-- Cuts bytes into chunks of 64. -/
def chunks64 : Nat → List Byte → List (List Byte)
  | 0, _ => []
  | n + 1, l => l.take 64 :: chunks64 n (l.drop 64)

/-- The pad record of a context (R358): 0xFF in the die, cluster, core and cohort fields, and 0 elsewhere but for the context
and tenant. -/
def padRec (ctx tenant : Nat) : List Byte := (FaultRec.blank ctx tenant 0 0).toBytes

/-- The poisoned sector that the walk for the first slot of a context's ring that does not translate meets, if that is why. -/
def State.slotPoison (s : State) (ctx : Nat) (vas : List Nat) : Option Nat :=
  ((vas.find? (fun va => (s.slotAt ctx va).isNone)).bind (fun va => match walkRoot s (s.ctx ctx).root va with
    | .error f => if f.cause = causePoison then some f.pa else none
    | .ok _ => none))

/-- Writes a record, with its diagnostic record if it has one, to a context's log (R358), and says whether the log has taken it. The record
takes the next sequence number; a diagnostic record takes the same number and the address of its first slot goes into the record (R297). A
walk that consumes poison ends the context (R368); the record of that, which goes the same way, is dropped too. -/
def State.logPut (s : State) (r : FaultRec) (diag : List Byte) : State × Bool :=
  let (q, s) := s.nextSeq
  let x := s.ctx r.ctx
  let two := !diag.isEmpty
  let lost (s : State) (bad : Bool) : State × Bool :=
    (s.modCtx r.ctx (fun x => { x with drops := (x.drops + (if two then 2 else 1)) % 2 ^ 32, logfault := x.logfault || bad }), false)
  if x.logSize = 0 || x.logBase = 0 then lost s false
  else
    let size := 2 ^ x.logSize
    let place := x.logHead % size
    let pads := if two && decide (size - place < 6) then size - place else 0
    let need := pads + (if two then 6 else 1)
    let usedSlots := (x.logHead + 2 ^ 32 - x.logTail) % 2 ^ 32
    if size < usedSlots + need then lost s false
    else
      let diagAt := (x.logBase + 64 * ((x.logHead + pads + 1) % size)) % 2 ^ 64
      let r := { r with seq := q, addr := if two then diagAt else r.addr }
      let body := List.replicate pads (padRec r.ctx r.tenant) ++ [r.toBytes] ++
        (if two then chunks64 5 (natLe 8 q ++ diag.drop 8) else [])
      match s.logSlots r.ctx x.logHead body with
      | none =>
        let t := (lost s true).1
        if (s.slotPoison r.ctx ((List.range need).map (fun i =>
            (x.logBase + 64 * ((x.logHead + i) % size)) % 2 ^ 64))).isSome && x.state != .free && x.state != .terminated then
          ((t.modCtx r.ctx (fun x => { x with drops := (x.drops + 1) % 2 ^ 32 })).beginEnd r.ctx causePoison, false)
        else (t, false)
      | some s => (s.modCtx r.ctx (fun x => { x with logHead := (x.logHead + need) % 2 ^ 32 }), true)

/-- The poisoned sector that a context's MSI would merge into. -/
def State.msiPoison (s : State) (c : Nat) : Option Nat :=
  let a := (s.ctx c).msiAddr
  if a ≠ 0 ∧ msiTarget a = true ∧ areaRam a = true then s.poisonIn a 4 else none
/-- The context's MSI (R359). One that would merge into a poisoned sector is not written: it ends the context (R368), and the record of that
sends no MSI of its own. -/
def State.ctxMsi (s : State) (c : Nat) : State :=
  let x := s.ctx c
  match s.msiPoison c with
  | none => s.sendMsi x.msiAddr x.msiData
  | some p =>
    if x.state = .free || x.state = .terminated then s
    else
      let r := { FaultRec.blank c x.tenant causePoison 2 with addr := x.msiAddr, paddr := p, flags := 2 }
      (s.logPut r []).1.beginEnd c causePoison
/-- Writes a record to a context's log, with its MSI (R358). -/
def State.log (s : State) (r : FaultRec) (diag : List Byte) : State :=
  let (s, ok) := s.logPut r diag
  if ok then s.ctxMsi r.ctx else s

/-- Logs an event without addresses (R357, R365). -/
def State.logEvent (s : State) (ctx code sub : Nat) : State :=
  s.log (FaultRec.blank ctx (s.ctx ctx).tenant code sub) []

/-- The lowest-numbered free entry takes a record. -/
def takeFree (r : FaultRec) : List (Option FaultRec) → Option (List (Option FaultRec))
  | [] => none
  | none :: es => some (some r :: es)
  | some e :: es => (takeFree r es).map (fun es => some e :: es)

/-- Reports a fault to a context's fault buffer on a die (R351, R352). -/
def State.report (s : State) (die : Nat) (r : FaultRec) : State :=
  let b := Tab.get FaultBuf.init (s.die die).fbufs r.ctx
  let same (e : Option FaultRec) : Bool := match e with
    | some e => e.addr / 4096 == r.addr / 4096
    | none => false
  let put (s : State) (b : FaultBuf) : State := s.modDie die (fun d => { d with fbufs := Tab.put d.fbufs r.ctx b })
  if b.ents.any same then
    put s { b with ents := b.ents.map (fun e => match e with
      | some x =>
        if x.addr / 4096 == r.addr / 4096 then
          some { x with waiters := (x.waiters + 1) % 2 ^ 16, flags := x.flags ||| (r.flags % 8) }
        else some x
      | none => none) }
  else
    let (q, s') := s.nextSeq
    match takeFree { r with seq := q, waiters := 1 } b.ents with
    | some es => (put s' { b with ents := es }).ctxMsi r.ctx
    | none =>
      let b' := { b with drop := true, drops := min 65535 (b.drops + 1) }
      if b.drop then put s b' else (put s b').ctxMsi r.ctx

/-! ## The RAS ring (R437) -/

/-- Writes one RAS record; a record that would pass ras_tail, or that has no ring in HBM or LPDDR6, is dropped. -/
def State.rasPut (s : State) (kind place detail : Nat) : State :=
  let (q, s) := s.nextSeq
  let p := s.pwr
  let n := 2 ^ (p.rasSize + 6)
  let at_ := p.rasBase + 32 * (p.rasHead % n)
  if p.rasBase = 0 || !areaRam at_ || decide (n ≤ (p.rasHead + 2 ^ 32 - p.rasTail) % 2 ^ 32) then s
  else
    let s := s.write (cellsFrom at_ (natLe 8 q ++ natLe 8 kind ++ natLe 8 place ++ natLe 8 detail))
    { s with pwr := { s.pwr with rasHead := (s.pwr.rasHead + 1) % 2 ^ 32 } }

/-- The trip record of boot flash is copied as the first record after a boot (R436). -/
def State.rasTrip (s : State) : State :=
  match s.boot.tripRec with
  | some t =>
    if s.pwr.rasBase = 0 then s
    else ({ s with boot := { s.boot with tripRec := none } } : State).rasPut 4 (s.choose 9200 (2 ^ 64)) t
  | none => s

/-- A RAS event: place is the physical address, or the stack and channel; the spec states no detail but for kind 4. -/
def State.ras (s : State) (kind place : Nat) : State := s.rasTrip.rasPut kind place (s.choose 9201 (2 ^ 64))

/-- The causes that go to the fault buffer (R351). -/
def toBuffer (f : FaultInfo) : Bool :=
  f.cause == causeNotPresent || f.cause == causeWindowSpill ||
  (f.cause == causeProtection && (f.sub == 1 || f.sub == 2 || f.sub == 6 || f.sub == 7))

end Sys2Proof.Machine
end

