-- ==== Sys2Proof/Machine/Hamper.lean ====
section
/-!
DEFINITION. The window ring and the Hamper (R149, R152 to R157): spills and refills of 4-position groups through the context's
translation, and the moves of the window registers when a join record is pushed or popped.
-/

namespace Sys2Proof.Machine

/-- The key of ring position p in a lane (R152). -/
def posKey (S p lane : Nat) : Nat := (16 + p % S) * 64 + lane

/-- The value at a ring position. -/
def Cohort.posGet (c : Cohort) (p lane : Nat) : Word := Tab.get 0 c.v.regs (posKey c.S p lane)
def Cohort.posSet (c : Cohort) (p lane : Nat) (w : Word) : Cohort := { c with v := c.v.setKey (posKey c.S p lane) w }

/-- The resident count (R152). -/
def Cohort.resident (c : Cohort) : Nat := c.v.wdepth + 48 - c.P
/-- Lim() (R157). -/
def Cohort.lim (c : Cohort) : Nat := if c.handler.isSome then c.wlimit + 96 else c.wlimit

/-- The virtual address of position p's first lane in the spill stack (R154). -/
def Cohort.spillAt (c : Cohort) (p : Nat) : Nat := c.spill + 4 * (p * c.W)

/-- The bytes of a 4-position group, positions p to p + 3, lane by lane. -/
def Cohort.groupBytes (c : Cohort) (p : Nat) : List Byte :=
  (List.range 4).flatMap (fun i => (List.range c.W).flatMap (fun l => natLe 4 (c.posGet (p + i) l).toNat))

/-- Whether an operation is to write the ring entries of n positions from p. -/
def Cohort.aims (c : Cohort) (p n : Nat) (o : Op) : Bool :=
  o.keys.any (fun k => !decide (k < 1024) && (List.range n).any (fun i => k / 64 == 16 + (p + i) % c.S))
/-- Loads, atomics, translation queries and special-function results on their way to the ring entries of n positions from p land (R155,
R194). -/
def Cohort.landAt (c : Cohort) (p n : Nat) : Cohort :=
  (c.v.ops.filter (fun o => c.aims p n o && (o.kind == .load || o.kind == .atomic || o.kind == .sfu || o.kind == .maint))).foldl
    (fun c o => c.complete o.id o.writes) c
/-- An engine's or a host's result on its way there, which cannot land before it is known. -/
def Cohort.awaits (c : Cohort) (p n : Nat) : Option Op :=
  c.v.ops.find? (fun o => c.aims p n o && (o.kind == .engine || o.kind == .sysc))

/-- The Hamper cannot move yet: no fault, cause 0; the cohort stays at its word until a step has come about. -/
def State.hold (s : State) (e : Option Instr) : State × Option FaultInfo := (s.waitFor e, some (flt 0 1))
/-- What the Hamper waits for before it moves the group at position p: a scoreboard entry for its own range (R224), and results that go to
the group's ring entries (R155). -/
def State.hamperHeld (s : State) (p : Nat) : Option (Option Instr) :=
  let sb := (s.core s.co.core).sb
  if 16 ≤ sb.length then some (sb.head?.bind (fun e => s.cmdNext e.cmd))
  else (s.co.awaits p 4).map (fun o => s.opNext s.co o)

/-- How a translation failure of the Hamper is raised (R156): WINDOW_SPILL with the subcauses of that rule, or LONG_LATENCY or
POISON as the walk found. -/
def hamperFault (f : FaultInfo) (spill : Bool) : FaultInfo :=
  if f.cause = causeNotPresent then { f with cause := causeWindowSpill, sub := if spill then 1 else 3 }
  else if f.cause = causeProtection then { f with cause := causeWindowSpill, sub := if spill then 2 else 4 }
  else f

/-- A walk of a spill or refill that finds a migrating flash leaf is LONG_LATENCY whatever its permissions (R156). -/
def State.migrating (s : State) (c : Cohort) (va : Nat) (k : AccessKind) : Option FaultInfo :=
  if (s.tlbHeld c.core c.ctx (va / 4096)).isSome then none
  else match walkRoot s (s.ctx c.ctx).root va with
    | .ok w => if w.leaf.mig then some (failAt ⟨causeLongLatency, 1, w.leaf.pa / 65536⟩ va k) else none
    | .error _ => none

/-- Spills group P of the focused cohort (R153, R154). The write goes past the core's caches, which hold nothing of the group afterwards
(R155, R343). -/
def State.spillGroup (s : State) : State × Option FaultInfo :=
  match s.hamperHeld s.co.P with
  | some e => s.hold e
  | none =>
    let c := s.co.landAt s.co.P 4
    let va := c.spillAt c.P
    match s.migrating c va .write with
    | some f => (s, some f)
    | none =>
      match s.lookup c va .write (1000 + c.P) with
      | (s, .error f) => (s, some (hamperFault f true))
      | (s, .ok l) =>
        let cells := cellsFrom (l.pa + va % 4096) (c.groupBytes c.P)
        match s.pageBad c.ctx va (cells.map Prod.fst) .write with
        | some f => (s, some f)
        | none => ({ (s.past c.core (linesOf cells)).write cells with co := { c with P := c.P + 4 } }, none)

/-- Spills n groups, ascending; stops at the first that fails. Groups already moved stay moved (R156). -/
def State.spills : Nat → State → State × Option FaultInfo
  | 0, s => (s, none)
  | n + 1, s => match s.spillGroup with
    | (s, none) => s.spills n
    | (s, some f) => (s, some f)

/-- Spills what an operation that raises wdepth to d needs: until the resident count after it is at most S (R153). -/
def State.spillFor (s : State) (d : Nat) : State × Option FaultInfo :=
  s.spills ((d + 48 - s.co.S - s.co.P + 3) / 4)

/-- Writes the words of a refilled group into the ring (R153). -/
def Cohort.fillGroup (c : Cohort) (p : Nat) (bs : List Byte) : Cohort :=
  (List.range (4 * c.W)).foldl (fun c i =>
    c.posSet (p + i / c.W) (i % c.W) (BitVec.ofNat 32 (leNat ((bs.drop (4 * i)).take 4)))) c

/-- Refills the newest spilled group, positions P - 4 to P - 1 (R153). What is still on its way to its ring entries, from frames that are gone,
lands before. -/
def State.refillGroup (s : State) : State × Option FaultInfo :=
  let p := s.co.P - 4
  match s.hamperHeld p with
  | some e => s.hold e
  | none =>
    let c := s.co.landAt p 4
    let va := c.spillAt p
    match s.migrating c va .read with
    | some f => (s, some f)
    | none =>
      match s.lookup c va .read (2000 + p) with
      | (s, .error f) => (s, some (hamperFault f false))
      | (s, .ok l) =>
        let pa := l.pa + va % 4096
        let pas := (List.range (16 * c.W)).map (fun i => pa + i)
        match s.pageBad c.ctx va pas .read, s.stallOf c.core none pas, s.poisonIn pa (16 * c.W) with
        | some f, _, _ => (s, some f)
        | none, some (i, sub), _ => (s, some (failAt ⟨causeLongLatency, sub, (pa + i) / 65536⟩ (va + i) .read))
        | none, none, some q => (s, some { fltAt causePoison 4 (va + (max q pa - pa)) .read with paddr := q })
        | none, none, none => ({ s with co := { c.fillGroup p (s.bytes pa (16 * c.W)) with P := p } }, none)

/-- Refills n groups, newest first. -/
def State.refills : Nat → State → State × Option FaultInfo
  | 0, s => (s, none)
  | n + 1, s => match s.refillGroup with
    | (s, none) => s.refills n
    | (s, some f) => (s, some f)

/-- Refills until position p is resident (R153). -/
def State.refillTo (s : State) (p : Nat) : State × Option FaultInfo :=
  s.refills ((s.co.P + 3 - p) / 4)

/-- The window is to rise by n positions: the spills that this needs (R153), and then what frames that are gone have on its way to the ring
entries that come into the window lands there before (R159). -/
def State.openWindow (s : State) (n : Nat) : State × Option FaultInfo :=
  match s.spillFor (s.co.v.wdepth + n) with
  | (s, some f) => (s, some f)
  | (s, none) =>
    let p := s.co.v.wdepth + 48
    match s.co.awaits p n with
    | some o => s.hold (s.opNext s.co o)
    | none => ({ s with co := s.co.landAt p n }, none)

/-- The link group below v0 (R160): the return address, the shift and jd. -/
def Cohort.linkOf (c : Cohort) : Nat × Nat × Nat :=
  let l := c.lowestLive
  let p := c.v.wdepth
  let hi := (c.posGet (p - 3) l).toNat
  let lo := (c.posGet (p - 4) l).toNat
  let ret := (BitVec.ofNat 57 (hi % 2 ^ 25 * 2 ^ 32 + lo)).signExtend 64
  (ret.toNat, hi / 2 ^ 25 % 16 * 4, (c.posGet (p - 2) l).toNat)
/-- Refills the link group, and then the frame that it returns to (R160). -/
def State.refillLink (s : State) : State × Option FaultInfo :=
  match s.refillTo (s.co.v.wdepth - 4) with
  | (s, some f) => (s, some f)
  | (s, none) => s.refillTo (s.co.v.wdepth - s.co.linkOf.2.1)

/-- What the Hamper moves for an instruction (R153). -/
def State.hamperFor (s : State) : Instr → State × Option FaultInfo
  | .brd .. => s.openWindow 4
  | .call _ k _ => s.openWindow (4 * k.toNat)
  | .callx _ _ k => s.openWindow (4 * k.toNat)
  | .join => s.refillTo (s.co.v.wdepth - 4)
  | .ret => s.refillLink
  | .eret => s.refillTo (s.co.v.wdepth - 48)
  | _ => (s, none)

/-- A register key moved from window depth wd to depth wd', if it is a window register at depth wd. -/
def moveKey (S wd wd' key : Nat) : Option Nat :=
  if key < 1024 then none
  else
    let e := key / 64 - 16
    let k := (e + S - wd % S) % S
    if k < 48 then some ((16 + (wd' + k) % S) * 64 + key % 64) else none

/-- Moves the 48 window registers of every lane from depth wd to depth wd', with the operations in flight toward them; every
other ring entry under the two windows is left 0 (R149). -/
def Cohort.moveWindow (c : Cohort) (wd' : Nat) : Cohort :=
  let wd := c.v.wdepth
  let under (key : Nat) : Bool := !decide (key < 1024) &&
    (decide ((key / 64 - 16 + c.S - wd % c.S) % c.S < 48) || decide ((key / 64 - 16 + c.S - wd' % c.S) % c.S < 48))
  let kept := c.v.regs.filter (fun e => !under e.1)
  let moved := c.v.regs.filterMap (fun e => (moveKey c.S wd wd' e.1).map (fun k => (k, e.2)))
  let mv (key : Nat) : Nat := (moveKey c.S wd wd' key).getD key
  { c with v := { c.v with
      regs := moved.foldl (fun t e => Tab.set 0 t e.1 e.2) kept
      ops := c.v.ops.map (fun o => { o with keys := o.keys.map mv, writes := o.writes.map (fun w => (mv w.1, w.2)) })
      wdepth := wd' } }

/-- A join record (R149). -/
structure JoinRec where
  restore : Mask
  pending : Mask
  target  : Nat
  joined  : Bool
  deriving DecidableEq, Repr

/-- Pushes a join record directly below v0; the spill it needs has been made. Lanes of its first position from 7 up hold 0, as its other
positions do (log entry 74). -/
def Cohort.pushRecord (c : Cohort) (r : JoinRec) : Cohort :=
  let p := c.v.wdepth
  let c := c.moveWindow (p + 4)
  let put (c : Cohort) (l : Nat) (w : Word) : Cohort := c.posSet p l w
  put (put (put (put (put (put (put c 0 (loOf r.restore)) 1 (hiOf r.restore)) 2 (loOf r.pending)) 3 (hiOf r.pending))
    4 (BitVec.ofNat 32 r.target)) 5 (BitVec.ofNat 32 (r.target / 2 ^ 32))) 6 (if r.joined then 2 else 1)

/-- The top join record; it is resident. -/
def Cohort.topRecord (c : Cohort) : JoinRec :=
  let p := c.v.wdepth - 4
  { restore := pairOf (c.posGet p 0) (c.posGet p 1), pending := pairOf (c.posGet p 2) (c.posGet p 3),
    target := (pairOf (c.posGet p 4) (c.posGet p 5)).toNat, joined := c.posGet p 6 == 2 }

/-- Marks the top join record JOINED. -/
def Cohort.joinRecord (c : Cohort) : Cohort := c.posSet (c.v.wdepth - 4) 6 2
/-- Removes the top join record. -/
def Cohort.popRecord (c : Cohort) : Cohort := c.moveWindow (c.v.wdepth - 4)

/-- Sets a range of window registers to 0 in the lanes that are not exited (R159, R163). -/
def Cohort.clearRegs (c : Cohort) (lo hi : Nat) : Cohort :=
  let dead (key : Nat) : Bool :=
    if key < 1024 then false
    else
      let k := (key / 64 - 16 + c.S - c.v.wdepth % c.S) % c.S
      decide (lo ≤ k) && decide (k < hi) && (c.v.live.getLsbD (key % 64) || !c.launched.getLsbD (key % 64))
  { c with v := { c.v with regs := c.v.regs.filter (fun e => !dead e.1) } }

end Sys2Proof.Machine
end

