-- ==== Sys2Proof/Machine/Ops.lean ====
section
/-!
DEFINITION. The shared operations over cohorts and memory: how a fault is taken (R9, R162, R163, R298), trap entry and the
return from a handler (R163, R165), and how a team stops and goes on (R298, R299, R351, R355).
-/

namespace Sys2Proof.Machine

/-- The causes that trap entry can deliver to a handler (R162). -/
def deliverable (cause : Nat) : Bool :=
  cause == causeIllegal || cause == causeUniformity || cause == causeSoftTrap || cause == causeMisaligned ||
  cause == causeStraddle || cause == causeFormat || cause == causeWindowLimit || cause == causeStale ||
  cause == causeQuota || cause == causeHandle

/-- The trap vector: g10:g11 in lane LowestActive() (R162). -/
def Cohort.vector (c : Cohort) : Nat := (c.ugetPair 58).toNat

/-- Whether a cause is delivered to the cohort's handler (R162). -/
def Cohort.delivers (c : Cohort) (cause : Nat) : Bool :=
  deliverable cause && c.vector != 0 && c.vector % 4 == 0 && c.handler.isNone

/-- A record of cause 0x09 in the context's log, when the context asks for them (R355). -/
def State.logLl (s : State) (c : Cohort) (pc : Nat) (f : FaultInfo) : State :=
  if (s.ctx c.ctx).llrec then s.log (FaultRec.of c pc f) [] else s

/-- The team of the focused cohort halts for a fault at a word (R298): the cohort stops there, siblings are asked to stop, and
a fault of R351 is reported to the fault buffer of its die. A later fault of a team that is halting already is the sibling's
own; the team's cause remains the first. -/
def State.teamFault (s : State) (f : FaultInfo) (pc : Nat) : State :=
  let c := s.co.landSfu
  let c := { c with halted := true, asked := false, skid := c.skid && c.asked, fault := some f, faultAt := pc, pre := none }
  let s := { s with co := c }
  let s := if toBuffer f then s.report (dieOf c.core) (FaultRec.of c pc { f with ft := f.ft }) else s
  let s := if f.cause = causeLongLatency then s.logLl c pc f else s
  match s.team? c.team with
  | none => s
  | some t =>
    match t.status with
    | .halting _ => s
    | .running | .parked | .descheduled _ | .held | .stopped =>
      let s := s.setTeam { t with status := .halting (.fault c.id pc f) }
      { s with cohorts := s.cohorts.map (fun e => if e.2.team == c.team then (e.1, e.2.askedToStop) else e) }

/-- Trap entry (R163) of the focused cohort, whose special-function results have landed, for a cause and subcause at a word, with the
resumption point given: the saved address, and the clause position when it is mid-clause; pc is what trappc receives. It waits for commands
that are to write registers of the cohort (R232). A spill that fails is raised instead at the trapping word, as a team fault (R162, R156). -/
def State.enterTrap (s : State) (f : FaultInfo) (word pc resume : Nat) (mid : Bool) : State :=
  let vec := s.co.vector
  match s.regEntries.head? with
  | some e => s.waitFor (s.cmdNext e.cmd)
  | none =>
    match s.openWindow 48 with
    | (s, some g) => if g.cause = 0 then s else { s.teamFault g word with lastFault := some g }
    | (s, none) =>
      let c := s.co
      let e := c.v.exec
      let saved : Saved :=
        { hdr := resume, mid := mid, words := if mid then c.words else [], idx := if mid then c.idx else 0, clause := c.clause,
          temps := if mid then c.v.regs.filter (fun x => isTemp x.1) else [], sw := c.v.sw, k := c.v.k, jd := c.jd,
          calld := c.calld, trappc := BitVec.ofNat 64 pc }
      let c := { c with
        handler := some saved, jd := 0, calld := 0, pre := none
        v := { c.v with
          trapcause := BitVec.ofNat 16 (256 * f.sub + f.cause), trappc := BitVec.ofNat 64 pc
          wdepth := c.v.wdepth + 48, exec := c.v.live } }
      let c := c.clearRegs 0 48
      let c := if c.W = 64 then c.uniformPair 0 e else (c.uniform 0 (loOf e)).uniform 1 0
      { s with co := c.goto vec, lastFault := some f }

/-- A fault of the focused cohort at a word of its clause (R9, R162): delivered by trap entry, or a team fault. Its special-function results
land first (R135), so that the vector is read after them (log entry 75). For SOFT_TRAP the resumption point, and trappc, are the clause that
follows (R163). -/
def State.takeFault (s : State) (f : FaultInfo) (pc : Nat) : State :=
  let s := { s with co := s.co.landSfu }
  if s.co.delivers f.cause then
    if f.cause = causeSoftTrap then s.enterTrap f pc s.co.nextClause s.co.nextClause false
    else s.enterTrap f pc pc s.co.hdr true
  else { s.teamFault f pc with lastFault := some f }

/-- An access that waits for a command: no fault, cause 0. -/
def heldFault (cmd : Nat) : FaultInfo := { flt 0 2 with gran := cmd }
/-- The cohort waits for a walk of its cluster (R349), which may end now, or something else comes on before; for a command; or for what
the operation has named. -/
def State.awaitWalk (s : State) (f : FaultInfo) : State :=
  if f.sub = 2 then s.waitCmd f.gran
  else if f.sub = 0 && s.pick 6200 then
    s.soon (.pageWalkComplete (clusterOf s.co.core) s.co.ctx f.addr (if f.wr then .write else if f.ft then .fetch else .read) [])
  else s

/-- A fault raised by an instruction of the focused cohort; cause 0 is none: the cohort stays at its word. -/
def State.raise (s : State) (f : FaultInfo) : State :=
  if f.cause = 0 then s.awaitWalk f else s.takeFault f s.co.wordAddr

/-- The return from a trap handler (R165), after its checks; the refill it needs has been made, and e is the mask that v0 gave
before it. -/
def State.leaveTrap (s : State) (e : Mask) (sv : Saved) : State :=
  let c := s.co
  let c := { c with
    handler := none, jd := sv.jd, calld := sv.calld
    v := { c.v with wdepth := c.v.wdepth - 48, sw := sv.sw, k := sv.k } }
  let c := c.setExec e
  if c.v.trappc = sv.trappc then
    if sv.mid then
      let c := c.goto sv.hdr
      { s with co := { c with
          mid := true, words := sv.words, idx := sv.idx, clause := sv.clause
          v := { c.v with regs := sv.temps.foldl (fun t x => Tab.set 0 t x.1 x.2) c.v.regs } } }
    else { s with co := c.goto sv.hdr }
  else { s with co := c.goto c.v.trappc.toNat }

/-- A watchdog that counts starts again from 0 (R295). -/
def Barrier.restart (clk : Nat) (b : Barrier) : Barrier := { b with wd := b.wd.map (fun _ => clk) }

/-- Every cohort of a team goes on from its saved point (R299); the watchdogs of its barriers, those of its launch's cluster
barriers included, start again from 0 (R295, R311). A cohort that had last held the slot, and stopped by a fault within its clause, has the
right to go on with it (R287, R390; log entry 76). -/
def State.resumeTeam (s : State) (key : Nat) : State :=
  let go (c : Cohort) : Cohort := if c.team == key then { c with halted := false, asked := false, fault := none } else c
  let cut := s.allCohorts.filter (fun c => c.team == key && c.mid && c.fault.isSome)
  let again (bs : Tab Barrier) (p : Nat → Bool) : Tab Barrier := bs.map (fun e => if p e.1 then (e.1, e.2.restart s.clk) else e)
  let s := match s.team? key with
    | none => s
    | some t =>
      (s.setTeam { t with status := .running, bars := again t.bars (fun _ => true) }).modCluster (clusterOf t.core) (fun q =>
        { q with bars := again q.bars (fun k => k / 64 == t.ctx * 2 ^ 32 + t.lid) })
  let s : State := { s with co := go s.co, cohorts := s.cohorts.map (fun e => (e.1, go e.2)) }
  cut.foldl (fun s c =>
    s.modCore c.core (fun k => if k.prev = some c.id then { k with prevOk := true } else k)) s

/-- The focused cohort does an operation that may fault: its effect and the words it takes, or the fault. -/
def State.tryLane (s : State) (r : Except FaultInfo Cohort) (n : Nat) : State :=
  match r with
  | .ok c => { s with co := c.past n }
  | .error f => s.raise f

end Sys2Proof.Machine
end

