-- ==== Sys2Proof/Machine/Cache.lean ====
section
/-!
DEFINITION. The range scoreboard (R224, R225): the entries that an engine command holds on slot ranges and registers, and what waits for
them or for the lines that a command owns.
-/

namespace Sys2Proof.Machine

/-! ## The range scoreboard -/

/-- The slot and slot offset of a physical on-chip address. -/
def onchipOf (pa : Nat) : Option (Nat × Nat) :=
  if onchipBase ≤ pa ∧ pa < onchipBase + 0x200000000 then some ((pa - onchipBase) / 0x400000, (pa - onchipBase) % 0x400000)
  else none

/-- A range of slot offsets, or of register indices of a cohort, that a command reads or writes. -/
structure Claim where
  slot : Nat
  wr   : Bool
  lo   : Nat
  hi   : Nat
  co   : Option Nat
  deriving DecidableEq, Repr

/-- Whether a scoreboard entry makes an access to a range wait (R225). -/
def SbEntry.blocks (e : SbEntry) (wr : Bool) (lo hi : Nat) (co : Option Nat) : Bool :=
  (wr || e.wr) && e.co == co && decide (e.lo < hi) && decide (lo < e.hi)

/-- The command that an access to a claim's range waits for (R225). -/
def State.blockerOf (s : State) (k : Claim) : Option Nat :=
  ((s.core k.slot).sb.find? (fun e => e.blocks k.wr k.lo k.hi k.co)).map SbEntry.cmd
def State.blocker (s : State) (ks : List Claim) : Option Nat := ks.findSome? s.blockerOf

/-- The command that an access to physical bytes waits for: by a scoreboard entry on chip, by an engine's ownership of the line
elsewhere. -/
def State.heldBy (s : State) (pas : List Nat) (wr : Bool) : Option Nat :=
  pas.findSome? (fun pa => match onchipOf pa with
    | none => s.ownerOf (pa / 64)
    | some (slot, off) => s.blockerOf { slot := slot, wr := wr, lo := off, hi := off + 1, co := none })

/-- The lowest free entry number of a core's scoreboard. -/
def Core.freeSb (c : Core) : Option Nat := (List.range 16).find? (fun i => !(c.sb.any (fun e => e.slot == i)))

/-- Takes an entry for each claim, lowest free entry first, or none of them when a core has too few (R224). -/
def State.takeSb (s : State) (cmd : Nat) : List Claim → Option State
  | [] => some s
  | k :: ks =>
    match (s.core k.slot).freeSb with
    | none => none
    | some i =>
      (s.modCore k.slot (fun c =>
        { c with sb := c.sb ++ [{ slot := i, cmd := cmd, wr := k.wr, lo := k.lo, hi := k.hi, co := k.co }] })).takeSb cmd ks

/-- A command frees its entries (R224). -/
def State.freeSb (s : State) (cmd : Nat) : State :=
  { s with cores := s.cores.map (fun e => (e.1, { e.2 with sb := e.2.sb.filter (fun b => b.cmd != cmd) })) }

/-- The command that must retire before the claims can have their entries. -/
def State.sbFull (s : State) (ks : List Claim) : Option Nat :=
  ks.findSome? (fun k => (s.core k.slot).sb.head?.map SbEntry.cmd)

end Sys2Proof.Machine
end

