-- ==== Sys2Proof/Machine/Issue.lean ====
section
/-!
DEFINITION. The issue slot (R284 to R290): which cohorts are ready, the choice of the next clause, the fetch and decode of a
clause (R48, R57, R58), packs, and the issue of one chain group (R42, R43).
-/

namespace Sys2Proof.Machine

/-! ## The fetch of a clause (R48, R49) -/

/-- A fetched word that the constant cache of the cohort's core holds needs no read of its line. -/
def State.codeHeld (s : State) (core pa : Nat) : Bool := (Tab.find (s.core core).cst (pa / 4)).isSome
/-- The bytes of a word. -/
def wordPas (pa : Nat) : List Nat := (List.range 4).map (fun i => pa + i)
/-- One word of a clause through the constant path (R49), by its place in the clause. On a device, strongly ordered or write-combining page,
and on chip, that path acts as LD (R180). -/
def State.codeWord (s : State) (c : Cohort) (l : Leaf) (pa i : Nat) : State × Nat :=
  let r := s.fetchPart c .const (some l, wordPas pa) (3100 + i)
  (r.1, leNat r.2)
/-- The words of a clause in order. -/
def State.codeWords (c : Cohort) : Nat → List (Leaf × Nat) → State → State × List Nat
  | _, [], s => (s, [])
  | i, x :: xs, s =>
    let (s, w) := s.codeWord c x.1 x.2 i
    let (s, ws) := State.codeWords c (i + 1) xs s
    (s, w :: ws)

/-- What stops the fetch of n words that lie from an address up on one page: on-chip bytes that the context does not reach (log entry 88), a
stall of the Flash Management Processor (R354), or poison. -/
def State.codeBad (s : State) (c : Cohort) (va : Nat) (l : Leaf) (n : Nat) : Option FaultInfo :=
  let pa := l.pa + va % 4096
  let pas := (List.range (4 * n)).map (fun i => pa + i)
  match s.pageBad c.ctx va pas .fetch, s.stallOf c.core (some .const) pas,
      (List.range (4 * n)).find? (fun i => s.markAt c.core .const l.cached (pa + i)) with
  | some f, _, _ => some f
  | none, some (i, sub), _ => some (failAt ⟨causeLongLatency, sub, (pa + i) / 65536⟩ ((va + i) % 2 ^ 64) .fetch)
  | none, none, some i => some { fltAt causePoison 3 ((va + i) % 2 ^ 64) .fetch with paddr := (pa + i) / 16 * 16 }
  | none, none, none => none

/-- The fetch of the clause at a cohort's next header as a unit, through one translation per page that it touches (R48): the page and the
physical address of each word. Every address is translated, one that a window of R171 covers included, and the length comes from bits [3:1] of the first word
whether it is a header or not (log entry 73). -/
def State.fetchPlan (s : State) (c : Cohort) : State × Except FaultInfo (List (Leaf × Nat)) :=
  match s.lookup c c.hdr .fetch 3000 with
  | (s, .error f) => (s, .error f)
  | (s, .ok l) =>
    let pa := l.pa + c.hdr % 4096
    match s.codeBad c c.hdr l 1 with
    | some f => (s, .error f)
    | none =>
      let n := clauseWords (s.codeWord c l pa 0).2
      let here := min n ((4096 - c.hdr % 4096) / 4)
      let pas := (List.range here).map (fun i => (l, pa + 4 * i))
      match s.codeBad c c.hdr l here with
      | some f => (s, .error f)
      | none =>
        if here = n then (s, .ok pas)
        else
          let second := (c.hdr + 4 * here) % 2 ^ 64
          match s.lookup c second .fetch 3001 with
          | (s, .error f) => (s, .error f)
          | (s, .ok l2) =>
            match s.codeBad c second l2 (n - here) with
            | some f => (s, .error f)
            | none => (s, .ok (pas ++ (List.range (n - here)).map (fun i => (l2, l2.pa + 4 * i))))

/-- The command that holds bytes which a fetch has to read (R225, R342). -/
def State.fetchHeld (s : State) (c : Cohort) (pas : List (Leaf × Nat)) : Option Nat :=
  pas.findSome? (fun x => if x.1.cached && s.codeHeld c.core x.2 then none else s.heldBy (wordPas x.2) false)

/-- The header word of a cohort's next clause, as the fetch in this step reads it (R45); none where it cannot be read. -/
def State.peekHeader (s : State) (c : Cohort) : Option Nat :=
  match s.lookup c c.hdr .fetch 3000 with
  | (s, .ok l) => some (s.codeWord c l (l.pa + c.hdr % 4096) 0).2
  | (_, .error _) => none

/-! ## Ready cohorts -/

/-- The WAIT condition of the cohort's next clause (R45). A clause whose header cannot be read, or is none, names no flag: its fetch or
decode faults. -/
def State.waitClear (s : State) (c : Cohort) : Bool :=
  c.mid || (match s.peekHeader c with
    | some h => headerWait h &&& c.v.flags == 0
    | none => true)

/-- A sibling on the other core of a pair in which a cohort has faulted or stands at a BKPT may still start one clause before the request arrives (R298). -/
def State.skidOpen (s : State) (c : Cohort) : Bool :=
  match s.team? c.team with
  | some t => match t.status with
    | .halting (.fault f _ _) | .halting (.bkpt f) => match s.cohort? f with
      | some x => x.core != c.core && !c.skid && s.pick (5000 + c.id)
      | none => false
    | .halting .stop | .halting .terminate | .running | .parked | .descheduled _ | .held | .stopped => false
  | none => false

/-- A cohort is ready (R286). A cohort asked to stop starts no new clause (R298). -/
def State.isReady (s : State) (c : Cohort) : Bool :=
  !c.ended && !c.exited && c.wait.isNone && !c.halted && (c.mid || !c.asked || s.skidOpen c) && s.waitClear c

/-- The ready cohorts of a core in slot order. -/
def State.readyOn (s : State) (core : Nat) : List Cohort :=
  sortBy Cohort.slot ((s.cohortsOn core).filter s.isReady)

/-- The first of a list that is least under f. -/
def leastBy (f : Cohort → Nat) : List Cohort → Option Cohort
  | [] => none
  | c :: cs => match leastBy f cs with
    | some d => if f d < f c then some d else some c
    | none => some c

/-- The choice of R287 among the ready cohorts, in slot order. -/
def chooseCohort (k : Core) (ready : List Cohort) : Option Cohort :=
  let skipped := ready.filter (fun c => 64 ≤ c.skip)
  if !skipped.isEmpty then leastBy Cohort.overAt skipped
  else
    match ready.find? (fun c => k.prev == some c.id && !c.y && k.prevOk && decide (k.run < 4)) with
    | some x => some x
    | none =>
      match leastBy Cohort.cls ready with
      | none => none
      | some b =>
        let mine := ready.filter (fun c => c.cls == b.cls)
        let quiet := mine.filter (fun c => !c.y)
        leastBy Cohort.stamp (if quiet.isEmpty then mine else quiet)

/-- The mates of x (R289). -/
def packOf (x : Cohort) (ready : List Cohort) : List Cohort :=
  let n := if x.W = 16 then 1 else if x.W = 8 then 3 else 0
  if x.mid then []
  else
    (sortBy Cohort.cohid (ready.filter (fun c => c.id != x.id && c.team == x.team && c.hdr == x.hdr && !c.mid))).take n

/-- Gives a cohort the slot for its next clause, whose words are given: temporaries at 0 (R19), a clause identity of its own. -/
def Cohort.start (c : Cohort) (tick clause : Nat) (ws : List Nat) : Cohort :=
  let c := { c with skip := 0, stamp := tick }
  if c.mid then c
  else
    { c with mid := true, words := ws, idx := 1, clause := clause, skid := c.skid || c.asked, pre := none }

/-- Counts an issue of other cohorts for a ready cohort (R287). -/
def Cohort.skipped (c : Cohort) (tick : Nat) : Cohort :=
  { c with skip := c.skip + 1, overAt := if c.skip + 1 = 64 then tick else c.overAt }

/-- Raises a fault of the focused cohort at its clause start or found at decode (R48, R163): the resumption point is the clause
start. The clause has not begun: the Y of the last one stands (R286). -/
def State.raiseAtStart (s : State) (f : FaultInfo) (pc : Nat) : State :=
  let s := { s with co := s.co.landSfu, lastFault := none }
  let y := s.co.y
  if s.co.delivers f.cause then
    let t := s.enterTrap f pc pc s.co.hdr false
    { t with co := { t.co with y := y } }
  else { s.teamFault f pc with lastFault := some f }

/-- SELECT_CLAUSE (R287): a core whose slot is held goes on with its holder; otherwise the next clause is chosen, fetched and
decoded, and its cohort and the mates take the slot. A clause start that faults counts as an issue, for the whole pack, once its fault has
been taken. -/
def execSelectClause (core : Nat) (s : State) : Host.Outcome State Fault Refusal :=
  let k := s.core core
  match k.holder with
  | h :: _ => .next (s.focus h)
  | [] =>
    let ready := s.readyOn core
    match chooseCohort k ready with
    | none => .next s
    | some x =>
      let s := s.focus x.id
      let pack := x.id :: (packOf x ready).map Cohort.id
      let counted (s : State) : State :=
        let s := (ready.filter (fun c => !pack.contains c.id)).foldl (fun s c => s.modCohort c.id (fun c => c.skipped s.tick)) s
        let s := pack.foldl (fun s i => s.modCohort i (fun c => { c with skip := 0, stamp := s.tick })) s
        s.modCore core (fun k => { k with
          run := if k.prev = some x.id then k.run + 1 else 1, prev := some x.id, prevOk := false })
      let fails (s : State) (f : FaultInfo) (pc : Nat) : State :=
        let t := s.raiseAtStart f pc
        if t.lastFault.isSome then counted t else t
      let hold (s : State) (ws : List Nat) : State :=
        let (id, s) := s.freshId
        let s := pack.foldl (fun s i => s.modCohort i (fun c => c.start s.tick id ws)) s
        (counted s).modCore core (fun k => { k with holder := pack })
      if x.mid then .next (hold s [])
      else
        match s.fetchPlan x with
        | (s, .error f) => if f.cause = 0 then .next (s.awaitWalk f) else .next (fails s f x.hdr)
        | (s, .ok pas) =>
          match s.fetchHeld x pas with
          | some cmd => .next (s.waitCmd cmd)
          | none =>
            let (s, ws) := State.codeWords x 0 pas s
            match decodeClause x.W ws with
            | .error (i, sub) => .next (fails s (flt causeIllegal sub) ((x.hdr + 4 * i) % 2 ^ 64))
            | .ok _ => .next (hold s ws)

/-- The instruction at the focused cohort's place in its clause, if the clause has not run out. -/
def State.nextInstr (s : State) : Option (Nat × Decoded) :=
  match s.co.words.drop s.co.idx with
  | [] => none
  | w :: rest => some (w, decodeWord w (rest.take (literalCount w)))

/-- The focused cohort leaves the slot (R284). When it is the one that holds the right to be taken again, it has it where it is ready at
once at a clause boundary (R287). -/
def State.leaveSlot (s : State) : State :=
  let c := s.co
  let ok := !c.mid && s.isReady c
  s.modCore c.core (fun k => { k with
    holder := k.holder.filter (fun i => i != c.id), prevOk := if k.prev = some c.id then ok else k.prevOk })

/-- After an issue from a place: the clause goes on, ends after its last word, or has been left; the mates of a pack take turns, unless the
member has not come on, which stalls them all (R290). -/
def State.settle (s : State) (idx : Nat) : State :=
  let c := s.co
  if c.mid && c.wait.isNone && !c.halted then
    if c.idx < c.words.length then
      if c.idx = idx then s else s.modCore c.core (fun k => { k with holder := k.holder.drop 1 ++ k.holder.take 1 })
    else ({ s with co := c.goto c.nextClause }).leaveSlot
  else s.leaveSlot

/-- Copy, routing, matrix, fabric and append commands (R362). -/
def isCommand : Instr → Bool
  | .cpy .. | .cpy2d .. | .cpyg .. | .cpyo .. | .plnx .. | .route .. | .resl .. | .mma .. | .mma1 .. | .accz .. | .accrd ..
  | .accwr .. | .scld .. | .nput .. | .nget .. | .ncoll .. | .na2a .. | .nred .. | .app .. | .appsync .. | .appseal ..
  | .fmpreq .. => true
  | _ => false
/-- A context whose commands are no longer accepted: step 1 of R362, also for a termination (R364). -/
def State.noCommands (s : State) (ctx : Nat) : Bool := (s.ctx ctx).state == .stopping || (s.ctx ctx).ending

/-- What must come about before the focused cohort's instruction can issue: an interlock (R43), a scoreboard entry on its registers
(R232), or a pending memory fence before a memory-pipe word (R190). none: it can issue; some none: only an outside event helps. -/
def State.gate (s : State) (w : Nat) (i : Instr) : Option (Option Instr) :=
  if isCommand i && s.noCommands s.co.ctx then some (some (.siblingStop s.co.id))
  else match s.interlock i with
  | some o => some (s.opNext s.co o)
  | none =>
    match s.regHeld i with
    | some cmd => some (s.cmdNext cmd)
    | none => if s.co.fence && pipeOf w = .memory then some (some (.fenceComplete s.co.id)) else none

/-- The instructions of the chain group at the focused cohort's place, as far as they decode (R42). -/
def State.groupInstrs (s : State) : Nat → Nat → List (Nat × Instr)
  | 0, _ => []
  | n + 1, idx =>
    match s.co.words.drop idx with
    | [] => []
    | w :: rest => match decodeWord w (rest.take (literalCount w)) with
      | .ok i => (w, i) :: (if bitAt w 31 then s.groupInstrs n (idx + 1) else [])
      | .error _ => []

/-- MMA as a word of a group of several waits until the array queue of its core is empty, so that it starts with the group, and its fault
leaves the group unperformed (R163, R265). In the rest of a group whose cohort had suspended in it, it waits so too, be it the last word. -/
def State.mmaGate (s : State) (l : List (Nat × Instr)) : Option (Option Instr) :=
  if l.length ≤ 1 && s.co.pre.isNone then none
  else
    if l.any (fun e => match e.2 with
      | .mma .. | .mma1 .. => true
      | _ => false) then
      let lead := s.co.core - s.co.core % 2
      ([s.co.core, lead, lead + 1].find? (fun n => !(s.core n).mq.isEmpty)).map s.mqNext
    else none

/-- What must come about before the chain group can issue: the group issues when each of its words can (R43). -/
def State.groupGate (s : State) : Option (Option Instr) :=
  let l := s.groupInstrs 4 s.co.idx
  match l.findSome? (fun e => s.gate e.1 e.2) with
  | some e => some e
  | none => s.mmaGate l

/-- Whether the focused cohort's next group holds a command. -/
def State.atCommand (s : State) : Bool := (s.groupInstrs 4 s.co.idx).any (fun e => isCommand e.2)

/-- The Hamper's moves that take the spill count of the focused cohort to p. -/
def State.movedTo (s : State) (p : Nat) : State :=
  if s.co.P ≤ p then (s.spills ((p - s.co.P) / 4)).1 else (s.refills ((s.co.P - p) / 4)).1
/-- Takes a fault at a word for a chain group that is not performed (R163): execution resumes at the group (log entry 62). What the Hamper
had moved before it failed, for the word or for its trap entry, stays moved (R156): p is the spill count that it had come to. -/
def State.takeGroupFault (s : State) (p : Nat) (f : FaultInfo) (pc : Nat) : State :=
  if f.cause = causeWindowSpill || f.cause = causeLongLatency || f.cause = causePoison || f.cause = causeRemote then
    (s.movedTo p).takeFault f pc
  else s.takeFault f pc

/-- A chain group in which a word must wait is not performed yet: what has begun in t beside it goes on, and the walks that it waits for. -/
def State.stay (start t : State) : State :=
  t.clusters.foldl (fun s e => s.modCluster e.1 (fun q => { q with walks := e.2.walks })) { start with agenda := t.agenda }

/-- The refreshes that a command has made before it found another of its residencies stale stay made (R256), and one that it found stale is
STALE (R253, R260). -/
def State.keepLoads (start t : State) : State :=
  { start with cores := start.cores.map (fun e => (e.1, { e.2 with res := e.2.res.map (fun r =>
      match Tab.find (t.core e.1).res r.1 with
      | some q => if q.state != .free && (q.refreshes != r.2.refreshes || q.rebuilds != r.2.rebuilds ||
          (r.2.state == .evicted && q.state == .stale)) then (r.1, q) else r
      | none => r) })) }

/-- The words of a chain group in order, the first to issue next; start is the state before the group. A fault in any of them
leaves the whole group unperformed, and so does a word that must wait; after a word that suspends the cohort, the rest of the group issues
when it wakes. -/
def issueWords (ex : Instr → State → Host.Outcome State Fault Refusal) (start : State) :
    Nat → State → Host.Outcome State Fault Refusal
  | 0, s => .next s
  | n + 1, s =>
    match s.nextInstr with
    | none => .next { s with co := { s.co with pre := none } }
    | some (_, .error e) => .next (start.takeGroupFault start.co.P (flt causeIllegal e) s.co.wordAddr)
    | some (w, .ok i) =>
      match s.gate w i with
      | some e => .next (start.stay (s.waitFor e))
      | none =>
        match ex i s with
        | .fault r => .fault r
        | .refused r => .refused r
        | .next t =>
          match t.lastFault with
          | some f => .next ((start.keepLoads t).takeGroupFault t.co.P f s.co.wordAddr)
          | none =>
            if t.co.wait.isSome then .next (if bitAt w 31 then t else { t with co := { t.co with pre := none } })
            else if bitAt w 31 && t.co.mid && t.co.idx == s.co.idx + 1 then issueWords ex start n t
            else if t.co.mid && t.co.idx == s.co.idx then .next (start.stay t)
            else .next { t with co := { t.co with pre := none } }

/-- The focused cohort's next chain group, or the rest of one in which it had suspended (R42, R43). A group of one word is the execution of its
instruction. -/
def issueAlone (ex : Instr → State → Host.Outcome State Fault Refusal) (s : State) : Host.Outcome State Fault Refusal :=
  match s.nextInstr with
  | none => .next s
  | some (_, .error e) => .next (s.raise (flt causeIllegal e))
  | some (w, .ok i) =>
    if s.co.pre.isSome then
      match s.mmaGate (s.groupInstrs 4 s.co.idx) with
      | some e => .next (s.waitFor e)
      | none => issueWords ex s 4 s
    else if bitAt w 31 then
      match s.groupGate with
      | some e => .next (s.waitFor e)
      | none => issueWords ex s 4 { s with co := { s.co with pre := some s.co.v } }
    else
      match s.gate w i with
      | some e => .next (s.waitFor e)
      | none => ex i s

/-- A mate of the focused cohort that stands at the same word and could not issue it yet stalls the whole pack (R290): what the attempt sets
going. Each mate is tried by itself. -/
def packStall (ex : Instr → State → Host.Outcome State Fault Refusal) (s : State) : Option State :=
  ((s.core s.co.core).holder.filter (fun h => h != s.co.id)).findSome? (fun h =>
    let t := s.focus h
    if t.co.idx = s.co.idx && t.co.mid && t.co.pre.isNone && s.co.pre.isNone then
      match issueAlone ex { t with lastFault := none } with
      | .next u =>
        if u.lastFault.isNone && u.co.idx == t.co.idx && u.co.mid && u.co.wait.isNone && !u.co.halted then some (s.stay u) else none
      | .fault _ | .refused _ => none
    else none)

/-- Issues the focused cohort's next chain group, when its mates can issue it too (R290). -/
def issueGroup (ex : Instr → State → Host.Outcome State Fault Refusal) (s : State) : Host.Outcome State Fault Refusal :=
  let at_ := s.co.idx
  let out : Host.Outcome State Fault Refusal :=
    match packStall ex s with
    | some t => .next t
    | none => issueAlone ex s
  match out with
  | .next t => .next (t.settle at_)
  | .fault r => .fault r
  | .refused r => .refused r

/-- Whether a cohort that holds the slot can go on without an outside event. -/
def State.canIssue (s : State) (id : Nat) : Bool :=
  let s := s.focus id
  match s.nextInstr with
  | some (w, .ok i) => s.gate w i != some none && s.groupGate != some none
  | some (_, .error _) | none => true

/-- Whether a core has something to issue. -/
def State.coreCan (s : State) (n : Nat) : Bool :=
  match (s.core n).holder with
  | h :: _ => s.canIssue h
  | [] => !(s.readyOn n).isEmpty

/-- The core that issues next: the focused cohort's, or the lowest-numbered other one that has something to issue. -/
def State.nextCore (s : State) : Option Nat :=
  if s.co.id != 0 && s.coreCan s.co.core then some s.co.core
  else (sortBy id (s.allCohorts.map Cohort.core)).find? s.coreCan

/-- A core that has something to issue, chosen freely. -/
def State.freeCore (s : State) : Option Nat :=
  let l := sortBy id (s.allCohorts.map Cohort.core)
  let r := s.choose 7104 l.length
  (l.drop r ++ l.take r).find? s.coreCan

end Sys2Proof.Machine
end

