-- ==== Sys2Proof/Machine/Integer.lean ====
section
/-!
DEFINITION. Integer, logic, address, mask and cross-lane instructions and the special registers (R72 to R97).
-/

namespace Sys2Proof.Machine

/-- The outcome of a step of this machine. -/
abbrev Out := Host.Outcome State Fault Refusal

/-- A lane operation of one source. -/
def State.un (s : State) (u : Bool) (d a : Reg) (f : Word → Word) : Out :=
  .next (s.lane (fun c => c.lanes u d (fun l => f (c.get a l))) 1)
/-- A lane operation of two sources. -/
def State.bin (s : State) (u : Bool) (d a b : Reg) (f : Word → Word → Word) : Out :=
  .next (s.lane (fun c => c.lanes u d (fun l => f (c.get a l) (c.get b l))) 1)
/-- A per-lane operation of three sources, without a U bit (R73). -/
def State.tern (s : State) (d a b e : Reg) (f : Word → Word → Word → Word) : Out :=
  .next (s.lane (fun c => c.lanes false d (fun l => f (c.get a l) (c.get b l) (c.get e l))) 1)

/-! ## Arithmetic (R77 to R81) -/

/-- The lesser and the greater of two words, signed or unsigned. -/
def minW (uns : Bool) (a b : Word) : Word := if (if uns then decide (b < a) else b.slt a) then b else a
def maxW (uns : Bool) (a b : Word) : Word := if (if uns then decide (a < b) else a.slt b) then b else a
/-- The same for doublewords. -/
def minD (uns : Bool) (a b : DWord) : DWord := if (if uns then decide (b < a) else b.slt a) then b else a
def maxD (uns : Bool) (a b : DWord) : DWord := if (if uns then decide (a < b) else a.slt b) then b else a

def execIadd (u : Bool) (d a b : Reg) (s : State) : Out := s.bin u d a b (fun x y => x + y)
def execIsub (u : Bool) (d a b : Reg) (s : State) : Out := s.bin u d a b (fun x y => x - y)
def execImul (u : Bool) (d a b : Reg) (s : State) : Out := s.bin u d a b (fun x y => x * y)
/-- The high half of a signed product (R77). -/
def mulhS (x y : Word) : Word := hiOf (x.signExtend 64 * y.signExtend 64)
/-- The high half of an unsigned product (R77). -/
def mulhU (x y : Word) : Word := hiOf (x.setWidth 64 * y.setWidth 64)
def execImulhI32 (u : Bool) (d a b : Reg) (s : State) : Out := s.bin u d a b mulhS
def execImulhN32 (u : Bool) (d a b : Reg) (s : State) : Out := s.bin u d a b mulhU
def execIminI32 (u : Bool) (d a b : Reg) (s : State) : Out := s.bin u d a b (minW false)
def execIminN32 (u : Bool) (d a b : Reg) (s : State) : Out := s.bin u d a b (minW true)
def execImaxI32 (u : Bool) (d a b : Reg) (s : State) : Out := s.bin u d a b (maxW false)
def execImaxN32 (u : Bool) (d a b : Reg) (s : State) : Out := s.bin u d a b (maxW true)
def execIabs (u : Bool) (d a : Reg) (s : State) : Out := s.un u d a (fun x => if x.msb then 0 - x else x)
def execIneg (u : Bool) (d a : Reg) (s : State) : Out := s.un u d a (fun x => 0 - x)
def execImad (d a b c : Reg) (s : State) : Out := s.tern d a b c (fun x y z => x * y + z)

/-- A lane operation of two pairs into a pair (R79). -/
def State.bin64 (s : State) (u : Bool) (d a b : Reg) (f : DWord → DWord → DWord) : Out :=
  .next (s.lane (fun c => c.lanesPair u d (fun l => f (c.getPair a l) (c.getPair b l))) 1)
def execIadd64 (u : Bool) (d a b : Reg) (s : State) : Out := s.bin64 u d a b (fun x y => x + y)
def execIsub64 (u : Bool) (d a b : Reg) (s : State) : Out := s.bin64 u d a b (fun x y => x - y)

/-- LEA's address (R80). -/
def leaOf (base : DWord) (idx : Word) (s : BitVec 3) (sx : Bool) (off : Word) : DWord :=
  base + ((if sx then idx.signExtend 64 else idx.setWidth 64) <<< s.toNat) + off.signExtend 64
def execLea (u : Bool) (d a b : Reg) (sh : BitVec 3) (sx : Bool) (off : Word) (s : State) : Out :=
  .next (s.lane (fun c => c.lanesPair u d (fun l => leaOf (c.getPair a l) (c.get b l) sh sx off)) 2)
def execIaddImm (u : Bool) (d a : Reg) (imm : BitVec 11) (s : State) : Out := s.un u d a (fun x => x + imm.signExtend 32)
def execAndImm (u : Bool) (d a : Reg) (imm : BitVec 11) (s : State) : Out := s.un u d a (fun x => x &&& imm.signExtend 32)
def execOrImm (u : Bool) (d a : Reg) (imm : BitVec 11) (s : State) : Out := s.un u d a (fun x => x ||| imm.signExtend 32)
def execXorImm (u : Bool) (d a : Reg) (imm : BitVec 11) (s : State) : Out := s.un u d a (fun x => x ^^^ imm.signExtend 32)
def execMovi (u : Bool) (d : Reg) (lit : Word) (s : State) : Out := .next (s.lane (fun c => c.lanes u d (fun _ => lit)) 2)

/-! ## Logic and shifts (R82 to R86) -/

def execAndR (u : Bool) (d a b : Reg) (s : State) : Out := s.bin u d a b (fun x y => x &&& y)
def execOrR (u : Bool) (d a b : Reg) (s : State) : Out := s.bin u d a b (fun x y => x ||| y)
def execXorR (u : Bool) (d a b : Reg) (s : State) : Out := s.bin u d a b (fun x y => x ^^^ y)
def execAndnR (u : Bool) (d a b : Reg) (s : State) : Out := s.bin u d a b (fun x y => x &&& ~~~y)
def execNotR (u : Bool) (d a : Reg) (s : State) : Out := s.un u d a (fun x => ~~~x)
def execMov (u : Bool) (d a : Reg) (s : State) : Out := s.un u d a (fun x => x)

/-- Shifts by an unsigned amount (R83). -/
def shlW (x : Word) (n : Nat) : Word := if n ≤ 31 then x <<< n else 0
def shrW (x : Word) (n : Nat) : Word := if n ≤ 31 then x >>> n else 0
def sarW (x : Word) (n : Nat) : Word := if n ≤ 31 then x.sshiftRight n else if x.msb then 0xFFFFFFFF else 0
def rotW (x : Word) (n : Nat) : Word := x.rotateLeft (n % 32)
def execShl (u : Bool) (d a b : Reg) (s : State) : Out := s.bin u d a b (fun x y => shlW x y.toNat)
def execShr (u : Bool) (d a b : Reg) (s : State) : Out := s.bin u d a b (fun x y => shrW x y.toNat)
def execSar (u : Bool) (d a b : Reg) (s : State) : Out := s.bin u d a b (fun x y => sarW x y.toNat)
def execRot (u : Bool) (d a b : Reg) (s : State) : Out := s.bin u d a b (fun x y => rotW x y.toNat)
def execShlImm (u : Bool) (d a : Reg) (n : BitVec 5) (s : State) : Out := s.un u d a (fun x => shlW x n.toNat)
def execShrImm (u : Bool) (d a : Reg) (n : BitVec 5) (s : State) : Out := s.un u d a (fun x => shrW x n.toNat)
def execSarImm (u : Bool) (d a : Reg) (n : BitVec 5) (s : State) : Out := s.un u d a (fun x => sarW x n.toNat)
def execRotImm (u : Bool) (d a : Reg) (n : BitVec 5) (s : State) : Out := s.un u d a (fun x => rotW x n.toNat)

/-- The number of 1 bits among the low n bits (R85). -/
def popcount (x : Nat) : Nat → Nat
  | 0 => 0
  | n + 1 => x % 2 + popcount (x / 2) n
/-- The 0 bits above the highest 1 bit of a word (R85). -/
def clzW (x : Word) : Word := if x = 0 then 32 else BitVec.ofNat 32 (31 - Nat.log2 x.toNat)
/-- Bit i of the result is bit 31 - i (R85). -/
def brevW (x : Word) : Word := x.reverse
def execPopc (u : Bool) (d a : Reg) (s : State) : Out := s.un u d a (fun x => BitVec.ofNat 32 (popcount x.toNat 32))
def execClz (u : Bool) (d a : Reg) (s : State) : Out := s.un u d a clzW
def execBrev (u : Bool) (d a : Reg) (s : State) : Out := s.un u d a brevW

/-- The field of len bits at pos of a 64-bit extension (R86). -/
def fieldOf (x : DWord) (pos len : Nat) : Word := BitVec.ofNat 32 (bitsOf x.toNat pos len)
/-- Sign extension of a field from bit len - 1 (R86). -/
def sextFrom (f : Word) (len : Nat) : Word := (f <<< (32 - len)).sshiftRight (32 - len)
def execBfxN32 (u : Bool) (d a : Reg) (len : BitVec 6) (pos : BitVec 5) (s : State) : Out :=
  s.un u d a (fun x => fieldOf (x.setWidth 64) pos.toNat len.toNat)
def execBfxI32 (u : Bool) (d a : Reg) (len : BitVec 6) (pos : BitVec 5) (s : State) : Out :=
  s.un u d a (fun x => sextFrom (fieldOf (x.signExtend 64) pos.toNat len.toNat) len.toNat)
/-- BFI's insertion (R86). -/
def insertField (old x : Word) (pos len : Nat) : Word :=
  let m : Word := BitVec.ofNat 32 ((2 ^ len - 1) * 2 ^ pos)
  (old &&& ~~~m) ||| ((x <<< pos) &&& m)
def execBfi (u : Bool) (d a : Reg) (len : BitVec 6) (pos : BitVec 5) (s : State) : Out :=
  s.bin u d d a (fun old x => insertField old x pos.toNat len.toNat)

/-! ## Compare, select, masks (R87 to R89) -/

/-- An integer condition (R55). -/
def IntCond.holds {n : Nat} (k : IntCond) (uns : Bool) (x y : BitVec n) : Bool :=
  let lt := if uns then decide (x < y) else x.slt y
  match k with
  | .eq => x == y
  | .ne => x != y
  | .lt => lt
  | .le => lt || x == y
  | .gt => !lt && x != y
  | .ge => !lt

/-- CMP's condition in one lane (R87). -/
def Cohort.cmpAt (c : Cohort) (a b : Reg) (t : CmpType) (k : IntCond) (l : Nat) : Bool :=
  match t with
  | .i32 => IntCond.holds k false (c.get a l) (c.get b l)
  | .n32 => IntCond.holds k true (c.get a l) (c.get b l)
  | .i64 => IntCond.holds k false (c.getPair a l) (c.getPair b l)
  | .n64 => IntCond.holds k true (c.getPair a l) (c.getPair b l)
/-- A compare writes its mask as a uniform value (R27, R87). -/
def Cohort.compare (c : Cohort) (u : Bool) (d : Reg) (p : Nat → Bool) : Cohort :=
  c.putMask d (c.maskWhere (fun l => p (c.source u l)))
def execCmp (u : Bool) (d a b : Reg) (t : CmpType) (k : IntCond) (s : State) : Out :=
  .next (s.lane (fun c => c.compare u d (c.cmpAt a b t k)) 1)
def execSel (d a b m : Reg) (s : State) : Out :=
  .next (s.lane (fun c => c.lanes false d (fun l => if (c.mask m).getLsbD l then c.get a l else c.get b l)) 1)
def execMpop (u : Bool) (d a : Reg) (s : State) : Out :=
  .next (s.lane (fun c => c.lanes u d (fun _ => BitVec.ofNat 32 (popcount (c.mask a).toNat 64))) 1)
def execMfirst (u : Bool) (d a : Reg) (s : State) : Out :=
  .next (s.lane (fun c => c.lanes u d (fun _ => match (lanesIn (c.mask a) c.W).head? with
    | some l => BitVec.ofNat 32 l
    | none => 0xFFFFFFFF)) 1)

/-! ## Cross-lane (R90 to R94) -/

/-- The value of lane k where k is a lane of the cohort, or of lane l otherwise (R91). -/
def Cohort.srcOf (c : Cohort) (a : Reg) (k l : Nat) : Word := if k < c.W then c.get a k else c.get a l
/-- The lane l - n, or none below 0 (R91). -/
def upLane (W l n : Nat) : Nat := if n ≤ l then l - n else W

def execPerm (u : Bool) (d a b : Reg) (s : State) : Out :=
  .next (s.lane (fun c => c.lanes u d (fun l => c.get a ((c.get b l).toNat % c.W))) 1)
def execShup (u : Bool) (d a b : Reg) (s : State) : Out :=
  .next (s.lane (fun c => c.lanes u d (fun l => c.srcOf a (upLane c.W l (c.uget b).toNat) l)) 1)
def execShdn (u : Bool) (d a b : Reg) (s : State) : Out :=
  .next (s.lane (fun c => c.lanes u d (fun l => c.srcOf a (l + (c.uget b).toNat) l)) 1)
def execShxr (u : Bool) (d a b : Reg) (s : State) : Out :=
  .next (s.lane (fun c => c.lanes u d (fun l => c.srcOf a (l ^^^ (c.uget b).toNat) l)) 1)
def execShupImm (u : Bool) (d a : Reg) (n : BitVec 6) (s : State) : Out :=
  .next (s.lane (fun c => c.lanes u d (fun l => c.srcOf a (upLane c.W l n.toNat) l)) 1)
def execShdnImm (u : Bool) (d a : Reg) (n : BitVec 6) (s : State) : Out :=
  .next (s.lane (fun c => c.lanes u d (fun l => c.srcOf a (l + n.toNat) l)) 1)
def execShxrImm (u : Bool) (d a : Reg) (n : BitVec 6) (s : State) : Out :=
  .next (s.lane (fun c => c.lanes u d (fun l => c.srcOf a (l ^^^ n.toNat) l)) 1)
def execBcst (u : Bool) (d a b : Reg) (s : State) : Out :=
  .next (s.lane (fun c => c.lanes u d (fun _ => c.get a ((c.uget b).toNat % c.W))) 1)

/-- The reductions and scans on words (R93, R94). -/
def opWord (o : RedOp) (uns : Bool) (x y : Word) : Word :=
  match o with
  | .add => x + y
  | .min => minW uns x y
  | .max => maxW uns x y
  | .and => x &&& y
  | .or => x ||| y
  | .xor => x ^^^ y
def idWord (o : RedOp) (uns : Bool) : Word :=
  match o with
  | .add | .or | .xor => 0
  | .and => 0xFFFFFFFF
  | .min => if uns then 0xFFFFFFFF else 0x7FFFFFFF
  | .max => if uns then 0 else 0x80000000
def opDWord (o : RedOp) (uns : Bool) (x y : DWord) : DWord :=
  match o with
  | .add => x + y
  | .min => minD uns x y
  | .max => maxD uns x y
  | .and => x &&& y
  | .or => x ||| y
  | .xor => x ^^^ y
def idDWord (o : RedOp) (uns : Bool) : DWord :=
  match o with
  | .add | .or | .xor => 0
  | .and => 0xFFFFFFFFFFFFFFFF
  | .min => if uns then 0xFFFFFFFFFFFFFFFF else 0x7FFFFFFFFFFFFFFF
  | .max => if uns then 0 else 0x8000000000000000

/-- The balanced tree of R93 over a list of a power of two of elements: neighbours are combined at each level. -/
def treePairs {α : Type} (f : α → α → α) : List α → List α
  | x :: y :: l => f x y :: treePairs f l
  | l => l
def treeRed {α : Type} (f : α → α → α) (d : α) : Nat → List α → α
  | 0, l => l.headD d
  | n + 1, l => treeRed f d n (treePairs f l)

/-- The value of an active lane, or the identity (R93). -/
def Cohort.redSource {α : Type} (c : Cohort) (ident : α) (f : Nat → α) : List α :=
  (List.range c.W).map (fun l => if c.rd.exec.getLsbD l then f l else ident)

def execVred (_u : Bool) (d a : Reg) (wide uns : Bool) (op : RedOp) (s : State) : Out :=
  .next (s.lane (fun c =>
    if wide then c.uniformPair d (treeRed (opDWord op uns) 0 6 (c.redSource (idDWord op uns) (c.getPair a)))
    else c.uniform d (treeRed (opWord op uns) 0 6 (c.redSource (idWord op uns) (c.get a)))) 1)

/-- SCAN's value in a lane: over the active lanes before it, and the lane itself when inclusive (R94). -/
def Cohort.scanAt (c : Cohort) (a : Reg) (excl uns : Bool) (op : RedOp) (lane : Nat) : Word :=
  (c.active.filter (fun l => decide (l < lane) || (!excl && l == lane))).foldl
    (fun acc l => opWord op uns acc (c.get a l)) (idWord op uns)
def execScan (u : Bool) (d a : Reg) (excl uns : Bool) (op : RedOp) (s : State) : Out :=
  .next (s.lane (fun c => c.lanes u d (fun l =>
    if u && c.active.isEmpty then (if excl then idWord op uns else opWord op uns (idWord op uns) (c.get a l))
    else c.scanAt a excl uns op l)) 1)

/-! ## Special registers (R31, R95 to R97) -/

/-- The value that RDS reads in a lane (R31, R96). -/
def State.special (s : State) (idx lane : Nat) : DWord :=
  let c := s.co
  let v := c.rd
  match idx with
  | 0 => v.exec
  | 1 => BitVec.ofNat 64 lane
  | 2 => BitVec.ofNat 64 c.W
  | 3 => BitVec.ofNat 64 c.cohid
  | 4 => BitVec.ofNat 64 c.teamid
  | 5 => BitVec.ofNat 64 c.teamN
  | 6 => c.launchid.setWidth 64
  | 7 => BitVec.ofNat 64 (256 * c.tenant + c.ctx)
  | 8 => BitVec.ofNat 64 (v.wdepth % c.S)
  | 9 => BitVec.ofNat 64 v.wdepth
  | 10 => BitVec.ofNat 64 c.wlimit
  | 11 => v.flags.setWidth 64
  | 12 => v.trapcause.setWidth 64
  | 13 => v.trappc
  | 14 => if c.skid then 1 else 0
  | 15 => v.seed
  | 16 => BitVec.ofNat 64 s.clk
  | _ => BitVec.ofNat 64 (c.shareN + (if c.shareN = 0 then 0 else 256 * c.shareB))

/-- The special registers read into a pair (R95). -/
def specialWide (idx W : Nat) : Bool := idx == 13 || idx == 15 || idx == 16 || (idx == 0 && W == 64)

def execRds (u : Bool) (d : Reg) (idx : BitVec 6) (s : State) : Out :=
  .next (s.lane (fun c =>
    if specialWide idx.toNat c.W then c.lanesPair u d (s.special idx.toNat)
    else c.lanes u d (fun l => loOf (s.special idx.toNat l))) 1)

/-- What WRS writes (R28, R33, R97). -/
def Cohort.writeSpecial (c : Cohort) (a : Reg) (idx : Nat) : Cohort :=
  if idx = 0 then c.setExec (if c.W = 64 then c.ugetPair a else (c.uget a).setWidth 64)
  else if idx = 12 then { c with v := { c.v with trapcause := (c.uget a).setWidth 16 } }
  else if idx = 13 then { c with v := { c.v with trappc := c.ugetPair a } }
  else if idx = 15 then { c with v := { c.v with seed := c.ugetPair a } }
  else c
def execWrs (_u : Bool) (a : Reg) (idx : BitVec 6) (s : State) : Out :=
  .next (s.lane (fun c => c.writeSpecial a idx.toNat) 1)

end Sys2Proof.Machine
end

