-- ==== Sys2Proof/Machine/Numbers.lean ====
section
/-!
DEFINITION. Number formats to the bit (R100 to R120): values of codes, the one rounding of an exact value (R114, R115),
stochastic draws (R117), NaNs across formats (R120), and block decoding (R109).
-/

namespace Sys2Proof.Machine

/-- How a format treats infinity and NaN (R100, R101). -/
inductive FmtKind where
  | ieee | e4m3 | finite
  deriving DecidableEq, Repr

/-- A floating-point format (R100): exponent bits, fraction bits, kind. -/
structure Fmt where
  e : Nat
  m : Nat
  kind : FmtKind
  deriving DecidableEq, Repr

def Fmt.f32 : Fmt := ⟨8, 23, .ieee⟩
def Fmt.f16 : Fmt := ⟨5, 10, .ieee⟩
def Fmt.b16 : Fmt := ⟨8, 7, .ieee⟩
def Fmt.e5m2 : Fmt := ⟨5, 2, .ieee⟩
def Fmt.e4m3 : Fmt := ⟨4, 3, .e4m3⟩
def Fmt.e3m2 : Fmt := ⟨3, 2, .finite⟩
def Fmt.e2m3 : Fmt := ⟨2, 3, .finite⟩
def Fmt.e2m1 : Fmt := ⟨2, 1, .finite⟩

/-- The exponent bias (R100). -/
def Fmt.bias (f : Fmt) : Nat := 2 ^ (f.e - 1) - 1
/-- The sign bit's place. -/
def Fmt.sign (f : Fmt) : Nat := 2 ^ (f.e + f.m)
/-- The code of the largest finite magnitude (R100, R101). -/
def Fmt.maxCode (f : Fmt) : Nat :=
  match f.kind with
  | .ieee => (2 ^ f.e - 1) * 2 ^ f.m - 1
  | .e4m3 => 2 ^ (f.e + f.m) - 2
  | .finite => 2 ^ (f.e + f.m) - 1
/-- The code of +infinity; for E4M3 that of its NaN (R115, R119). -/
def Fmt.infCode (f : Fmt) : Nat :=
  match f.kind with
  | .ieee => (2 ^ f.e - 1) * 2 ^ f.m
  | .e4m3 => 2 ^ (f.e + f.m) - 1
  | .finite => f.maxCode
/-- The canonical NaN (R102); a format without NaN has none, and takes +0 (R119). -/
def Fmt.nanCode (f : Fmt) : Nat :=
  match f.kind with
  | .ieee => (2 ^ f.e - 1) * 2 ^ f.m + 2 ^ (f.m - 1)
  | .e4m3 => 2 ^ (f.e + f.m) - 1
  | .finite => 0

/-- A decoded value: a NaN with its fraction, an infinity, or sign and magnitude n * 2^x, exactly. -/
inductive FVal where
  | nan (neg : Bool) (frac : Nat)
  | inf (neg : Bool)
  | num (neg : Bool) (n : Nat) (x : Int)
  deriving DecidableEq, Repr

/-- The value of a code (R101); bits above the format are ignored. -/
def Fmt.value (f : Fmt) (code : Nat) : FVal :=
  let c := code % (2 * f.sign)
  let neg := decide (f.sign ≤ c)
  let mag := c % f.sign
  let E := mag / 2 ^ f.m
  let F := mag % 2 ^ f.m
  let fin : FVal :=
    if E = 0 then .num neg F (1 - (f.bias : Int) - f.m) else .num neg (2 ^ f.m + F) ((E : Int) - f.bias - f.m)
  match f.kind with
  | .ieee => if E = 2 ^ f.e - 1 then (if F = 0 then .inf neg else .nan neg F) else fin
  | .e4m3 => if mag = 2 ^ (f.e + f.m) - 1 then .nan neg F else fin
  | .finite => fin

/-- Whether a code is a NaN. -/
def Fmt.isNan (f : Fmt) (code : Nat) : Bool := match f.value code with
  | .nan _ _ => true
  | .inf _ | .num _ _ _ => false

/-- A power of two with an integer exponent, as numerator and denominator. -/
def pow2 (x : Int) : Nat × Nat := if 0 ≤ x then (2 ^ x.toNat, 1) else (1, 2 ^ (-x).toNat)

/-- floor(log2 (a / b)) of a positive rational. -/
def floorLog2 (a b : Nat) : Int :=
  let k : Int := (Nat.log2 a : Int) - Nat.log2 b
  let (p, q) := pow2 k
  if p * b ≤ a * q then k else k - 1

/-- Which of the two neighbours lo = n and hi = n + 1 a magnitude n + rem / den takes (R114, R117). -/
def roundUp (mode : Rnd) (neg : Bool) (n rem den : Nat) (draw : Word) : Bool :=
  if rem = 0 then false
  else match mode with
    | .rn => decide (den < 2 * rem) || (decide (2 * rem = den) && n % 2 == 1)
    | .rz => false
    | .ru => !neg
    | .rd => neg
    | .rs => decide (draw.toNat < rem * 2 ^ 32 / den)

/-- What a magnitude above the largest finite one gives (R115). -/
def Fmt.overflow (f : Fmt) (mode : Rnd) (sat neg : Bool) : Nat :=
  if sat then f.maxCode
  else match mode with
    | .rn => f.infCode
    | .rz | .rs => f.maxCode
    | .ru => if neg then f.maxCode else f.infCode
    | .rd => if neg then f.infCode else f.maxCode

/-- Round (R114, R115) of the exact value (-1)^neg * a / b, b positive, to a format. -/
def Fmt.round (f : Fmt) (mode : Rnd) (sat neg : Bool) (a b : Nat) (draw : Word) : Nat :=
  let s := if neg then f.sign else 0
  if a = 0 then s
  else
    let u : Int := max (floorLog2 a b - f.m) (1 - (f.bias : Int) - f.m)
    let (p, q) := pow2 u
    let den := b * p
    let n := a * q / den
    let rem := a * q % den
    let base : Nat := (u + f.bias + f.m).toNat * 2 ^ f.m
    let above := decide (f.maxCode < base + n - 2 ^ f.m) || (decide (base + n - 2 ^ f.m = f.maxCode) && rem != 0)
    let n' := if mode = .rs && above then n else if roundUp mode neg n rem den draw then n + 1 else n
    let code := base + n' - 2 ^ f.m
    s + (if f.maxCode < code then f.overflow mode sat neg else code)

/-- Round of a dyadic value n * 2^x. -/
def Fmt.roundD (f : Fmt) (mode : Rnd) (sat neg : Bool) (n : Nat) (x : Int) (draw : Word) : Nat :=
  let (p, q) := pow2 x
  f.round mode sat neg (n * p) q draw

/-- The stochastic draw (R117). -/
def srRound (i : Nat) (x0 x1 x2 x3 a b : Word) : Word :=
  match i with
  | 0 => x0 ^^^ x1 ^^^ x2 ^^^ x3
  | i + 1 =>
    let x0 := x0 + x1 + a
    let x3 := (x3 ^^^ x0).rotateLeft 16
    let x2 := x2 + x3 + b
    let x1 := (x1 ^^^ x2).rotateLeft 12
    let x0 := x0 + x1
    let x3 := (x3 ^^^ x0).rotateLeft 8
    let x2 := x2 + x3
    let x1 := (x1 ^^^ x2).rotateLeft 7
    srRound i x0 x1 x2 x3 (a + 0x9E3779B9) (b + 0xBB67AE85)
def srDraw (seed : DWord) (e sw k : Word) : Word := srRound 4 e sw k 0x6A09E667 (loOf seed) (hiOf seed)

/-- The draw of a lane for element j of m (R118). -/
def Cohort.draw (c : Cohort) (lane m j : Nat) : Word :=
  let g := c.teamid * c.teamN + c.cohid * c.W + lane
  srDraw c.rd.seed (BitVec.ofNat 32 (m * g + j)) c.rd.sw c.rd.k
/-- One .rs instruction has been performed (R116). -/
def Cohort.drawn (c : Cohort) (r : Rnd) : Cohort :=
  if r = .rs then { c with v := { c.v with k := c.v.k + 1 } } else c

/-- A NaN carried from fraction width m1 to another format (R119, R120). -/
def Fmt.nanFrom (f : Fmt) (neg : Bool) (m1 frac : Nat) : Nat :=
  match f.kind with
  | .finite => 0
  | .e4m3 => (if neg then f.sign else 0) + f.nanCode
  | .ieee =>
    let g := if f.m ≤ m1 then frac / 2 ^ (m1 - f.m) else frac * 2 ^ (f.m - m1)
    let quiet := 2 ^ (f.m - 1)
    (if neg then f.sign else 0) + f.infCode + (if quiet ≤ g then g else g + quiet)

/-- A value carried into a format (R119, R138): NaNs and infinities by their tables, numbers by Round. -/
def Fmt.convert (f src : Fmt) (mode : Rnd) (sat : Bool) (v : FVal) (draw : Word) : Nat :=
  match v with
  | .nan neg frac => f.nanFrom neg src.m frac
  | .inf neg =>
    (if neg then f.sign else 0) + (match f.kind with
      | .ieee => f.infCode
      | .e4m3 => if sat then f.maxCode else f.nanCode
      | .finite => f.maxCode)
  | .num neg n x => f.roundD mode sat neg n x draw

/-- The sum of two dyadic values: sign and magnitude; an exact zero is +0 but for two zeros of sign - (R125). -/
def addExact (s1 : Bool) (n1 : Nat) (x1 : Int) (s2 : Bool) (n2 : Nat) (x2 : Int) : Bool × Nat × Int :=
  let x := min x1 x2
  let a := n1 * 2 ^ (x1 - x).toNat
  let b := n2 * 2 ^ (x2 - x).toNat
  if s1 = s2 then (s1, a + b, x)
  else if a = b then (false, 0, x)
  else if b < a then (s1, a - b, x)
  else (s2, b - a, x)

/-- A NaN operand with its quiet bit set (R124). -/
def Fmt.quiet (f : Fmt) (code : Nat) : Nat :=
  let c := code % (2 * f.sign)
  let q := 2 ^ (f.m - 1)
  if c / q % 2 = 1 then c else c + q

/-- FADD of two codes (R124, R125, R127). -/
def Fmt.add (f : Fmt) (a b : Nat) : Nat :=
  match f.value a, f.value b with
  | .nan _ _, _ => f.quiet a
  | _, .nan _ _ => f.quiet b
  | .inf s, .inf t => if s = t then a % (2 * f.sign) else f.nanCode
  | .inf _, .num _ _ _ => a % (2 * f.sign)
  | .num _ _ _, .inf _ => b % (2 * f.sign)
  | .num s1 n1 x1, .num s2 n2 x2 =>
    let r := addExact s1 n1 x1 s2 n2 x2
    f.roundD .rn false r.1 r.2.1 r.2.2 0
/-- The code with its sign changed. -/
def Fmt.negate (f : Fmt) (a : Nat) : Nat := let c := a % (2 * f.sign); if f.sign ≤ c then c - f.sign else c + f.sign
/-- FSUB: a NaN B keeps its sign (R124). -/
def Fmt.sub (f : Fmt) (a b : Nat) : Nat :=
  if f.isNan a then f.quiet a else if f.isNan b then f.quiet b else f.add a (f.negate b)
/-- FMUL (R124, R125, R127). -/
def Fmt.mul (f : Fmt) (a b : Nat) : Nat :=
  let sgn (s : Bool) (c : Nat) : Nat := (if s then f.sign else 0) + c
  match f.value a, f.value b with
  | .nan _ _, _ => f.quiet a
  | _, .nan _ _ => f.quiet b
  | .inf s, .inf t => sgn (s != t) f.infCode
  | .inf s, .num t n _ => if n = 0 then f.nanCode else sgn (s != t) f.infCode
  | .num s n _, .inf t => if n = 0 then f.nanCode else sgn (s != t) f.infCode
  | .num s n x, .num t k y => f.roundD .rn false (s != t) (n * k) (x + y) 0
/-- The fused multiply-add, rounded once (R128). -/
def Fmt.fma (f : Fmt) (a b c : Nat) : Nat :=
  match f.value a, f.value b, f.value c with
  | .nan _ _, _, _ => f.quiet a
  | _, .nan _ _, _ => f.quiet b
  | _, _, .nan _ _ => f.quiet c
  | .num s n x, .num t k y, .num w l z =>
    let r := addExact (s != t) (n * k) (x + y) w l z
    f.roundD .rn false r.1 r.2.1 r.2.2 0
  | .num _ _ _, .num _ _ _, .inf _ => c % (2 * f.sign)
  | va, vb, vc =>
    -- at least one of a and b is infinite
    let zero := match va, vb with
      | .num _ 0 _, _ => true
      | _, .num _ 0 _ => true
      | _, _ => false
    let sg (v : FVal) : Bool := match v with
      | .nan s _ => s
      | .inf s => s
      | .num s _ _ => s
    let ps := sg va != sg vb
    if zero then f.nanCode
    else match vc with
      | .inf t => if t = ps then c % (2 * f.sign) else f.nanCode
      | .num _ _ _ | .nan _ _ => (if ps then f.sign else 0) + f.infCode

/-- Numeric order of two codes that are not NaN: -1, 0 or 1, with -0 = +0 (R130). -/
def Fmt.order (f : Fmt) (a b : Nat) : Int :=
  let key (c : Nat) : Int := let c := c % (2 * f.sign); if f.sign ≤ c then -((c - f.sign : Nat) : Int) else (c : Int)
  if key a < key b then -1 else if key b < key a then 1 else 0
/-- FMIN and FMAX: with -0 < +0, A if equal (R127). -/
def Fmt.minmax (f : Fmt) (greatest : Bool) (a b : Nat) : Nat :=
  if f.isNan a then f.quiet a
  else if f.isNan b then f.quiet b
  else
    let am := a % (2 * f.sign)
    let bm := b % (2 * f.sign)
    let o := f.order a b
    let aneg := decide (f.sign ≤ am)
    let bneg := decide (f.sign ≤ bm)
    let lt := o == -1 || (o == 0 && aneg && !bneg)
    let gt := o == 1 || (o == 0 && !aneg && bneg)
    if greatest then (if lt then bm else am) else (if gt then bm else am)

/-- A float condition (R130). -/
def Fmt.cond (f : Fmt) (k : FloatCond) (a b : Nat) : Bool :=
  let un := f.isNan a || f.isNan b
  let o := f.order a b
  match k with
  | .eq => !un && o == 0
  | .ne => un || o != 0
  | .lt => !un && o == -1
  | .le => !un && o != 1
  | .gt => !un && o == 1
  | .ge => !un && o != -1
  | .ord => !un
  | .unord => un

/-- FCLASS (R131). -/
def Fmt.fclass (f : Fmt) (a : Nat) : Nat :=
  match f.value a with
  | .nan _ frac => if frac / 2 ^ (f.m - 1) % 2 = 1 then 512 else 256
  | .inf neg => if neg then 1 else 128
  | .num neg n _ =>
    if n = 0 then (if neg then 8 else 16)
    else if n < 2 ^ f.m then (if neg then 4 else 32)
    else (if neg then 2 else 64)

/-- A magnitude rounded to an integer (R132). -/
def roundInt (mode : Rnd) (neg : Bool) (n : Nat) (x : Int) (draw : Word) : Nat :=
  let (p, q) := pow2 x
  let k := n * p / q
  let rem := n * p % q
  if roundUp mode neg k rem q draw then k + 1 else k

/-- FRINT (R132). -/
def Fmt.rint (f : Fmt) (mode : Rnd) (a : Nat) (draw : Word) : Nat :=
  match f.value a with
  | .nan _ _ => f.quiet a
  | .inf _ => a % (2 * f.sign)
  | .num neg n x =>
    if n = 0 || decide (0 ≤ x) then a % (2 * f.sign) else f.roundD mode false neg (roundInt mode neg n x draw) 0 0
/-- FSCALE (R132). Scales beyond 2^1000 give the result of 2^1000: every format's range lies far inside. -/
def Fmt.scale (f : Fmt) (mode : Rnd) (a : Nat) (n : Int) (draw : Word) : Nat :=
  match f.value a with
  | .nan _ _ => f.quiet a
  | .inf _ => a % (2 * f.sign)
  | .num neg k x => if k = 0 then a % (2 * f.sign) else f.roundD mode false neg k (x + max (-1000) (min 1000 n)) draw

/-! ## Blocks (R104, R105, R107 to R109) -/

/-- The element format of a floating block format; none for the integers. -/
def blockFmt : BlkFmt → Option Fmt
  | .e4m3 => some .e4m3
  | .e5m2 => some .e5m2
  | .e3m2 => some .e3m2
  | .e2m3 => some .e2m3
  | .e2m1 | .e2m1s => some .e2m1
  | .q8 | .q4 => none

/-- A two's-complement integer of n bits as sign and magnitude. -/
def intMag (n c : Nat) : Bool × Nat :=
  let c := c % 2 ^ n
  if 2 ^ (n - 1) ≤ c then (true, 2 ^ n - c) else (false, c)

/-- The exact unscaled value of an element code (R101, R104, R105); q is its scale record, for the special value of E2M1S. -/
def blockValue (k : BlkFmt) (c q : Nat) : FVal :=
  match k with
  | .q8 => let m := intMag 8 c; .num m.1 m.2 0
  | .q4 => let m := intMag 4 c; .num m.1 m.2 0
  | .e2m1s => if c % 16 = 8 then .num (q / 128 % 2 == 1) (q % 128) (-1) else Fmt.e2m1.value c
  | .e4m3 => Fmt.e4m3.value c
  | .e5m2 => Fmt.e5m2.value c
  | .e3m2 => Fmt.e3m2.value c
  | .e2m3 => Fmt.e2m3.value c
  | .e2m1 => Fmt.e2m1.value c

/-- DecodeBlock (R109): an element as FP32. -/
def decodeBlock (k : BlkFmt) (c q : Nat) : Nat :=
  let E := q / 256 % 256
  if E = 255 then 0x7FC00000
  else match blockValue k c q with
    | .nan _ _ => 0x7FC00000
    | .inf neg => if neg then 0xFF800000 else 0x7F800000
    | .num neg n x => Fmt.f32.roundD .rn false neg n (x + E - 127) 0

end Sys2Proof.Machine
end

