-- ==== Sys2Proof/Machine/Special.lean ====
section
/-!
DEFINITION. The special functions (R133): every result is the exact value rounded once to FP32. Reciprocals and square roots are
rounded from exact integers. The others are bounded from both sides in fixed point with 160 fraction bits; where both bounds
round to one code, that code is the exact value's. Where they do not, which no operand is expected to reach, the value is the
free value Config.sfuValue (log entry 12).
-/

namespace Sys2Proof.Machine

/-- The fixed-point unit: 2^160. -/
def fxBits : Nat := 160
def fxOne : Nat := 2 ^ 160
/-- floor(pi * 2^160) and floor(ln 2 * 2^160). -/
def fxPi : Nat := 0x3243f6a8885a308d313198a2e03707344a4093822
def fxLn2 : Nat := 0xb17217f7d1cf79abc9e3b39803f2f6af40f34326

/-- floor(sqrt n), by bits from 2^(k-1) down; n < 4^k. -/
def isqrtBits (n : Nat) : Nat → Nat → Nat
  | 0, r => r
  | k + 1, r => let t := r + 2 ^ k; isqrtBits n k (if t * t ≤ n then t else r)
def isqrt (n : Nat) : Nat := isqrtBits n (Nat.log2 n / 2 + 1) 0

/-- Products of fixed-point numbers, rounded down and up. -/
def fxMulLo (a b : Nat) : Nat := a * b / fxOne
def fxMulHi (a b : Nat) : Nat := a * b / fxOne + 1

/-- Bounds of an exact value: lower and upper, in fixed point. -/
abbrev Bounds := Nat × Nat

/-- The sum over n of y^n / ((n+1) ... (n+j)) terms: each term is the one before times y / (i + n + 1); every term positive. The last
term bounds the rest, since y is at most 20 and 150 terms are taken. -/
def fxSeries (ylo yhi : Nat) : (fuel i : Nat) → (tlo thi slo shi : Nat) → Bounds
  | 0, _, _, thi, slo, shi => (slo, shi + thi + 1)
  | fuel + 1, i, tlo, thi, slo, shi =>
    let tlo' := fxMulLo tlo ylo / (i + 1)
    let thi' := fxMulHi thi yhi / (i + 1) + 1
    fxSeries ylo yhi fuel (i + 1) tlo' thi' (slo + tlo') (shi + thi')

/-- Bounds of e^y for y from 0 to 20. -/
def fxExp (y : Bounds) : Bounds := fxSeries y.1 y.2 150 0 fxOne fxOne fxOne fxOne
/-- Bounds of (e^y - 1) / y for y from 0 to 2. -/
def fxExpm1 (y : Bounds) : Bounds := fxSeries y.1 y.2 150 1 fxOne fxOne fxOne fxOne

/-- The alternating sum 1 - t1 + t2 - ..., with t(n+1) = t(n) * w / ((2n + j)(2n + j + 1)), for w at most 1; the terms fall, so
the sum lies between partial sums of both parities. -/
def fxAlt (wlo whi j : Nat) : (fuel n : Nat) → (tlo thi : Nat) → (plo phi mlo mhi : Nat) → Bounds
  | 0, _, _, thi, plo, phi, mlo, mhi => (plo - mhi - thi - 1, phi + thi + 1 - mlo)
  | fuel + 1, n, tlo, thi, plo, phi, mlo, mhi =>
    let d := (2 * n + j) * (2 * n + j + 1)
    let tlo' := fxMulLo tlo wlo / d
    let thi' := fxMulHi thi whi / d + 1
    if n % 2 = 0 then fxAlt wlo whi j fuel (n + 1) tlo' thi' plo phi (mlo + tlo') (mhi + thi')
    else fxAlt wlo whi j fuel (n + 1) tlo' thi' (plo + tlo') (phi + thi') mlo mhi

/-- Bounds of sin(x)/x and cos(x), from bounds of x^2 at most 1. -/
def fxSinc (w : Bounds) : Bounds := fxAlt w.1 w.2 2 40 0 fxOne fxOne fxOne fxOne 0 0
def fxCos (w : Bounds) : Bounds := fxAlt w.1 w.2 1 40 0 fxOne fxOne fxOne fxOne 0 0

/-- The sum over n of z^(2n) / (2n + 1), for z at most 1/3: atanh(z)/z. -/
def fxAtanhAux (zlo zhi : Nat) : (fuel n : Nat) → (plo phi slo shi : Nat) → Bounds
  | 0, _, _, phi, slo, shi => (slo, shi + phi + 1)
  | fuel + 1, n, plo, phi, slo, shi =>
    let plo' := fxMulLo plo zlo
    let phi' := fxMulHi phi zhi
    fxAtanhAux zlo zhi fuel (n + 1) plo' phi' (slo + plo' / (2 * n + 3)) (shi + phi' / (2 * n + 3) + 1)

/-- A dyadic n * 2^x as fixed-point bounds. -/
def fxOf (n : Nat) (x : Int) : Bounds :=
  let (p, q) := pow2 (x + 160)
  (n * p / q, n * p / q + (if n * p % q = 0 then 0 else 1))

/-- The code that both bounds round to, where they do; otherwise the free value. scale is the power of two, and k the exact
factor, by which the bounds are multiplied: (-1)^neg * bounds * k * 2^scale. -/
def fxRound (fn operand : Nat) (neg : Bool) (b : Bounds) (k : Nat) (scale : Int) : Nat :=
  let lo := Fmt.f32.roundD .rn false neg (b.1 * k) (scale - 160) 0
  let hi := Fmt.f32.roundD .rn false neg (b.2 * k) (scale - 160) 0
  if lo = hi then lo else (Config.sfuValue fn operand).toNat

/-- A quotient of bounds, in fixed point. -/
def fxDiv (a b : Bounds) : Bounds := (a.1 * fxOne / b.2, a.2 * fxOne / b.1 + 1)

/-- FP32 sign and constants. -/
def f32Neg (neg : Bool) (code : Nat) : Nat := if neg then code + 0x80000000 else code
def f32One : Nat := 0x3F800000
def f32Nan : Nat := 0x7FC00000
def f32Inf : Nat := 0x7F800000

/-- 2^a for -1 <= a <= 1 (R133). -/
def sfXp2 (a : Nat) : Nat :=
  match Fmt.f32.value a with
  | .nan _ _ => Fmt.f32.quiet a
  | .inf _ => f32Nan
  | .num neg n x =>
    let y := fxOf n x
    if n = 0 then f32One
    else if decide (fxOne < y.2) && decide (fxOne < y.1 + 1) then f32Nan
    else
      -- e^(|a| ln 2); a negative exponent gives its reciprocal, as e^((1 - |a|) ln 2) / 2
      let z : Bounds := if neg then (fxOne - y.2, fxOne - y.1) else y
      let b := fxExp (fxMulLo z.1 fxLn2, fxMulHi z.2 (fxLn2 + 1))
      fxRound 0 a false b 1 (if neg then -1 else 0)

/-- log2 a (R133). -/
def sfLog2 (a : Nat) : Nat :=
  match Fmt.f32.value a with
  | .nan _ _ => Fmt.f32.quiet a
  | .inf neg => if neg then f32Nan else f32Inf
  | .num neg n x =>
    if n = 0 then 0xFF800000
    else if neg then f32Nan
    else
      let h := Nat.log2 n
      let k : Int := (h : Int) + x
      if n = 2 ^ h then Fmt.f32.roundD .rn false (decide (k < 0)) k.natAbs 0 0
      else
        -- log2 of n / 2^h, between 0 and 1, is 2 atanh(z) / ln 2 with z = (n - 2^h) / (n + 2^h)
        let num := (n - 2 ^ h) * fxOne
        let den := n + 2 ^ h
        let z : Bounds := (num / den, num / den + 1)
        let w : Bounds := (fxMulLo z.1 z.1, fxMulHi z.2 z.2)
        let s := fxAtanhAux w.1 w.2 60 0 fxOne fxOne fxOne fxOne
        let l := fxDiv (2 * fxMulLo z.1 s.1, 2 * fxMulHi z.2 s.2) (fxLn2, fxLn2 + 1)
        if 0 ≤ k then fxRound 1 a false (k.toNat * fxOne + l.1, k.toNat * fxOne + l.2) 1 0
        else fxRound 1 a true (k.natAbs * fxOne - l.2, k.natAbs * fxOne - l.1) 1 0

/-- 1 / a (R133). -/
def sfRcp (a : Nat) : Nat :=
  match Fmt.f32.value a with
  | .nan _ _ => Fmt.f32.quiet a
  | .inf neg => f32Neg neg 0
  | .num neg n x =>
    if n = 0 then f32Neg neg f32Inf
    else let (p, q) := pow2 x; Fmt.f32.round .rn false neg q (n * p) 0

/-- The root of the positive rational p / q, rounded once: exact where the root is, otherwise a value strictly between the same
neighbours. -/
def rootRound (p q : Nat) : Nat :=
  let K := 2 * Nat.log2 q + 64
  let r := isqrt (p * 4 ^ K / q)
  if r * r * q = p * 4 ^ K then Fmt.f32.round .rn false false r (2 ^ K) 0
  else Fmt.f32.round .rn false false (2 * r + 1) (2 * 2 ^ K) 0

/-- sqrt a (R133). -/
def sfSqrt (a : Nat) : Nat :=
  match Fmt.f32.value a with
  | .nan _ _ => Fmt.f32.quiet a
  | .inf neg => if neg then f32Nan else f32Inf
  | .num neg n x =>
    if n = 0 then a % 2 ^ 32
    else if neg then f32Nan
    else let (p, q) := pow2 x; rootRound (n * p) q

/-- 1 / sqrt a (R133). -/
def sfRsq (a : Nat) : Nat :=
  match Fmt.f32.value a with
  | .nan _ _ => Fmt.f32.quiet a
  | .inf neg => if neg then f32Nan else 0
  | .num neg n x =>
    if n = 0 then f32Neg neg f32Inf
    else if neg then f32Nan
    else let (p, q) := pow2 x; rootRound q (n * p)

/-- sin(pi r) for r = n * 2^x from 0 to 1/4: r times bounds of pi sinc(pi r). -/
def sinSmall (fn operand : Nat) (neg : Bool) (n : Nat) (x : Int) : Nat :=
  let r := fxOf n x
  let y : Bounds := (fxMulLo r.1 fxPi, fxMulHi r.2 (fxPi + 1))
  let s := fxSinc (fxMulLo y.1 y.1, fxMulHi y.2 y.2)
  fxRound fn operand neg (fxMulLo s.1 fxPi, fxMulHi s.2 (fxPi + 1)) n x

/-- cos(pi r) for r = n * 2^x from 0 to 1/4. -/
def cosSmall (fn operand : Nat) (neg : Bool) (n : Nat) (x : Int) : Nat :=
  let r := fxOf n x
  let y : Bounds := (fxMulLo r.1 fxPi, fxMulHi r.2 (fxPi + 1))
  fxRound fn operand neg (fxCos (fxMulLo y.1 y.1, fxMulHi y.2 y.2)) 1 0

/-- sin(pi r) for r = n / d from 0 to 1/2, d = 2^e, r given exactly; sign given. -/
def sinHalf (fn operand : Nat) (neg : Bool) (n e : Nat) : Nat :=
  if n * 4 ≤ 2 ^ e then sinSmall fn operand neg n (-(e : Int))
  else if n * 2 = 2 ^ e then f32Neg neg f32One
  else if 2 ≤ e then cosSmall fn operand neg (2 ^ (e - 1) - n) (-(e : Int)) else 0

/-- sin(pi r) for 0 < r < 2, r = n / 2^e; exact zeros have been taken out. -/
def sinTurn (fn operand : Nat) (neg : Bool) (n e : Nat) : Nat :=
  let one := 2 ^ e
  let neg' := if one ≤ n then !neg else neg
  let n := n % one
  if n * 2 ≤ one then sinHalf fn operand neg' n e else sinHalf fn operand neg' (one - n) e

/-- sin(pi a) (R133). -/
def sfSinPi (a : Nat) : Nat :=
  match Fmt.f32.value a with
  | .nan _ _ => Fmt.f32.quiet a
  | .inf _ => f32Nan
  | .num neg n x =>
    if n = 0 || decide (0 ≤ x) then f32Neg neg 0
    else
      let e := (-x).toNat
      if n % 2 ^ e = 0 then f32Neg neg 0
      else sinTurn 5 a neg (n % 2 ^ (e + 1)) e

/-- cos(pi a) = sin(pi (|a| + 1/2)); a = k + 1/2 gives +0 (R133). -/
def sfCosPi (a : Nat) : Nat :=
  match Fmt.f32.value a with
  | .nan _ _ => Fmt.f32.quiet a
  | .inf _ => f32Nan
  | .num _ n x =>
    if n = 0 then f32One
    else if 0 < x then f32One
    else
      let e := (-x).toNat + 1
      let t := (2 * n + 2 ^ (e - 1)) % 2 ^ (e + 1)
      if t % 2 ^ e = 0 then 0 else sinTurn 6 a false t e

/-- tanh a (R133). -/
def sfTanh (a : Nat) : Nat :=
  match Fmt.f32.value a with
  | .nan _ _ => Fmt.f32.quiet a
  | .inf neg => f32Neg neg f32One
  | .num neg n x =>
    if n = 0 then a % 2 ^ 32
    else
      let y := fxOf n x
      if 10 * fxOne ≤ y.1 then f32Neg neg f32One
      else if y.2 ≤ fxOne then
        -- a F / (a F + 1) with F = (e^(2a) - 1) / (2a)
        let F := fxExpm1 (2 * y.1, 2 * y.2)
        let d : Bounds := (fxMulLo y.1 F.1 + fxOne, fxMulHi y.2 F.2 + fxOne)
        fxRound 7 a neg (fxDiv F d) n x
      else
        let E := fxExp (2 * y.1, 2 * y.2)
        fxRound 7 a neg (fxDiv (E.1 - fxOne, E.2 - fxOne) (E.1 + fxOne, E.2 + fxOne)) 1 0

end Sys2Proof.Machine
end

