-- ==== Sys2Proof/Machine/Float.lean ====
section
/-!
DEFINITION. Floating-point arithmetic, comparison, conversion, special functions, block quantisation and the stochastic seed
(R121 to R143).
-/

namespace Sys2Proof.Machine

/-- The format of a float type (R55). -/
def fmtOf : FType → Fmt
  | .f32 => .f32
  | .f16 => .f16
  | .b16 => .b16

/-- A float operation of two operands in a format: narrow results have bits [31:16] 0 (R121). -/
def State.fbin (s : State) (u : Bool) (d a b : Reg) (f : Nat → Nat → Nat) : Out :=
  s.bin u d a b (fun x y => BitVec.ofNat 32 (f x.toNat y.toNat))

def execFadd (u : Bool) (d a b : Reg) (t : FType) (s : State) : Out := s.fbin u d a b (fmtOf t).add
def execFsub (u : Bool) (d a b : Reg) (t : FType) (s : State) : Out := s.fbin u d a b (fmtOf t).sub
def execFmul (u : Bool) (d a b : Reg) (t : FType) (s : State) : Out := s.fbin u d a b (fmtOf t).mul
def execFmin (u : Bool) (d a b : Reg) (t : FType) (s : State) : Out := s.fbin u d a b ((fmtOf t).minmax false)
def execFmax (u : Bool) (d a b : Reg) (t : FType) (s : State) : Out := s.fbin u d a b ((fmtOf t).minmax true)
def execFfma (d a b c : Reg) (s : State) : Out :=
  s.tern d a b c (fun x y z => BitVec.ofNat 32 (Fmt.f32.fma x.toNat y.toNat z.toNat))

/-- Both elements of packed operands (R121, R129). -/
def packed2 (f : Nat → Nat → Nat) (x y : Word) : Word :=
  BitVec.ofNat 32 (f (x.toNat % 65536) (y.toNat % 65536) + 65536 * f (x.toNat / 65536) (y.toNat / 65536))
def packed3 (f : Nat → Nat → Nat → Nat) (x y z : Word) : Word :=
  BitVec.ofNat 32 (f (x.toNat % 65536) (y.toNat % 65536) (z.toNat % 65536) +
    65536 * f (x.toNat / 65536) (y.toNat / 65536) (z.toNat / 65536))
/-- The packed element format (R129). -/
def packFmt (bf : Bool) : Fmt := if bf then .b16 else .f16
def execHadd2 (u : Bool) (d a b : Reg) (bf : Bool) (s : State) : Out := s.bin u d a b (packed2 (packFmt bf).add)
def execHmul2 (u : Bool) (d a b : Reg) (bf : Bool) (s : State) : Out := s.bin u d a b (packed2 (packFmt bf).mul)
def execHfma2F16 (d a b c : Reg) (s : State) : Out := s.tern d a b c (packed3 Fmt.f16.fma)
def execHfma2B16 (d a b c : Reg) (s : State) : Out := s.tern d a b c (packed3 Fmt.b16.fma)

def execFcmp (u : Bool) (d a b : Reg) (t : FType) (k : FloatCond) (s : State) : Out :=
  .next (s.lane (fun c => c.compare u d (fun l => (fmtOf t).cond k (c.get a l).toNat (c.get b l).toNat)) 1)
def execFclass (u : Bool) (d a : Reg) (t : FType) (s : State) : Out :=
  s.un u d a (fun x => BitVec.ofNat 32 ((fmtOf t).fclass x.toNat))
def execFrint (u : Bool) (d a : Reg) (t : FType) (r : Rnd) (s : State) : Out :=
  .next (s.lane (fun c =>
    (c.lanes u d (fun l => BitVec.ofNat 32 ((fmtOf t).rint r (c.get a l).toNat (c.draw l 1 0)))).drawn r) 1)
def execFscale (u : Bool) (d a b : Reg) (t : FType) (r : Rnd) (s : State) : Out :=
  .next (s.lane (fun c =>
    (c.lanes u d (fun l =>
      BitVec.ofNat 32 ((fmtOf t).scale r (c.get a l).toNat (c.get b l).toInt (c.draw l 1 0)))).drawn r) 1)

/-! ## Special functions (R133, R134) -/

/-- The entries held in the special-function queue of a core, oldest first: cohort and operation (R134). -/
def State.sfuQueue (s : State) (core : Nat) : List (Nat × Nat) :=
  (s.cohortsOn core).flatMap (fun c => (c.v.ops.filter (fun o => o.kind == .sfu)).map (fun o => (c.id, o.id)))

/-- A special function issues (R134): with all 16 entries held the cohort stays at the word until one is freed. -/
def State.sfu (s : State) (u : Bool) (d a : Reg) (f : Bool) (g : Nat → Nat) : Out :=
  let q := s.sfuQueue s.co.core
  if 16 ≤ q.length then .next (s.waitFor (q.head?.map (fun e => .sfuResult e.1 e.2)))
  else
    let c := s.co
    let ls := c.targets u
    let ws := ls.map (fun l =>
      (regKey c.v.wdepth c.S d l, (BitVec.ofNat 32 (g (c.get a (c.source u l)).toNat) : Word)))
    let (_, s) := s.startOp .sfu (c.flagOf f) (c.keysOf d ls) ws
    .next (s.lane id 1)

def execFxp2 (u : Bool) (d a : Reg) (f : Bool) (s : State) : Out := s.sfu u d a f sfXp2
def execFlog2 (u : Bool) (d a : Reg) (f : Bool) (s : State) : Out := s.sfu u d a f sfLog2
def execFrcp (u : Bool) (d a : Reg) (f : Bool) (s : State) : Out := s.sfu u d a f sfRcp
def execFrsq (u : Bool) (d a : Reg) (f : Bool) (s : State) : Out := s.sfu u d a f sfRsq
def execFsqrt (u : Bool) (d a : Reg) (f : Bool) (s : State) : Out := s.sfu u d a f sfSqrt
def execFsinpi (u : Bool) (d a : Reg) (f : Bool) (s : State) : Out := s.sfu u d a f sfSinPi
def execFcospi (u : Bool) (d a : Reg) (f : Bool) (s : State) : Out := s.sfu u d a f sfCosPi
def execFtanh (u : Bool) (d a : Reg) (f : Bool) (s : State) : Out := s.sfu u d a f sfTanh

/-- An outstanding operation of a cohort completes with the values it holds: registers are written, interlocks end and its flag
clears (R30, R134, R179). A cohort or operation that does not exist is left alone (log entry 7). -/
def State.completeOp (s : State) (co op : Nat) (k : OpKind) : State :=
  s.modCohort co (fun c => match c.op? op with
    | some o => if o.kind = k then c.complete op o.writes else c
    | none => c)

/-- SFU_RESULT: the last lane result of a special function is written (R134). -/
def execSfuResult (co op : Nat) (s : State) : Out := .next (s.completeOp co op .sfu)

/-! ## Conversion (R137 to R139) -/

/-- What a conversion type is: an integer of a width and signedness, or a float format (R55). -/
inductive CvtKind where
  | int (bits : Nat) (sgn : Bool)
  | flt (f : Fmt)
  deriving DecidableEq, Repr

def cvtKind : CvtType → CvtKind
  | .i8 => .int 8 true
  | .i16 => .int 16 true
  | .i32 => .int 32 true
  | .i64 => .int 64 true
  | .n8 => .int 8 false
  | .n16 => .int 16 false
  | .n32 => .int 32 false
  | .n64 => .int 64 false
  | .f32 => .flt .f32
  | .f16 => .flt .f16
  | .b16 => .flt .b16
  | .e4m3 => .flt .e4m3
  | .e5m2 => .flt .e5m2
  | .e3m2 => .flt .e3m2
  | .e2m3 => .flt .e2m3
  | .e2m1 => .flt .e2m1

/-- The integer in the low bits of a source (R137). -/
def intIn (bits : Nat) (sgn : Bool) (x : Nat) : Int :=
  let c := x % 2 ^ bits
  if sgn && decide (2 ^ (bits - 1) ≤ c) then (c : Int) - (2 ^ bits : Nat) else c
/-- The limits of an integer type. -/
def intLo (bits : Nat) (sgn : Bool) : Int := if sgn then -((2 ^ (bits - 1) : Nat) : Int) else 0
def intHi (bits : Nat) (sgn : Bool) : Int := (((if sgn then 2 ^ (bits - 1) else 2 ^ bits : Nat) : Nat) : Int) - 1
def clampInt (bits : Nat) (sgn : Bool) (x : Int) : Int := max (intLo bits sgn) (min (intHi bits sgn) x)
/-- An integer as a result register: low bits kept, then extended by its signedness (R137, R138). -/
def intOut (bits : Nat) (sgn : Bool) (x : Int) : DWord :=
  let low := BitVec.ofInt bits x
  if sgn then low.signExtend 64 else low.setWidth 64

/-- One conversion (R138). -/
def convert1 (r : Rnd) (sat : Bool) (t k : CvtType) (x : DWord) (draw : Word) : DWord :=
  match cvtKind k, cvtKind t with
  | .int sb ss, .int db ds =>
    let v := intIn sb ss x.toNat
    intOut db ds (if sat then clampInt db ds v else v)
  | .int sb ss, .flt f =>
    let v := intIn sb ss x.toNat
    BitVec.ofNat 64 (f.roundD r sat (decide (v < 0)) v.natAbs 0 draw)
  | .flt g, .int db ds =>
    match g.value x.toNat with
    | .nan _ _ => 0
    | .inf neg => intOut db ds (if neg then intLo db ds else intHi db ds)
    | .num neg n e =>
      let m : Int := roundInt r neg n e draw
      intOut db ds (clampInt db ds (if neg then -m else m))
  | .flt g, .flt f => BitVec.ofNat 64 (f.convert g r sat (g.value x.toNat) draw)

/-- Whether a conversion type is held in a pair (R137). -/
def cvtWide (t : CvtType) : Bool := t == .i64 || t == .n64
/-- The source of a conversion in a lane. -/
def Cohort.cvtIn (c : Cohort) (k : CvtType) (a : Reg) (l : Nat) : DWord :=
  if cvtWide k then c.getPair a l else (c.get a l).setWidth 64
/-- CVT and CVT.sat (R137 to R139): .rs advances the draw count once. -/
def State.conv (s : State) (u : Bool) (d a : Reg) (r : Rnd) (sat : Bool) (t k : CvtType) : Out :=
  .next (s.lane (fun c =>
    let f (l : Nat) : DWord := convert1 r sat t k (c.cvtIn k a l) (c.draw l 1 0)
    (if cvtWide t then c.lanesPair u d f else c.lanes u d (fun l => loOf (f l))).drawn r) 1)
def execCvt (u : Bool) (d a : Reg) (r : Rnd) (t k : CvtType) (s : State) : Out := s.conv u d a r false t k
def execCvtSat (u : Bool) (d a : Reg) (r : Rnd) (t k : CvtType) (s : State) : Out := s.conv u d a r true t k

/-! ## Blocks (R140 to R142) -/

/-- Emax of a block format (R141). -/
def blockEmax : BlkFmt → Int
  | .e4m3 => 8
  | .e5m2 => 15
  | .e3m2 => 4
  | .e2m3 | .e2m1 | .e2m1s => 2
  | .q8 => 6
  | .q4 => 2

/-- The code of a scaled value n * 2^x (R141): saturating; integers clamp to their range. -/
def blockEncode (k : BlkFmt) (r : Rnd) (neg : Bool) (n : Nat) (x : Int) (draw : Word) : Nat :=
  let int (bits : Nat) : Nat :=
    let m : Int := roundInt r neg n x draw
    (intOut bits true (clampInt bits true (if neg then -m else m))).toNat % 2 ^ bits
  match k with
  | .q8 => int 8
  | .q4 => int 4
  | .e4m3 => Fmt.e4m3.roundD r true neg n x draw
  | .e5m2 => Fmt.e5m2.roundD r true neg n x draw
  | .e3m2 => Fmt.e3m2.roundD r true neg n x draw
  | .e2m3 => Fmt.e2m3.roundD r true neg n x draw
  | .e2m1 | .e2m1s => Fmt.e2m1.roundD r true neg n x draw

/-- |a - b| of two dyadic values at a common exponent below both: as an integer in units of 2^x. -/
def absDiff (x : Int) (s1 : Bool) (n1 : Nat) (x1 : Int) (s2 : Bool) (n2 : Nat) (x2 : Int) : Nat :=
  let v1 : Int := (n1 * 2 ^ (x1 - x).toNat : Nat)
  let v2 : Int := (n2 * 2 ^ (x2 - x).toNat : Nat)
  ((if s1 then -v1 else v1) - (if s2 then -v2 else v2)).natAbs

/-- The sign, numerator and exponent of a finite FP32 code. -/
def f32Parts (a : Nat) : Bool × Nat × Int :=
  match Fmt.f32.value a with
  | .num neg n x => (neg, n, x)
  | .nan neg _ => (neg, 0, 0)
  | .inf neg => (neg, 0, 0)

/-- A block as QNT forms it: its scale record and the code of each of its active lanes (R141). -/
def quantBlock (k : BlkFmt) (r : Rnd) (vals : List (Nat × Nat)) (draw : Nat → Word) : Nat × List (Nat × Nat) :=
  let bad := vals.any (fun e => e.2 / 2 ^ 23 % 256 == 255)
  if bad then (0xFF00, vals.map (fun e => (e.1, 0)))
  else
    let amax := vals.foldl (fun m e => max m (e.2 % 2 ^ 31)) 0
    let (_, an, ax) := f32Parts amax
    let E : Int := if amax = 0 then 127 else max 0 (min 254 ((Nat.log2 an : Int) + ax - blockEmax k + 127))
    let y (a : Nat) : Bool × Nat × Int := let p := f32Parts a; (p.1, p.2.1, p.2.2 - (E - 127))
    let code (e : Nat × Nat) : Nat := let p := y e.2; blockEncode k r p.1 p.2.1 p.2.2 (draw e.1)
    let rec0 := E.toNat * 256
    match k with
    | .e2m1s =>
      match vals.find? (fun e => e.2 % 2 ^ 31 == amax) with
      | none => (rec0, vals.map (fun e => (e.1, code e)))
      | some m =>
        if amax = 0 then (rec0, vals.map (fun e => (e.1, code e)))
        else
          let (neg, n, x) := y m.2
          let sm := max 1 (min 127 (roundInt .rn neg n (x + 1) 0))
          let pick (e : Nat × Nat) : Nat :=
            let c := code e
            let (ys, yn, yx) := y e.2
            let b := min yx (-2)
            let (cs, cn, cx) := match Fmt.e2m1.value c with
              | .num g n x => (g, n, x)
              | .nan g _ => (g, 0, 0)
              | .inf g => (g, 0, 0)
            if absDiff b ys yn yx neg sm (-1) < absDiff b ys yn yx cs cn cx then 8
            else if c = 8 then 0 else c
          (rec0 + (if neg then 128 else 0) + sm, vals.map (fun e => (e.1, pick e)))
    | .e4m3 | .e5m2 | .e3m2 | .e2m3 | .e2m1 | .q8 | .q4 => (rec0, vals.map (fun e => (e.1, code e)))

/-- QNT writes block j of the cohort: lanes 32j to 32j + 31 (R141). -/
def Cohort.qntBlock (c0 : Cohort) (d a : Reg) (r : Rnd) (k : BlkFmt) (j : Nat) (c : Cohort) : Cohort :=
  let mine := c0.active.filter (fun l => l / 32 == j)
  let (q, codes) := quantBlock k r (mine.map (fun l => (l, (c0.get a l).toNat))) (fun l => c0.draw l 1 0)
  let c := codes.foldl (fun c e => c.setLane d e.1 (BitVec.ofNat 32 e.2)) c
  c.setLanes (d + 1) (fun _ => BitVec.ofNat 32 q) (c0.livel.filter (fun l => l / 32 == j))

/-- QNT (R141): at cohort width 8 or 16 it raises FORMAT 0x06. -/
def execQnt (d a : Reg) (r : Rnd) (k : BlkFmt) (s : State) : Out :=
  if s.co.W < 32 then .next (s.raise (flt causeFormat 6))
  else .next (s.lane (fun c => ((List.range (c.W / 32)).foldl (fun t j => c.qntBlock d a r k j t) c).drawn r) 1)

/-- DQT (R142). -/
def execDqt (u : Bool) (d a : Reg) (k : BlkFmt) (s : State) : Out :=
  .next (s.lane (fun c => c.lanes u d (fun l =>
    BitVec.ofNat 32 (decodeBlock k (c.get a l).toNat ((c.get (a + 1) l).toNat % 65536)))) 1)

/-- SRND (R143). -/
def execSrnd (a b : Reg) (s : State) : Out :=
  .next (s.lane (fun c => { c with v := { c.v with seed := c.ugetPair a, sw := c.uget b, k := 0 } }) 1)

end Sys2Proof.Machine
end

