-- ==== Sys2Proof/Machine/Memory.lean ====
section
/-!
DEFINITION. Loads, stores, format-decoding accesses, prefetches, atomics and fences (R170 to R190), and the steps by which they
complete.
-/

namespace Sys2Proof.Machine

/-! ## Addresses of lanes and their resolution -/

/-- Addr(l) of format M (R170): an index equal to the base names none. -/
def Cohort.laneAddr (c : Cohort) (b x : Reg) (off : Option Word) (l : Nat) : Nat :=
  (c.getPair b l + (if b = x then 0 else (c.get x l).setWidth 64) + (off.getD 0).signExtend 64).toNat

/-- The words that a format M instruction takes. -/
def wordsM (off : Option Word) : Nat := if off.isSome then 2 else 1

/-- The first poisoned byte of an access: its place and its sector. -/
def State.poisonOf (s : State) (pas : List Nat) : Option (Nat × Nat) :=
  if s.poison.isEmpty then none
  else (List.range pas.length).findSome? (fun i =>
    let p := pas.getD i 0 / 16
    if s.poison.contains p then some (i, 16 * p) else none)

/-- POISON at a byte of an access (R368). -/
def poisonFault (sub va : Nat) (k : AccessKind) (p : Nat × Nat) : FaultInfo :=
  { fltAt causePoison sub ((va + p.1) % 2 ^ 64) k with paddr := p.2 }

/-- The first byte of an access of a core that it finds poisoned by its path (R367): its place and its sector. past: the access goes past
the caches whatever its page. -/
def State.marked (s : State) (core : Nat) (p : Path) (past : Bool) (r : Resolved) : Option (Nat × Nat) :=
  if s.unmarked then none
  else
    let at_ := r.parts.flatMap (fun x => x.2.map (fun pa => (x.1.any Leaf.cached && !past, pa)))
    (List.range at_.length).findSome? (fun i =>
      let x := at_.getD i (false, 0)
      if s.markAt core p x.1 x.2 then some (i, x.2 / 16 * 16) else none)

/-- POISON of a read (R368). -/
def State.poisonRead (s : State) (core : Nat) (p : Path) (past : Bool) (va : Nat) (r : Resolved) : Option FaultInfo :=
  (s.marked core p past r).map (poisonFault 1 va .read)
/-- POISON of a store that would merge into a poisoned sector (R368): one of which it writes every byte it replaces. -/
def State.poisonStore (s : State) (core va : Nat) (r : Resolved) : Option FaultInfo :=
  let part (pa : Nat) : Bool := !((List.range 16).all (fun i => r.pas.contains (pa / 16 * 16 + i)))
  if s.unmarked then none
  else
    let at_ := r.parts.flatMap (fun x => x.2.map (fun pa => (x.1.any Leaf.cached, pa)))
    (List.range at_.length).findSome? (fun i =>
      let x := at_.getD i (false, 0)
      if part x.2 && s.markAt core .plain x.1 x.2 then some (poisonFault 2 va .write (i, x.2 / 16 * 16)) else none)

/-- What stops an access of a core once it is resolved: a command that holds its bytes, for which it waits, and poison (R200 row 7). -/
def State.accessBad (s : State) (core : Nat) (p : Path) (k : AccessKind) (va : Nat) (r : Resolved) : Option FaultInfo :=
  match s.heldBy r.pas (k = .write) with
  | some cmd => some (heldFault cmd)
  | none => match k with
    | .write => s.poisonStore core va r
    | .read | .fetch => s.poisonRead core p false va r

/-- Resolves the access of each lane in order; the first lane that faults is the one reported (R200). -/
def resolveLanes (c : Cohort) (p : Path) (n : Nat) (k : AccessKind) (share : Bool) :
    List (Nat × Nat) → State → State × Except FaultInfo (List (Nat × Nat × Resolved))
  | [], s => (s, .ok [])
  | (l, a) :: rest, s =>
    match (if share then resolveShare s c a n k else resolveBy s c a n k p (4 * l)) with
    | (s, .error f) => (s, .error f)
    | (s, .ok r) =>
      match s.accessBad c.core p k a r with
      | some f => (s, .error f)
      | none =>
        match resolveLanes c p n k share rest s with
        | (s, .error f) => (s, .error f)
        | (s, .ok rs) => (s, .ok ((l, a, r) :: rs))

/-! ## Loads and stores (R176 to R182) -/

/-- Bytes of an access size (R50). -/
def sizeBytes : MSize → Nat
  | .b => 1
  | .h => 2
  | .w => 4
  | .d => 8
  | .q => 16

/-- Register i of a loaded value (R177). -/
def loadedWord (n : Nat) (sx : Bool) (bs : List Byte) (i : Nat) : Word :=
  let x := leNat ((bs.drop (4 * i)).take 4)
  if sx && n = 1 then (BitVec.ofNat 8 x).signExtend 32
  else if sx && n = 2 then (BitVec.ofNat 16 x).signExtend 32
  else BitVec.ofNat 32 x

/-- Reads every lane in order. -/
def State.readLanes (c : Cohort) (p : Path) : List (Nat × Nat × Resolved) → State → State × List (Nat × List Byte)
  | [], s => (s, [])
  | (l, _, r) :: rest, s =>
    let (s, bs) := s.fetchBytes c p r (1000 + l)
    let (s, more) := State.readLanes c p rest s
    (s, (l, bs) :: more)

/-- The 64-byte lines that an operation in flight reads (R401); those of operations that are over go. -/
def Cohort.addReads (c : Cohort) (op : Nat) (rs : List (Nat × Nat × Resolved)) : Cohort :=
  { c with reads := c.reads.filter (fun r => c.v.ops.any (fun o => o.id == r.1)) ++
      [(op, ((rs.flatMap (fun e => e.2.2.pas)).map (fun a => a / 64)).eraseDups)] }

/-- A load (R177): lanes with their addresses, and for each the lanes whose registers take its value. -/
def State.loadOp (s : State) (p : Path) (share f : Bool) (d : Reg) (size : MSize) (sx : Bool) (words : Nat)
    (lanes : List (Nat × Nat)) (takes : Nat → List Nat) : Out :=
  let c := s.co
  let n := sizeBytes size
  match resolveLanes c p n .read share lanes s with
  | (t, .error e) => .next (t.raise e)
  | (t, .ok rs) =>
    let (t, got) := State.readLanes c p rs t
    let regs := List.range (sizeRegs size)
    let ws := got.flatMap (fun e => (takes e.1).flatMap (fun l => regs.map (fun i =>
      (regKey c.v.wdepth c.S (d + BitVec.ofNat 6 i) l, loadedWord n sx e.2 i))))
    let (op, t) := t.startOp .load (c.flagOf f) (ws.map Prod.fst) ws
    .next (t.lane (fun c => c.addReads op rs) words)

/-- A per-lane load. -/
def State.loadM (s : State) (p : Path) (share f : Bool) (d b x : Reg) (size : MSize) (off : Option Word) (sx : Bool) : Out :=
  s.loadOp p share f d size sx (wordsM off) (s.co.active.map (fun l => (l, s.co.laneAddr b x off l))) (fun l => [l])

def execLd (f : Bool) (d b x : Reg) (sz : MSize) (off : Option Word) (sx : Bool) (s : State) : Out :=
  s.loadM .plain false f d b x sz off sx
def execLdRo (f : Bool) (d b x : Reg) (sz : MSize) (off : Option Word) (sx : Bool) (s : State) : Out :=
  s.loadM .ro false f d b x sz off sx
def execLdC (f : Bool) (d b x : Reg) (sz : MSize) (off : Option Word) (sx : Bool) (s : State) : Out :=
  s.loadM .const false f d b x sz off sx
def execLdNt (f : Bool) (d b x : Reg) (sz : MSize) (off : Option Word) (sx : Bool) (s : State) : Out :=
  s.loadM .nt false f d b x sz off sx
/-- LD.u (R177): one access from LowestActive(), made even when no lane is active, for every active and inactive lane. -/
def execLdU (f : Bool) (d b x : Reg) (sz : MSize) (off : Option Word) (sx : Bool) (s : State) : Out :=
  let l := s.co.lowest
  s.loadOp .plain false f d sz sx (wordsM off) [(l, s.co.laneAddr b x off l)] (fun _ => s.co.livel)
def execLds (f : Bool) (d b x : Reg) (sz : MSize) (off : Option Word) (sx : Bool) (s : State) : Out :=
  s.loadM .plain true f d b x sz off sx

/-- How a store to a page is performed: 0 at its place, on chip; 1 through the L1; 2 in the combining buffer; 3 in order, past the caches. -/
def storeClass : Option Leaf → Nat
  | none => 0
  | some l => if l.cached then 1 else if l.normal then 0 else if l.combining then 2 else 3
/-- The cells of an instruction's stores that stay: one that a later lane writes by a page of another class goes (R178). -/
def lastCells : List (Option Leaf × List (Nat × Byte)) → List (Option Leaf × List (Nat × Byte))
  | [] => []
  | p :: ps =>
    (p.1, p.2.filter (fun x => !ps.any (fun q => storeClass q.1 != storeClass p.1 && q.2.any (fun y => y.1 == x.1)))) :: lastCells ps

/-- Performs the stores of an instruction: all cells on cached pages together, likewise on-chip and write-combining cells; those on
device and strongly ordered pages in lane order (R174), with one position in coherence order for what they leave (R254). A page that names the
control range reaches no register (R395). -/
def State.storeAll (s : State) (c : Cohort) (wide : Bool) (parts : List (Option Leaf × List (Nat × Byte))) : State :=
  let parts := (lastCells parts).filter (fun p => !p.2.isEmpty && match p.1 with
    | some l => areaOf l.pa != .control
    | none => true)
  let of_ (n : Nat) : List (Option Leaf × List (Nat × Byte)) := parts.filter (fun p => storeClass p.1 == n)
  let one (s : State) (ps : List (Option Leaf × List (Nat × Byte))) : State := match ps with
    | [] => s
    | p :: _ => s.storeBytes c p.1 wide (ps.flatMap Prod.snd)
  let s := one (one (one s (of_ 0)) (of_ 1)) (of_ 2)
  one ((of_ 3).foldl (fun s p => s.orderedFirst c p.1) s) (of_ 3)

/-- The bytes that an access stores, by the page that they lie on. -/
def Resolved.cells (r : Resolved) (bs : List Byte) : List (Option Leaf × List (Nat × Byte)) :=
  match r.next with
  | none => [(r.leaf, r.pas.zip bs)]
  | some (n, l) => [(r.leaf, (r.pas.zip bs).take n), (l, (r.pas.zip bs).drop n)]

/-- The bytes of a store's data in a lane (R177). -/
def Cohort.storeData (c : Cohort) (d : Reg) (size : MSize) (l : Nat) : List Byte :=
  ((List.range (sizeRegs size)).flatMap (fun i => natLe 4 (c.get (d + BitVec.ofNat 6 i) l).toNat)).take (sizeBytes size)

/-- A per-lane store (R177, R178). -/
def State.storeM (s : State) (share f wide : Bool) (d b x : Reg) (size : MSize) (off : Option Word) : Out :=
  let c := s.co
  match resolveLanes c .plain (sizeBytes size) .write share (c.active.map (fun l => (l, c.laneAddr b x off l))) s with
  | (t, .error e) => .next (t.raise e)
  | (t, .ok rs) =>
    let parts := rs.flatMap (fun e => e.2.2.cells (c.storeData d size e.1))
    let (_, t) := (t.storeAll c wide parts).startOp .store (c.flagOf f) [] []
    .next (t.lane id (wordsM off))

def execSt (f : Bool) (d b x : Reg) (sz : MSize) (off : Option Word) (s : State) : Out := s.storeM false f false d b x sz off
def execStNt (f : Bool) (d b x : Reg) (sz : MSize) (off : Option Word) (s : State) : Out := s.storeM false f true d b x sz off
def execSts (f : Bool) (d b x : Reg) (sz : MSize) (off : Option Word) (s : State) : Out := s.storeM true f false d b x sz off

/-- LOAD_COMPLETE (R179). -/
def execLoadComplete (co op : Nat) (s : State) : Out := .next (s.completeOp co op .load)
/-- STORE_COMPLETE (R179): the cohort's buffered stores have been accepted at their point of coherence (R345). -/
def execStoreComplete (co op : Nat) (s : State) : Out :=
  match s.cohort? co with
  | some c => .next ((s.drainWc c.core (some co)).completeOp co op .store)
  | none => .next s
/-- WC_FLUSH (R345): a core's buffered stores become visible. -/
def execWcFlush (core : Nat) (s : State) : Out := .next (s.drainWc core none)

/-! ## Format views (R183) -/

/-- A format view (R183). -/
structure FView where
  ebase  : Nat
  sbase  : Nat
  rowlen : Nat
  spitch : Nat
  rsv    : Nat
  deriving DecidableEq, Repr

def FView.of (bs : List Byte) : FView :=
  { ebase := leNat (bs.take 8), sbase := leNat ((bs.drop 8).take 8), rowlen := leNat ((bs.drop 16).take 4)
    spitch := leNat ((bs.drop 20).take 4), rsv := leNat ((bs.drop 24).take 8) }

/-- What the attributes of a page say of its elements (R112): FP32, BF16, FP16 or a block format. -/
inductive EKind where
  | f32 | b16 | f16 | blk (k : BlkFmt)
  deriving DecidableEq, Repr

def ekind : Nat → Option EKind
  | 1 => some .f32
  | 2 => some .b16
  | 3 => some .f16
  | 4 => some (.blk .e4m3)
  | 5 => some (.blk .e5m2)
  | 6 => some (.blk .e3m2)
  | 7 => some (.blk .e2m3)
  | 8 => some (.blk .e2m1s)
  | 9 => some (.blk .q8)
  | 10 => some (.blk .q4)
  | _ => none

/-- Twice the element width in bytes (R107). -/
def EKind.nibs : EKind → Nat
  | .f32 => 8
  | .b16 | .f16 => 4
  | .blk .e2m1 | .blk .e2m1s | .blk .q4 => 1
  | .blk _ => 2
def EKind.block : EKind → Bool
  | .blk _ => true
  | _ => false
/-- Block length of a BGEO code (R112). -/
def blOf (bgeo : Nat) : Nat := if bgeo = 0 then 0 else 8 * 2 ^ bgeo

/-- FORMAT subcauses 0x01 to 0x03 of a page's attributes (R113). -/
def attrBad (efmt bgeo : Nat) : Option Nat :=
  if 11 ≤ efmt then some 1
  else if efmt = 0 then some 3
  else if (decide (4 ≤ efmt)) != (bgeo != 0) then some 2
  else none
/-- Whether a scale layout record is invalid for a block length (R111). -/
def scaleBad (v : FView) (bl : Nat) : Bool :=
  v.rowlen % bl != 0 || (v.rowlen != 0 && decide (v.spitch < 2 * v.rowlen / bl))

/-- The least of FORMAT subcauses: the spec gives several that apply to one access no order (log entry 77). -/
def leastOf : List Nat → Option Nat
  | [] => none
  | x :: xs => match leastOf xs with
    | some y => some (min x y)
    | none => some x

/-- Address of the element j, and of its scale record (R107, R110). -/
def elemAddr (v : FView) (k : EKind) (j : Nat) : Nat := (v.ebase + j * k.nibs / 2) % 2 ^ 64
def scaleAddr (v : FView) (bl j : Nat) : Nat :=
  let row := if v.rowlen = 0 then 0 else j / v.rowlen
  let col := if v.rowlen = 0 then j else j % v.rowlen
  (v.sbase + row * v.spitch + 2 * (col / bl)) % 2 ^ 64

/-- Reads a view for a cohort, as an ordinary load (R183): alignment, window, translation, commands that hold it, poison. -/
def State.readView (s : State) (c : Cohort) (va : Nat) : State × Except FaultInfo (FView × List Nat) :=
  if va % 32 != 0 then (s, .error (fltAt causeMisaligned 0 va .read))
  else
    match resolve s c va 32 .read 900 with
    | (s, .error f) => (s, .error f)
    | (s, .ok r) =>
      match s.accessBad c.core .plain .read va r with
      | some f => (s, .error f)
      | none =>
        let (s, bs) := s.fetchBytes c .plain r 901
        (s, .ok (FView.of bs, r.pas))

/-- The leaf of the page that holds ebase (R183), which its elements only, and not ebase itself, have to have permission for; none in the
LOCAL and ONCHIP windows. Where no leaf is found, the fault is at ebase, since no element has an address yet (log entry 77). -/
def State.viewLeaf (s : State) (c : Cohort) (v : FView) (k : AccessKind) : State × Except FaultInfo (Option Leaf) :=
  match windowOf v.ebase with
  | .glob =>
    match s.lookup c v.ebase k 902 with
    | (s, .ok l) => (s, .ok (some l))
    | (t, .error f) => match walkRoot s (s.ctx c.ctx).root v.ebase with
      | .ok w => (t, .ok (some w.leaf))
      | .error _ => (t, .error f)
  | .loc _ | .onchip _ => (s, .ok none)
/-- The attributes of the page that holds ebase: the windows count as EFMT 0 and BGEO 0 (R113). -/
def leafAttr (l : Option Leaf) : Nat × Nat := (l.elim 0 Leaf.efmt, l.elim 0 Leaf.bgeo)
def State.viewAttr (s : State) (c : Cohort) (v : FView) (k : AccessKind) : State × Except FaultInfo (Nat × Nat) :=
  match s.viewLeaf c v k with
  | (s, .ok l) => (s, .ok (leafAttr l))
  | (s, .error f) => (s, .error f)

/-- One element of a format-decoding access resolved: the element's bytes and those of its scale record, if it has one. -/
structure Elem where
  lane  : Nat
  va    : Nat
  el    : Resolved
  sc    : Resolved
  half  : Bool
  deriving DecidableEq, Repr

/-- No bytes. -/
def Resolved.none : Resolved := { pas := [], leaf := .none, next := .none }

/-- The parts of an access with the place of their first byte. -/
def Resolved.placed (r : Resolved) : List (Nat × Option Leaf) :=
  (0, r.leaf) :: r.next.toList
/-- The first reserved byte of a view that is not 0, by its place in the view. -/
def FView.rsvAt (v : FView) : Nat := 24 + ((List.range 8).find? (fun i => v.rsv / 256 ^ i % 256 != 0)).getD 0

/-- FORMAT of one element (R113), and the first byte that it names (R200, R356): every page that the element at va touches counts, at its
first byte there; the reserved field of the view at vw counts at its first byte that is not 0. Where several subcauses apply the spec gives
them no order (log entry 77). -/
def elemBad (vw va : Nat) (v : FView) (efmt bgeo : Nat) (blk : Bool) (r : Resolved) : Option (Nat × Nat) :=
  let bad : List (Nat × Nat) := (r.placed.flatMap (fun p => (match p.2 with
      | some q => (if q.efmt = efmt && q.bgeo = bgeo then [] else [5]) ++ (attrBad q.efmt q.bgeo).toList
      | none => [3]).map (fun b => (b, (va + p.1) % 2 ^ 64)))) ++
    (if v.rsv = 0 then [] else [(7, (vw + v.rsvAt) % 2 ^ 64)]) ++ (attrBad efmt bgeo).toList.map (fun b => (b, va)) ++
    (if blk && scaleBad v (blOf bgeo) then [(4, va)] else [])
  (leastOf (bad.map Prod.fst)).bind (fun b => bad.find? (fun x => x.1 == b))

/-- Resolves one element in the order of R200: the windows of the element and of its scale record, the pages of both, natural alignment,
FORMAT, and then what holds or poisons them. -/
def State.resolveElem (s : State) (c : Cohort) (vw : Nat) (v : FView) (efmt bgeo : Nat) (ek : EKind) (k : AccessKind) (l j : Nat) :
    State × Except FaultInfo Elem :=
  let va := elemAddr v ek j
  let n := max 1 (ek.nibs / 2)
  let blk := ek.block && bgeo != 0
  let sa := scaleAddr v (blOf bgeo) j
  match windowBad s c va n k, (if blk then windowBad s c sa 2 .read else none) with
  | some f, _ => (s, .error f)
  | none, some f => (s, .error f)
  | none, none =>
    match resolvePages s c va n k .plain (4 * l) with
    | (s, .error f) => (s, .error f)
    | (s, .ok r) =>
      match (if blk then resolvePages s c sa 2 .read .plain (4 * l + 2) else (s, .ok Resolved.none)) with
      | (s, .error f) => (s, .error f)
      | (s, .ok q) =>
        if r.misaligned va n then (s, .error (fltAt causeMisaligned 0 va k))
        else if q.misaligned sa 2 then (s, .error (fltAt causeMisaligned 0 sa .read))
        else
          match elemBad vw va v efmt bgeo blk r with
          | some b => (s, .error (fltAt causeFormat b.1 b.2 k))
          | none =>
            match s.accessBad c.core .plain k va r, s.accessBad c.core .plain .read sa q with
            | some f, _ => (s, .error f)
            | none, some f => (s, .error f)
            | none, none => (s, .ok { lane := l, va := va, el := r, sc := q, half := ek.nibs = 1 && j % 2 = 1 })

/-- Resolves the elements of all lanes in order. -/
def State.resolveElems (c : Cohort) (vw : Nat) (v : FView) (efmt bgeo : Nat) (ek : EKind) (k : AccessKind) :
    List (Nat × Nat) → State → State × Except FaultInfo (List Elem)
  | [], s => (s, .ok [])
  | (l, j) :: rest, s =>
    match s.resolveElem c vw v efmt bgeo ek k l j with
    | (s, .error f) => (s, .error f)
    | (s, .ok e) =>
      match State.resolveElems c vw v efmt bgeo ek k rest s with
      | (s, .error f) => (s, .error f)
      | (s, .ok es) => (s, .ok (e :: es))

/-- The shared part of LDF and STF (R183): the view from LowestActive(), the attributes of ebase's page, each lane's element. An odd sbase is
MISALIGNED where BGEO gives a block length; a block format with BGEO 0 is FORMAT 0x02, and its record is not used (log entry 77). -/
def State.elems (s : State) (c : Cohort) (b x : Reg) (off : Option Word) (k : AccessKind) :
    State × Except FaultInfo (EKind × List Elem) :=
  let va := (c.ugetPair b).toNat
  match s.readView c va with
  | (s, .error f) => (s, .error f)
  | (s, .ok (v, _)) =>
    match s.viewAttr c v k with
    | (s, .error f) => (s, .error f)
    | (s, .ok (efmt, bgeo)) =>
      match ekind efmt with
      | none =>
        let bad := (if v.rsv = 0 then [] else [7]) ++ [if efmt = 0 then 3 else 1]
        (s, .error (fltAt causeFormat ((leastOf bad).getD 3) v.ebase k))
      | some ek =>
        if ek.block && bgeo != 0 && v.sbase % 2 = 1 then (s, .error (fltAt causeMisaligned 0 v.sbase .read))
        else
          let js := c.active.map (fun l =>
            (l, ((if b = x then 0 else (c.get x l).setWidth 64) + (off.getD 0).signExtend 64 : DWord).toNat))
          match State.resolveElems c va v efmt bgeo ek k js s with
          | (s, .error f) => (s, .error f)
          | (s, .ok es) => (s, .ok (ek, es))

/-- The code of an element in its container bytes (R107). -/
def elemCode (ek : EKind) (half : Bool) (bs : List Byte) : Nat :=
  let x := leNat bs
  match ek with
  | .blk .e3m2 | .blk .e2m3 => x % 64
  | .blk .e2m1 | .blk .e2m1s | .blk .q4 => if half then x / 16 % 16 else x % 16
  | _ => x

/-- An element expanded to FP32 (R184). -/
def elemValue (ek : EKind) (code q : Nat) : Nat :=
  match ek with
  | .f32 => code
  | .b16 => Fmt.f32.convert .b16 .rn false (Fmt.b16.value code) 0
  | .f16 => Fmt.f32.convert .f16 .rn false (Fmt.f16.value code) 0
  | .blk k => decodeBlock k code q

/-- Reads the elements with their scale records in order. -/
def State.readElems (c : Cohort) (ek : EKind) : List Elem → State → State × List (Nat × Nat)
  | [], s => (s, [])
  | e :: es, s =>
    let (s, bs) := s.fetchBytes c .plain e.el (1000 + e.lane)
    let (s, qs) := s.fetchBytes c .plain e.sc (1000 + e.lane)
    let v := elemValue ek (elemCode ek e.half bs) (leNat qs)
    let (s, more) := State.readElems c ek es s
    (s, (e.lane, v) :: more)

/-- LDF (R183, R184). With no active lane there is no access. -/
def execLdf (f : Bool) (d b x : Reg) (off : Option Word) (s : State) : Out :=
  let c := s.co
  let fin (t : State) (vs : List (Nat × Nat)) (rs : List (Nat × Nat × Resolved)) : Out :=
    let ws := vs.map (fun e => (regKey c.v.wdepth c.S d e.1, (BitVec.ofNat 32 e.2 : Word)))
    let (op, t) := t.startOp .load (c.flagOf f) (ws.map Prod.fst) ws
    .next (t.lane (fun c => c.addReads op rs) (wordsM off))
  if c.active.isEmpty then fin s [] []
  else
    match s.elems c b x off .read with
    | (t, .error e) => .next (t.raise e)
    | (t, .ok (ek, es)) => let (t, vs) := State.readElems c ek es t; fin t vs (es.flatMap (fun e => [(e.lane, e.va, e.el), (e.lane, e.va, e.sc)]))

/-- The element code that STF writes for an FP32 value (R185). -/
def encodeElem (ek : EKind) (a q : Nat) : Nat :=
  match ek with
  | .f32 => a
  | .b16 => Fmt.b16.convert .f32 .rn false (Fmt.f32.value a) 0
  | .f16 => Fmt.f16.convert .f32 .rn false (Fmt.f32.value a) 0
  | .blk k =>
    let E := q / 256 % 256
    if E = 255 then 0
    else match Fmt.f32.value a with
      | .nan neg frac =>
        match blockFmt k with
        | none => 0
        | some g => g.convert .f32 .rn true (.nan neg frac) 0
      | .inf neg =>
        match blockFmt k with
        | none => if k = .q8 then (if neg then 128 else 127) else (if neg then 8 else 7)
        | some g => g.convert .f32 .rn true (.inf neg) 0
      | .num neg n x =>
        let x := x - ((E : Int) - 127)
        let code := blockEncode k .rn neg n x 0
        if k = .e2m1s then
          let b := min x (-2)
          let (cs, cn, cx) := match Fmt.e2m1.value code with
            | .num g m y => (g, m, y)
            | .nan g _ => (g, 0, 0)
            | .inf g => (g, 0, 0)
          if absDiff b neg n x (q / 128 % 2 == 1) (q % 128) (-1) < absDiff b neg n x cs cn cx then 8
          else if code = 8 then 0 else code
        else code

/-- One element as bytes to store: a nibble keeps the other half of its byte (R185). -/
def elemBytes (ek : EKind) (half : Bool) (code old : Nat) : List Byte :=
  match ek with
  | .f32 => natLe 4 code
  | .b16 | .f16 => natLe 2 code
  | .blk .e2m1 | .blk .e2m1s | .blk .q4 =>
    if half then natLe 1 (old % 16 + 16 * (code % 16)) else natLe 1 (old / 16 * 16 + code % 16)
  | .blk .e3m2 | .blk .e2m3 => natLe 1 (code % 64)
  | .blk _ => natLe 1 code

/-- A byte as a cohort loads it from a page. -/
def State.seenByte (s : State) (c : Cohort) (l : Option Leaf) (pa : Nat) : Byte :=
  match l with
  | none => s.byte pa
  | some l => if l.cached then s.nearByte c.core pa else if l.combining then s.wcByte c.core c.id pa else s.byte pa

/-- Reads the scale records of elements in order. -/
def State.readScales (c : Cohort) : List Elem → State → State × List (Elem × Nat)
  | [], s => (s, [])
  | e :: es, s =>
    let (s, qs) := s.fetchBytes c .plain e.sc (1000 + e.lane)
    let (s, more) := State.readScales c es s
    (s, (e, leNat qs) :: more)

/-- The cells that STF stores, lane by lane; each lane sees the nibbles that lower lanes of the same instruction wrote. -/
def State.stfCells (s : State) (c : Cohort) (d : Reg) (ek : EKind) :
    List (Elem × Nat) → List (Nat × Byte) → List (Option Leaf × List (Nat × Byte))
  | [], _ => []
  | (e, q) :: es, done =>
    let old (pa : Nat) : Byte := match done.reverse.find? (fun x => x.1 == pa) with
      | some x => x.2
      | none => s.seenByte c e.el.leaf pa
    let code := encodeElem ek (c.get d e.lane).toNat q
    let bs := elemBytes ek e.half code (old (e.el.pas.headD 0)).toNat
    e.el.cells bs ++ s.stfCells c d ek es (done ++ e.el.pas.zip bs)

/-- The cohort's earlier operations on the bytes of elements, by pages of another type, come first (R178). -/
def State.aliasElems (s : State) (c : Cohort) (es : List Elem) : State :=
  es.foldl (fun s e => e.el.parts.foldl (fun s p => s.aliasFirst c p.1 p.2) s) s

/-- STF (R183, R185). -/
def execStf (f : Bool) (d b x : Reg) (off : Option Word) (s : State) : Out :=
  let c := s.co
  let fin (t : State) : Out :=
    let (_, t) := t.startOp .store (c.flagOf f) [] []
    .next (t.lane id (wordsM off))
  if c.active.isEmpty then fin s
  else
    match s.elems c b x off .write with
    | (t, .error e) => .next (t.raise e)
    | (t, .ok (ek, es)) =>
      let (t, qs) := State.readScales c es t
      let t := t.aliasElems c es
      fin (t.storeAll c false (t.stfCells c d ek qs []))

/-! ## Prefetch (R186) -/

/-- The page of an address for PREF, CINV and CWB: none where the translation fails or the page is not held in the caches. -/
def State.quietPage (s : State) (c : Cohort) (va : Nat) : State × Option Leaf :=
  match translate s (some c.core) c.ctx va .read 950 with
  | (s, .error _) => (s, none)
  | (s, .ok l) => (s, if l.cached && areaOf l.pa != .control then some l else none)

/-- The line of one lane's PREF is filled at a level: in the core's L1, in the cluster's cache (R310), or at its home slice, which is the
last-level cache. A line that the Flash Management Processor would stall is dropped. -/
def State.prefLine (s : State) (c : Cohort) (lv : CacheLevel) (line : Nat) : State :=
  if (s.stallOf c.core (some .plain) [64 * line]).isSome then s
  else match lv with
    | .l1 => (List.range 4).foldl (fun s i => s.needSector c.core (4 * line + i) false) s
    | .cluster => s.ccFill (clusterOf c.core) line 15 false
    | .llc => s

/-- The lines that a PREF of some addresses fills, in order. -/
def State.prefLines (c : Cohort) : List Nat → State → State × List Nat
  | [], s => (s, [])
  | va :: vas, s =>
    match windowOf va with
    | .loc _ | .onchip _ => State.prefLines c vas s
    | .glob =>
      let (s, p) := s.quietPage c va
      let (s, ls) := State.prefLines c vas s
      (s, (p.map (fun q => (q.pa + va % 4096) / 64)).toList ++ ls)

/-- PREF (R186). A line that an engine owns is read once the engine has released it (R342). -/
def execPref (f : Bool) (b x : Reg) (lv : CacheLevel) (off : Option Word) (s : State) : Out :=
  let c := s.co
  let (t, lines) := State.prefLines c (c.active.map (fun l => c.laneAddr b x off l)) s
  match t.heldBy (lines.map (fun l => 64 * l)) false with
  | some cmd => .next (s.waitCmd cmd)
  | none =>
    let t := lines.foldl (fun s line => s.prefLine c lv line) t
    let (_, t) := t.startOp .pref (c.flagOf f) [] []
    .next (t.lane id (wordsM off))
/-- PREF_COMPLETE (R186). -/
def execPrefComplete (co op : Nat) (s : State) : Out := .next (s.completeOp co op .pref)

/-! ## Atomics (R187 to R189) -/

/-- A fault of an access that both reads and writes (R356). -/
def bothWays (f : FaultInfo) : FaultInfo := { f with rd := true, wr := true }

/-- Checks and resolves the lanes of an atomic, alignment first (R200). A walk that finds a migrating flash leaf is LONG_LATENCY for an atomic
too, before the write is refused (R354). -/
def resolveAtomics (c : Cohort) (n : Nat) : List (Nat × Nat) → State → State × Except FaultInfo (List (Nat × Nat × Resolved))
  | [], s => (s, .ok [])
  | (l, a) :: rest, s =>
    if a % n != 0 then (s, .error (bothWays (fltAt causeMisaligned 0 a .write)))
    else
      match (match windowOf a with
        | .glob => s.migrating c a .write
        | .loc _ | .onchip _ => none) with
      | some f => (s, .error (bothWays f))
      | none =>
        match resolve s c a n .write (4 * l) with
        | (s, .error f) => (s, .error (bothWays f))
        | (s, .ok r) =>
          match s.heldBy r.pas true, s.poisonRead c.core .plain true a r with
          | some cmd, _ => (s, .error (heldFault cmd))
          | none, some f => (s, .error (bothWays f))
          | none, none =>
            match resolveAtomics c n rest s with
            | (s, .error f) => (s, .error f)
            | (s, .ok rs) => (s, .ok ((l, a, r) :: rs))

/-- A byte as it stands after some cells have been written over memory. -/
def State.byteAfter (s : State) (cells : List (Nat × Byte)) (pa : Nat) : Byte :=
  match cells.reverse.find? (fun x => x.1 == pa) with
  | some x => x.2
  | none => s.byte pa

/-- The lanes of an atomic performed in ascending order over memory: the values replaced and the cells written. A page that
names the control range reaches no register (R395): its old value is free. -/
def State.atomLanes (s : State) (n : Nat) (g : Nat → Nat → Nat) :
    List (Nat × Nat × Resolved) → List (Nat × Byte) → List (Nat × Nat) × List (Nat × Byte)
  | [], cells => ([], cells)
  | (l, _, r) :: rest, cells =>
    let dev : Bool := match r.leaf with
      | some q => areaOf q.pa == .control
      | none => false
    let m := if dev then leNat (r.pas.map (fun a => Config.deviceByte s.tick a)) else leNat (r.pas.map (s.byteAfter cells))
    let new := if dev then [] else r.pas.zip (natLe n (g l m))
    let (olds, all) := s.atomLanes n g rest (cells ++ new)
    ((l, m) :: olds, all)

/-- The lines of an atomic's lanes, and those off the chip's cores among them. -/
def atomLines (rs : List (Nat × Nat × Resolved)) : List Nat := (rs.flatMap (fun e => e.2.2.pas.map (fun a => a / 64))).eraseDups
def awayLines (lines : List Nat) : List Nat := lines.filter (fun l => areaOf (64 * l) != .onchip)
/-- The cluster's cache holds lines owned, as for an atomic that is performed there (R310). -/
def State.ccHold (s : State) (cl : Nat) (lines : List Nat) : State :=
  lines.foldl (fun s line => ((s.ccRoom cl line 7304).ccShare cl line).modCc cl line (fun e =>
    { e with valid := 15, dirty := 15, owned := true, bad := s.clMarks cl line })) s

/-- An atomic (R188): g lane old gives the new value; the old values land in d, if it returns them. What the cohort has stored to its lines
is performed before; at .cohort, .team and .cluster on normal memory it is performed in the cluster's cache, which owns the lines then, and
else at the home slice (R310). -/
def State.atomOp (s : State) (f : Bool) (d : Option Reg) (n : Nat) (o : MOrd) (sc : Scope) (words : Nat)
    (lanes : List (Nat × Nat)) (g : Nat → Nat → Nat) : Out :=
  let c := s.co
  match resolveAtomics c n lanes s with
  | (t, .error e) => .next (t.raise e)
  | (t, .ok rs) =>
    let leaves := rs.flatMap (fun e => e.2.2.leaves)
    let o := if leaves.any (fun l => l.so) then .sc else o
    let sc := if leaves.any (fun l => !l.normal) then .pkg else sc
    let lines := atomLines rs
    let t := t.before c o sc
    let t := if leaves.any (fun l => !l.normal) then t.drainWc c.core (some c.id)
      else t.drainThose c.core (fun w => w.co == c.id && lines.contains w.line)
    let t := t.past c.core (awayLines lines)
    let (olds, cells) := t.atomLanes n g rs []
    let t := t.write cells
    let t := if scopeRank c.pair sc < 2 then t.ccHold (clusterOf c.core) (awayLines lines) else t
    let t := t.after c o sc
    let ws := match d with
      | none => []
      | some d => olds.flatMap (fun e =>
        (regKey c.v.wdepth c.S d e.1, (BitVec.ofNat 32 e.2 : Word)) ::
          (if n = 8 then [(regKey c.v.wdepth c.S (d + 1) e.1, (BitVec.ofNat 32 (e.2 / 2 ^ 32) : Word))] else []))
    let (op, t) := t.startOp .atomic (c.flagOf f) (ws.map Prod.fst) ws
    .next (t.lane (fun c => c.addReads op rs) words)

/-- An atomic instruction of R187: h gives the new value from the memory value, the data and D. -/
def State.atom (s : State) (f : Bool) (d b v : Reg) (q : AtomQual) (h : DWord → DWord → DWord → DWord) : Out :=
  let c := s.co
  let rd (r : Reg) (l : Nat) : DWord := if q.w64 then c.getPair r l else (c.get r l).setWidth 64
  s.atomOp f (some d) (if q.w64 then 8 else 4) q.ord q.scope 2
    (c.active.map (fun l => (l, (c.getPair b l + q.off.signExtend 64).toNat)))
    (fun l m => (h (BitVec.ofNat 64 m) (rd v l) (rd d l)).toNat)

/-- Signed or unsigned less-than at the operand width. -/
def atomLt (q : AtomQual) (a b : DWord) : Bool :=
  if q.sgn then (if q.w64 then a.slt b else (loOf a).slt (loOf b)) else decide (a < b)

def execAadd (f : Bool) (d b v : Reg) (q : AtomQual) (s : State) : Out := s.atom f d b v q (fun m x _ => m + x)
def execAmin (f : Bool) (d b v : Reg) (q : AtomQual) (s : State) : Out :=
  s.atom f d b v q (fun m x _ => if atomLt q x m then x else m)
def execAmax (f : Bool) (d b v : Reg) (q : AtomQual) (s : State) : Out :=
  s.atom f d b v q (fun m x _ => if atomLt q m x then x else m)
def execAand (f : Bool) (d b v : Reg) (q : AtomQual) (s : State) : Out := s.atom f d b v q (fun m x _ => m &&& x)
def execAor (f : Bool) (d b v : Reg) (q : AtomQual) (s : State) : Out := s.atom f d b v q (fun m x _ => m ||| x)
def execAxor (f : Bool) (d b v : Reg) (q : AtomQual) (s : State) : Out := s.atom f d b v q (fun m x _ => m ^^^ x)
def execAxch (f : Bool) (d b v : Reg) (q : AtomQual) (s : State) : Out := s.atom f d b v q (fun _ x _ => x)
def execAcas (f : Bool) (d b v : Reg) (q : AtomQual) (s : State) : Out :=
  s.atom f d b v q (fun m x e => if m = e then x else m)
def execAfadd (f : Bool) (d b v : Reg) (q : AtomQual) (s : State) : Out :=
  s.atom f d b v q (fun m x _ => BitVec.ofNat 64 (Fmt.f32.add m.toNat x.toNat))
/-- ATOMIC_COMPLETE (R188). -/
def execAtomicComplete (co op : Nat) (s : State) : Out := .next (s.completeOp co op .atomic)

/-! ## Fences (R181, R190) -/

/-- FENCE (R190): .ro empties the read-only caches of the team's cores (R181). -/
def execFence (o : MOrd) (sc : Scope) (ro : Bool) (s : State) : Out :=
  let c := s.co
  let t := (s.before c o sc).after c o sc
  let t := if ro then c.teamCores.foldl State.dropRo t else t
  .next ({ t with co := { t.co with fence := true } }.lane id 1)
/-- FENCE_COMPLETE (R190). -/
def execFenceComplete (co : Nat) (s : State) : Out := .next (s.modCohort co (fun c => { c with fence := false }))

end Sys2Proof.Machine
end

