-- ==== Sys2Proof/Machine/Teams.lean ====
section
/-!
DEFINITION. The end of cohorts and teams (R37, R167, R217, R245, R291, R311, R383): what a departing team frees and clears.
-/

namespace Sys2Proof.Machine

/-- Sets every byte of a physical range to 0, whole sectors included (R37, R216, R217, R245). -/
def State.clearRange (s : State) (lo hi : Nat) : State :=
  { s with mem := s.mem.filter (fun e => !(decide (lo ≤ e.1) && decide (e.1 < hi)))
           poison := s.poison.filter (fun p => !(decide (lo ≤ 16 * p) && decide (16 * p < hi))) }

/-- The scratchpad share of a team on a core is set to 0 (R37, R217). -/
def State.clearShare (s : State) (core b n : Nat) : State :=
  s.clearRange (slotAddr core (spOffset + 16384 * b)) (slotAddr core (spOffset + 16384 * (b + n)))

/-- Whether a context has a team on a core. -/
def State.ctxOn (s : State) (ctx core : Nat) : Bool :=
  s.allTeams.any (fun t => t.ctx == ctx && (t.core == core || (t.pair && t.core + 1 == core)))

/-- Releases the matrix claim of a core whose holding context has no team left there (R245). -/
def State.releaseClaim (s : State) (core : Nat) : State :=
  match (s.core core).claim with
  | some x => if s.ctxOn x core then s else s.modCore core (fun k => { k with claim := none })
  | none => s

/-- The key of a launch in its cluster's tables (R311, R312). -/
def launchKey (ctx lid : Nat) : Nat := ctx * 2 ^ 32 + lid

/-- Frees the cluster barriers and ranks of a launch that has no team left on a cluster (R311, R312). -/
def State.releaseCluster (s : State) (ctx lid cl : Nat) : State :=
  if s.allTeams.any (fun t => t.ctx == ctx && t.lid == lid && clusterOf t.core == cl) then s
  else s.modCluster cl (fun q =>
    { q with bars := q.bars.filter (fun e => e.1 / 64 != launchKey ctx lid), ranks := Tab.erase q.ranks (launchKey ctx lid) })

/-- The least generation of a live team of a context, unstarted teams of queued launches included (R383). -/
def State.genMin (s : State) (ctx : Nat) : Nat :=
  let live := (s.teamsOf ctx).map (fun t => t.gen.toNat)
  let waiting := ((s.ctx ctx).launches.filter (fun l => l.started.length < l.teams)).map (fun l => l.gen.toNat)
  let held := match (s.ctx ctx).capture with
    | some k => k.teams.map (fun t => t.team.gen.toNat)
    | none => []
  (live ++ waiting ++ held).foldl min 0xFFFFFFFF

/-- Reclaims the allocations that no live team's generation keeps (R383). -/
def State.reclaim (s : State) (ctx : Nat) : State :=
  if (s.ctx ctx).allocs.isEmpty then s
  else
    let least := s.genMin ctx
    let any := !(s.teamsOf ctx).isEmpty || ((s.ctx ctx).launches.any (fun l => l.started.length < l.teams)) ||
      (s.ctx ctx).capture.isSome
    s.modCtx ctx (fun x => { x with allocs := x.allocs.filter (fun a => any && decide (least ≤ a.gen.toNat)) })

/-- What stays of a departing team's arrivals at its launch's cluster barriers: the fault record that would name each (R295, R312). -/
def State.leaveArrivals (s : State) (t : Team) : State :=
  let mine := s.membersOf t.key
  s.modCluster (clusterOf t.core) (fun q => { q with bars := q.bars.map (fun e =>
    if e.1 / 64 = launchKey t.ctx t.lid then
      (e.1, { e.2 with left := e.2.left ++ mine.filterMap (fun c =>
        (Tab.find e.2.pcs (t.rank * 64 + c.cohid)).map (fun pc => (t.rank * 64 + c.cohid, FaultRec.of c pc (flt causeBarrier 1)))) })
    else e) })

/-- A team leaves its core (R37): its cohorts and barrier bindings go, its stores are performed for every agent, its shares are cleared, the matrix claim and cluster
bindings that it was the last to need are released, and allocations are reclaimed. A copy of another team that is in flight into its share
lands when it retires, whoever has the share then (log entry 93). -/
def State.departTeam (s : State) (t : Team) : State :=
  let s := (s.leaveArrivals t).dropTeam t.key
  let s := { s with cohorts := s.cohorts.filter (fun e => e.2.team != t.key)
                    co := if s.co.team = t.key then Cohort.init else s.co }
  let off (s : State) (core : Nat) : State :=
    ((s.drainThose core (fun w => t.cohorts.contains w.co)).flushCore core).modCore core (fun k =>
      { k with holder := k.holder.filter (fun i => !t.cohorts.contains i) })
  let s := s.modCluster (clusterOf t.core) (fun q => { q with
    walks := (q.walks.map (fun w => { w with reqs := w.reqs.filter (fun i => !t.cohorts.contains i) })).filter (fun w =>
      !w.ended || !w.reqs.isEmpty) })
  let s := off s t.core
  let s := if t.pair then off s (t.core + 1) else s
  let s := (s.clearShare t.core t.shareB t.shareN).releaseClaim t.core
  let s := if t.pair then (s.clearShare (t.core + 1) t.shareB2 t.shareN).releaseClaim (t.core + 1) else s
  (s.releaseCluster t.ctx t.lid (clusterOf t.core)).reclaim t.ctx

/-- Changes a launch of a context, named by its order of acceptance: launchids repeat after 2^32 launches, or after a restore (R363, R373). -/
def State.modLaunch (s : State) (ctx order : Nat) (f : Launch → Launch) : State :=
  s.modCtx ctx (fun x => { x with launches := x.launches.map (fun l => if l.order = order then f l else l) })

/-- Every cohort of the team has ended: it counts for its launch and departs. -/
def State.endTeam (s : State) (t : Team) : State :=
  (s.departTeam t).modLaunch t.ctx t.order (fun l => { l with ended := l.ended + 1 })

/-- COHORT_END (R167): a cohort with no live lane and no outstanding operation ends; with the last one its team departs. -/
def endCohort (s : State) (co : Nat) : State :=
  match s.cohort? co with
  | none => s
  | some c =>
    if c.exited && !c.ended && c.v.ops.isEmpty then
      let s := s.setCohort { c with ended := true, wait := none }
      match s.team? c.team with
      | none => s
      | some t =>
        let t := { t with done := t.done ||| BitVec.ofNat 32 (2 ^ c.cohid) }
        let s := s.setTeam t
        if (s.cohortsOf t.key).isEmpty then s.endTeam t else s
    else s

end Sys2Proof.Machine
end

