-- ==== Sys2Proof/Machine/Waits.lean ====
section
/-!
DEFINITION. Waiting on an address, events, cache maintenance, translation queries, the timer, system calls and breakpoints
(R191 to R199, R381, R382), and the steps that end their waits.
-/

namespace Sys2Proof.Machine

/-! ## WAITA and EVWAIT (R191 to R193, R382) -/

/-- "word C compare value" at 32 or 64 bits (R191). -/
def waitCond (k : WaitCond) (w64 : Bool) (w b : DWord) : Bool :=
  match k with
  | .eq => w == b
  | .ne => w != b
  | .ltn => decide (w < b)
  | .gen => decide (b ≤ w)
  | .lti => if w64 then w.slt b else (loOf w).slt (loOf b)
  | .gei => if w64 then b.sle w else (loOf b).sle (loOf w)

/-- Ends a wait of a cohort with a status, written as a uniform value. -/
def Cohort.wake (c : Cohort) (d : Reg) (status : Nat) : Cohort := { c.uniform d (BitVec.ofNat 32 status) with wait := none }

/-- A wait of a cohort on an address ends with a status: what it read is newer than any copy its core holds (R331). -/
def State.wakeAt (s : State) (c : Cohort) (pa : Nat) (d : Reg) (status : Nat) : State :=
  (s.dropLines c.core [pa / 64]).setCohort (c.wake d status)

/-- The limit of a wait issued at a clk: T = 0xFFFF_FFFF waits without limit (R191). -/
def waitLimit (clk : Nat) (tmo : Word) : Option (Nat × Nat) := if tmo = 0xFFFFFFFF then none else some (clk, tmo.toNat)

/-- Whether T cycles have passed since the issue (R191). -/
def State.expired (s : State) (issue tmo : Nat) : Bool := decide (tmo ≤ (s.clk + 2 ^ 64 - issue) % 2 ^ 64)

/-- Gives up the issue slot (R285): the resumption point is the word after the suspending word. -/
def State.suspend (s : State) (w : Wait) : State := s.lane (fun c => { c with wait := some w }) 1

/-- Resolves one access of the whole cohort: alignment first (R200). -/
def resolveOne (s : State) (c : Cohort) (a n : Nat) (k : AccessKind) : State × Except FaultInfo Resolved :=
  if a % n != 0 then (s, .error (fltAt causeMisaligned 0 a k)) else resolve s c a n k 960

/-- The word at a physical address. -/
def State.wordOf (s : State) (pa : Nat) (w64 : Bool) : DWord := BitVec.ofNat 64 (s.readN pa (if w64 then 8 else 4))
/-- The word that a cohort waits on, as a relaxed read of its own at package scope (R191): what its core holds of the line is performed, and a
buffered store of its own is seen (R345). On a strongly ordered page (strong) every such read acts as .sc at .pkg (R338, R345). A page that
names the control range reaches no register (R395): its word is free (log entry 13). -/
def State.waitWord (s : State) (c : Cohort) (strong : Bool) (pa : Nat) (w64 : Bool) : State × DWord :=
  let s := if strong then ((s.release c .pkg).ticket).acquire c .pkg else s
  let s := s.publish c.core [pa / 64]
  (s, BitVec.ofNat 64 (leNat ((List.range (if w64 then 8 else 4)).map (fun i =>
    if areaOf (pa + i) = .control then Config.deviceByte s.tick (pa + i) else s.wcByte c.core c.id (pa + i)))))

/-- The waited word read for the first time: resolved, readable, not held by a command, not poisoned. -/
def State.waitRead (s : State) (a n : Nat) (k : Resolved → DWord → State → Out) : Out :=
  match resolveOne s s.co a n .read with
  | (t, .error f) => .next (t.raise f)
  | (t, .ok r) =>
    if r.leaves.any (fun l => l.pbmt == 2 && !l.so) then .next (t.raise (fltAt causeProtection 5 a .read))
    else
      match t.heldBy r.pas false, t.poisonRead t.co.core .plain true a r with
      | some cmd, _ => .next (t.raise (heldFault cmd))
      | none, some f => .next (t.raise f)
      | none, none =>
        let pa := r.pas.headD 0
        let strong := r.leaves.any Leaf.so
        let t := { t with co := { t.co with strong := strong } }
        let t := if r.leaf.isSome then t.past t.co.core [pa / 64] else t
        let (t, w) := t.waitWord t.co strong pa (decide (n = 8))
        k r w t

/-- WAITA (R191): the test and the arming of the monitor are one step. -/
def execWaita (d a b : Reg) (w64 : Bool) (k : WaitCond) (s : State) : Out :=
  let c := s.co
  let va := (c.ugetPair a).toNat
  let tmo := c.uget d
  let cmp : DWord := if w64 then c.ugetPair b else (c.uget b).setWidth 64
  s.waitRead va (if w64 then 8 else 4) (fun r w t =>
    if waitCond k w64 w cmp then .next (t.lane (fun c => c.uniform d 0) 1)
    else if tmo = 0 then .next (t.lane (fun c => c.uniform d 1) 1)
    else .next (t.suspend (.waita va (r.pas.headD 0) w64 k cmp d (waitLimit t.clk tmo))))

/-- EVWAIT (R382): as WAITA with the 64-bit gen condition; an acquire at .pkg follows a satisfied wait. -/
def execEvwait (d a b : Reg) (s : State) : Out :=
  let c := s.co
  let va := (c.ugetPair a).toNat
  let tmo := c.uget d
  let cmp := c.ugetPair b
  s.waitRead va 8 (fun r w t =>
    if waitCond .gen true w cmp then .next ((t.acquire c .pkg).lane (fun c => c.uniform d 0) 1)
    else if tmo = 0 then .next (t.lane (fun c => c.uniform d 1) 1)
    else .next (t.suspend (.evwait va (r.pas.headD 0) cmp d (waitLimit t.clk tmo))))

/-- The address that a parked cohort reads, and how many bytes. -/
def Wait.word : Wait → Option (Nat × Nat × Nat)
  | .waita va pa w64 .. => some (va, pa, if w64 then 8 else 4)
  | .evwait va pa .. | .sysAnswer va pa .. => some (va, pa, 8)
  | .sysRoom | .barrier .. | .arrive .. => none

/-- The word of a parked cohort as an access past the caches. -/
def wordAt (pa n : Nat) : Resolved := { pas := (List.range n).map (fun i => pa + i), leaf := none, next := none }
/-- The read of its word by a parked cohort consumes poison, at the word at which the cohort has parked (R368, log entry 86). -/
def State.waitPoison (s : State) (c : Cohort) (f : FaultInfo) : State :=
  ((s.setCohort { c with wait := none, idx := c.idx - 1 }).focus c.id).raise f

/-- A parked cohort reads its word again. Where a command holds the word, the command comes on instead (R225, R342); poison is consumed as by
any other read. -/
def State.reread (s : State) (co : Nat) (k : Cohort → Wait → State → State) : State :=
  match s.cohort? co with
  | none => s
  | some c => match c.wait with
    | none => s
    | some w => match w.word with
      | none => s
      | some (va, pa, n) =>
        match s.heldBy (wordAt pa n).pas false, s.poisonRead c.core .plain true va (wordAt pa n) with
        | some cmd, _ => s.waitCmd cmd
        | none, some f => s.waitPoison c f
        | none, none => k c w s

/-- A test of a wait whose timeout has expired or has not: what it ends with. -/
def State.waitTest (s : State) (c : Cohort) (w : Wait) (late : Bool) : State :=
  match w with
  | .waita _ pa w64 k b d _ =>
    let (t, x) := s.waitWord c c.strong pa w64
    if waitCond k w64 x b then t.wakeAt c pa d 0 else if late then t.wakeAt c pa d 1 else t
  | .evwait _ pa b d _ =>
    let (t, x) := s.waitWord c c.strong pa true
    if waitCond .gen true x b then (t.acquire c .pkg).wakeAt c pa d 0 else if late then t.wakeAt c pa d 1 else t
  | .sysRoom | .sysAnswer .. | .barrier .. | .arrive .. => s

/-- When a wait expires: clk at its issue and T. -/
def Wait.limit : Wait → Option (Nat × Nat)
  | .waita _ _ _ _ _ _ l | .evwait _ _ _ _ l => l
  | .sysRoom | .sysAnswer .. | .barrier .. | .arrive .. => none
def Wait.isWaita : Wait → Bool
  | .waita .. => true
  | .evwait .. | .sysRoom | .sysAnswer .. | .barrier .. | .arrive .. => false

/-- A parked WAITA, or EVWAIT, tests again: on a wake, or when its timeout has expired. -/
def State.retest (s : State) (co : Nat) (waita late : Bool) : State :=
  s.reread co (fun c w s =>
    if w.isWaita != waita then s
    else if !late then s.waitTest c w false
    else match w.limit with
      | some (issue, tmo) => if s.expired issue tmo then s.waitTest c w true else s
      | none => s)

/-- WAITA_WAKE (R191): a parked WAITA tests again; it ends when its condition holds. -/
def execWaitaWake (co : Nat) (s : State) : Out := .next (s.retest co true false)
/-- WAITA_TIMEOUT (R191): the timeout has expired; a condition that holds by then still gives status 0. -/
def execWaitaTimeout (co : Nat) (s : State) : Out := .next (s.retest co true true)
/-- EVWAIT_WAKE (R382). -/
def execEvwaitWake (co : Nat) (s : State) : Out := .next (s.retest co false false)
/-- EVWAIT_TIMEOUT (R382). -/
def execEvwaitTimeout (co : Nat) (s : State) : Out := .next (s.retest co false true)

/-- Something is done to another cohort beside what the focused one does. -/
def State.aside (s : State) (f : State → State) : State :=
  let t := (f s).focus s.co.id
  { t with lastFault := s.lastFault }

/-- What a WAKEA makes of a cohort that waits on its line (R192, R382); one whose word is poisoned consumes the poison. -/
def State.wakeOne (s : State) (co : Nat) : State :=
  match s.cohort? co with
  | none => s
  | some c => match c.wait with
    | none => s
    | some w => match w.word with
      | none => s
      | some (va, pa, n) =>
        match s.poisonRead c.core .plain true va (wordAt pa n) with
        | some f => s.aside (fun s => s.waitPoison c f)
        | none => match w with
          | .waita _ _ w64 k b d _ =>
            let (t, x) := s.waitWord c c.strong pa w64
            t.wakeAt c pa d (if waitCond k w64 x b then 0 else 2)
          | .evwait .. | .sysRoom | .sysAnswer .. | .barrier .. | .arrive .. => s.waitTest c w false

/-- The cohorts of a context that wait on a 64-byte line. -/
def State.waitersOn (s : State) (ctx line : Nat) : List Nat :=
  (s.allCohorts.filter (fun c => c.ctx == ctx && match c.wait.bind Wait.word with
    | some (_, pa, _) => pa / 64 == line
    | none => false)).map Cohort.id

/-- The command that holds the word of one of some parked cohorts. -/
def State.waitHeld (s : State) (cos : List Nat) : Option Nat :=
  cos.findSome? (fun co => match ((s.cohort? co).bind Cohort.wait).bind Wait.word with
    | some (_, pa, n) => s.heldBy (wordAt pa n).pas false
    | none => none)

/-- WAKEA (R192): a release at .pkg, then every waiter of the context on the line reads its word again, which waits for a command that holds
it (R225, R342). It needs no alignment. -/
def execWakea (a : Reg) (s : State) : Out :=
  let c := s.co
  let va := (c.ugetPair a).toNat
  match resolve s c va 1 .read 970 with
  | (t, .error f) => .next (t.raise f)
  | (t, .ok r) =>
    let them := t.waitersOn c.ctx (r.pas.headD 0 / 64)
    match t.waitHeld them with
    | some cmd => .next (s.waitCmd cmd)
    | none => .next ((them.foldl State.wakeOne (t.release c .pkg)).lane id 1)

/-! ## EVSIG (R381) -/

/-- EVSIG: a 64-bit atomic add with a release at .pkg, once for the cohort. -/
def execEvsig (f : Bool) (a b : Reg) (s : State) : Out :=
  let c := s.co
  s.atomOp f none 8 .rel .pkg 1 [(c.lowest, (c.ugetPair a).toNat)] (fun _ m => (m + (c.uget b).toNat) % 2 ^ 64)

/-! ## Cache maintenance (R195) -/

/-- One 64-byte line of a CINV or CWB. -/
def State.maintLine (s : State) (c : Cohort) (inv : Bool) (va : Nat) : State :=
  match windowOf va with
  | .loc _ | .onchip _ => s
  | .glob =>
    let (s, p) := s.quietPage c va
    match p with
    | none => s
    | some q =>
      let line := (q.pa + va % 4096) / 64
      if inv then
        c.teamCores.foldl (fun s n => s.modCore n (fun k => k.keepRo (fun u => u / 16 != line))) (s.dropLines c.core [line])
      else (s.writeBack c.core [line]).tagLines c.core [line] 1

/-- CINV and CWB (R195): every line that overlaps the range, ascending; B = 0 names no byte, and its flag is clear again at once. -/
def State.maintain (s : State) (f inv : Bool) (a b : Reg) : Out :=
  let c := s.co
  let va := (c.ugetPair a).toNat
  let n := (c.uget b).toNat
  let lines := if n = 0 then 0 else (va % 64 + n + 63) / 64
  let t := (List.range lines).foldl (fun s i => s.maintLine c inv ((va / 64 * 64 + 64 * i) % 2 ^ 64)) s
  .next ((if n = 0 then t else (t.startOp .maint (c.flagOf f) [] []).2).lane id 1)
def execCinv (f : Bool) (a b : Reg) (s : State) : Out := s.maintain f true a b
def execCwb (f : Bool) (a b : Reg) (s : State) : Out := s.maintain f false a b
/-- CACHE_MAINT_COMPLETE (R195). -/
def execCacheMaintComplete (co op : Nat) (s : State) : Out := .next (s.completeOp co op .maint)

/-! ## TLBQ and CLKRD (R196, R197) -/

/-- The result of TLBQ for a leaf (R196). -/
def tlbqOf (l : Leaf) (va : Nat) : Nat :=
  let b (x : Bool) (n : Nat) : Nat := if x then 2 ^ n else 0
  let may (k : AccessKind) : Bool := (permit { l with mig := false } k).isOk
  1 + b (may .read) 1 + b (may .write) 2 + b (may .fetch) 3 + b l.mig 4 + l.pbmt * 2 ^ 5 + b l.so 7 + l.efmt * 2 ^ 8 +
    bitsOf (l.pa + va % 4096) 12 38 * 2 ^ 12 + l.bgeo * 2 ^ 50 + l.size * 2 ^ 52

/-- The translation that TLBQ reports: a walk, or a held translation that differs from it (R350). Nothing is said of a walk that
meets poison: its subcause is a free value (log entry 14). -/
def State.tlbq (s : State) (c : Cohort) (va : Nat) : State × Nat :=
  match windowOf va with
  | .loc _ => (s, 2 ^ 62)
  | .onchip x => (s, 2 ^ 63 + bitsOf (onchipBase + x) 12 38 * 2 ^ 12)
  | .glob =>
    let held := s.tlbHeld c.core c.ctx (va / 4096)
    match walkRoot s (s.ctx c.ctx).root va with
    | .error f =>
      match (if s.pick 980 then held else none) with
      | some l => (s, tlbqOf l va)
      | none => (s, 256 * (if f.cause = causeNotPresent then f.sub else s.choose 981 256))
    | .ok w =>
      match held with
      | some l =>
        if { l with dirty := true } = { w.leaf with dirty := true } || !s.pick 980 then (setAD s w .read, tlbqOf w.leaf va)
        else (s, tlbqOf l va)
      | none =>
        ((setAD s w .read).tlbFill c.core c.ctx (va / 4096) w.leaf, tlbqOf w.leaf va)

/-- TLBQ (R196). -/
def execTlbq (f : Bool) (d a : Reg) (s : State) : Out :=
  let c := s.co
  let (t, x) := s.tlbq c (c.ugetPair a).toNat
  let x : DWord := BitVec.ofNat 64 x
  let ws := c.livel.flatMap (fun l => [(regKey c.v.wdepth c.S d l, loOf x), (regKey c.v.wdepth c.S (d + 1) l, hiOf x)])
  let (_, t) := t.startOp .maint (c.flagOf f) (ws.map Prod.fst) ws
  .next (t.lane id 1)

/-- CLKRD (R197): the package timer. -/
def execClkrd (d : Reg) (s : State) : Out :=
  .next (s.lane (fun c => c.uniformPair d (BitVec.ofNat 64 s.timer)) 1)

/-! ## SYSC (R198) -/

/-- The call entry of a SYSC with its sequence number (R198, R356). -/
def callEntry (c : Cohort) (va q : Nat) : List Byte :=
  ({ FaultRec.of c c.wordAddr { flt 0 0 with addr := va } with seq := q } : FaultRec).toBytes

/-- SYSC's answer is written: an acquire at .pkg, D:D+1, the flag (R198). -/
def State.sysDone (s : State) (co : Nat) (d : Reg) (op : Nat) (ans : DWord) : State :=
  match s.cohort? co with
  | some c =>
    (s.acquire c .pkg).modCohort co (fun c => ({ c.uniformPair d ans with wait := none }).dropOp op)
  | none => s

/-- The checks of SYSC, in order (R198): the answer word of its block. -/
def State.syscBlock (s : State) (c : Cohort) (va : Nat) : State × Except FaultInfo Resolved :=
  if va % 64 != 0 then (s, .error (fltAt causeMisaligned 0 va .write))
  else match windowOf va with
    | .loc _ | .onchip _ => (s, .error (fltAt causeRemote 5 va .write))
    | .glob =>
      if s.spillHit c.ctx va 64 then (s, .error (fltAt causeProtection 3 va .write))
      else
        match s.lookup c va .write 990 with
        | (s, .error f) => (s, .error f)
        | (s, .ok l) =>
          if l.ordered then (s, .error (fltAt causeCopyRange 4 va .write))
          else (s, .ok { pas := (List.range 8).map (fun i => l.pa + va % 4096 + i), leaf := some l, next := none })

/-- The call's operation at SYSC: begun at issue (R198), once; a cohort that comes back for room in the ring has it. -/
def State.callOp (s : State) (f : Bool) (d : Reg) : Nat × State :=
  let c := s.co
  match c.mark with
  | some (.sysIssued op) => (op, { s with co := { c with mark := none } })
  | _ => s.startOp .sysc (c.flagOf f) (c.keysOf d c.livel ++ c.keysOf (d + 1) c.livel) []
/-- SYSC completes at once with a result. -/
def State.callEnds (s : State) (d : Reg) (op : Nat) (x : DWord) : State := s.lane (fun c => (c.uniformPair d x).dropOp op) 1

/-- SYSC (R198). A cohort restored at a SYSC that it has posted only waits again. A walk for the call ring that consumes poison is the
cohort's fault (R368). -/
def execSysc (f : Bool) (d a : Reg) (s : State) : Out :=
  let c := s.co
  let va := (c.ugetPair a).toNat
  match s.syscBlock c va with
  | (t, .error e) => .next (t.raise e)
  | (t, .ok blk) =>
    let pa := blk.pas.headD 0
    match c.mark with
    | some (.sysPosted _ d op) =>
      .next ({ t with co := { t.co with mark := none } }.suspend (.sysAnswer va pa d op))
    | some (.sysIssued _) | some (.barArrived ..) | none =>
      let (op, u) := (t.release c .pkg).callOp f d
      let x := u.ctx c.ctx
      if x.sysSize = 0 then .next (u.callEnds d op 0xFFFFFFFFFFFFFFFF)
      else if (x.sysHead + 2 ^ 32 - x.sysTail) % 2 ^ 32 = 2 ^ x.sysSize then
        .next { u with co := { u.co with wait := some .sysRoom, mark := some (.sysIssued op) } }
      else
        match u.accessBad c.core .plain .write va blk with
        | some e => .next (t.raise e)
        | none =>
          let u := (u.past c.core [pa / 64]).writeN pa 8 0
          let at_ := (x.sysBase + 64 * (x.sysHead % 2 ^ x.sysSize)) % 2 ^ 64
          match u.slotAt c.ctx at_ with
          | none =>
            match u.slotPoison c.ctx [at_] with
            | some q => .next (t.raise { fltAt causePoison 6 at_ .write with paddr := q })
            | none => .next (u.callEnds d op 0xFFFFFFFFFFFFFFFE)
          | some (u, slot) =>
            let (q, u) := u.nextSeq
            let u := u.write (cellsFrom slot (callEntry c va q))
            let u := (u.modCtx c.ctx (fun x => { x with sysHead := (x.sysHead + 1) % 2 ^ 32 })).ctxMsi c.ctx
            .next (u.suspend (.sysAnswer va pa d op))

/-- SYSC_ANSWER (R198): a nonzero answer word ends the wait; an answer word that consumes poison is a fault of the cohort at
its SYSC. -/
def execSyscAnswer (co : Nat) (s : State) : Out :=
  .next (s.reread co (fun c w s => match w with
    | .sysAnswer _ pa d op =>
      let (t, x) := s.waitWord c false pa true
      if x = 0 then t else (t.dropLines c.core [pa / 64]).sysDone co d op x
    | .waita .. | .evwait .. | .sysRoom | .barrier .. | .arrive .. => s))

/-- The cohorts of a context that wait for room in the call ring try again (R198). -/
def State.sysRoom (s : State) (ctx : Nat) : State :=
  let go (c : Cohort) : Cohort := if c.ctx = ctx && c.wait = some .sysRoom then { c with wait := none } else c
  { s with co := go s.co, cohorts := s.cohorts.map (fun e => (e.1, go e.2)) }

/-- SYS_TAIL_WRITE (R198). -/
def execSysTailWrite (ctx : Nat) (v : Word) (s : State) : Out :=
  .next ((s.modCtx ctx (fun x => { x with sysTail := v.toNat })).sysRoom ctx)

/-! ## BKPT (R199) -/

/-- The BREAK event of a cohort at a BKPT word (R365). -/
def breakRec (c : Cohort) (pc : Nat) : FaultRec :=
  let f : FaultInfo := flt 0x86 0
  FaultRec.of { c with skid := false } pc f

/-- BKPT (R199): with ctx_dbg.bkpt 0 the cohort goes on at the next clause; with 1 its team halts and is held. Its skid is 0 unless it has
skidded on the way to this halt (R298). -/
def execBkpt (s : State) : Out :=
  let c := s.co
  if !(s.ctx c.ctx).bkpt then .next { s with co := c.goto c.nextClause }
  else
    let pc := c.wordAddr
    let c' := (c.landSfu).goto c.nextClause
    let s := { s with co := { c' with halted := true, asked := false, pre := none, skid := c.skid && c.asked } }
    let s := s.log (breakRec c pc) []
    match s.team? c.team with
    | none => .next s
    | some t =>
      match t.status with
      | .halting _ => .next s
      | .running | .parked | .descheduled _ | .held | .stopped =>
        .next ((s.setTeam { t with status := .halting (.bkpt c.id) }).askTeam t.key)

end Sys2Proof.Machine
end

