-- ==== Sys2Proof/Machine/Ends.lean ====
section
/-!
DEFINITION. How teams halt (R298, R299) and how contexts end (R360, R364): sibling stops, the outcome of a halt, the start of a
termination and its end.
-/

namespace Sys2Proof.Machine

/-- A cohort issues no more until it is told to: stopped, suspended, or without a live lane. -/
def Cohort.stopped (c : Cohort) : Bool := c.halted || c.exited || c.ended
/-- Every cohort of a team has stopped and its commands have retired; the end of a context does not wait for its fabric commands,
which end with it (R459). -/
def State.teamQuiet (s : State) (key : Nat) : Bool :=
  (s.cohortsOf key).all (fun c => c.stopped && !c.v.ops.any (fun o => o.kind == .engine &&
    !((s.ctx c.ctx).ending && s.fcmds.any (fun f => f.opId == o.id))))

/-- A record of a terminating fault, and the termination that it causes (R358, R364). -/
def State.killWith (s : State) (r : FaultRec) (diag : List Byte) : State := (s.log r diag).beginEnd r.ctx r.cause

/-- Poison that an engine read, or would have merged into, ends the issuing context (R227, R368): the record names the command's cohort and
word, the sector, and the address of the command's first byte there (0 where a merge has none; log entry 79). -/
def State.enginePoison (s : State) (ctx co pc sub : Nat) (at_ : Nat × Nat) : State :=
  let f := { flt causePoison sub with rd := sub = 5, wr := sub = 2, eng := true, paddr := at_.1, addr := at_.2 }
  match s.cohort? co with
  | some c => s.killWith (FaultRec.of c pc f) []
  | none =>
    s.killWith { FaultRec.blank ctx (s.ctx ctx).tenant causePoison sub with
      pc := pc, paddr := at_.1, addr := at_.2, flags := f.flags false false } []

/-- SIBLING_STOP (R298, R362): a cohort asked to stop has come to a clause boundary, stands suspended, or stands at a command that
is no longer accepted. -/
def execSiblingStop (co : Nat) (s : State) : Out :=
  match s.cohort? co with
  | some c =>
    let parked := (!c.mid || c.wait.isSome) && !((s.core c.core).holder.contains co)
    let at_ := c.mid && c.wait.isNone && s.noCommands c.ctx && (s.focus co).atCommand
    if c.asked && !c.ended && (parked || at_) then
      .next ((s.setCohort { c.landSfu with halted := true, asked := false }).modCore c.core (fun k =>
        { k with holder := k.holder.filter (fun i => i != co) }))
    else .next s
  | none => .next s

/-- A fault that neither the fault buffer nor a wait list takes: it ends the context (R299, R357). -/
def FaultInfo.ends (f : FaultInfo) : Bool := !toBuffer f && f.cause != causeLongLatency

/-- Faults that the cohorts of a team took while it halted, logged under their own causes (R298, R364). -/
def State.logOwnFaults (s : State) (t : Team) : State :=
  (sortBy Cohort.cohid (s.cohortsOf t.key)).foldl (fun s c => match c.fault with
    | some g =>
      let s := if !g.ends then s else s.log (FaultRec.of c c.faultAt g) []
      s.modCohort c.id (fun c => { c with fault := none })
    | none => s) s

/-- The first of the faults of a halted team's siblings, by cohid, that ends the context. -/
def State.siblingEnds (s : State) (key : Nat) : Option FaultInfo :=
  ((sortBy Cohort.cohid (s.cohortsOf key)).filterMap Cohort.fault).find? FaultInfo.ends

/-- The records of a team's terminating fault and of the siblings that faulted while they finished (R298, R364). -/
def State.logTeamFaults (s : State) (t : Team) (co pc : Nat) (f : FaultInfo) : State :=
  let s := match s.cohort? co with
    | some c => (s.log (FaultRec.of c pc f) t.diag).modCohort co (fun c => { c with fault := none })
    | none => s
  s.logOwnFaults t

/-- A team has halted for a cause that does not end its context: it stands so, unless a sibling's own fault ends the context (R357, R360;
log entry 68). -/
def State.haltEnds (s : State) (t : Team) (st : TeamStatus) : State :=
  match s.siblingEnds t.key with
  | some g => ((s.logOwnFaults t).setTeam { t with status := .halting .terminate }).beginEnd t.ctx g.cause
  | none => s.setTeam { t with status := st }

/-- TEAM_HALT (R299): special-function results have landed and commands have retired; the team follows its cause. A sibling's own fault that
ends the context does so whatever the team's cause is (R357). -/
def execTeamHalt (team : Nat) (s : State) : Out :=
  match s.team? team with
  | none => .next s
  | some t =>
    if !s.teamQuiet team then .next s
    else
      let s := { s with co := if s.co.team = team then s.co.landSfu else s.co
                        cohorts := s.cohorts.map (fun (e : Nat × Cohort) => if e.2.team = team then (e.1, e.2.landSfu) else e) }
      match t.status with
      | .halting (.bkpt _) => .next (s.haltEnds t .held)
      | .halting .stop => .next (s.haltEnds t .stopped)
      | .halting (.fault co pc f) =>
        if (s.ctx t.ctx).ending then
          let s := if !f.ends then s else s.logTeamFaults t co pc f
          .next (s.setTeam { t with status := .halting .terminate })
        else if !f.ends then .next (s.haltEnds t (if toBuffer f then .parked else .descheduled f.gran))
        else
          .next (((s.logTeamFaults t co pc f).setTeam { t with status := .halting .terminate }).beginEnd t.ctx f.cause)
      | .halting .terminate => .next (s.logOwnFaults t)
      | .running | .parked | .descheduled _ | .held | .stopped => .next s

/-- Slot units of a residency (R257). -/
def Residency.width (r : Residency) : Nat := if r.fmt = 4 || r.fmt = 5 || r.fmt = 7 then 4 else if r.fmt ≥ 8 then 16 else 8
def Residency.units (r : Residency) : Nat := r.width / 4 * (if r.pair then 2 else 1)

/-- Frees a residency descriptor: its units return, its cells and registration go; the serial stays (R251, R257, R270). -/
def State.freeResidency (s : State) (core idx : Nat) : State :=
  let r := Tab.get Residency.init (s.core core).res idx
  let s := if r.pinned then s.setTen r.tenant { s.ten r.tenant with used := (s.ten r.tenant).used - r.units } else s
  s.modCore core (fun k => { k with res := Tab.put k.res idx { Residency.init with serial := r.serial } })

/-- Frees every residency of a context (R261). -/
def State.freeResidencies (s : State) (ctx : Nat) : State :=
  (s.cores.flatMap (fun e => (e.2.res.filter (fun r => r.2.ctx = ctx && r.2.state != .free)).map (fun r => (e.1, r.1)))).foldl
    (fun s p => s.freeResidency p.1 p.2) s

/-- Whether the context has a command under way anywhere (R361, R362, R364). -/
def State.ctxBusy (s : State) (ctx : Nat) : Bool :=
  s.cores.any (fun e => e.2.cmds.any (fun k => k.ctx == ctx) || e.2.mq.any (fun m => m.ctx == ctx)) ||
  s.clusters.any (fun e => e.2.route.any (fun r => r.2.ctx == ctx)) ||
  s.freqs.any (fun r => match r.src with
    | .cohort _ _ _ x _ => x == ctx
    | .mbox => false)

/-- Buffered stores and dirty lines of a context's cohorts come to their point of coherence (R362, R364). -/
def State.drainCtx (s : State) (ctx : Nat) : State :=
  ((s.allCohorts.filter (fun c => c.ctx == ctx)).foldl (fun s c => s.release c .pkg) s)

/-- The context leaves its cores: teams are discarded without counting for their launches (R37, R362, R364). -/
def State.dropTeams (s : State) (ctx : Nat) : State := (s.teamsOf ctx).foldl State.departTeam s

/-- RELEASE of a context that has ended (R352, R360, R365, R373, R443, R455): event 0x85 first; then what the device holds of the context is
freed. The supervisor's registers and the log's keep their values. -/
def State.releaseCtx (s : State) (ctx : Nat) : State :=
  let s := s.logEvent ctx 0x85 0
  let s := s.modCtx ctx (fun x => { x with
    state := .free, short := false, cause := 0, causeSet := false, savesz := 0, allocs := [], nextLid := 1, launches := []
    capture := none, ending := false, release := false, drained := false })
  { s with
    dies := s.dies.map (fun (e : Nat × Die) => (e.1, { e.2 with fbufs := Tab.erase e.2.fbufs ctx }))
    fabs := s.fabs.map (fun (e : Nat × FabBlk) => if e.1 % 64 = ctx then
      (e.1, { e.2 with ctrs := [], trigs := [], waiting := [], redNext := [], wins := [] }) else e) }

/-- CONTEXT_TERMINATION (R364): every team has halted and stores are drained; what the context holds is discarded and event 0x82
is logged. A RELEASE that was written meanwhile takes the context to FREE now (log entry 58). -/
def execContextTermination (ctx : Nat) (s : State) : Out :=
  let x := s.ctx ctx
  if x.ending && (s.teamsOf ctx).all (fun t => t.status = .halting .terminate && s.teamQuiet t.key) && !s.ctxBusy ctx then
    let s := (s.teamsOf ctx).foldl State.logOwnFaults s
    let s := (s.drainCtx ctx).dropTeams ctx
    let s := s.freeResidencies ctx
    let s := (s.ctx ctx).capture.elim s (fun k => k.res.foldl (fun (s : State) e =>
      if e.2.2.pinned then s.setTen e.2.2.tenant { s.ten e.2.2.tenant with used := (s.ten e.2.2.tenant).used - e.2.2.units } else s) s)
    let s := (s.fcmds.filter (fun f => f.ctx == ctx)).foldl (fun s f => s.freeSb f.id) s
    let s := s.modCtx ctx (fun x => { x with launches := [], capture := none, ending := false, drained := false, allocs := [] })
    let s := { s with
      dies := s.dies.map (fun (e : Nat × Die) => (e.1, { e.2 with
        fbufs := e.2.fbufs.map (fun (b : Nat × FaultBuf) => if b.1 = ctx then (b.1, { b.2 with ents := List.replicate 8 none }) else b) }))
      fabs := s.fabs.map (fun (e : Nat × FabBlk) => if e.1 % 64 = ctx then (e.1, { e.2 with trigs := [], waiting := [] }) else e)
      fcmds := s.fcmds.filter (fun f => f.ctx != ctx) }
    let s := s.logEvent ctx 0x82 (s.ctx ctx).cause
    .next (if x.release then s.releaseCtx ctx else s)
  else .next s

end Sys2Proof.Machine
end

