-- ==== Sys2Proof/Machine/Engines.lean ====
section
/-!
DEFINITION. What every engine command shares: its ranges, the checks at acceptance in their order (R228, R316, R414, R445), its
scoreboard entries (R224, R225), its acceptance (R227, R341) and its retirement (R226, R342).
-/

namespace Sys2Proof.Machine

/-- A range that a command names: ranges of one group make up one range of R224. share: an offset into the team's share. -/
structure Rg where
  grp   : Nat
  share : Bool
  va    : Nat
  len   : Nat
  wr    : Bool
  deriving DecidableEq, Repr

/-- Where a range begins. -/
inductive Place where
  | loc (x : Nat) | chip (slot off : Nat) | glob
  deriving DecidableEq, Repr

def Rg.place (r : Rg) : Place :=
  if r.share then .loc r.va
  else match windowOf r.va with
    | .loc x => .loc x
    | .onchip x => .chip (x / 0x400000) (x % 0x400000)
    | .glob => .glob

/-- Whether a range lies in the ONCHIP window. -/
def Rg.chip (r : Rg) : Bool := match r.place with
  | .chip _ _ => true
  | .loc _ | .glob => false

/-- A part of a range in one page, or a whole local range, at its physical address. -/
structure Piece where
  va   : Nat
  pa   : Nat
  len  : Nat
  leaf : Option Leaf
  deriving DecidableEq, Repr

/-- A fault of an engine command at its word (R356). -/
def engFault (f : FaultInfo) : FaultInfo := { f with eng := true }
/-- The kind of access that a range makes. -/
def Rg.kind (r : Rg) : AccessKind := if r.wr then .write else .read
def Rg.flt (r : Rg) (cause sub addr : Nat) : FaultInfo := engFault (fltAt cause sub addr r.kind)

/-- The slot-offset range of a local range of a cohort's command. A global range takes no entry, one on a page that maps on-chip bytes
included (log entry 94). -/
def Rg.claim (c : Cohort) (r : Rg) : Option Claim :=
  if r.len = 0 then none
  else match r.place with
    | .loc x =>
      let lo := spOffset + 16384 * c.shareB + x
      some { slot := c.core, wr := r.wr, lo := lo, hi := lo + r.len, co := none }
    | .chip slot off => some { slot := slot, wr := r.wr, lo := off, hi := off + r.len, co := none }
    | .glob => none

/-- One claim for each group and slot: the smallest run that holds its ranges (R224). -/
def claimsOf (c : Cohort) (rs : List Rg) : List Claim :=
  (rs.foldl (fun (t : List (Nat × Claim)) r => match r.claim c with
    | none => t
    | some k =>
      if t.any (fun e => e.1 == r.grp && e.2.slot == k.slot) then
        t.map (fun e => if e.1 == r.grp && e.2.slot == k.slot then
          (e.1, { e.2 with lo := min e.2.lo k.lo, hi := max e.2.hi k.hi }) else e)
      else t ++ [(r.grp, k)]) []).map Prod.snd

/-- Whether slot offsets lie within an area's configured size (R218). -/
def Core.areaOk (c : Core) (off len : Nat) : Bool :=
  let within (lo hi : Nat) : Bool := decide (lo ≤ off) && decide (off + len ≤ hi)
  within 0 (16384 * c.rf) || within spOffset (spOffset + 16384 * c.sp) || within accOffset (accOffset + 0x20000) ||
  within scaleOffset (scaleOffset + 0x4000)

/-- The end of the area that a slot offset lies in; the offset itself where it lies in none. -/
def Core.areaEnd (c : Core) (off : Nat) : Nat :=
  (([(0, 16384 * c.rf), (spOffset, spOffset + 16384 * c.sp), (accOffset, accOffset + 0x20000), (scaleOffset, scaleOffset + 0x4000)].find?
    (fun a => decide (a.1 ≤ off) && decide (off < a.2))).map Prod.snd).getD off

/-- The first byte of a slot range that lies in no share of the context (R173): shares are whole granules. -/
def State.chipGap (s : State) (ctx slot off len : Nat) : Option Nat :=
  let steps := (off % 16384 + len + 16383) / 16384
  (List.range steps).findSome? (fun i =>
    let at_ := if i = 0 then off else (off / 16384 + i) * 16384
    if s.inShare ctx slot at_ then none else some (at_ - off))

/-- Row 2 of R228: WINDOW_STRADDLE. -/
def straddleOf (rs : List Rg) : Option FaultInfo :=
  rs.findSome? (fun r =>
    if r.share || r.len = 0 then none
    else if (windowOf r.va).code != (windowOf ((r.va + r.len - 1) % 2 ^ 64)).code then some (r.flt causeStraddle 0 r.va)
    else none)

/-- Row 5 of R228: a local range beyond the share, or a slot range beyond its area; the first byte beyond is the one that fails (R356). -/
def beyondOf (s : State) (c : Cohort) (rs : List Rg) : Option FaultInfo :=
  rs.findSome? (fun r =>
    if r.len = 0 then none
    else match r.place with
      | .loc x => if x + r.len ≤ c.shareSize then none else some (r.flt causeCopyRange 2 (r.va + (c.shareSize - x)))
      | .chip slot off =>
        if (s.core slot).areaOk off r.len then none else some (r.flt causeCopyRange 2 (r.va + ((s.core slot).areaEnd off - off)))
      | .glob => none)

/-- Row 6: two local ranges of different groups overlap and one of them is written. -/
def overlapOf (c : Cohort) (rs : List Rg) : Option FaultInfo :=
  let ks := rs.filterMap (fun r => (r.claim c).map (fun k => (r.grp, k)))
  if ks.any (fun a => ks.any (fun b => a.1 != b.1 && (a.2.wr || b.2.wr) && a.2.slot == b.2.slot &&
      decide (a.2.lo < b.2.hi) && decide (b.2.lo < a.2.hi)))
  then some (engFault (flt causeCopyRange 3)) else none

/-- Row 7: an ONCHIP range that reaches anything but shares of the context; with never, any ONCHIP range (R445). -/
def remoteOf (s : State) (c : Cohort) (never : Bool) (rs : List Rg) : Option FaultInfo :=
  rs.findSome? (fun r =>
    if r.len = 0 then none
    else match r.place with
      | .chip slot off =>
        if never then some (r.flt causeRemote 7 r.va)
        else (s.chipGap c.ctx slot off r.len).map (fun g => r.flt causeRemote 6 ((r.va + g) % 2 ^ 64))
      | .loc _ | .glob => none)

/-- Translates a global range page by page. -/
def globPieces (c : Cohort) (k : AccessKind) : Nat → Nat → Nat → State → State × Except FaultInfo (List Piece)
  | 0, _, _, s => (s, .ok [])
  | n + 1, va, len, s =>
    if len = 0 then (s, .ok [])
    else
      match s.lookup c va k (2000 + n) with
      | (s, .error f) => (s, .error (engFault f))
      | (s, .ok l) =>
        let here := min len (4096 - va % 4096)
        let pas := (List.range here).map (fun i => l.pa + va % 4096 + i)
        match s.pageBad c.ctx va pas k, (match k with | .write => none | .read | .fetch => s.stallOf c.core none pas) with
        | some f, _ => (s, .error (engFault f))
        | none, some (i, sub) => (s, .error (engFault (failAt ⟨causeLongLatency, sub, pas.getD i 0 / 65536⟩ (va + i) k)))
        | none, none =>
        match globPieces c k n ((va + here) % 2 ^ 64) (len - here) s with
        | (s, .error f) => (s, .error f)
        | (s, .ok ps) => (s, .ok ({ va := va, pa := l.pa + va % 4096, len := here, leaf := some l } :: ps))

/-- Row 8: the pieces of a range. -/
def piecesOf (s : State) (c : Cohort) (r : Rg) : State × Except FaultInfo (List Piece) :=
  if r.len = 0 then (s, .ok [])
  else match r.place with
    | .loc x => (s, .ok [{ va := r.va, pa := c.shareAddr x, len := r.len, leaf := none }])
    | .chip slot off => (s, .ok [{ va := r.va, pa := slotAddr slot off, len := r.len, leaf := none }])
    | .glob =>
      match (if r.wr then s.spillByte c.ctx r.va r.len else none) with
      | some b => (s, .error (r.flt causeProtection 3 b))
      | none => globPieces c r.kind ((r.va % 4096 + r.len + 4095) / 4096) r.va r.len s

/-- Row 8 for all ranges in order. -/
def allPieces (c : Cohort) : List Rg → State → State × Except FaultInfo (List (List Piece))
  | [], s => (s, .ok [])
  | r :: rs, s =>
    match piecesOf s c r with
    | (s, .error f) => (s, .error f)
    | (s, .ok ps) =>
      match allPieces c rs s with
      | (s, .error f) => (s, .error f)
      | (s, .ok more) => (s, .ok (ps :: more))

/-- Row 9: a global range on a device or strongly ordered page. -/
def orderedOf (ps : List (List Piece)) : Option FaultInfo :=
  ps.flatten.findSome? (fun p => match p.leaf with
    | some l => if l.ordered then some (engFault (fltAt causeCopyRange 4 p.va .read)) else none
    | none => none)

/-- What an instruction's own rules add to the shared checks: a parameter out of its limits (row 3), no side in the LOCAL window
(row 4), every ONCHIP range forbidden, no test of ONCHIP ranges but row 7 (R414), a check before translation. -/
structure Own where
  bad05 : Bool
  no01  : Bool
  never : Bool
  late  : Bool
  mid   : Option FaultInfo

/-- The first of some conditions that holds. -/
def firstOf : List (Option FaultInfo) → Option FaultInfo
  | [] => none
  | some f :: _ => some f
  | none :: fs => firstOf fs

/-- Rows 2 to 7 (R228, R414, R445): the first condition that applies before any range is translated. -/
def rangesBad (s : State) (c : Cohort) (o : Own) (rs : List Rg) : Option FaultInfo :=
  firstOf [straddleOf rs, if o.bad05 then some (engFault (flt causeCopyRange 5)) else none,
    if o.no01 then some (engFault (flt causeCopyRange 1)) else none,
    beyondOf s c (if o.never || o.late then rs.filter (fun r => !r.chip) else rs), overlapOf c rs,
    remoteOf s c o.never rs, o.mid]

/-- Rows 2 to 9 (R228, R414, R445): the pieces of each range, or the first condition that applies. -/
def checkRanges (s : State) (c : Cohort) (o : Own) (rs : List Rg) : State × Except FaultInfo (List (List Piece)) :=
  match rangesBad s c o rs with
  | some f => (s, .error f)
  | none =>
    match allPieces c rs s with
    | (s, .error f) => (s, .error f)
    | (s, .ok ps) =>
      match orderedOf ps with
      | some f => (s, .error f)
      | none => (s, .ok ps)

/-- The bytes of pieces in order, and the first poisoned sector among them as an engine of a core's cluster reads them (R307, R367). A page that names the control range reaches no register (R395):
what comes back is a free value (log entry 13). -/
def State.pieceBytes (s : State) (ps : List Piece) : List Byte := ps.flatMap (fun p =>
  if areaOf p.pa = .control then (List.range p.len).map (fun i => Config.deviceByte s.tick (p.pa + i)) else s.bytes p.pa p.len)
def State.piecePoison (s : State) (core : Nat) (ps : List Piece) : Option (Nat × Nat) :=
  if s.unmarked then none
  else ps.findSome? (fun p =>
    ((List.range ((p.pa % 16 + p.len + 15) / 16)).find? (fun i =>
      if p.leaf.any Leaf.cached then s.clMark (clusterOf core) (p.pa / 16 + i) else s.poison.contains (p.pa / 16 + i))).map (fun i =>
        (16 * (p.pa / 16 + i), p.va + (16 * (p.pa / 16 + i) - p.pa))))
/-- The 64-byte lines of the module's memories that pieces touch. -/
def pieceLines (ps : List Piece) : List Nat :=
  ((ps.filter (fun p => p.leaf.isSome)).flatMap (fun p => (List.range ((p.pa % 64 + p.len + 63) / 64)).map (fun i => p.pa / 64 + i))).eraseDups
/-- Where the bytes of pieces lie: physical address, length and address. -/
def pieceMap (ps : List Piece) : List (Nat × Nat × Nat) := ps.map (fun p => (p.pa, p.len, p.va))
/-- The address of the first byte of a map in the sector at p. -/
def mapVa (l : List (Nat × Nat × Nat)) (p : Nat) : Nat :=
  (l.findSome? (fun d => if d.1 < p + 16 ∧ p < d.1 + d.2.1 then some (d.2.2 + (p - d.1)) else none)).getD 0
/-- The physical addresses of pieces in order. -/
def piecePas (ps : List Piece) : List Nat := ps.flatMap (fun p => (List.range p.len).map (fun i => p.pa + i))
/-- The LOCAL address of a byte of a cohort's share, and the ONCHIP address of a byte of a slot. -/
def Cohort.localVa (c : Cohort) (pa : Nat) : Nat := 0x00F0000000000000 + (pa - c.shareAddr 0)
def chipVa (pa : Nat) : Nat := 0x00F1000000000000 + (pa - onchipBase)
/-- The virtual pages whose translations a command holds. -/
def piecePages (ps : List Piece) : List Nat := (ps.filter (fun p => p.leaf.isSome)).map (fun p => p.va / 4096)

/-- What the L1s of the issuing team and their cluster hold of some lines is performed for every agent before an engine reads or owns them
(R255, R341), and the issuing cohort's buffered stores are. -/
def State.readyLines (s : State) (c : Cohort) (lines : List Nat) : State :=
  (c.teamCores.foldl (fun s n => s.publish n lines) s).drainWc c.core (some c.id)
/-- The same for the lines of pieces on the global map. -/
def State.ready (s : State) (c : Cohort) (ps : List Piece) : State :=
  s.readyLines c ((ps.filter (fun p => p.leaf.isSome)).flatMap (fun p =>
    (List.range ((p.pa % 64 + p.len + 63) / 64)).map (fun i => p.pa / 64 + i)))

/-- The runs of pieces, by physical address and length, that lie on cached pages. -/
def nearRuns (ps : List Piece) : List (Nat × Nat) := (ps.filter (fun p => p.leaf.any Leaf.cached)).map (fun p => (p.pa, p.len))
/-- The reads of a cluster's engines go through its cache (R307). -/
def State.fillRuns (s : State) (cl : Nat) (runs : List (Nat × Nat)) : State :=
  runs.foldl (fun s p =>
    (List.range ((p.1 % 64 + p.2 + 63) / 64)).foldl (fun s i =>
      let line := p.1 / 64 + i
      s.ccFill cl line
        (sectorBits ((List.range 4).filterMap (fun k =>
          if p.1 < 64 * line + 16 * k + 16 ∧ 64 * line + 16 * k < p.1 + p.2 then some (16 * k) else none))) false) s) s
def State.engineFill (s : State) (c : Cohort) (src : List Piece) : State := s.fillRuns (clusterOf c.core) (nearRuns src)
/-- An engine's reads that are loads of the cohort, in their order on pages that are not cached (R338, R345). -/
def State.orderedReads (s : State) (c : Cohort) (ps : List Piece) : State := ps.foldl (fun s p => s.orderedFirst c p.leaf) s
/-- What comes about before an engine command of a core reads some pieces and owns others. -/
def State.gather (s : State) (c : Cohort) (src dst : List Piece) : State := (s.ready c (src ++ dst)).engineFill c src

/-- The accepted command that owns one of the global lines of some pieces: an engine's access waits for it (R342). -/
def State.owned (s : State) (ps : List Piece) : Option Nat :=
  (ps.filter (fun p => p.leaf.isSome)).findSome? (fun p =>
    (List.range ((p.pa % 64 + p.len + 63) / 64)).findSome? (fun i => s.ownerOf (p.pa / 64 + i)))

/-- The claims that a core's scoreboard has too few entries for, and the command that holds one (R224). -/
def State.lacking (s : State) (ks : List Claim) : Option Nat :=
  (ks.find? (fun k => decide (16 < (s.core k.slot).sb.length + (ks.filter (fun q => q.slot == k.slot)).length))).bind
    (fun k => (s.core k.slot).sb.head?.map SbEntry.cmd)

/-- What keeps a command from acceptance: an overlapping entry, or too few entries (R224, R225). -/
def State.holdup (s : State) (ks : List Claim) : Option Nat :=
  match s.blocker ks with
  | some cmd => some cmd
  | none => s.lacking ks

/-- Accepts a command of the core's engines (R226, R227): entries taken, flag set, D interlocked. The cohort goes on after words
words. s is the state to stay in while the claims are held up; t is the state with the translations. -/
def State.accept (s t : State) (kind : EngKind) (f : Bool) (ks : List Claim) (keys : List Nat) (words : Nat)
    (mk : EngCmd → EngCmd) : Out :=
  match s.holdup ks with
  | some cmd => .next (s.waitCmd cmd)
  | none =>
    let c := t.co
    let (id, t) := t.startOp .engine (c.flagOf f) keys []
    match t.takeSb id ks with
    | none => .next s
    | some t =>
      let e := mk { id := id, kind := kind, co := c.id, op := id, ctx := c.ctx, writes := [], regs := [], dest := [],
                    dst := [], reads := [], poison := none, pages := [], status := 0, pc := c.wordAddr }
      .next ((t.modCore c.core (fun k => { k with cmds := k.cmds ++ [e] })).lane id_ words)
where
  /-- Nothing but the advance. -/
  id_ (c : Cohort) : Cohort := c

/-- A register of another cohort is written, in a lane that has not exited (R232). -/
def State.landReg (s : State) (r : Nat × Nat × Word) : State :=
  s.modCohort r.1 (fun c => if c.v.live.getLsbD (r.2.1 % 64) then { c with v := c.v.setKey r.2.1 r.2.2 } else c)

/-- An operation's results land in the registers that it named, wherever the window has moved them meanwhile (R149). -/
def Cohort.completeAs (c : Cohort) (id : Nat) (ws : List (Nat × Word)) : Cohort :=
  match c.op? id with
  | some o => c.complete id (o.keys.zip (ws.map Prod.snd))
  | none => c

/-- A command's bytes, registers, status bits and results come about; its entries and flag are freed (R226). A command that read
poison, or whose bytes would merge into it, writes nothing and ends its context (R227, R368). -/
def State.finish (s : State) (core : Nat) (e : EngCmd) : State :=
  let s := s.freeSb e.id
  let s := if s.fabs.any (fun b => !b.2.waiting.isEmpty) then s.soon (.fabricCommandComplete 0 0 false []) else s
  match e.poison with
  | some p => (s.modCohort e.co (fun c => c.complete e.op [])).enginePoison e.ctx e.co e.pc 5 p
  | none =>
  match s.poisonMerge e.writes with
  | some p => (s.modCohort e.co (fun c => c.complete e.op [])).enginePoison e.ctx e.co e.pc 2 (p, mapVa e.dst p)
  | none =>
    let s := s.write e.writes
    let lines := linesOf e.writes
    let cores := match s.cohort? e.co with
      | some c => c.teamCores
      | none => [core]
    let s := cores.foldl (fun s n => s.dropLines n lines) s
    let s := e.regs.foldl State.landReg s
    let s := if e.status != 0 && (s.core core).claim = some e.ctx then
      s.modCore core (fun k => { k with mstat := k.mstat ||| e.status }) else s
    s.modCohort e.co (fun c => c.completeAs e.op e.dest)

/-- The retirement of a command of a core's copy, accumulator or scale engine (R226); an id that names none does nothing. -/
def State.retireCmd (s : State) (core cmd : Nat) (kind : EngKind) : State :=
  match (s.core core).cmds.find? (fun e => e.id == cmd && e.kind = kind) with
  | none => s
  | some e => (s.modCore core (fun k => { k with cmds := k.cmds.filter (fun x => x.id != cmd) })).finish core e

/-- A halfword of a parameter block with its substitution (R53): the marked register of LowestActive(). -/
def Cohort.sub (c : Cohort) (h : Half) : Nat := if h.isMarker then (c.uget (h.setWidth 6)).toNat else h.toNat

end Sys2Proof.Machine
end

