-- ==== Sys2Proof/Machine/Barriers.lean ====
section
/-!
DEFINITION. Named barriers of teams and clusters with their watchdogs (R291 to R297, R311 to R313) and the Turnstile (R314 to
R318).
-/

namespace Sys2Proof.Machine

/-! ## Barriers -/

/-- BARRIER_TIMEOUT and its subcauses (R296, R312). -/
def barFault (sub : Nat) : FaultInfo := flt causeBarrier sub
/-- The scope of a barrier. -/
def barScope (cl : Bool) : Scope := if cl then .cluster else .team

/-- The name of a cluster barrier in its cluster's table (R311). -/
def clBarKey (t : Team) (b : Nat) : Nat := launchKey t.ctx t.lid * 64 + b
/-- The barrier that a team's name is bound to. -/
def State.barOf (s : State) (t : Team) (cl : Bool) (b : Nat) : Option Barrier :=
  if cl then Tab.find (s.cluster (clusterOf t.core)).bars (clBarKey t b) else Tab.find t.bars b
def State.putBar (s : State) (t : Team) (cl : Bool) (b : Nat) (x : Barrier) : State :=
  if cl then s.modCluster (clusterOf t.core) (fun q => { q with bars := Tab.put q.bars (clBarKey t b) x })
  else s.modTeam t.key (fun t => { t with bars := Tab.put t.bars b x })
/-- Whether a physical barrier is free (R291, R311). -/
def State.barFree (s : State) (t : Team) (cl : Bool) : Bool :=
  if cl then decide ((s.cluster (clusterOf t.core)).bars.length < 48)
  else decide (((s.allTeams.filter (fun x => x.core == t.core)).foldl (fun n x => n + x.bars.length) 0) < 48)

/-- The cohorts that share a name with a team's cohorts: the team's own, or those of the launch's teams on the cluster. -/
def State.barPeers (s : State) (t : Team) (cl : Bool) : List (Team × Cohort) :=
  let teams := if cl then s.allTeams.filter (fun x => x.ctx == t.ctx && x.lid == t.lid && clusterOf x.core == clusterOf t.core)
    else s.allTeams.filter (fun x => x.key == t.key)
  (sortBy Team.rank teams).flatMap (fun x => (sortBy Cohort.cohid (s.membersOf x.key)).map (fun c => (x, c)))

/-- Whether a suspended cohort waits in BARWAIT or BARSYNC on a barrier (R297), and the address of that word. -/
def Cohort.barWait (c : Cohort) (cl : Bool) (b : Nat) : Option Nat :=
  match c.wait with
  | some (.barrier x y _) => if x = cl && y = b then some ((c.wordAddr + 2 ^ 64 - 4) % 2 ^ 64) else none
  | some (.arrive x y) => if x = cl && y = b && fld (c.words.getD c.idx 0) 0 3 = 3 then some c.wordAddr else none
  | _ => none
/-- Whether a cohort is suspended on a barrier at all. -/
def Cohort.onBar (c : Cohort) (cl : Bool) (b : Nat) : Bool :=
  match c.wait with
  | some (.barrier x y _) => x == cl && y == b
  | some (.arrive x y) => x == cl && y == b
  | _ => false

/-- Bits set in a word. -/
def bitCount (w : Word) : Nat := (List.range 32).foldl (fun n i => if w.getLsbD i then n + 1 else n) 0
/-- The bit by which a cohort arrives (R292, R312). -/
def barBit (t : Team) (c : Cohort) (cl : Bool) : Nat := if cl then t.rank else c.cohid

/-- A cohort suspended on a barrier wakes: an acquire at the barrier's scope when its phase has completed (R293); a cohort that
found its bit set arrives in the new phase (R292). -/
def State.barWake (s : State) (c : Cohort) (cl : Bool) (b : Nat) (old : Word) : State :=
  match c.wait with
  | some (.barrier x y k) =>
    if x = cl && y = b && k == old then (s.acquire c (barScope cl)).modCohort c.id (fun c => { c with wait := none }) else s
  | some (.arrive x y) => if x = cl && y = b then s.modCohort c.id (fun c => { c with wait := none }) else s
  | _ => s

/-- The phase of a barrier completes (R292). Where a cohort waits already for a later phase, the new phase's watchdog counts from here (log
entry 96). -/
def State.barComplete (s : State) (t : Team) (cl : Bool) (b : Nat) (x : Barrier) : State :=
  let s := (s.barPeers t cl).foldl (fun s p => s.barWake p.2 cl b x.phase) s
  let left := (s.barPeers t cl).any (fun p => (p.2.barWait cl b).isSome)
  s.putBar t cl b { x with phase := x.phase + 1, arr := 0, pcs := [], left := [], wd := if left then some s.clk else none }

/-- The barrier of the focused cohort's word: BARRIER_TIMEOUT for a team of rank 32 or more, then for an unbound name (R294, R312). -/
def State.barHere (s : State) (cl : Bool) (b : Nat) (k : Team → Barrier → Out) : Out :=
  match s.team? s.co.team with
  | none => .next s
  | some t =>
    if cl && decide (32 ≤ t.rank) then .next (s.raise (barFault 5))
    else match s.barOf t cl b with
      | none => .next (s.raise (barFault 2))
      | some x => k t x

/-- BARINIT (R294). -/
def execBarinit (t n b : Reg) (cl : Bool) (s : State) : Out :=
  let c := s.co
  let b := b.toNat
  let E := (c.uget n).toNat
  let T := if c.uget t = 0 then 2 ^ 32 else (c.uget t).toNat
  match s.team? c.team with
  | none => .next s
  | some tm =>
    if cl && decide (32 ≤ tm.rank) then .next (s.raise (barFault 5))
    else if E < 1 || 32 < E then .next (s.raise (flt causeCopyRange 5))
    else match s.barOf tm cl b with
      | none =>
        if s.barFree tm cl then
          .next ((s.putBar tm cl b { E := E, T := T, arr := 0, phase := 0, pcs := [], left := [], wd := none }).lane id 1)
        else .next (s.raise (barFault 3))
      | some x =>
        if x.E = E && x.T = T then .next (s.lane id 1)
        else if x.arr = 0 && !((s.barPeers tm cl).any (fun p => p.2.onBar cl b)) then
          .next ((s.putBar tm cl b { x with E := E, T := T }).lane id 1)
        else .next (s.raise (barFault 4))

/-- The arrival of the focused cohort in the present phase (R292, R293); its bit is clear. -/
def State.barArrive (s : State) (t : Team) (cl : Bool) (b : Nat) (x : Barrier) : State :=
  let c := s.co
  let s := s.release c (barScope cl)
  let x := { x with
    arr := x.arr ||| BitVec.ofNat 32 (2 ^ barBit t c cl), wd := x.wd <|> some s.clk
    pcs := Tab.put x.pcs ((if cl then t.rank * 64 else 0) + c.cohid) c.wordAddr }
  if x.E ≤ bitCount x.arr then s.barComplete t cl b x else s.putBar t cl b x

/-- Whether a token's phase has passed (R294). -/
def barPassed (token phase : Word) : Bool := decide (2 ^ 31 ≤ (token - phase).toNat)

/-- A wait of the focused cohort for the phase that a token names, at its present word. -/
def State.barAwait (s : State) (t : Team) (cl : Bool) (b : Nat) (token : Word) : State :=
  match (s.team? t.key).bind (fun t => s.barOf t cl b) with
  | none => s
  | some x =>
    if barPassed token x.phase then (s.acquire s.co (barScope cl)).lane id 1
    else (s.putBar t cl b { x with wd := x.wd <|> some s.clk }).suspend (.barrier cl b token)

/-- The cohort's bit is set already: it suspends at the arriving word (R285, R292). -/
def State.barBusy (s : State) (cl : Bool) (b : Nat) : State := { s with co := { s.co with wait := some (.arrive cl b) } }

/-- BARARR (R294). -/
def execBararr (d b : Reg) (cl : Bool) (s : State) : Out :=
  let b := b.toNat
  s.barHere cl b (fun t x =>
    if x.arr.getLsbD (barBit t s.co cl) then .next (s.barBusy cl b)
    else .next ((s.barArrive t cl b x).lane (fun c => c.uniform d x.phase) 1))

/-- BARWAIT (R294). -/
def execBarwait (k b : Reg) (cl : Bool) (s : State) : Out :=
  let b := b.toNat
  s.barHere cl b (fun t _ =>
    let s := { s with co := { s.co with mark := none } }
    .next (s.barAwait t cl b (s.co.uget k)))

/-- BARSYNC (R294); a cohort restored at a BARSYNC by which it has arrived only waits again (R285). -/
def execBarsync (b : Reg) (cl : Bool) (s : State) : Out :=
  let b := b.toNat
  s.barHere cl b (fun t x =>
    match s.co.mark with
    | some (.barArrived _ _ token) => .next ({ s with co := { s.co with mark := none } }.barAwait t cl b token)
    | _ =>
      if x.arr.getLsbD (barBit t s.co cl) then .next (s.barBusy cl b)
      else .next ((s.barArrive t cl b x).barAwait t cl b x.phase))

/-- BARQ (R294). -/
def execBarq (d b : Reg) (cl : Bool) (s : State) : Out :=
  let v := match (s.team? s.co.team).bind (fun t => s.barOf t cl b.toNat) with
    | none => 0
    | some x => 2 ^ 31 + x.E * 2 ^ 16 + bitCount x.arr * 2 ^ 8 + x.phase.toNat % 256
  .next (s.lane (fun c => c.uniform d (BitVec.ofNat 32 v)) 1)

/-! ## The watchdog (R295 to R297, R313) -/

/-- The diagnostic record of an expiry (R297, R313), but for its sequence number. -/
def State.barDiag (s : State) (t : Team) (cl : Bool) (b : Nat) (x : Barrier) : List Byte :=
  let peers := s.barPeers t cl
  let pcOf (n : Nat) : Nat :=
    (peers.findSome? (fun p => if barBit p.1 p.2 cl == n then p.2.barWait cl b else none)).getD 0
  let waiting := (List.range 32).foldl (fun m n => if pcOf n = 0 then m else m + 2 ^ n) 0
  let gone := if cl then
      let next := Tab.get 0 (s.cluster (clusterOf t.core)).ranks (launchKey t.ctx t.lid)
      (List.range (min next 32)).foldl (fun m n => if peers.any (fun p => p.1.rank == n) then m else m + 2 ^ n) 0
    else t.done.toNat
  natLe 8 0 ++ natLe 8 s.clk ++ natLe 1 b ++ natLe 1 (if cl then 1 else 0) ++ natLe 1 x.E ++ natLe 1 0 ++ natLe 1 t.ctx ++
  natLe 1 t.tenant ++ natLe 1 (dieOf t.core) ++ natLe 1 (clusterOf t.core % 32) ++ natLe 1 (t.core % 16) ++ natLe 3 0 ++
  natLe 4 t.teamid ++ natLe 4 x.arr.toNat ++ natLe 4 gone ++ natLe 4 waiting ++ natLe 4 x.phase.toNat ++ natLe 16 0 ++
  (List.range 32).flatMap (fun n => natLe 8 (pcOf n))

/-- The cohort in which an expiry is raised, its team and its word (R295, R312): the first that waits, else the first that has
arrived, wherever it stands since and even if it has ended. Peers come by rank and then by cohid. Where that cohort's team has departed, the
record that it left (.inr). -/
def State.barVictim (s : State) (t : Team) (cl : Bool) (b : Nat) (x : Barrier) : Option ((Team × Cohort × Nat) ⊕ FaultRec) :=
  let peers := s.barPeers t cl
  match peers.findSome? (fun p => (p.2.barWait cl b).map (fun pc => (p.1, p.2, pc))) with
  | some v => some (.inl v)
  | none => x.pcs.head?.bind (fun e =>
      match peers.find? (fun p => (if cl then p.1.rank * 64 else 0) + p.2.cohid == e.1) with
      | some p => some (.inl (p.1, p.2, e.2))
      | none => (x.left.find? (fun r => r.1 == e.1)).map (fun r => .inr r.2))

/-- Whether a context's barriers count (R295, R361). -/
def State.barCounts (s : State) (ctx : Nat) : Bool := (s.ctx ctx).state = .running || (s.ctx ctx).state = .preempting

/-- BARRIER_TIMEOUT (R295, R361): the count of an incomplete phase has reached T in a running team, of a context that is not stopped. At a
cluster barrier it is the halt of the team in which the expiry is raised that holds it back (log entry 98); where that team has departed, the
context ends with the record that it left. -/
def execBarrierTimeout (cl : Bool) (team b : Nat) (s : State) : Out :=
  match s.team? team with
  | none => .next s
  | some t =>
    match s.barOf t cl b with
    | none => .next s
    | some x =>
      match x.wd, s.barVictim t cl b x with
      | some from_, some (.inr r) =>
        let gone := { t with teamid := r.team, core := 512 * r.die + 16 * r.cluster + r.core }
        if s.expired from_ x.T && s.barCounts t.ctx then .next (s.killWith r (s.barDiag gone cl b x)) else .next s
      | some from_, some (.inl (vt, v, pc)) =>
        if s.expired from_ x.T && vt.status = .running && s.barCounts vt.ctx then
          let diag := s.barDiag vt cl b x
          let s := (s.modTeam vt.key (fun t => { t with diag := diag })).focus v.id
          let f := barFault 1
          let s := { (s.teamFault f pc) with lastFault := some f }
          .next (s.modCore v.core (fun k => { k with holder := k.holder.filter (fun i => i != v.id) }))
        else .next s
      | _, _ => .next s

/-! ## The Turnstile (R314 to R318) -/

/-- What ROUTE makes of its choices (R315): for each choice the expert that keeps it; overflows and unrouted choices stay apart. -/
structure Sorted where
  kept : Tab Nat               -- choices kept by expert
  list : List (Nat × Nat)      -- expert and choice, in input order
  above : List Nat
  unr  : List Nat
  deriving DecidableEq, Repr

/-- One choice. -/
def Sorted.add (E C : Nat) (q : Sorted) (i x : Nat) : Sorted :=
  if E ≤ x then { q with unr := q.unr ++ [i] }
  else if C != 0 && Tab.get 0 q.kept x = C then { q with above := q.above ++ [i] }
  else { q with list := q.list ++ [(x, i)], kept := Tab.put q.kept x (Tab.get 0 q.kept x + 1) }
/-- All choices in ascending token and choice. -/
def sortChoices (E C : Nat) (xs : List Nat) : Sorted :=
  ((List.range xs.length).zip xs).foldl (fun q p => q.add E C p.1 p.2) { kept := [], list := [], above := [], unr := [] }
/-- The lists: experts in ascending order, each in input order, then the overflow. -/
def Sorted.order (q : Sorted) (E : Nat) : List Nat :=
  (List.range E).flatMap (fun e => (q.list.filter (fun p => p.1 == e)).map Prod.snd) ++ q.above
/-- pos(t, j) of choice i (R315). -/
def Sorted.pos (q : Sorted) (ord : List Nat) (i : Nat) : Nat :=
  if q.unr.contains i then 0xFFFFFFFF
  else ord.idxOf i + (if q.above.contains i then 0x80000000 else 0)

/-- A little-endian table of 32-bit words. -/
def words32 (l : List Nat) : List Byte := l.flatMap (natLe 4)

/-- ROUTE (R314 to R317). -/
def execRoute (f : Bool) (d a b : Reg) (p : PBlock) (s : State) : Out :=
  let c := s.co
  let A := (c.uget a).toNat
  let B := (c.uget b).toNat
  let T := c.sub p.h0
  let k := p.h1.toNat
  let E := c.sub p.h2
  let C := c.sub p.h3
  let P := bitsOf p.h6.toNat 0 1 == 1
  let Q := bitsOf p.h6.toNat 1 1 == 1
  let EP := bitsOf p.h6.toNat 2 9
  match firstOf [if A % 16 != 0 then some (engFault (fltAt causeMisaligned 0 A .read)) else none,
      if B % 16 != 0 then some (engFault (fltAt causeMisaligned 0 B .write)) else none] with
  | some e => .next (s.raise e)
  | none =>
    let in_ (lo hi x : Nat) : Bool := decide (lo ≤ x) && decide (x ≤ hi)
    let ok := in_ 1 4096 T && in_ 1 8 k && in_ 1 256 E && in_ 0 4096 C && (P || p.h5 == 0) &&
      (if Q then in_ 1 256 EP && E % EP == 0 else EP == 0 && p.h7 == 0) && p.h6.toNat / 2 ^ 11 == 0
    let rg (g at_ len : Nat) (w : Bool) : Rg := { grp := g, share := true, va := at_, len := len, wr := w }
    let out := [rg 1 B (4 * T * k) true, rg 2 (16 * p.h4.toNat) (4 * E) true] ++
      (if P then [rg 3 (16 * p.h5.toNat) (4 * T * k) true] else []) ++
      (if Q then [rg 4 (16 * p.h7.toNat) (4 * (E / EP)) true] else [])
    let rs := rg 0 A (2 * T * k) false :: out
    match checkRanges s c { bad05 := !ok, no01 := false, never := false, late := false, mid := none } rs with
    | (t, .error e) => .next (t.raise e)
    | (t, .ok ps) =>
      let cl := clusterOf c.core
      match s.holdup (claimsOf c rs) with
      | some cmd => .next (s.waitCmd cmd)
      | none =>
        if 8 ≤ (s.cluster cl).route.length then .next (s.waitFor (some (.routeRetire cl)))
        else
          let from_ := ps.getD 0 []
          let t := t.drainWc c.core (some c.id)
          let bs := t.pieceBytes from_
          let xs := (List.range (T * k)).map (fun i => leNat ((bs.drop (2 * i)).take 2))
          let q := sortChoices E C xs
          let ord := q.order E
          let counts := (List.range E).map (fun e => Tab.get 0 q.kept e)
          let tables := [words32 (ord.map (fun i => i / k + i % k * 2 ^ 16)), words32 counts] ++
            (if P then [words32 ((List.range (T * k)).map (q.pos ord))] else []) ++
            (if Q then [words32 ((List.range (E / EP)).map (fun n => ((counts.drop (n * EP)).take EP).foldl (fun x y => x + y) 0))]
              else [])
          let keys := c.keysOf d c.livel
          let st : Word := BitVec.ofNat 32 (q.above.length + q.unr.length * 2 ^ 16)
          let poison := t.piecePoison c.core from_
          let (op, t) := t.startOp .engine (c.flagOf f) keys []
          match t.takeSb op (claimsOf c rs) with
          | none => .next s
          | some t =>
            let e : EngCmd :=
              { id := op, kind := .route, co := c.id, op := op, ctx := c.ctx
                writes := ((ps.drop 1).zip tables).flatMap (fun x => (piecePas x.1).zip x.2)
                regs := [], dest := keys.map (fun k => (k, st)), dst := pieceMap (ps.drop 1).flatten, reads := [], poison := poison, pages := [], status := 0, pc := c.wordAddr }
            .next ((t.modCluster cl (fun q => { q with route := q.route ++ [(c.core, e)] })).lane id 5)

/-- ROUTE_RETIRE (R314, R317): the command that executes retires. -/
def execRouteRetire (cluster : Nat) (s : State) : Out :=
  match (s.cluster cluster).route with
  | [] => .next s
  | (core, e) :: rest => .next ((s.modCluster cluster (fun q => { q with route := rest })).finish core e)

/-- ROUTEQ (R318). -/
def execRouteq (d : Reg) (s : State) : Out :=
  let q := (s.cluster (clusterOf s.co.core)).route
  let own := (q.filter (fun r => r.1 == s.co.core)).length
  let v := own * 2 ^ 8 + (if q.isEmpty then 0 else 16) + q.length
  .next (s.lane (fun c => c.uniform d (BitVec.ofNat 32 v)) 1)

end Sys2Proof.Machine
end

