-- ==== Sys2Proof/Machine/Copy.lean ====
section
/-!
DEFINITION. The copy engine and its neighbours (R219 to R221, R226 to R237): CPY, CPY2D, CPYG, CPYO, PLNX, the scoreboard query,
and the retirement of a copy.
-/

namespace Sys2Proof.Machine

/-- Row 1 of R228: the first address, length or pitch that is no multiple of k. Lengths and pitches have no failing address. -/
def misalignedOf (k : Nat) (xs : List (Nat × AccessKind)) (ns : List Nat) : Option FaultInfo :=
  match xs.find? (fun x => x.1 % k != 0) with
  | some x => some (engFault (fltAt causeMisaligned 0 x.1 x.2))
  | none => if ns.any (fun n => n % k != 0) then some (engFault (flt causeMisaligned 0)) else none

/-- Whether an address lies in the LOCAL window. -/
def inLocal (a : Nat) : Bool := match windowOf a with
  | .loc _ => true
  | .onchip _ | .glob => false

/-- No conditions of its own. -/
def Own.plain : Own := { bad05 := false, no01 := false, never := false, late := false, mid := none }

/-- Accepts a command that moves bytes from pieces it reads to pieces it writes (R227). -/
def State.copyGo (s t : State) (f : Bool) (rs : List Rg) (words : Nat) (src dst : List Piece)
    (writes : State → List (Nat × Byte)) : Out :=
  match t.owned (src ++ dst) with
  | some cmd => .next (s.waitCmd cmd)
  | none =>
    let t := t.gather t.co src dst
    s.accept t .copy f (claimsOf s.co rs) [] words (fun e =>
      { e with writes := writes t, dst := pieceMap dst, reads := pieceLines src, poison := t.piecePoison t.co.core src
               pages := piecePages (src ++ dst) })

/-- CPY (R229): one copy of the bytes as they stood at acceptance. -/
def execCpy (f : Bool) (d a b : Reg) (s : State) : Out :=
  let c := s.co
  let dst := (c.ugetPair d).toNat
  let src := (c.ugetPair a).toNat
  let n := (c.uget b).toNat
  match misalignedOf 16 [(src, .read), (dst, .write)] [n] with
  | some e => .next (s.raise e)
  | none =>
    if n = 0 then .next (s.lane id 1)
    else
      let rs : List Rg := [{ grp := 0, share := false, va := src, len := n, wr := false },
                           { grp := 1, share := false, va := dst, len := n, wr := true }]
      match checkRanges s c { Own.plain with no01 := !(inLocal src || inLocal dst) } rs with
      | (t, .error e) => .next (t.raise e)
      | (t, .ok ps) =>
        let from_ := ps.getD 0 []
        let to_ := ps.getD 1 []
        s.copyGo t f rs 1 from_ to_ (fun t => (piecePas to_).zip (t.pieceBytes from_))

/-- A 32-bit field of a parameter block, low and high halves (R230). -/
def wide (lo hi : Half) : Nat := lo.toNat + 65536 * hi.toNat

/-- The rows of a strided range, as ranges of one group. -/
def rowRgs (grp : Nat) (wr : Bool) (base pitch len rows : Nat) : List Rg :=
  (List.range rows).map (fun r => { grp := grp, share := false, va := (base + r * pitch) % 2 ^ 64, len := len, wr := wr })

/-- CPY2D in mode 0 (R230): overlapping source rows are read as they stood; the higher row's bytes remain. The destination must be a multiple
of 16 (log entry 40). -/
def State.cpy2dRaw (s : State) (f : Bool) (dst src rows rowlen spitch dpitch : Nat) (bad05 : Bool) : Out :=
  let c := s.co
  let mis := if 1 < rows then [src, src + spitch] else [src]
  match misalignedOf 16 (mis.map (fun a => (a % 2 ^ 64, .read)) ++ [(dst, .write)]) [rowlen, dpitch] with
  | some e => .next (s.raise e)
  | none =>
    let rs := rowRgs 0 false src spitch rowlen rows ++ rowRgs 1 true dst dpitch rowlen rows
    match checkRanges s c { Own.plain with bad05 := bad05, no01 := !(inLocal src || inLocal dst) } rs with
    | (t, .error e) => .next (t.raise e)
    | (t, .ok ps) =>
      let from_ := ps.take rows
      let to_ := ps.drop rows
      s.copyGo t f rs 5 from_.flatten to_.flatten (fun t =>
        (List.range rows).flatMap (fun r => (piecePas (to_.getD r [])).zip (t.pieceBytes (from_.getD r []))))

/-- The bytes of elements j0 to j0 + n - 1 of a view. -/
def elemRg (v : FView) (ek : EKind) (grp j0 n : Nat) : Rg :=
  { grp := grp, share := false, va := elemAddr v ek j0, len := ((j0 + n) * ek.nibs + 1) / 2 - j0 * ek.nibs / 2, wr := false }
/-- The scale records of elements j0 to j0 + n - 1 of a view. -/
def scaleRgs (v : FView) (bl grp j0 n : Nat) : List Rg :=
  (((List.range n).map (fun i => scaleAddr v bl (j0 + i))).eraseDups).map (fun a =>
    { grp := grp, share := false, va := a, len := 2, wr := false })
/-- FORMAT subcauses of element pieces against the attributes of ebase's page (R113). -/
def attrsOf (efmt bgeo : Nat) (ps : List Piece) : List Nat :=
  ps.flatMap (fun p => match p.leaf with
    | some l => (if l.efmt = efmt && l.bgeo = bgeo then [] else [5]) ++ (attrBad l.efmt l.bgeo).toList
    | none => [3])

/-- Element i of a run of bytes that begins with element j0 of a view. -/
def codeIn (ek : EKind) (bs : List Byte) (j0 j : Nat) : Nat :=
  elemCode ek (ek.nibs = 1 && j % 2 = 1) ((bs.drop (j * ek.nibs / 2 - j0 * ek.nibs / 2)).take (max 1 (ek.nibs / 2)))

/-- A format view that a command names, read at acceptance (R221, R225): its pieces have passed the checks. -/
def State.viewOf (t : State) (ps : List Piece) : FView := FView.of ((t.gather t.co ps []).pieceBytes ps)

/-- CPY2D in mode 1 (R230): the elements of a format view as FP32. The view is read once its page has translated; rows 2 to 7 of R228 come
before the translation of any other page, and rows 9 and 10 after that of every page. -/
def State.cpy2dDecode (s : State) (f : Bool) (dst va rows rowlen spitch dpitch : Nat) (bad05 : Bool) : Out :=
  let c := s.co
  match firstOf [misalignedOf 32 [(va, .read)] [], misalignedOf 16 [(dst, .write)] [dpitch]] with
  | some e => .next (s.raise e)
  | none =>
    let out := rowRgs 1 true dst dpitch (4 * rowlen) rows
    let view : Rg := { grp := 2, share := false, va := va, len := 32, wr := false }
    match rangesBad s c { Own.plain with bad05 := bad05, no01 := !inLocal dst } (out ++ [view]), piecesOf s c view with
    | some e, _ => .next (s.raise e)
    | none, (t, .error e) => .next (t.raise e)
    | none, (t, .ok vp) =>
      match t.heldBy (piecePas vp) false with
      | some cmd => .next (s.waitCmd cmd)
      | none =>
        if (t.piecePoison c.core vp).isSome then s.copyGo t f out 5 vp [] (fun _ => [])
        else
          let v := t.viewOf vp
          match t.viewLeaf c v .read with
          | (t, .error e) => .next (t.raise (engFault e))
          | (t, .ok lf) =>
            let (efmt, bgeo) := leafAttr lf
            let rsv := if v.rsv = 0 then [] else [7]
            match ekind efmt with
            | none =>
              match allPieces c out t with
              | (t, .error e) => .next (t.raise e)
              | (t, .ok ps) =>
              match piecesOf t c { grp := 3, share := false, va := v.ebase, len := 1, wr := false } with
              | (t, .error e) => .next (t.raise e)
              | (t, .ok _) =>
                match orderedOf ([{ va := v.ebase, pa := 0, len := 1, leaf := lf }] :: vp :: ps) with
                | some e => .next (t.raise e)
                | none =>
                  .next (t.raise (engFault (fltAt causeFormat ((leastOf (rsv ++ [if efmt = 0 then 3 else 1])).getD 3) v.ebase .read)))
            | some ek =>
              let scaled := ek.block && bgeo != 0
              if scaled && v.sbase % 2 = 1 then .next (t.raise (engFault (fltAt causeMisaligned 0 v.sbase .read)))
              else
                let bl := blOf bgeo
                let bad := scaled && scaleBad v bl
                let els := (List.range rows).map (fun r => elemRg v ek 3 (r * spitch) rowlen)
                let scs := if scaled then (List.range rows).flatMap (fun r => scaleRgs v bl 4 (r * spitch) rowlen) else []
                let rs := out ++ els ++ scs
                match rangesBad t c Own.plain rs, allPieces c rs t with
                | some e, _ => .next (t.raise e)
                | none, (t, .error e) => .next (t.raise e)
                | none, (t, .ok ps) =>
                  let to_ := ps.take rows
                  let ep := (ps.drop rows).take rows
                  let sp := ps.drop (2 * rows)
                  let wrong := attrsOf efmt bgeo ep.flatten ++ rsv ++ (attrBad efmt bgeo).toList ++ (if bad then [4] else [])
                  match orderedOf (vp :: ps), leastOf wrong with
                  | some e, _ => .next (t.raise e)
                  | none, some b => .next (t.raise (engFault (fltAt causeFormat b v.ebase .read)))
                  | none, none =>
                    s.copyGo t f rs 5 (ep.flatten ++ sp.flatten ++ vp) to_.flatten (fun t =>
                      let recs := (scs.map Rg.va).zip (sp.map (fun p => leNat (t.pieceBytes p)))
                      (List.range rows).flatMap (fun r =>
                        let bs := t.pieceBytes (ep.getD r [])
                        let j0 := r * spitch
                        (piecePas (to_.getD r [])).zip ((List.range rowlen).flatMap (fun i =>
                          natLe 4 (elemValue ek (codeIn ek bs j0 (j0 + i))
                            (if scaled then Tab.get 0 recs (scaleAddr v bl (j0 + i)) else 0))))))

/-- CPY2D (R230). -/
def execCpy2d (f : Bool) (d a : Reg) (p : PBlock) (s : State) : Out :=
  let c := s.co
  let dst := (c.ugetPair d).toNat
  let src := (c.ugetPair a).toNat
  let rows := c.sub p.h0
  let rowlen := c.sub p.h1
  let spitch := wide p.h2 p.h3
  let dpitch := wide p.h4 p.h5
  let rowsOk := decide (1 ≤ rows) && decide (rows ≤ 4096)
  if p.h6 = 1 then
    let ok := decide (4 ≤ rowlen) && decide (rowlen ≤ 15360) && rowlen % 4 == 0
    s.cpy2dDecode f dst src rows rowlen spitch dpitch (!(rowsOk && ok) || p.h7 != 0)
  else
    let ok := decide (16 ≤ rowlen) && decide (rowlen ≤ 61440)
    s.cpy2dRaw f dst src rows rowlen spitch dpitch (!(rowsOk && ok) || p.h6 != 0 || p.h7 != 0)

/-- CPYG (R231): a gather by the indices of the active lanes. -/
def execCpyg (f : Bool) (d a b : Reg) (p : PBlock) (s : State) : Out :=
  let c := s.co
  let dst := (c.ugetPair d).toNat
  let src := (c.ugetPair a).toNat
  let rowlen := c.sub p.h1
  let spitch := wide p.h2 p.h3
  let dpitch := wide p.h4 p.h5
  let act := c.active
  let rowAt (l : Nat) : Nat := (src + (c.get b l).toNat * spitch) % 2 ^ 64
  let bad05 := !(decide (16 ≤ rowlen) && decide (rowlen ≤ 61440)) || p.h0 != 0 || p.h6 != 0 || p.h7 != 0
  match misalignedOf 16 ([(src, .read)] ++ act.map (fun l => (rowAt l, .read)) ++ [(dst, .write)]) [rowlen, dpitch] with
  | some e => .next (s.raise e)
  | none =>
    match act.getLast? with
    | none => if bad05 then .next (s.raise (engFault (flt causeCopyRange 5))) else .next (s.lane id 5)
    | some h =>
      -- log entry 40: the destination must be a multiple of 16
      let ins : List Rg := act.map (fun l => { grp := 0, share := false, va := rowAt l, len := rowlen, wr := false })
      let rs := ins ++ [{ grp := 1, share := false, va := dst, len := h * dpitch + rowlen, wr := true }]
      match checkRanges s c { Own.plain with bad05 := bad05, no01 := !inLocal dst } rs with
      | (t, .error e) => .next (t.raise e)
      | (t, .ok ps) =>
        let from_ := ps.take act.length
        let to_ := ps.getD act.length []
        let base := (to_.headD { va := 0, pa := 0, len := 0, leaf := none }).pa
        s.copyGo t f rs 5 from_.flatten to_ (fun t =>
          (act.zip from_).flatMap (fun x => cellsFrom (base + x.1 * dpitch) (t.pieceBytes x.2)))

/-! ## CPYO (R219 to R221, R232, R233) -/

/-- Whether an entry of a receive declaration names a cohort and covers registers first to first + n - 1 (R220): its reserved bits
are 0 and it declares at least one register. One that reaches beyond the registers that a cohort has is honoured (log entry 43). -/
def entryCovers (e cohid first n : Nat) : Bool :=
  e % 2 == 1 && bitsOf e 1 7 == 0 && bitsOf e 48 16 == 0 && bitsOf e 8 8 == cohid && decide (bitsOf e 16 16 ≤ first) &&
  decide (1 ≤ bitsOf e 32 16) && decide (first + n ≤ bitsOf e 16 16 + bitsOf e 32 16)

/-- The physical bytes of the receive declaration for a cohort (R219); a share of 0 has none. -/
def Cohort.declPas (c : Cohort) : List Nat := if c.shareN = 0 then [] else (List.range 32).map c.shareAddr

/-- The cohort that a CPYO names (R233), or the subcause of REMOTE_WINDOW. -/
def State.cpyoCohort (s : State) (c : Cohort) (tw : Nat) : Except Nat Cohort :=
  let tid := tw % 65536
  let cohid := bitsOf tw 16 5
  let team := if tid = 0xFFFF then s.team? c.team
    else s.allTeams.find? (fun t => t.ctx == c.ctx && t.lid == c.launchid.toNat && t.teamid == tid)
  match team with
  | none => .error 1
  | some t =>
    if (t.N + t.W - 1) / t.W ≤ cohid then .error 2
    else match (s.cohortsOf t.key).find? (fun x => x.cohid == cohid) with
      | none => .error 1
      | some x => .ok x
/-- The target of a CPYO (R232, R233): the cohort, or the subcause of REMOTE_WINDOW. A declaration that is poisoned covers nothing and refuses
nothing: the command that reads it retires without an effect (R227). -/
def State.cpyoTarget (s : State) (c : Cohort) (tw n : Nat) : Except Nat Cohort :=
  let first := bitsOf tw 21 9
  match s.cpyoCohort c tw with
  | .error sub => .error sub
  | .ok x =>
    let bs := x.declPas.map s.byte
    if (s.poisonOf x.declPas).isNone && !((List.range 4).any (fun i => entryCovers (leNat ((bs.drop (8 * i)).take 8)) x.cohid first n)) then
      .error 3
    else if x.S + 12 < first + n then .error 4
    else .ok x

/-- The key of register index i in a lane, in a ring of S entries (R220). -/
def indexKey (S i lane : Nat) : Nat := (if i < S then 16 + i else i - S) * 64 + lane

/-- CPYO (R232). -/
def execCpyo (f : Bool) (d a b : Reg) (s : State) : Out :=
  let c := s.co
  let n := (c.uget d).toNat
  let src := (c.ugetPair a).toNat
  let tw := (c.uget b).toNat
  let first := bitsOf tw 21 9
  match misalignedOf 4 [(src, .read)] [] with
  | some e => .next (s.raise e)
  | none =>
    let rs : List Rg := [{ grp := 0, share := false, va := src, len := 4 * n * c.W, wr := false }]
    let bad05 := n = 0 || tw / 2 ^ 30 != 0 || (match windowOf src with | .onchip _ => true | .loc _ | .glob => false)
    let decl := match s.cpyoCohort c tw with
      | .ok x => x.declPas
      | .error _ => []
    match s.heldBy decl false with
    | some cmd => .next (s.waitCmd cmd)
    | none =>
      let tgt := s.cpyoTarget c tw n
      let mid := match tgt with
        | .ok _ => none
        | .error sub => some (engFault (fltAt causeRemote sub 0 .write))
      match checkRanges s c { Own.plain with bad05 := bad05, mid := mid } rs with
      | (t, .error e) => .next (t.raise e)
      | (t, .ok ps) =>
        match tgt with
        | .error sub => .next (t.raise (engFault (fltAt causeRemote sub 0 .write)))
        | .ok x =>
          let from_ := ps.flatten
          match t.owned from_ with
          | some cmd => .next (s.waitCmd cmd)
          | none =>
            let t := t.gather t.co from_ []
            let bs := t.pieceBytes from_
            let reg : Claim := { slot := x.core, wr := true, lo := first, hi := first + n, co := some x.id }
            s.accept t .copy f (claimsOf c rs ++ [reg]) [] 1 (fun e =>
              { e with
                regs := (List.range (n * c.W)).map (fun q =>
                  (x.id, indexKey x.S (first + q / c.W) (q % c.W), BitVec.ofNat 32 (leNat ((bs.drop (4 * q)).take 4))))
                poison := (t.poisonOf decl).map (fun p => (p.2, 0x00F0000000000000 + p.1)) <|> t.piecePoison c.core from_
                reads := pieceLines from_
                pages := piecePages from_ })

/-! ## PLNX (R234 to R236) -/

/-- The matrix formats by code (R55, R268). -/
def mfmt : Nat → Option EKind
  | 0 => some (.blk .e4m3)
  | 1 => some (.blk .e5m2)
  | 2 => some (.blk .e3m2)
  | 3 => some (.blk .e2m3)
  | 4 => some (.blk .e2m1)
  | 5 => some (.blk .e2m1s)
  | 6 => some (.blk .q8)
  | 7 => some (.blk .q4)
  | 8 => some .b16
  | 9 => some .f16
  | _ => none

/-- Planes of an activation format (R4, R235). -/
def planesOf : EKind → Nat
  | .blk .q4 => 4
  | .blk .e2m1 => 5
  | .blk .e2m1s | .blk .q8 | .blk .e2m3 | .blk .e3m2 => 8
  | .blk .e4m3 | .blk .e5m2 => 10
  | .b16 | .f16 => 16
  | .f32 => 32

/-- The unscaled value of an element (R235); q is its scale record. -/
def mvalue (ek : EKind) (code q : Nat) : FVal :=
  match ek with
  | .blk k => blockValue k code q
  | .b16 => Fmt.b16.value code
  | .f16 => Fmt.f16.value code
  | .f32 => Fmt.f32.value code

/-- floor(log2 |v|) of a nonzero value. -/
def topBit : FVal → Option Int
  | .num _ n x => if n = 0 then none else some ((Nat.log2 n : Int) + x)
  | .nan _ _ | .inf _ => none

/-- The window of a block (R235). -/
def windowByte (ek : EKind) (vs : List FVal) : Int :=
  match ek with
  | .blk .q4 | .blk .q8 => 0
  | .blk .e2m1 | .blk .e2m1s => -1
  | .blk .e2m3 => -3
  | _ =>
    match (vs.filterMap topBit) with
    | [] => 0
    | m :: ms => max (ms.foldl max m - (planesOf ek : Int) + 2) (-127)

/-- Trunc(v * 2^-w) as a P-bit two's-complement integer, and whether a nonzero bit was lost. -/
def planeInt (P : Nat) (w : Int) : FVal → Nat × Bool
  | .num neg n x =>
    let (p, q) := pow2 (x - w)
    let m := n * p / q
    ((if neg then 2 ^ P - m % 2 ^ P else m) % 2 ^ P, n * p % q != 0)
  | .nan _ _ | .inf _ => (0, false)

/-- A block as PLNX forms it: its integers, its window byte, whether it lost a bit, whether it is a NaN block (R235). -/
def planeBlock (ek : EKind) (codes : List Nat) (q : Nat) : List Nat × Nat × Bool × Bool :=
  let vs := codes.map (fun c => mvalue ek c q)
  let bad := vs.any (fun v => match v with | .num _ _ _ => false | .nan _ _ | .inf _ => true) ||
    (ek.block && q / 256 % 256 == 255)
  if bad then (codes.map (fun _ => 0), 0x80, false, true)
  else
    let w := windowByte ek vs
    let is := vs.map (planeInt (planesOf ek) w)
    (is.map Prod.fst, (w % 256).toNat, is.any Prod.snd, false)

/-- Eight bits of a plane as a byte. -/
def planeByte (p : Nat) (xs : List Nat) : Byte :=
  BitVec.ofNat 8 ((List.range 8).foldl (fun n i => n + (xs.getD i 0 / 2 ^ p % 2) * 2 ^ i) 0)

/-- The planes of a row (R236). -/
def rowPlanes (P K : Nat) (xs : List Nat) : List Byte :=
  (List.range P).flatMap (fun p => (List.range (K / 8)).map (fun b => planeByte p ((xs.drop (8 * b)).take 8)))

/-- PLNX (R234 to R236). -/
def execPlnx (f : Bool) (d a b : Reg) (p : PBlock) (s : State) : Out :=
  let c := s.co
  let A := (c.uget a).toNat
  let B := (c.uget b).toNat
  let M := c.sub p.h0
  let K := c.sub p.h1
  let blc := bitsOf p.h2.toNat 4 2
  let bl := 8 * 2 ^ blc
  let pitch := p.h3.toNat
  let sbase := 16 * p.h4.toNat
  let spitch := p.h5.toNat
  match misalignedOf 16 [(A, .read), (B, .write)] [] with
  | some e => .next (s.raise e)
  | none =>
    let ek := (mfmt (p.h2.toNat % 16)).getD .b16
    let rowb := K * ek.nibs / 2
    let nb := K / bl
    let P := planesOf ek
    let ok := decide (1 ≤ M) && decide (M ≤ 128) && (mfmt (p.h2.toNat % 16)).isSome && blc != 0 && p.h2.toNat / 64 == 0 &&
      decide (16 ≤ K) && decide (K ≤ 4096) && K % bl == 0 && decide (rowb ≤ pitch) &&
      (if ek.block then decide (2 * nb ≤ spitch) else p.h4 == 0 && p.h5 == 0) && p.h6 == 0 && p.h7 == 0
    let rows : List Rg := (List.range M).map (fun r => { grp := 0, share := true, va := A + r * pitch, len := rowb, wr := false })
    let out : Rg := { grp := 1, share := true, va := B, len := M * (P * K / 8 + nb), wr := true }
    let scs : List Rg := if ek.block then
        (List.range M).map (fun r => { grp := 2, share := true, va := sbase + r * spitch, len := 2 * nb, wr := false })
      else []
    let rs := rows ++ [out] ++ scs
    match checkRanges s c { Own.plain with bad05 := !ok } rs with
    | (t, .error e) => .next (t.raise e)
    | (t, .ok ps) =>
      let t := t.drainWc c.core (some c.id)
      let rp := ps.take M
      let sp := ps.drop (M + 1)
      let blocks := (List.range M).map (fun r =>
        let bs := t.pieceBytes (rp.getD r [])
        let ss := t.pieceBytes (sp.getD r [])
        (List.range nb).map (fun j =>
          planeBlock ek ((List.range bl).map (fun i => codeIn ek bs 0 (j * bl + i))) (leNat ((ss.drop (2 * j)).take 2))))
      let planes := blocks.flatMap (fun row => rowPlanes P K (row.flatMap (fun x => x.1)))
      let wins := blocks.flatMap (fun row => row.map (fun x => (BitVec.ofNat 8 x.2.1 : Byte)))
      let lost := blocks.any (fun row => row.any (fun x => x.2.2.1))
      let nan := blocks.any (fun row => row.any (fun x => x.2.2.2))
      let st := (if lost then 1 else 0) + (if nan then 2 else 0)
      let keys := c.keysOf d c.livel
      s.accept t .copy f (claimsOf c rs) keys 5 (fun e =>
        { e with
          writes := (piecePas (ps.getD M [])).zip (planes ++ wins)
          dest := keys.map (fun k => (k, BitVec.ofNat 32 st))
          dst := pieceMap (ps.getD M [])
          poison := t.piecePoison c.core (rp.flatten ++ sp.flatten)
          status := if lost then 1 else 0 })

/-! ## SBQ and retirement -/

/-- SBQ (R237). -/
def execSbq (d a : Reg) (s : State) : Out :=
  let c := s.co
  let x := (c.uget a).toNat
  let sb := (s.core c.core).sb
  let at_ := spOffset + 16384 * c.shareB + x
  let hit (wr : Bool) : Bool := decide (x < c.shareSize) &&
    sb.any (fun e => e.wr == wr && e.co.isNone && decide (e.lo ≤ at_) && decide (at_ < e.hi))
  let held := sb.foldl (fun n e => n ||| 2 ^ e.slot) 0
  let v := held + (if hit true then 2 ^ 16 else 0) + (if hit false then 2 ^ 17 else 0)
  .next (s.lane (fun c => c.uniform d (BitVec.ofNat 32 v)) 1)

/-- COPY_RETIRE (R226). -/
def execCopyRetire (core cmd : Nat) (s : State) : Out := .next (s.retireCmd core cmd .copy)

end Sys2Proof.Machine
end

