-- ==== Sys2Proof/Machine/Launches.lean ====
section
/-!
DEFINITION. Launches, events and generation regions (R370 to R386): acceptance, the tests of dependences, the placement of teams,
completion, the generation heap, and the CPU-die extension with what it needs of a hart.
-/

namespace Sys2Proof.Machine

/-! ## The launch record (R370) -/

/-- A launch record and its reserved bits as the bytes give them; deps are still to be read. -/
structure Record where
  l      : Launch
  ctx8   : Nat                 -- bytes [0] and [1] and [3] whole, ndep and the dependence block's address
  queue8 : Nat
  flags  : Nat
  ndep   : Nat
  depsAt : Nat
  deriving DecidableEq, Repr

/-- A field of a record's bytes. -/
def le (bs : List Byte) (at_ n : Nat) : Nat := leNat ((bs.drop at_).take n)

/-- The record that 64 bytes give. -/
def Record.of (bs : List Byte) : Record :=
  let flags := le bs 3 1
  { ctx8 := le bs 0 1, queue8 := le bs 1 1, flags := flags, ndep := le bs 11 1, depsAt := le bs 48 8
    l := { ctx := le bs 0 1 % 64, queue := le bs 1 1 % 64, W := le bs 2 1, pair := bitsOf flags 0 1 == 1
           walk := bitsOf flags 1 1 == 1, dies := bitsOf flags 4 4, N := le bs 4 2, S := le bs 6 2, rf := le bs 8 1
           sp := le bs 9 1, l1 := le bs 10 1, wlimit := le bs 12 4, stagger := le bs 16 4, teams := le bs 20 3
           share := le bs 23 1, gen := BitVec.ofNat 32 (le bs 24 4), spill := le bs 28 4, entry := le bs 32 8
           param := BitVec.ofNat 64 (le bs 40 8), deps := [], event := le bs 56 8, lid := 0, order := 0, held := 0
           started := [], ended := 0, queued := true, stuck := false, lastAt := 0 } }

/-- The register region that one cohort needs, in KiB (R23). -/
def Launch.cohortKib (l : Launch) : Nat := ((l.S + 12) * l.W * 4 + 1023) / 1024
/-- Cohorts of a team on its core, or on the leader and on the follower of a pair (R13). -/
def Launch.onCore (l : Launch) (follower : Bool) : Nat :=
  if !l.pair then l.cohortsPer else if follower then l.cohortsPer / 2 else (l.cohortsPer + 1) / 2

/-- Whether every field is within the limits of R370, R12, R23 and R214. -/
def Record.ok (r : Record) : Bool :=
  let l := r.l
  let within (lo hi x : Nat) : Bool := decide (lo ≤ x) && decide (x ≤ hi)
  let width := l.W == 8 || l.W == 16 || l.W == 32 || l.W == 64
  r.ctx8 == l.ctx && r.queue8 == l.queue && width && bitsOf r.flags 2 2 == 0 && within 1 1024 l.N &&
  decide (l.cohortsPer ≤ 32) && within 64 256 l.S && l.S % 4 == 0 && l.rf + l.sp + l.l1 == 48 && within 8 40 l.rf &&
  within 0 32 l.sp && within 4 16 l.l1 && decide (r.ndep ≤ 4) && within l.S (2 ^ 31 - 4) l.wlimit && l.wlimit % 4 == 0 &&
  decide (l.share ≤ l.sp) && l.entry % 4 == 0 && r.depsAt % 64 == 0 && (r.ndep != 0 || r.depsAt == 0) && l.event % 8 == 0 &&
  decide (l.onCore false * l.cohortKib ≤ 16 * l.rf)

/-! ## Acceptance (R373) -/

/-- What a submission gives: a refusal's status, the launchid, the poison that it consumed (R368), or the command that owns bytes which it
has to read (R225, R342). -/
inductive Submitted where
  | refused (code : Nat) | accepted (lid : Nat) | poisoned (f : FaultInfo) | waits (cmd : Nat)
  deriving DecidableEq, Repr

/-- Translates a word or block of a context for the device itself (R348). -/
def State.devAt (s : State) (ctx va : Nat) (k : AccessKind) : State × Except FaultInfo Leaf := translate s none ctx va k 4000

/-- The bytes of such a word or block: a page that maps on-chip bytes gives the context's own shares alone (R173, R243). -/
def State.devBytes (s : State) (ctx va n : Nat) (k : AccessKind) : State × Except FaultInfo (List Nat) :=
  match s.devAt ctx va k with
  | (s, .error f) => (s, .error f)
  | (s, .ok l) =>
    let pas := (List.range n).map (fun i => l.pa + va % 4096 + i)
    (s, match s.pageBad ctx va pas k with
      | some f => .error f
      | none => .ok pas)

/-- The dependence block (R371). -/
def depsOf (bs : List Byte) (n : Nat) : List (Nat × Nat) := (List.range n).map (fun j => (le bs (16 * j) 8, le bs (16 * j + 8) 8))

/-- How a submission meets a failed translation of the device: consumed poison, or status 5 (R368, R373). -/
def refusal5 (f : FaultInfo) : Submitted := if f.cause = causePoison then .poisoned f else .refused 5

/-- The dependence block and the event word translate for the device (R373): the dependences, or what the submission comes to. -/
def State.readDeps (s : State) (ctx ndep depsAt event : Nat) : State × Except Submitted (List (Nat × Nat)) :=
  let (s, deps) : State × Except Submitted (List (Nat × Nat)) := if ndep = 0 then (s, .ok []) else
    match s.devBytes ctx depsAt (16 * ndep) .read with
    | (s, .error f) => (s, .error (refusal5 f))
    | (s, .ok pas) => (s,
      match s.heldBy pas false, s.poisonOf pas with
      | some cmd, _ => .error (.waits cmd)
      | none, some p => .error (.poisoned { fltAt causePoison 5 (depsAt + p.1) .read with paddr := p.2 })
      | none, none => .ok (depsOf (pas.map s.byte) ndep))
  match deps with
  | .error r => (s, .error r)
  | .ok d =>
    if event = 0 then (s, .ok d)
    else match s.devBytes ctx event 8 .read with
      | (s, .error f) => (s, .error (refusal5 f))
      | (s, .ok _) =>
        match s.devBytes ctx event 8 .write with
        | (s, .error f) => (s, .error (refusal5 f))
        | (s, .ok _) => (s, .ok d)

/-- The checks after the record's own alignment and translation (R373): issuer is the context that the issuer may launch into. -/
def State.submit (s : State) (issuer : Option Nat) (bs : List Byte) : State × Submitted :=
  let r := Record.of bs
  let x := s.ctx r.l.ctx
  if issuer != some r.l.ctx then (s, .refused 4)
  else if x.state != .running && x.state != .preempted then (s, .refused 6)
  else if !r.ok then (s, .refused 3)
  else match s.readDeps r.l.ctx r.ndep r.depsAt r.l.event with
    | (s, .error e) => (s, e)
    | (s, .ok deps) =>
      if 256 ≤ (x.launches.filter (fun l => l.queued && l.queue == r.l.queue)).length then (s, .refused 1)
      else
        let lid := x.nextLid
        let (order, s) := s.freshId
        (s.modCtx r.l.ctx (fun x => { x with
            nextLid := if lid = 0xFFFFFFFF then 1 else lid + 1
            launches := x.launches ++ [{ r.l with lid := lid, order := order, deps := deps }] }),
          .accepted lid)

/-- The launchid and the status code of a submission (R380, R385). -/
def Submitted.codes : Submitted → Nat × Nat
  | .refused code => (0, code)
  | .accepted lid => (lid, 0)
  | .poisoned _ | .waits _ => (0, 5)

/-- A normal page of memory, where a launch record has to lie (R370): the on-chip map and the control range are none. -/
def Leaf.inMemory (l : Leaf) : Bool := l.normal && (areaRam l.pa || areaOf l.pa == .flash)

/-- LAUNCH (R380). The record must lie in normal memory (R370). -/
def execLaunch (f : Bool) (d a : Reg) (s : State) : Out :=
  let c := s.co
  let va := (c.ugetPair a).toNat
  let fin (t : State) (r : Submitted) : Out :=
    match r with
    | .poisoned p => .next (t.raise { p with eng := true })
    | .waits cmd => .next (s.waitCmd cmd)
    | r =>
      let ws := c.livel.flatMap (fun l =>
        [(regKey c.v.wdepth c.S d l, (BitVec.ofNat 32 r.codes.1 : Word)), (regKey c.v.wdepth c.S (d + 1) l, BitVec.ofNat 32 r.codes.2)])
      let (_, t) := t.startOp .load (c.flagOf f) (ws.map Prod.fst) ws
      .next (t.lane id 1)
  let t := s.release c .pkg
  if va % 64 != 0 then fin t (.refused 2)
  else match windowOf va with
    | .loc _ | .onchip _ => fin t (.refused 5)
    | .glob =>
      match translate t (some c.core) c.ctx va .read 4001 with
      | (t, .error f) => fin t (refusal5 f)
      | (t, .ok l) =>
        if !l.inMemory then fin t (.refused 5)
        else
          let pa := l.pa + va % 4096
          match t.heldBy ((List.range 64).map (fun i => pa + i)) false with
          | some cmd => fin t (.waits cmd)
          | none =>
            match t.poisonOf ((List.range 64).map (fun i => pa + i)) with
            | some p => fin t (.poisoned { fltAt causePoison 5 (va + p.1) .read with paddr := p.2 })
            | none => let (t, r) := t.submit (some c.ctx) (t.bytes pa 64); fin t r

/-! ## Queues and dependences (R374, R375) -/

/-- The head of a queue of a context. -/
def State.headOf (s : State) (ctx q : Nat) : Option Launch := (s.ctx ctx).launches.find? (fun l => l.queued && l.queue == q)
/-- The heads of all queues of a context. -/
def State.headsOf (s : State) (ctx : Nat) : List Launch :=
  (((s.ctx ctx).launches.filter Launch.queued).map Launch.queue).eraseDups.filterMap (s.headOf ctx)
/-- Every dependence of a launch has been found to hold. -/
def Launch.ready (l : Launch) : Bool := decide (l.deps.length ≤ l.held)

/-- A failed access of the Ringmaster (R375, R378): an entry of the context's fault buffer on die 0. Consumed poison, and on-chip bytes beyond
the context's own, end the context; a flash granule that is being moved is only waited for. -/
def State.ringFault (s : State) (l : Launch) (f : FaultInfo) : State :=
  let r := { FaultRec.blank l.ctx (s.ctx l.ctx).tenant f.cause f.sub with
    addr := f.addr, paddr := f.paddr, flags := f.flags false false ||| 8, lid := l.lid }
  if f.ends then s.killWith r []
  else if f.cause = causeLongLatency then s
  else (s.report 0 r).modLaunch l.ctx l.order (fun l => { l with stuck := true })

/-- Tests a launch's dependences in ascending j from the first that has not been found to hold (R375); a word that an accepted command owns is
tested later (R225, R342). -/
def State.testDeps (l : Launch) : List (Nat × Nat) → State → State
  | [], s => s
  | (a, v) :: ds, s =>
    match s.devBytes l.ctx a 8 .read with
    | (s, .error f) => s.ringFault l f
    | (s, .ok pas) =>
      if (s.heldBy pas false).isSome then s
      else match s.poisonOf pas with
      | some p => s.ringFault l { fltAt causePoison 5 a .read with paddr := p.2 }
      | none =>
        if v ≤ leNat (pas.map s.byte) then
          State.testDeps l ds (s.modLaunch l.ctx l.order (fun l => { l with held := l.held + 1 }))
        else s

/-- A head whose dependences hold and that has no team leaves its queue (R374). -/
def State.leaveEmpty (s : State) (l : Launch) : State :=
  s.modLaunch l.ctx l.order (fun l => if l.ready && l.teams = 0 then { l with queued := false } else l)

/-- The states in which the Ringmasters test the dependences of a context's heads: a pre-emption stops the start of teams alone (R361), a stop
every source (R362). -/
def CtxState.tests (x : CtxState) : Bool := x == .running || x == .preempting || x == .preempted
/-- DEPENDENCE_TEST (R375). -/
def execDependenceTest (ctx q : Nat) (s : State) : Out :=
  match s.headOf ctx q with
  | none => .next s
  | some l =>
    if !(s.ctx ctx).state.tests || l.stuck then .next s
    else .next ((State.testDeps l (l.deps.drop l.held) s).leaveEmpty l)

/-! ## Placement (R216, R217, R376, R377) -/

/-- The cores that a team takes. -/
def Launch.coresAt (l : Launch) (slot : Nat) : List Nat := if l.pair then [slot, slot + 1] else [slot]
/-- The teams resident on a core. -/
def State.teamsOnCore (s : State) (core : Nat) : List Team :=
  s.allTeams.filter (fun t => t.core == core || (t.pair && t.core + 1 == core))
/-- Whether granules [b, b + n) of a core's scratchpad are no part of a share. -/
def State.runFree (s : State) (core b n : Nat) : Bool :=
  (s.teamsOnCore core).all (fun t =>
    let tb := if t.core = core then t.shareB else t.shareB2
    t.shareN = 0 || n = 0 || decide (tb + t.shareN ≤ b) || decide (b + n ≤ tb))
/-- Register KiB that resident cohorts hold on a core (R23). -/
def State.kibUsed (s : State) (core : Nat) : Nat :=
  (s.placedOn core).foldl (fun n c => n + ((c.S + 12) * c.W * 4 + 1023) / 1024) 0

/-- Whether a team of a launch fits on one core with its share at granule b (R376). -/
def State.fitsAt (s : State) (l : Launch) (core : Nat) (follower : Bool) (b : Nat) : Bool :=
  let k := s.core core
  let empty := (s.teamsOnCore core).isEmpty
  let n := l.onCore follower
  (empty || (k.rf == l.rf && k.sp == l.sp && k.l1g == l.l1)) && decide (s.kibUsed core + n * l.cohortKib ≤ 16 * l.rf) &&
  decide ((s.placedOn core).length + n ≤ 64) && decide ((s.teamsOnCore core).length < 16) &&
  decide (b + l.share ≤ l.sp) && s.runFree core b l.share
/-- The first granule at which a share fits on a core, or none. -/
def State.fitsOn (s : State) (l : Launch) (core : Nat) (follower : Bool) : Option Nat :=
  (List.range 33).find? (fun b => s.fitsAt l core follower b)
/-- Whether a launch may use a core's die, and the core begins what its team takes. -/
def Launch.mayUse (l : Launch) (slot : Nat) : Bool :=
  decide (slot < 2048) && (l.dies == 0 || l.dies / 2 ^ dieOf slot % 2 == 1) && (!l.pair || slot % 2 == 0)
/-- Whether the next team of a launch fits at a slot. -/
def State.fits (s : State) (l : Launch) (slot : Nat) : Bool :=
  l.mayUse slot && (s.fitsOn l slot false).isSome && (!l.pair || (s.fitsOn l (slot + 1) true).isSome)

/-- Whether a head may start a team now: its dependences hold, its context runs, its stagger has passed (R376). -/
def State.mayStart (s : State) (l : Launch) : Bool :=
  l.ready && decide (l.started.length < l.teams) && (s.ctx l.ctx).state == .running &&
  (l.started.isEmpty || decide (l.stagger ≤ (s.clk + 2 ^ 64 - l.lastAt) % 2 ^ 64))
/-- The rank of a head: its class, then its acceptance (R376). -/
def Launch.rank (l : Launch) : Nat × Nat := (l.queue / 16, l.order)
def rankBefore (a b : Nat × Nat) : Bool := decide (a.1 < b.1) || (a.1 == b.1 && decide (a.2 < b.2))
/-- Whether another head is offered a core of this placement first. -/
def State.outranked (s : State) (l : Launch) (slot : Nat) : Bool :=
  (s.ctxs.flatMap (fun e => s.headsOf e.1)).any (fun o =>
    s.mayStart o && rankBefore o.rank l.rank &&
    (l.coresAt slot).any (fun n => s.fits o (if o.pair then n - n % 2 else n)))

/-- Repartitions an empty core (R216), or leaves a core with other teams as it is. The core's caches then hold nothing that is
older than the launch's dependences (R180, R375). -/
def State.prepare (s : State) (l : Launch) (core : Nat) : State :=
  let k := s.core core
  let s := if (s.teamsOnCore core).isEmpty && !(k.rf == l.rf && k.sp == l.sp && k.l1g == l.l1) then
      ((s.flushCore core).clearRange (slotAddr core spOffset) (slotAddr core (spOffset + 0x80000))).modCore core (fun k =>
        { k with rf := l.rf, sp := l.sp, l1g := l.l1, l1 := [] })
    else s
  (s.acquire { Cohort.init with core := core } .pkg).dropRo core

/-- The lowest cohort slot numbers that are free on a core. -/
def State.freeSlots (s : State) (core : Nat) : List Nat :=
  (List.range 64).filter (fun i => !((s.placedOn core).any (fun c => c.slot == i)))

/-- Cohort c of a team as it starts (R22, R29, R372). -/
def Launch.cohortOf (l : Launch) (s : State) (id key core slot index c tenant shareB : Nat) : Cohort :=
  let lanes := min l.W (l.N - c * l.W)
  let m : Mask := BitVec.ofNat 64 (2 ^ lanes - 1)
  let regs := (List.range lanes).foldl (fun t n =>
    Tab.set 0 (Tab.set 0 t (16 * 64 + n) (loOf l.param)) (17 * 64 + n) (hiOf l.param)) ([] : Tab Word)
  { Cohort.init with
    id := id, team := key, core := core, slot := slot, cohid := c, ctx := l.ctx, tenant := tenant, teamid := index
    teamN := l.N, launchid := BitVec.ofNat 32 l.lid, cls := l.queue / 16, W := l.W, S := l.S, wlimit := l.wlimit
    spill := l.spill * 65536 + (index * l.cohortsPer + c) * spillStride l.W l.wlimit, shareB := shareB, shareN := l.share
    pair := l.pair, launched := m, hdr := l.entry, stamp := s.tick, ended := false
    v := { View.init with regs := regs, exec := m, live := m } }

/-- Starts team index of a launch at a slot, with its shares at given granules. -/
def State.startTeam (s : State) (l : Launch) (index slot b b2 : Nat) : State :=
  let s := (l.coresAt slot).foldl (fun s n => s.prepare l n) s
  let s := s.clearShare slot b l.share
  let s := if l.pair then s.clearShare (slot + 1) b2 l.share else s
  let (key, s) := s.freshId
  let n := l.cohortsPer
  let base := s.fresh
  let s := { s with fresh := base + n }
  let tenant := (s.ctx l.ctx).tenant
  let lk := launchKey l.ctx l.lid
  let rank := Tab.get 0 (s.cluster (clusterOf slot)).ranks lk
  let free := s.freeSlots slot
  let free2 := s.freeSlots (slot + 1)
  let cs := (List.range n).map (fun c =>
    if l.pair && c % 2 = 1 then l.cohortOf s (base + c) key (slot + 1) (free2.getD (c / 2) 0) index c tenant b2
    else l.cohortOf s (base + c) key slot (free.getD (if l.pair then c / 2 else c) 0) index c tenant b)
  let t : Team :=
    { key := key, ctx := l.ctx, tenant := tenant, lid := l.lid, order := l.order, teamid := index, N := l.N, W := l.W, core := slot, pair := l.pair
      cohorts := cs.map Cohort.id, shareB := b, shareN := l.share, shareB2 := b2, gen := l.gen, rank := rank, bars := []
      done := 0, diag := [], status := .running }
  let s := (s.setTeam t).modCluster (clusterOf slot) (fun q => { q with ranks := Tab.put q.ranks lk (rank + 1) })
  let s := cs.foldl (fun s c => { s with cohorts := Tab.put s.cohorts c.id c }) s
  s.modLaunch l.ctx l.order (fun x => { x with
    started := x.started ++ [index], lastAt := s.clk, queued := decide (x.started.length + 1 < x.teams) })

/-- TEAM_PLACE (R376, R377): a team of the head of a queue starts at a slot. granule gives the first granule of its share, and
64 times that of the follower's. A placement that the rules do not allow changes nothing (log entry 7). -/
def execTeamPlace (ctx q index slot granule : Nat) (s : State) : Out :=
  match s.headOf ctx q with
  | none => .next s
  | some l =>
    let b := granule % 64
    let b2 := if l.pair then granule / 64 % 64 else 0
    let inOrder := decide (index < l.teams) && !l.started.contains index && (l.walk || index == l.started.length)
    if s.mayStart l && inOrder && l.mayUse slot && s.fitsAt l slot false b && (!l.pair || s.fitsAt l (slot + 1) true b2) &&
        !s.outranked l slot then
      .next (s.startTeam l index slot b b2)
    else .next s

/-! ## Completion (R378) -/

/-- Whether a launch is complete but for its event: it has left its queue, and its teams have all started and ended (R378). -/
def Launch.over (l : Launch) : Bool := !l.queued && !l.stuck && l.ended == l.teams && l.ready

/-- LAUNCH_COMPLETE (R378): a launch whose teams have all started and ended adds 1 to its event word, an access that reads and writes. What
has been captured completes after it is restored (R362). -/
def execLaunchComplete (ctx lid : Nat) (s : State) : Out :=
  let x := s.ctx ctx
  match x.launches.find? (fun l => l.lid == lid && l.over) with
  | none => .next s
  | some l =>
    let done (s : State) : State := s.modCtx ctx (fun x => { x with launches := x.launches.filter (fun y => y.order != l.order) })
    if x.state = .free || x.state = .terminated || x.state = .stopped then .next s
    else if l.event = 0 then .next (done s)
    else match s.devBytes ctx l.event 8 .write with
      | (s, .error f) => .next (s.ringFault l { f with rd := true })
      | (s, .ok pas) =>
        if (s.heldBy pas true).isSome then .next s
        else match s.poisonOf pas with
        | some q => .next (s.ringFault l { fltAt causePoison 1 l.event .write with paddr := q.2, rd := true })
        | none => .next (done (s.write (pas.zip (natLe 8 ((leNat (pas.map s.byte) + 1) % 2 ^ 64)))))

/-! ## Generation regions (R383, R384) -/

/-- The lowest address of the heap at which a size fits. -/
def heapFit (base size need : Nat) (as : List Alloc) : Option Nat :=
  let clash (p : Nat) : Bool := as.any (fun a => decide (p < a.base + a.size) && decide (a.base < p + need))
  let at_ := base :: as.map (fun a => a.base + a.size)
  (sortBy id (at_.filter (fun p => decide (base ≤ p) && decide (p + need ≤ base + size)))).find? (fun p => !clash p)

/-- The generation of the focused cohort's team. -/
def State.genHere (s : State) : Word := ((s.team? s.co.team).map Team.gen).getD 0

/-- GALLOC (R384). -/
def execGalloc (d a : Reg) (s : State) : Out :=
  let c := s.co
  let x := s.ctx c.ctx
  let need := ((c.uget a).toNat + 255) / 256 * 256
  let s := s.acquire c .pkg
  let fit := if need = 0 || x.genSize = 0 || decide (4096 ≤ x.allocs.length) then none else heapFit x.genBase x.genSize need x.allocs
  match fit with
  | none => .next (s.lane (fun c => c.uniformPair d 0) 1)
  | some p =>
    let s := s.modCtx c.ctx (fun x => { x with allocs := x.allocs ++ [{ base := p, size := need, gen := s.genHere }] })
    .next (s.lane (fun c => c.uniformPair d (BitVec.ofNat 64 p)) 1)

/-- GFREE (R384). -/
def execGfree (d a : Reg) (s : State) : Out :=
  let c := s.co
  let p := (c.ugetPair a).toNat
  if (s.ctx c.ctx).allocs.any (fun a => a.base == p) then
    let s := s.modCtx c.ctx (fun x => { x with allocs := x.allocs.filter (fun a => a.base != p) })
    .next (s.lane (fun c => c.uniform d 0) 1)
  else .next (s.lane (fun c => c.uniform d 1) 1)

/-- GADV (R384). -/
def execGadv (s : State) : Out :=
  let c := s.co
  let s := s.release c .pkg
  let s := s.modTeam c.team (fun t => { t with gen := if t.gen = 0xFFFFFFFF then t.gen else t.gen + 1 })
  .next ((s.reclaim c.ctx).lane id 1)

/-- GQRY (R384). -/
def execGqry (d : Reg) (s : State) : Out :=
  let g := s.genHere
  let m : Word := BitVec.ofNat 32 (s.genMin s.co.ctx)
  .next (s.lane (fun c => (c.uniform d g).uniform (d + 1) m) 1)

/-! ## Harts and the CPU-die extension (R330, R369, R385, R386) -/

/-- The hart whose turn it is. -/
def State.hartNo (s : State) : Nat := s.turn.getD 0
/-- Integer register r of a hart; x0 reads as 0 and discards writes. -/
def Hart.x (h : Hart) (r : BitVec 5) : DWord := if r = 0 then 0 else Tab.get 0 h.regs r.toNat
def Hart.setX (h : Hart) (r : BitVec 5) (v : DWord) : Hart :=
  if r = 0 then h else { h with regs := Tab.set 0 h.regs r.toNat v }
/-- A hart goes on after a word. -/
def Hart.on (h : Hart) : Hart := { h with pc := (h.pc + 4) % 2 ^ 64 }

/-- A release of a hart: its earlier stores are performed. -/
def Hart.release (h : Hart) (rl : Bool) : Hart := if rl then { h with late := [] } else h

/-- RISC-V exception causes that the extension can raise. -/
def trapFetchFault : Nat := 1
def trapIllegal : Nat := 2
def trapLoadMisaligned : Nat := 4
def trapLoadFault : Nat := 5
def trapStoreMisaligned : Nat := 6
def trapStoreFault : Nat := 7
def trapFetchPage : Nat := 12
def trapLoadPage : Nat := 13
def trapStorePage : Nat := 15
def trapHardware : Nat := 19

/-- A hart takes a precise trap of a RISC-V cause at its word; its handler is the base architecture's. Consumed poison is a RAS event
(R369, R437). -/
def State.hartTrap (s : State) (n cause addr : Nat) : State :=
  let s := s.setHart n { s.hart n with trap := some (cause, addr) }
  if cause = trapHardware then s.ras 5 addr else s

/-- Bytes of the on-chip map that an access of a hart or of the PCIe port reaches: a core's scratchpad. The register regions, the accumulator
stores, the scale memories and what lies beyond an area's size are not reached (R218, R243; log entry 80). -/
def State.chipReach (s : State) (pa : Nat) : Bool :=
  let off := (pa - onchipBase) % 0x400000
  decide (spOffset ≤ off) && decide (off < spOffset + 16384 * (s.core ((pa - onchipBase) / 0x400000)).sp)

/-- How a failed walk of a hart traps: consumed poison is a hardware error (R369). -/
def hartFail (f : WalkFail) (page va : Nat) : Nat × Nat := if f.cause = causePoison then (trapHardware, f.pa) else (page, va)

/-- The physical address of a hart's access and the leaf of its page, through its own translation; without one it reaches physical memory
directly. A reserved memory type is a page fault. -/
def State.hartWalk (s : State) (h : Hart) (va : Nat) : Except WalkFail (Nat × Option Leaf) :=
  if h.mode = 3 || bitsOf h.root.toNat 60 4 = 0 then .ok (va, none)
  else match walkOf s true h.root va with
    | .error f => .error f
    | .ok w => if w.leaf.pbmt = 3 then .error ⟨causeNotPresent, 2, 0⟩ else .ok (w.leaf.pa + va % 4096, some w.leaf)

/-- The physical address that a hart reaches, through its own translation: or the cause and the address of its trap (R394, R403). -/
def State.hartAddr (s : State) (h : Hart) (va n : Nat) (wr : Bool) : Except (Nat × Nat) Nat :=
  let page := if wr then trapStorePage else trapLoadPage
  let access := if wr then trapStoreFault else trapLoadFault
  if va % n != 0 then .error (if wr then trapStoreMisaligned else trapLoadMisaligned, va)
  else match s.hartWalk h va with
    | .error f => .error (hartFail f page va)
    | .ok (pa, l) =>
      if l.any (fun l => !(if wr then l.w else l.r) || (h.mode == 0 && !l.u)) then .error (page, va)
      else match areaOf pa with
        | .hole => .error (access, va)
        | .flash => if wr then .error (page, va) else .ok pa
        | .control => if h.mode = 0 then .error (access, va) else .ok pa
        | .onchip => if s.chipReach pa then .ok pa else .error (access, va)
        | .hbm | .lpddr => .ok pa

/-- Whether a hart's address names normal memory (R370): its page has PBMT 0, whatever the Omantavo attributes are, which a CPU core ignores
(R112). -/
def State.hartNormal (s : State) (h : Hart) (va : Nat) : Bool :=
  match s.hartWalk h va with
  | .ok (_, some l) => l.pbmt == 0 && (areaRam l.pa || areaOf l.pa == .flash)
  | .ok (pa, none) => areaRam pa || areaOf pa == .flash
  | .error _ => false

/-- GLAUNCH (R385, R386): it performs FENCE rw,w first. The record has to lie in normal memory (R370). Poison that the device's walk for the context meets ends the context
(R368); poison in the record or the dependence block is the hart's (R369). -/
def execGlaunch (rd rs1 _rs2 : BitVec 5) (s : State) : Out :=
  let n := s.hartNo
  let h := s.hart n
  let s := s.setHart n (h.release true)
  let va := (h.x rs1).toNat
  let fin (t : State) (r : Submitted) : Out :=
    .next (t.setHart n ((t.hart n).setX rd (BitVec.ofNat 64 (r.codes.1 + r.codes.2 * 2 ^ 32))).on)
  if va % 64 != 0 then fin s (.refused 2)
  else match s.hartAddr h va 64 false with
    | .error e => if e.1 = trapHardware then .next (s.hartTrap n e.1 e.2) else fin s (.refused 5)
    | .ok pa =>
      if !s.hartNormal h va then fin s (.refused 5)
      else match s.heldBy ((List.range 64).map (fun i => pa + i)) false with
        | some cmd => .next (s.waitCmd cmd)
        | none =>
          match s.poisonIn pa 64 with
          | some p => .next (s.hartTrap n trapHardware p)
          | none =>
            match s.submit h.bind (s.bytes pa 64) with
            | (t, .poisoned f) =>
              if f.sub = 6 then
                fin (t.killWith { FaultRec.blank (h.bind.getD 0) (t.ctx (h.bind.getD 0)).tenant f.cause f.sub with
                  addr := f.addr, paddr := f.paddr, flags := f.flags false false } []) (.refused 5)
              else .next (t.hartTrap n trapHardware f.paddr)
            | (t, .waits cmd) => .next (t.waitCmd cmd)
            | (t, r) => fin t r

/-- GEVSIG (R385): AMOADD.D with rl. -/
def execGevsig (_rd rs1 rs2 : BitVec 5) (s : State) : Out :=
  let n := s.hartNo
  let h := s.hart n
  let va := (h.x rs1).toNat
  match s.hartAddr h va 8 true with
  | .error e => .next (s.hartTrap n e.1 e.2)
  | .ok pa =>
    if areaOf pa = .control then .next (s.hartTrap n trapStoreFault va)
    else match s.heldBy ((List.range 8).map (fun i => pa + i)) true with
      | some cmd => .next (s.waitCmd cmd)
      | none =>
        match s.poisonIn pa 8 with
        | some p => .next (s.hartTrap n trapHardware p)
        | none =>
          let t := s.writeN pa 8 ((s.readN pa 8 + (h.x rs2).toNat) % 2 ^ 64)
          .next (t.setHart n ((t.hart n).release true).on)

/-- GEVWAIT (R385): the hart stalls until the word is at least rs2, or a pending interrupt ends the wait. Whether the pending one is enabled is
the base architecture's, and free (log entry 81). -/
def execGevwait (rd rs1 rs2 : BitVec 5) (s : State) : Out :=
  let n := s.hartNo
  let h := s.hart n
  let va := (h.x rs1).toNat
  match s.hartAddr h va 8 false with
  | .error e => .next (s.hartTrap n e.1 e.2)
  | .ok pa =>
    if areaOf pa = .control then .next (s.hartTrap n trapLoadFault va)
    else match s.heldBy ((List.range 8).map (fun i => pa + i)) false, s.poisonIn pa 8 with
      | some cmd, _ => .next (s.waitCmd cmd)
      | none, some p => .next (s.hartTrap n trapHardware p)
      | none, none =>
        if (h.x rs2).toNat ≤ s.readN pa 8 then .next (s.setHart n (h.setX rd 0).on)
        else if h.pend && s.pick 4200 then .next (s.setHart n (h.setX rd 1).on)
        else .next (s.setHart n { h with wait := some (rd.toNat, pa, (h.x rs2).toNat) })

/-- GEVWAIT_WAKE (R385). -/
def execGevwaitWake (hart : Nat) (s : State) : Out :=
  let h := s.hart hart
  match h.wait with
  | none => .next s
  | some (rd, pa, bound) =>
    let fin (v : DWord) : Out := .next (s.setHart hart { (h.setX (BitVec.ofNat 5 rd) v).on with wait := none })
    match s.heldBy ((List.range 8).map (fun i => pa + i)) false, s.poisonIn pa 8 with
    | some cmd, _ => .next (s.waitCmd cmd)
    | none, some p => .next ((s.setHart hart { h with wait := none }).hartTrap hart trapHardware p)
    | none, none =>
      if bound ≤ s.readN pa 8 then fin 0
      else if h.pend && s.pick 4200 then fin 1
      else .next s

/-- GCTX (R385): illegal in U-mode. -/
def execGctx (rd rs1 _rs2 : BitVec 5) (s : State) : Out :=
  let n := s.hartNo
  let h := s.hart n
  if h.mode = 0 then .next (s.hartTrap n trapIllegal h.pc)
  else
    let old : DWord := match h.bind with
      | some c => BitVec.ofNat 64 c
      | none => 0xFFFFFFFF
    .next (s.setHart n { (h.setX rd old).on with bind := some ((h.x rs1).toNat % 64) })

end Sys2Proof.Machine
end

