-- ==== Sys2Proof/Machine/Fabric.lean ====
section
/-!
DEFINITION. The fabric (R439 to R461): ranks, the commands of opcodes 0x78 and 0x79, messages and their targets, receive counters
and triggers, completion, keepalives and the loss of peers.
-/

namespace Sys2Proof.Machine

/-! ## Blocks, ranks and local ranges (R442 to R445) -/

/-- The fabric block of a context on a die. -/
def State.fab (s : State) (die ctx : Nat) : FabBlk := Tab.get FabBlk.init s.fabs (64 * die + ctx)
def State.modFab (s : State) (die ctx : Nat) (f : FabBlk → FabBlk) : State :=
  { s with fabs := Tab.put s.fabs (64 * die + ctx) (f (s.fab die ctx)) }

/-- No counter is named. -/
def noCtr : Nat := 4096
/-- FABRIC and its subcauses (R445). -/
def fabFault (sub : Nat) : FaultInfo := engFault (flt causeFabric sub)

/-- A rank of a job as its table entry names it (R442). -/
structure Rank where
  no     : Nat
  module : Nat
  die    : Nat
  ctx    : Nat
  deriving DecidableEq, Repr

/-- The entry of a rank (R442, R445): its target, or the fault of row 5. A poisoned entry is an engine read of poison. -/
def State.rankOf (s : State) (b : FabBlk) (r : Nat) : Except FaultInfo Rank :=
  if b.nranks ≤ r then .error (fabFault 2)
  else
    let at_ := b.ranktab + 8 * r
    match s.poisonIn at_ 8 with
    | some p => .error { engFault (flt causePoison 5) with paddr := p, rd := true }
    | none =>
      let e := s.readN at_ 8
      if e / 2 ^ 63 = 0 then .error (fabFault 2)
      else .ok { no := r, module := bitsOf e 0 15, die := bitsOf e 15 2, ctx := bitsOf e 17 6 }

/-- The binding of a context on a die (R445). -/
def State.unbound (s : State) (die ctx : Nat) : Option FaultInfo :=
  if (s.fab die ctx).nranks = 0 || (s.bound ctx).isNone then some (fabFault 1) else none

/-- Several ranks, in order. -/
def State.ranksOf (s : State) (b : FabBlk) : List Nat → Except FaultInfo (List Rank)
  | [] => .ok []
  | r :: rs => match s.rankOf b r with
    | .error f => .error f
    | .ok x => match s.ranksOf b rs with
      | .error f => .error f
      | .ok xs => .ok (x :: xs)

/-- Row 5 of R445 for some ranks. -/
def State.rankFault (s : State) (die ctx : Nat) (rs : List Nat) : Option FaultInfo :=
  match s.unbound die ctx with
  | some f => some f
  | none => match s.ranksOf (s.fab die ctx) rs with
    | .error f => some f
    | .ok _ => none

/-- Translates a range page by page for a Charabanc. On-chip bytes that a page maps are reached as in the ONCHIP window (R173, R243). -/
def netPieces (ctx : Nat) (k : AccessKind) : Nat → Nat → Nat → State → State × Except FaultInfo (List Piece)
  | 0, _, _, s => (s, .ok [])
  | n + 1, va, len, s =>
    if len = 0 then (s, .ok [])
    else
      match translate s none ctx va k (4100 + n) with
      | (s, .error f) => (s, .error (engFault f))
      | (s, .ok l) =>
        let here := min len (4096 - va % 4096)
        match s.pageBad ctx va ((List.range here).map (fun i => l.pa + va % 4096 + i)) k with
        | some f => (s, .error (engFault f))
        | none =>
        match netPieces ctx k n ((va + here) % 2 ^ 64) (len - here) s with
        | (s, .error f) => (s, .error f)
        | (s, .ok ps) => (s, .ok ({ va := va, pa := l.pa + va % 4096, len := here, leaf := some l } :: ps))
/-- The pages that a range touches. -/
def pageCount (va len : Nat) : Nat := (va % 4096 + len + 4095) / 4096

/-! ## Reductions (R452, R454) -/

/-- Bytes of an element of a reduction's type. -/
def redSize (ty : BitVec 2) : Nat := if ty = 1 || ty = 2 then 2 else 4
/-- The format of a reduction's type. -/
def redFmt (ty : BitVec 2) : Fmt := if ty = 0 then .f32 else if ty = 1 then .f16 else .b16
/-- A 32-bit word as a signed integer. -/
def i32 (x : Nat) : Int := (BitVec.ofNat 32 x).toInt

/-- Op(dst, x) in T, and whether an add overflowed. -/
def redElem (ty op : BitVec 2) (sat : Bool) (old x : Nat) : Nat × Bool :=
  if ty = 3 then
    let r := if op = 0 then i32 old + i32 x else if op = 1 then max (i32 old) (i32 x) else min (i32 old) (i32 x)
    let r := if sat then max (-(2 ^ 31)) (min (2 ^ 31 - 1) r) else r
    ((BitVec.ofInt 32 r).toNat, false)
  else
    let f := redFmt ty
    if op = 1 then (f.minmax true old x, false)
    else if op = 2 then (f.minmax false old x, false)
    else
      let r := f.add old x
      match f.value old, f.value x, f.value r with
      | .num _ _ _, .num _ _ _, .inf neg => (if sat then (if neg then f.sign else 0) + f.maxCode else r, true)
      | _, _, _ => (r, false)

/-- Elements of a byte run, reduced with the contribution's. -/
def redBytes (ty op : BitVec 2) (sat : Bool) (old new : List Byte) : List Byte × Bool :=
  let k := redSize ty
  let rs := (List.range (new.length / k)).map (fun i =>
    redElem ty op sat (leNat ((old.drop (k * i)).take k)) (leNat ((new.drop (k * i)).take k)))
  (rs.flatMap (fun r => natLe k r.1), rs.any Prod.snd)

/-- The window of a collective and source. -/
def FabBlk.win (b : FabBlk) (coll src : Nat) : RedWin :=
  (b.wins.find? (fun w => w.coll == coll && w.src == src)).getD { coll := coll, src := src, low := 0, added := [] }
/-- Whether a contribution has been added already, or lies below its window (R454). -/
def FabBlk.seen (b : FabBlk) (coll : Nat) (p : Nat × Nat) : Bool :=
  let w := b.win coll p.1
  decide (p.2 < w.low) || w.added.contains p.2
/-- A contribution is added: the window holds its 64 newest sequences. -/
def FabBlk.note (b : FabBlk) (coll : Nat) (p : Nat × Nat) : FabBlk :=
  let w := b.win coll p.1
  let top := (p.2 :: w.added).foldl max 0
  let low := max w.low (top + 1 - 64)
  { b with wins := { w with low := low, added := (p.2 :: w.added).filter (fun q => decide (low ≤ q)) } ::
      b.wins.filter (fun v => !(v.coll == coll && v.src == p.1)) }

/-! ## Receive counters and triggers (R455 to R458, R462) -/

/-- Whether a context's triggers fire (R459): its sources have not stopped. -/
def State.firing (s : State) (ctx : Nat) : Bool :=
  let x := (s.ctx ctx).state
  x == .running || x == .preempting || x == .preempted

/-- A check fails at fire: the context ends with that cause, in a record that names no cohort (R458). -/
def State.fireKill (s : State) (ctx : Nat) (f : FaultInfo) : State :=
  s.killWith { FaultRec.blank ctx (s.ctx ctx).tenant f.cause f.sub with
    addr := f.addr, paddr := f.paddr, flags := (engFault f).flags false false } []

/-- A fired trigger waits: for a REPLAY_ALL, or for something else to come about first (R342, R458, R462). -/
def State.fireLater (s : State) (die ctx : Nat) (t : Trigger) (replay : Bool) : State :=
  s.modFab die ctx (fun b => { b with waiting := b.waiting ++ [(t, replay)] })
/-- A failed local translation at fire (R458): an entry of the die's fault buffer, and the fire waits for REPLAY_ALL. Poison, and
on-chip bytes out of reach, end the context (log entry 53). -/
def State.fireWait (s : State) (die ctx : Nat) (t : Trigger) (f : FaultInfo) : State :=
  if f.cause = causePoison || f.cause = causeRemote then s.fireKill ctx f
  else
    (s.report die { FaultRec.blank ctx (s.ctx ctx).tenant f.cause f.sub with
      addr := f.addr, paddr := f.paddr, flags := (engFault f).flags false false }).fireLater die ctx t true

/-- A message of command cmd from a context to a rank. -/
def State.netMsg (s : State) (b : FabBlk) (ctx cmd : Nat) (r : Rank) (ordered : Bool) (rctr add : Nat) (op : NetOp) : OutMsg :=
  { module := r.module, rank := r.no, done := false, status := 0, hop := false, held := false, reply := [], lines := []
    msg := { srcModule := s.fabMod, srcRank := b.rank, die := r.die, ctx := r.ctx, job := BitVec.ofNat 24 b.job
             key := (s.secretOf ctx).getD 0, kind := if ordered then .rod else .rud, cmd := cmd, stream := 0, number := 0
             rctr := rctr, rctrAdd := add, op := op } }

/-- The local range of a fired command (R445 rows 6 and 7): its pieces. An event increment reads and writes (R356); a write to a spill stack is
no failed translation, and ends the context (R154, R357). -/
def State.fireRange (s : State) (die ctx : Nat) (t : Trigger) (k : AccessKind) (len : Nat) (go : State → List Piece → State) : State :=
  let both (f : FaultInfo) : FaultInfo := if t.op = 3 then { f with rd := true } else f
  match (if k = .write then s.spillByte ctx t.loc len else none) with
  | some b => s.fireKill ctx (both (engFault (fltAt causeProtection 3 b k)))
  | none => match netPieces ctx k (pageCount t.loc len) t.loc len s with
    | (s, .error f) => s.fireWait die ctx t (both f)
    | (s, .ok ps) =>
      match orderedOf [ps] with
      | some f => s.fireKill ctx f
      | none => if (s.owned ps).isSome then s.fireLater die ctx t false else go s ps

/-- The slot of the completion queue at a virtual address, where it can be translated; or the poisoned sector that its walk met. On-chip bytes
that its page maps are reached as in the ONCHIP window (log entry 88). -/
def State.cqSlot (s : State) (ctx va : Nat) : Except (Option Nat) (State × Nat) :=
  match walkRoot s (s.ctx ctx).root va with
  | .error f => .error (if f.cause = causePoison then some f.pa else none)
  | .ok w =>
    let pa := w.leaf.pa + va % 4096
    match permit w.leaf .write, s.pageBad ctx va ((List.range 32).map (fun i => pa + i)) .write with
    | .ok (), none => .ok (setAD s w .write, pa)
    | .error _, _ | .ok (), some _ => .error none

/-- A completion record (R447), or its drop. A walk that consumes poison ends the context (R368). -/
def State.fabRecord (s : State) (f : FabCmd) (bytes status : Nat) (hop : Bool) : State :=
  let b := s.fab f.die f.ctx
  let drop := s.modFab f.die f.ctx (fun b => { b with cqDrops := (b.cqDrops + 1) % 2 ^ 32 })
  let va := (b.cqBase + 32 * (b.cqHead % 2 ^ b.cqSize)) % 2 ^ 64
  if b.cqSize = 0 || 2 ^ b.cqSize ≤ (b.cqHead + 2 ^ 32 - b.cqTail) % 2 ^ 32 then drop
  else match s.cqSlot f.ctx va with
    | .error (some p) => drop.fireKill f.ctx { fltAt causePoison 6 va .write with paddr := p }
    | .error none => drop
    | .ok (s, pa) =>
      let (q, s) := s.nextSeq
      let fl := (if hop then 1 else 0) + (if f.trig then 2 else 0) + (if f.ord then 4 else 0)
      let r := natLe 8 q ++ natLe 4 f.rank ++ natLe 4 bytes ++ natLe 2 f.tag ++ natLe 1 f.code ++ natLe 1 status ++ natLe 1 fl ++
        natLe 3 0 ++ natLe 4 f.lid ++ natLe 4 0
      let cells := if areaOf pa = .control then [] else cellsFrom pa r
      (s.write cells).modFab f.die f.ctx (fun b => { b with cqHead := (b.cqHead + 1) % 2 ^ 32 })

/-- Adds to a receive counter, and nothing else; counter 4,096 names none. -/
def State.bumpCtr (s : State) (die ctx n : Nat) (v : Word) : State :=
  if noCtr ≤ n then s else s.modFab die ctx (fun b => { b with ctrs := Tab.set 0 b.ctrs n (Tab.get 0 b.ctrs n + v) })

/-- The first poisoned sector that a Charabanc's read of pieces meets, and the address of its first byte there. -/
def State.netMark (s : State) (ps : List Piece) : Option (Nat × Nat) :=
  if s.poison.isEmpty then none
  else ps.findSome? (fun p => (s.poisonIn p.pa p.len).map (fun q => (q, p.va + (q - p.pa))))

/-- A fired command is accepted like an issued one (R458): the fabric block and the rank's entry are read and checked again. An ordered one
stands behind those to its rank that fired before it (R462). An event increment completes at once: its local counter rises, and its record is
written; the counter's triggers are still to be tested. -/
def State.fire (s : State) (die ctx : Nat) (t : Trigger) : State :=
  let b := s.fab die ctx
  if t.ord && t.op < 3 && b.waiting.any (fun x => x.1.ord && decide (x.1.op < 3) && x.1.rank == t.rank) then s.fireLater die ctx t false
  else
    let rank := if t.op < 3 then (s.rankOf b t.rank) else .ok { no := 0, module := 0, die := 0, ctx := 0 }
    match s.unbound die ctx, rank with
    | some f, _ => s.fireKill ctx f
    | none, .error f => s.fireKill ctx f
    | none, .ok r =>
      let len := 16 * t.len16
      let (id, s) := s.freshId
      let cmd (ms : List OutMsg) (lpas pages reads : List Nat) : FabCmd :=
        { id := id, die := die, ctx := ctx, core := 0, co := 0, opId := 0, code := 8 + t.op, tag := t.tag, rank := r.no
          lctr := t.lctr, recd := t.recd, trig := true, ord := t.ord, lid := t.lid, bytes := len, order := id, msgs := ms
          lpas := lpas, pages := pages, reads := reads, poison := none, pc := 0 }
      let send (s : State) (f : FabCmd) : State := { s with fcmds := s.fcmds ++ [f] }
      match t.op with
      | 0 => s.fireRange die ctx t .read len (fun s ps =>
          match s.netMark ps with
          | some p => s.fireKill ctx { engFault (fltAt causePoison 5 p.2 .read) with paddr := p.1 }
          | none => send s (cmd [s.netMsg b ctx id r t.ord t.rctr 1 (.put t.rem (s.pieceBytes ps))] [] (piecePages ps) (pieceLines ps)))
      | 1 => s.fireRange die ctx t .write len (fun s ps =>
          send s (cmd [s.netMsg b ctx id r t.ord t.rctr 1 (.get t.rem len)] (piecePas ps) (piecePages ps) []))
      | 2 => send s (cmd [s.netMsg b ctx id r t.ord t.rctr 0 (.counterAdd (BitVec.ofNat 32 t.rem))] [] [] [])
      | _ => s.fireRange die ctx t .write 8 (fun s ps =>
          let pa := (ps.headD { va := 0, pa := 0, len := 0, leaf := none }).pa
          match s.poisonIn pa 8 with
          | some p => s.fireKill ctx { engFault (fltAt causePoison 1 t.loc .write) with paddr := p, rd := true }
          | none =>
            let s := (s.writeN pa 8 ((s.readN pa 8 + 1) % 2 ^ 64)).bumpCtr die ctx t.lctr 1
            if t.recd then s.fabRecord (cmd [] [] [] []) 0 0 false else s)

/-- Fires the triggers of some counters whose thresholds they have reached, in arming order, and then those of the counters that these raise
(R458, R462). Each round fires one trigger at least, so that the number of armed ones bounds it. -/
def State.testRounds (die ctx : Nat) : Nat → (Nat → Bool) → State → State
  | 0, _, s => s
  | n + 1, p, s =>
    let b := s.fab die ctx
    let due (t : Trigger) : Bool := p t.ctr && decide (t.thr.toNat ≤ (Tab.get 0 b.ctrs t.ctr).toNat)
    let now := b.trigs.filter due
    if now.isEmpty then s
    else
      let s := s.modFab die ctx (fun b => { b with trigs := b.trigs.filter (fun t => !due t) })
      State.testRounds die ctx n (fun c => now.any (fun t => t.op == 3 && t.lctr == c)) (now.foldl (fun s t => s.fire die ctx t) s)
/-- Tests the armed triggers of some counters; a context that is being stopped fires none (R459). -/
def State.testTriggers (s : State) (die ctx : Nat) (p : Nat → Bool) : State :=
  if !s.firing ctx then s else State.testRounds die ctx (s.fab die ctx).trigs.length p s
/-- Fires a trigger outside an update of its counter: at its arm, or after it has waited. -/
def State.fireNow (s : State) (die ctx : Nat) (t : Trigger) : State :=
  let s := s.fire die ctx t
  if t.op = 3 then s.testTriggers die ctx (fun c => c == t.lctr) else s

/-- Sets a receive counter and tests its triggers; counter 4,096 names none. -/
def State.setCtr (s : State) (die ctx n : Nat) (v : Word) : State :=
  if noCtr ≤ n then s
  else (s.modFab die ctx (fun b => { b with ctrs := Tab.set 0 b.ctrs n v })).testTriggers die ctx (fun m => m == n)
/-- Adds to a receive counter. -/
def State.addCtr (s : State) (die ctx n : Nat) (v : Word) : State :=
  s.setCtr die ctx n (Tab.get 0 (s.fab die ctx).ctrs n + v)

/-- The fires that wait are tried again in their order (R353, R458, R462), where the context's triggers fire (R459); those that wait for a
REPLAY_ALL only when it comes. -/
def State.refire (s : State) (die ctx : Nat) (replay : Bool) : State :=
  if !s.firing ctx then s
  else
    let ts := (s.fab die ctx).waiting
    let s := s.modFab die ctx (fun b => { b with waiting := [] })
    ts.foldl (fun s t => if t.2 && !replay then s.fireLater die ctx t.1 true else s.fireNow die ctx t.1) s

/-! ## How a command ends (R447) -/

/-- The first steps of a fabric command's end: it is gone, the local bytes of a get are written, and its local counter has risen. The issuing
cores' L1 lines of what the command wrote here are gone (R342). -/
def State.fabLand (s : State) (f : FabCmd) (status : Nat) (data : List Byte) : State :=
  let s := { s.freeSb f.id with fcmds := s.fcmds.filter (fun g => g.id != f.id) }
  let cells := if status = 0 then f.lpas.zip data else []
  let s := s.write cells
  let cores := match s.cohort? f.co with
    | some c => c.teamCores
    | none => []
  let s := cores.foldl (fun s n => s.dropLines n (linesOf cells ++ f.msgs.flatMap OutMsg.lines)) s
  s.bumpCtr f.die f.ctx f.lctr 1

/-- The end of a fabric command, in order: its local bytes and counter, the record, the flag. The triggers that the counter fires, and their
records, come before or after the command's own record (R467). A command that read poison ends its context instead (R227, R367). -/
def State.fabEnd (s : State) (f : FabCmd) (status bytes : Nat) (hop : Bool) (data : List Byte) : State :=
  match f.poison with
  | some p =>
    let s := { s.freeSb f.id with fcmds := s.fcmds.filter (fun g => g.id != f.id) }
    (s.modCohort f.co (fun c => c.complete f.opId [])).enginePoison f.ctx f.co f.pc 5 p
  | none =>
    let s := s.fabLand f status data
    let tell (s : State) : State := if f.recd || status != 0 || hop then s.fabRecord f bytes status hop else s
    let test (s : State) : State := s.testTriggers f.die f.ctx (fun c => c == f.lctr)
    let s := if s.pick 8820 then tell (test s) else test (tell s)
    s.modCohort f.co (fun c => c.complete f.opId [])

/-! ## Acceptance (R445, R448 to R454) -/

/-- The flags field: ordered and record (R443). -/
def flagOrd (h7 : Nat) : Bool := h7 % 2 == 1
def flagRec (h7 : Nat) : Bool := h7 / 2 % 2 == 1

/-- Accepts a fabric command of the focused cohort: local lines written back, scoreboard entries taken, the flag set. One that
sends nothing completes at acceptance (R450). s is the state to stay in while something holds it up. -/
def State.acceptFab (s t : State) (f : Bool) (ks : List Claim) (ps : List Piece) (mk : State → FabCmd → FabCmd) : Out :=
  let c := s.co
  match t.owned ps, s.holdup ks with
  | some cmd, _ => .next (s.waitCmd cmd)
  | none, some cmd => .next (s.waitCmd cmd)
  | none, none =>
    let t := (t.release c .pkg).ready c ps
    let (id, t) := t.startOp .engine (c.flagOf f) [] []
    match t.takeSb id ks with
    | none => .next s
    | some t =>
      let e : FabCmd :=
        { id := id, die := dieOf c.core, ctx := c.ctx, core := c.core, co := c.id, opId := id, code := 0, tag := 0, rank := 0
          lctr := noCtr, recd := false, trig := false, ord := false, lid := c.launchid.toNat, bytes := 0, order := id, msgs := []
          lpas := [], pages := piecePages ps, reads := pieceLines ps, poison := none, pc := c.wordAddr }
      let e := mk t e
      .next ((if e.msgs.isEmpty then t.fabEnd e 0 0 false [] else { t with fcmds := t.fcmds ++ [e] }).lane id_ 5)
where
  /-- Nothing but the advance. -/
  id_ (c : Cohort) : Cohort := c

/-- The limits that every block shares: counters and tag. -/
def ctrsOk (rctr lctr tag : Nat) : Bool := decide (rctr ≤ noCtr) && decide (lctr ≤ noCtr) && decide (tag < 65536)
/-- NPUT's and NGET's fields are within their limits (R443, R444). -/
def putOk (len16 rctr lctr tag : Nat) (p : PBlock) : Bool :=
  decide (1 ≤ len16) && decide (len16 ≤ 2 ^ 26) && ctrsOk rctr lctr tag && p.h4 == 0 && p.h5 == 0 && p.h6 == 0 && p.h7.toNat / 4 == 0

/-- NPUT and NGET (R449). -/
def State.putGet (s : State) (f : Bool) (d a b : Reg) (p : PBlock) (get : Bool) : Out :=
  let c := s.co
  let die := dieOf c.core
  let rem := (c.ugetPair d).toNat
  let loc := (c.ugetPair a).toNat
  let r := (c.uget b).toNat
  let len := 16 * c.sub p.h0
  let rctr := c.sub p.h1
  let h7 := p.h7.toNat
  match misalignedOf 16 [(loc, if get then .write else .read), (rem, if get then .read else .write)] [] with
  | some e => .next (s.raise e)
  | none =>
    let rs : List Rg := [{ grp := 0, share := false, va := loc, len := len, wr := get }]
    let own : Own := { bad05 := !putOk (c.sub p.h0) rctr p.h2.toNat (c.sub p.h3) p, no01 := false, never := true, late := false
                       mid := s.rankFault die c.ctx [r] }
    match checkRanges s c own rs with
    | (t, .error e) => .next (t.raise e)
    | (t, .ok ps) =>
      let blk := t.fab die c.ctx
      match t.rankOf blk r with
      | .error e => .next (t.raise e)
      | .ok k =>
        let ps := ps.flatten
        let op (t : State) : NetOp := if get then .get rem len else .put rem (t.pieceBytes ps)
        s.acceptFab t f (claimsOf c rs) ps (fun t e =>
          { e with
            code := if get then 1 else 0, tag := c.sub p.h3, rank := r, lctr := p.h2.toNat, recd := flagRec h7, ord := flagOrd h7
            bytes := len, msgs := [t.netMsg blk c.ctx e.id k (flagOrd h7) rctr 1 (op t)], lpas := if get then piecePas ps else []
            reads := if get then [] else e.reads, poison := if get then none else t.netMark ps })
def execNput (f : Bool) (d a b : Reg) (p : PBlock) (s : State) : Out := s.putGet f d a b p false
def execNget (f : Bool) (d a b : Reg) (p : PBlock) (s : State) : Out := s.putGet f d a b p true

/-- NCOLL (R450): each active lane is one message; the local ranges take one entry. -/
def execNcoll (f : Bool) (d a b : Reg) (p : PBlock) (s : State) : Out :=
  let c := s.co
  let die := dieOf c.core
  let act := c.active
  let len := 16 * c.sub p.h0
  let rctr := c.sub p.h1
  let h7 := p.h7.toNat
  let locOf (l : Nat) : Nat := (c.getPair a l).toNat
  let remOf (l : Nat) : Nat := (c.getPair d l).toNat
  match misalignedOf 16 (act.flatMap (fun l => [(locOf l, .read), (remOf l, .write)])) [] with
  | some e => .next (s.raise e)
  | none =>
    let rs : List Rg := act.map (fun l => { grp := 0, share := false, va := locOf l, len := len, wr := false })
    let ranks := act.map (fun l => (c.get b l).toNat)
    let ok := putOk (c.sub p.h0) rctr p.h2.toNat (c.sub p.h3) p && decide (c.sub p.h0 ≤ 512)
    match checkRanges s c { bad05 := !ok, no01 := false, never := true, late := false, mid := s.rankFault die c.ctx ranks } rs with
    | (t, .error e) => .next (t.raise e)
    | (t, .ok ps) =>
      let blk := t.fab die c.ctx
      match t.ranksOf blk ranks with
      | .error e => .next (t.raise e)
      | .ok ks =>
        s.acceptFab t f (claimsOf c rs) ps.flatten (fun t e =>
          { e with
            code := 2, tag := c.sub p.h3, rank := 0xFFFFFFFF, lctr := p.h2.toNat, recd := flagRec h7, ord := flagOrd h7
            bytes := len * act.length, poison := t.netMark ps.flatten
            msgs := (act.zip (ks.zip ps)).map (fun (x : Nat × Rank × List Piece) =>
              t.netMsg blk c.ctx e.id x.2.1 (flagOrd h7) rctr 1 (.put (remOf x.1) (t.pieceBytes x.2.2))) })

/-- NA2A (R451): the count table is read at acceptance. A peer's slice, its rows and its count word, is one message, and its counter rises
after both (log entry 56). -/
def execNa2a (f : Bool) (d a b : Reg) (p : PBlock) (s : State) : Out :=
  let c := s.co
  let die := dieOf c.core
  let dst := (c.ugetPair d).toNat
  let src := (c.ugetPair a).toNat
  let tab := (c.uget b).toNat
  let P := c.sub p.h0
  let rctr := c.sub p.h1
  let R := 16 * p.h4.toNat
  let base := c.sub p.h5
  let cap := c.sub p.h6
  let h7 := p.h7.toNat
  match misalignedOf 16 [(src, .read), (dst, .write), (tab, .read)] [] with
  | some e => .next (s.raise e)
  | none =>
    let in_ (lo hi x : Nat) : Bool := decide (lo ≤ x) && decide (x ≤ hi)
    let ok := in_ 1 4096 P && ctrsOk rctr p.h2.toNat (c.sub p.h3) && in_ 1 4096 p.h4.toNat && in_ 1 65535 cap && h7 / 4 == 0
    let table : Rg := { grp := 1, share := true, va := tab, len := 4 * P, wr := false }
    let seen := ok && decide (tab + 4 * P ≤ c.shareSize)
    let tpas := if seen then (List.range (4 * P)).map (fun i => c.shareAddr (tab + i)) else []
    match s.heldBy tpas false with
    | some cmd => .next (s.waitCmd cmd)
    | none =>
      let tbs := tpas.map s.byte
      let tpoison := (s.poisonOf tpas).map (fun p => (p.2, c.localVa (tpas.getD p.1 0)))
      let counts := if tpoison.isSome then [] else (List.range P).map (fun i => leNat ((tbs.drop (4 * i)).take 4))
      let total := if seen then R * counts.foldl (fun n x => n + x) 0 else 0
      let blk := s.fab die c.ctx
      let q := blk.rank - base
      let ranks := (List.range P).map (fun i => base + i)
      let mid := match s.unbound die c.ctx with
        | some e => some e
        | none =>
          match s.ranksOf blk ranks with
          | .error e => some e
          | .ok _ => if base ≤ blk.rank && decide (blk.rank < base + P) then none else some (fabFault 2)
      let tooMany := counts.any (fun x => decide (cap < x))
      let rs : List Rg := [{ grp := 0, share := false, va := src, len := if tooMany then 0 else total, wr := false }, table]
      match checkRanges s c { bad05 := !ok || tooMany, no01 := false, never := true, late := false, mid := mid } rs with
      | (t, .error e) => .next (t.raise e)
      | (t, .ok ps) =>
        match t.ranksOf blk ranks with
        | .error e => .next (t.raise e)
        | .ok ks =>
          let from_ := ps.getD 0 []
          s.acceptFab t f (claimsOf c rs) from_ (fun t e =>
            let bs := t.pieceBytes from_
            let offs := counts.foldl (fun (o : List Nat × Nat) x => (o.1 ++ [o.2], o.2 + x * R)) ([], 0)
            { e with
              code := 3, tag := c.sub p.h3, rank := 0xFFFFFFFF, lctr := p.h2.toNat, recd := flagRec h7, ord := flagOrd h7
              bytes := total + 4 * P, poison := tpoison <|> t.netMark from_
              msgs := (ks.zip (counts.zip offs.1)).map (fun (x : Rank × Nat × Nat) =>
                t.netMsg blk c.ctx e.id x.1 (flagOrd h7) rctr 1 (.slice ((dst + q * cap * R) % 2 ^ 64) ((bs.drop x.2.2).take (x.2.1 * R))
                  ((dst + P * cap * R + 4 * q) % 2 ^ 64) x.2.1)) })

/-- The contributions of a collective and target that a source has not had acknowledged (R454). -/
def State.redOut (s : State) (die ctx coll rank : Nat) : List FabCmd :=
  s.fcmds.filter (fun f => f.die == die && f.ctx == ctx && f.rank == rank && f.msgs.any (fun m => match m.msg.op with
    | .reduce _ _ _ _ k .. => k == coll
    | .put .. | .get .. | .slice .. | .counterAdd _ => false))

/-- NRED (R452, R454). -/
def execNred (f : Bool) (d a b : Reg) (p : PBlock) (s : State) : Out :=
  let c := s.co
  let die := dieOf c.core
  let rem := (c.ugetPair d).toNat
  let loc := (c.ugetPair a).toNat
  let r := (c.uget b).toNat
  let n := c.sub p.h0
  let rctr := c.sub p.h1
  let coll := c.sub p.h4
  let h7 := p.h7.toNat
  let ty : BitVec 2 := BitVec.ofNat 2 (h7 / 4)
  let op : BitVec 2 := BitVec.ofNat 2 (h7 / 16)
  let len := n * redSize ty
  match misalignedOf 16 [(loc, .read), (rem, .write)] [] with
  | some e => .next (s.raise e)
  | none =>
    let ok := decide (1 ≤ n) && decide (n ≤ 2 ^ 24) && len % 16 == 0 && ctrsOk rctr p.h2.toNat (c.sub p.h3) && p.h5 == 0 &&
      p.h6 == 0 && h7 / 128 == 0 && op != 3 && decide (coll < 65536)
    let rs : List Rg := [{ grp := 0, share := false, va := loc, len := len, wr := false }]
    match checkRanges s c { bad05 := !ok, no01 := false, never := true, late := false, mid := s.rankFault die c.ctx [r] } rs with
    | (t, .error e) => .next (t.raise e)
    | (t, .ok ps) =>
      let blk := t.fab die c.ctx
      match t.rankOf blk r with
      | .error e => .next (t.raise e)
      | .ok k =>
        let out := t.redOut die c.ctx coll r
        if 64 ≤ out.length then .next (s.waitFor (out.head?.bind s.fabNext))
        else
          let ps := ps.flatten
          let key := coll * 2 ^ 18 + r
          let seqn := Tab.get 0 blk.redNext key
          let took (t : State) : State := t.modFab die c.ctx (fun b => { b with redNext := Tab.put b.redNext key (seqn + 1) })
          s.acceptFab (took t) f (claimsOf c rs) ps (fun t e =>
            { e with
              code := 4, tag := c.sub p.h3, rank := r, lctr := p.h2.toNat, recd := flagRec h7, ord := flagOrd h7, bytes := len
              poison := t.netMark ps
              msgs := [t.netMsg blk c.ctx e.id k (flagOrd h7) rctr 1
                (.reduce rem ty op (h7 / 64 % 2 == 1) coll [(blk.rank, seqn)] blk.inr false (t.pieceBytes ps))] })

/-! ## Messages at their target (R446, R448, R449, R452, R454) -/

/-- What a message comes to: it ends with a status, an overflow at a hop, what a get read and the lines that it wrote; it waits for a
REPLAY_ALL of its target; or it is tried again later. -/
inductive NetRes where
  | ended (status : Nat) (hop : Bool) (reply : List Byte) (lines : List Nat)
  | held
  | later (behind : Option Nat)
  deriving DecidableEq, Repr

/-- It ends with a status and nothing else. -/
def NetRes.refused (status : Nat) : NetRes := .ended status false [] []

/-- A failed translation at a target (R446). A reduction reads and writes (R356). -/
def State.netFault (s : State) (m : NetMsg) (f : FaultInfo) : State × NetRes :=
  let f := match m.op with
    | .reduce .. => { f with rd := true }
    | .put .. | .get .. | .slice .. | .counterAdd _ => f
  let r := { FaultRec.blank m.ctx (s.ctx m.ctx).tenant f.cause f.sub with
    addr := f.addr, paddr := f.paddr, flags := (engFault f).flags false false }
  if f.cause = causeNotPresent then (s.report m.die r, .held)
  else if f.cause = causePoison then (s.killWith r [], .later none)
  else if f.cause = causeLongLatency then (s, .later none)
  else (s, .refused 1)

/-- Poison that a message would read or merge into ends the target context (R368): its sector and the address of the first byte there. -/
def State.netPoison (s : State) (m : NetMsg) (sub : Nat) (at_ : Nat × Nat) (rd wr : Bool) : State × NetRes :=
  (s.killWith { FaultRec.blank m.ctx (s.ctx m.ctx).tenant causePoison sub with
    paddr := at_.1, addr := at_.2, flags := (if rd then 1 else 0) + (if wr then 2 else 0) + 8 } [], .later none)

/-- A message's range at its target: at user privilege, on a page that is neither a device's nor strongly ordered; its bytes are
not those of an accepted command. -/
def State.netRange (s : State) (m : NetMsg) (k : AccessKind) (va len : Nat) (go : State → List Piece → State × NetRes) : State × NetRes :=
  if k = .write && s.spillHit m.ctx va len then (s, .refused 1)
  else match netPieces m.ctx k (pageCount va len) va len s with
    | (s, .error f) => s.netFault m f
    | (s, .ok ps) =>
      if (orderedOf [ps]).isSome then (s, .refused 1)
      else match s.owned ps with
        | some cmd => (s, .later (some cmd))
        | none => go s ps

/-- The bytes that a message writes at its target, and then its counter (R448). -/
def State.netStore (s : State) (m : NetMsg) (ps : List Piece) (bytes : List Byte) (hop : Bool) (then_ : State → State) : State × NetRes :=
  let cells := (piecePas ps).zip bytes
  match s.poisonMerge cells with
  | some p => s.netPoison m 2 (p, mapVa (pieceMap ps) p) false true
  | none => (then_ (s.writeBy (some (m.srcModule, m.cmd)) cells), .ended 0 hop [] (linesOf cells))

/-- A message is performed at its target: the job first, then the context's state, then its bytes, then its counter. -/
def State.perform (s : State) (m : NetMsg) : State × NetRes :=
  let b := s.fab m.die m.ctx
  let x := (s.ctx m.ctx).state
  let count (s : State) (add : Word) : State := s.addCtr m.die m.ctx m.rctr add
  let rise (s : State) : State := count s (BitVec.ofNat 32 m.rctrAdd)
  if m.job.toNat != b.job then (s, .refused 2)
  else if x != .running && x != .preempting && x != .preempted && x != .stopping then (s, .refused 2)
  else match m.op with
    | .put dst bytes => s.netRange m .write dst bytes.length (fun s ps => s.netStore m ps bytes false rise)
    | .slice dst rows cdst n => s.netRange m .write dst rows.length (fun s ps =>
        s.netRange m .write cdst 4 (fun s qs =>
          s.netStore m (ps ++ qs) (rows ++ natLe 4 n) false rise))
    | .get src len => s.netRange m .read src len (fun s ps =>
        match s.netMark ps with
        | some p => s.netPoison m 5 p true false
        | none => (rise s, .ended 0 false (s.pieceBytes ps) []))
    | .reduce dst ty op sat coll parts _ hop bytes =>
      if parts.any (b.seen coll) then
        (s.modFab m.die m.ctx (fun b => { b with dups := (b.dups + 1) % 2 ^ 32 }), .refused 0)
      else s.netRange m .write dst bytes.length (fun s ps =>
        match s.netMark ps with
        | some p => s.netPoison m 1 p true true
        | none =>
          let r := redBytes ty op sat (s.pieceBytes ps) bytes
          s.netStore m ps r.1 (hop || r.2) (fun s =>
            rise (s.modFab m.die m.ctx (fun b => parts.foldl (fun b p => b.note coll p) b))))
    | .counterAdd v => (count s v, .refused 0)

/-- Whether message n of a command of this module waits for another one (R448, R462): an ordered command to the same rank
that its cohort, or its context's triggers, issued before; or its own earlier message to that rank. -/
def State.msgBehind (s : State) (f : FabCmd) (n : Nat) : Bool :=
  match f.msgs[n]? with
  | none => false
  | some m =>
    f.ord && ((s.fcmds.takeWhile (fun g => g.id != f.id)).any (fun g =>
      g.ord && g.die == f.die && g.ctx == f.ctx && g.co == f.co && g.msgs.any (fun q => q.rank == m.rank && !q.done)) ||
    (f.msgs.take n).any (fun q => q.rank == m.rank && !q.done))

/-- The message of a command of this module that a packet is: the first that stands to be performed. -/
def State.outOf (s : State) (m : NetMsg) : Option (FabCmd × Nat) :=
  s.fcmds.findSome? (fun f => ((List.range f.msgs.length).find? (fun n =>
    (f.msgs[n]?).any (fun q => q.msg == m && q.module == s.fabMod && !q.done && !q.held && s.getsThrough f q) &&
    !s.msgBehind f n)).map (fun n => (f, n)))

/-- Changes message n of a fabric command. -/
def State.modMsg (s : State) (cmd n : Nat) (g : OutMsg → OutMsg) : State :=
  { s with fcmds := s.fcmds.map (fun (f : FabCmd) => if f.id = cmd then
      { f with msgs := (f.msgs.zip (List.range f.msgs.length)).map (fun (x : OutMsg × Nat) => if x.2 = n then g x.1 else x.1) } else f) }

/-- A reduction that overflowed at the target: what it merged with there carries OVERFLOW_HOP too, so the contributions of the same collective
to the same bytes whose commands have not completed are marked with it (R454; log entry 83). -/
def State.spreadHop (s : State) (m : NetMsg) : State :=
  match m.op with
  | .reduce dst _ _ _ coll _ _ _ bytes =>
    let same (q : OutMsg) : Bool := match q.msg.op with
      | .reduce d _ _ _ k _ _ _ bs => k == coll && decide (d < dst + bytes.length) && decide (dst < d + bs.length)
      | .put .. | .get .. | .slice .. | .counterAdd _ => false
    { s with fcmds := s.fcmds.map (fun (f : FabCmd) => { f with msgs := f.msgs.map (fun q =>
        if q.done && q.status = 0 && q.module = s.fabMod && q.msg.die = m.die && q.msg.ctx = m.ctx && same q then { q with hop := true }
        else q) }) }
  | .put .. | .get .. | .slice .. | .counterAdd _ => s

/-- The contributions of this module's own that a merged one contains are acknowledged with it (R453, R454). -/
def State.ackParts (s : State) (m : NetMsg) (status : Nat) (hop : Bool) (lines : List Nat) : State :=
  match m.op with
  | .reduce _ _ _ _ coll parts _ _ _ =>
    let mine (q : OutMsg) : Bool := q.module == s.fabMod && !q.done && q.msg.die == m.die && q.msg.ctx == m.ctx && q.msg.job == m.job &&
      match q.msg.op with
      | .reduce _ _ _ _ k ps inr _ _ => inr && k == coll && ps.all parts.contains
      | .put .. | .get .. | .slice .. | .counterAdd _ => false
    { s with fcmds := s.fcmds.map (fun (f : FabCmd) => { f with msgs := f.msgs.map (fun q =>
        if mine q then { q with done := true, status := status, hop := hop, lines := lines } else q) }) }
  | .put .. | .get .. | .slice .. | .counterAdd _ => s

/-- A packet or keepalive of another module has been delivered (R460). -/
def State.hear (s : State) (module : Nat) : State := { s with heard := Tab.put s.heard module s.timer }

/-- What a target knows of a message's stream. -/
def FabBlk.stream (b : FabBlk) (m : NetMsg) : RxStream :=
  (b.rx.find? (fun r => r.module == m.srcModule && r.rank == m.srcRank && r.stream == m.stream && r.ord == m.ordered)).getD
    { module := m.srcModule, rank := m.srcRank, stream := m.stream, ord := m.ordered, next := 0, done := [], held := [] }
def FabBlk.setStream (b : FabBlk) (r : RxStream) : FabBlk :=
  { b with rx := r :: b.rx.filter (fun x => !(x.module == r.module && x.rank == r.rank && x.stream == r.stream && x.ord == r.ord)) }
/-- The least number from n up that is not among some. -/
def firstFree (l : List Nat) : Nat → Nat → Nat
  | 0, n => n
  | f + 1, n => if l.contains n then firstFree l f (n + 1) else n
/-- A message of a stream has been performed or refused. -/
def RxStream.take (r : RxStream) (n : Nat) : RxStream :=
  let done := n :: r.done
  let next := firstFree done done.length r.next
  { r with next := next, done := done.filter (fun x => decide (next ≤ x)), held := r.held.filter (fun x => x != n) }
/-- Whether a message may be performed now: it is no retransmission of one that has been, or that is held, and an ordered one is the next of
its stream (R446, R448). -/
def RxStream.admits (r : RxStream) (n : Nat) : Bool :=
  decide (r.next ≤ n) && !r.done.contains n && !r.held.contains n && (!r.ord || n == r.next)

/-- Packets that the Charabanc discards: unreliable and idempotent ones, those that fail authentication with the key bound now, and merged
contributions that no reducer was to merge (R440, R441, R453). -/
def State.discards (s : State) (m : NetMsg) : Bool :=
  m.kind == .uud || m.kind == .rudi || !s.unlocks m.ctx m.key ||
  match m.op with
  | .reduce _ _ _ _ _ parts inr _ _ => decide (1 < parts.length) && !inr
  | .put .. | .get .. | .slice .. | .counterAdd _ => false

/-- FABRIC_PACKET_RECEIVE (R441, R446). A packet of this module's own is one of its commands' messages; any other comes from
outside. One that fails authentication is discarded. -/
def execFabricPacketReceive (m : NetMsg) (s : State) : Out :=
  if m.srcModule = s.fabMod ∧ m.stream = 0 then
    match s.outOf m with
    | none => .next s
    | some (f, n) =>
      match s.perform m with
      | (t, .ended st hop reply lines) =>
        let t := t.modMsg f.id n (fun q => { q with done := true, status := st, hop := hop, reply := reply, lines := lines })
        .next (if hop then t.spreadHop m else t)
      | (t, .held) => .next (t.modMsg f.id n (fun q => { q with held := true }))
      | (t, .later (some cmd)) => .next (t.waitFor (t.cmdNext cmd))
      | (t, .later none) => .next t
  else if s.discards m then .next s
  else
    let s := s.hear m.srcModule
    let r := (s.fab m.die m.ctx).stream m
    let know (t : State) (r : RxStream) : State := t.modFab m.die m.ctx (fun b => b.setStream r)
    if !r.admits m.number then .next s
    else match s.perform m with
      | (t, .ended st hop _ lines) =>
        let t := (know t (r.take m.number)).ackParts m st hop lines
        .next (if hop then t.spreadHop m else t)
      | (t, .held) => .next (know t { r with held := m.number :: r.held })
      | (t, .later _) => .next t

/-! ## Completion (R447) -/

/-- The bytes that a message performs at its destination. -/
def OutMsg.size (m : OutMsg) : Nat := match m.msg.op with
  | .put _ bs => bs.length
  | .get _ n => n
  | .slice _ rows _ _ => rows.length + 4
  | .reduce _ _ _ _ _ _ _ _ bs => bs.length
  | .counterAdd _ => 0

/-- The bytes of the messages to other modules that a target performed, when a target refused at least one or failed to translate it
(R446, R447): which of several they were comes from outside. -/
def State.otherBytes (s : State) (out : List OutMsg) : Nat :=
  let bad := s.choose 8803 out.length
  ((List.range out.length).filter (fun i => i != bad && s.pick (8810 + i))).foldl (fun n i => n + ((out[i]?).map OutMsg.size).getD 0) 0

/-- FABRIC_COMMAND_COMPLETE (R447): every message to this module has been performed; status, hop and bytes say what the messages to
other modules came to. The fires that waited for a line of an accepted command are tried again. -/
def execFabricCommandComplete (cmd : Nat) (status : Byte) (hop : Bool) (bytes : List Byte) (s : State) : Out :=
  let again (s : State) : State := s.fabs.foldl (fun s e => if e.2.waiting.isEmpty then s else s.refire (e.1 / 64) (e.1 % 64) false) s
  match s.fcmds.find? (fun f => f.id == cmd) with
  | none => .next (again s)
  | some f =>
    let mine := f.msgs.filter (fun m => m.module == s.fabMod)
    let out := f.msgs.filter (fun m => m.module != s.fabMod)
    let dead := mine.any (fun m => !m.done && !s.getsThrough f m)
    let gets := out.any (fun m => match m.msg.op with
      | .get .. => true
      | .put .. | .slice .. | .reduce .. | .counterAdd _ => false)
    let st := status.toNat
    if f.poison.isSome then .next (again (s.fabEnd f 0 0 false []))
    else if 3 < st || mine.any (fun m => !m.done && s.getsThrough f m) || (dead && st != 3) ||
        (out.isEmpty && !dead && (st != 0 || hop)) || (gets && st = 0 && bytes.length != f.lpas.length) then .next s
    else
      let own := ((mine.filter (fun m => m.done && m.status != 0)).head?.map OutMsg.status).getD 0
      let final := if st != 0 then st else own
      let sum (l : List OutMsg) : Nat := l.foldl (fun n m => n + m.size) 0
      let sent := sum (mine.filter (fun m => m.done && m.status == 0)) +
        (if st = 0 then sum out else if st = 3 then s.choose 8800 (sum out + 1) else s.otherBytes out)
      let data := if gets then bytes else mine.flatMap OutMsg.reply
      .next (again (s.fabEnd f final sent (hop || mine.any OutMsg.hop) data))

/-! ## Keepalives and the loss of peers (R441, R460) -/

/-- KEEPALIVE (R460): one of a module has arrived. -/
def execKeepalive (module : Nat) (s : State) : Out := .next (s.hear module)

/-- 100 ms of the package timer (R197, R460). -/
def lostAfter : Nat := 10000000
/-- The mark of a module that has been declared lost. -/
def lostMark : Nat := 2 ^ 64

/-- The ranks of a block's table that lie on a module. -/
def State.ranksOn (s : State) (b : FabBlk) (module : Nat) : List Nat :=
  (List.range b.nranks).filter (fun r => let e := s.readN (b.ranktab + 8 * r) 8; e / 2 ^ 63 == 1 && bitsOf e 0 15 == module)

/-- PEER_LOST (R460): nothing of a module has been delivered for 100 ms. Which of several ranks of the module is declared lost first
is open (log entry 15). Its transport paths are reset, and its streams begin anew (R461). -/
def execPeerLost (module : Nat) (s : State) : Out :=
  let last := Tab.get 0 s.heard module
  if module = s.fabMod || s.timer < last + lostAfter then .next s
  else
    let s := { s with heard := Tab.put s.heard module lostMark }
    let hit (f : FabCmd) : Bool := f.msgs.any (fun m => m.module == module && !m.done)
    let s := (s.fcmds.filter hit).foldl (fun s f =>
      let sum (l : List OutMsg) : Nat := l.foldl (fun n m => n + m.size) 0
      let done := f.msgs.filter (fun m => m.done && m.status == 0)
      s.fabEnd f 3 (sum done + s.choose 8801 (sum (f.msgs.filter (fun m => m.module != s.fabMod)) + 1)) false []) s
    let s := { s with fabs := s.fabs.map (fun (e : Nat × FabBlk) => (e.1, { e.2 with rx := e.2.rx.filter (fun r => r.module != module) })) }
    .next (s.fabs.foldl (fun s e =>
      let b := s.fab (e.1 / 64) (e.1 % 64)
      let rs := s.ranksOn b module
      if rs.isEmpty then s
      else
        let first := rs.getD (s.choose 8802 rs.length) 0
        (s.modFab (e.1 / 64) (e.1 % 64) (fun b =>
          { b with lost := true, lostRank := if b.lost then b.lostRank else first })).ctxMsi (e.1 % 64)) s)

/-- RETRANSMISSION (R441): a message of this module to itself that has not been performed is delivered again; what another module
receives is its own affair. -/
def execRetransmission (cmd : Nat) (s : State) : Out :=
  match (s.fcmds.find? (fun f => f.id == cmd)).bind (fun f => f.msgs.find? (fun m => !m.done && !m.held && m.module == s.fabMod)) with
  | some m => .next (s.soon (.fabricPacketReceive m.msg))
  | none => .next s

/-! ## Counter instructions (R455, R456) -/

/-- A counter index in a register (R455). -/
def State.ctrHere (s : State) (b : Reg) (k : Nat → Out) : Out :=
  let n := (s.co.uget b).toNat
  if noCtr ≤ n then .next (s.raise (engFault (flt causeCopyRange 5))) else k n

/-- CTRSET and CTRADD (R456). -/
def State.ctrWrite (s : State) (f : Bool) (a b : Reg) (add : Bool) : Out :=
  let c := s.co
  s.ctrHere b (fun n =>
    let die := dieOf c.core
    let s := s.release c .pkg
    let v := c.uget a
    let (_, s) := s.startOp .store (c.flagOf f) [] []
    let s := if add then s.addCtr die c.ctx n v else s.setCtr die c.ctx n v
    .next (s.lane id 1))
def execCtrset (f : Bool) (a b : Reg) (s : State) : Out := s.ctrWrite f a b false
def execCtradd (f : Bool) (a b : Reg) (s : State) : Out := s.ctrWrite f a b true

/-- CTRRD (R456). -/
def execCtrrd (d b : Reg) (s : State) : Out :=
  let c := s.co
  s.ctrHere b (fun n =>
    let v := Tab.get 0 (s.fab (dieOf c.core) c.ctx).ctrs n
    let s := s.acquire c .pkg
    let ws := (c.keysOf d c.livel).map (fun k => (k, v))
    let (_, s) := s.startOp .load none (ws.map Prod.fst) ws
    .next (s.lane id 1))

/-! ## TRIGARM (R457, R458) -/

/-- A trigger record and the parts of it that must be 0. -/
structure TrigRec where
  t    : Trigger
  zero : Bool
  deriving DecidableEq, Repr

/-- The record that 64 bytes give. -/
def TrigRec.of (bs : List Byte) (lid : Nat) : TrigRec :=
  { t := { op := le bs 0 1, ord := le bs 1 1 % 2 == 1, recd := le bs 1 1 / 2 % 2 == 1, ctr := le bs 2 2
           thr := BitVec.ofNat 32 (le bs 4 4), rank := le bs 8 4, len16 := le bs 12 4, rctr := le bs 16 2, lctr := le bs 18 2
           tag := le bs 20 2, loc := le bs 24 8, rem := le bs 32 8, lid := lid }
    zero := le bs 1 1 / 4 == 0 && le bs 22 2 == 0 && le bs 40 24 == 0 }

/-- Whether every field of a record is valid (R457, R462). -/
def TrigRec.ok (r : TrigRec) : Bool :=
  let t := r.t
  let glob := match windowOf t.loc with
    | .glob => true
    | .loc _ | .onchip _ => false
  r.zero && decide (t.op ≤ 3) && decide (t.ctr < 4096) && decide (t.rctr ≤ noCtr) && decide (t.lctr ≤ noCtr) &&
  (if t.op ≤ 1 then decide (1 ≤ t.len16) && decide (t.len16 ≤ 2 ^ 26) && glob
   else if t.op = 2 then t.len16 == 0 && t.rctr != noCtr && t.loc == 0
   else t.len16 == 0 && t.loc % 8 == 0 && glob && t.rem == 0)

/-- The checks of an arm, in the order of R445. -/
def State.armFault (s : State) (die ctx : Nat) (r : TrigRec) : Option FaultInfo :=
  let t := r.t
  let kind : AccessKind := if t.op = 0 then .read else .write
  firstOf
    [if t.op ≤ 1 then misalignedOf 16 [(t.loc, kind), (t.rem, if t.op = 0 then .write else .read)] [] else none,
     if t.op ≤ 1 then straddleOf [{ grp := 0, share := false, va := t.loc, len := 16 * t.len16, wr := t.op == 1 }] else none,
     if r.ok then none else some (fabFault 3),
     s.rankFault die ctx (if t.op < 3 then [t.rank] else [])]

/-- TRIGARM (R457, R458). A context that is being stopped fires no trigger (R362, R459): one that has reached its threshold is armed then, and
tested again at RESUME. -/
def execTrigarm (f : Bool) (d a : Reg) (s : State) : Out :=
  let c := s.co
  let die := dieOf c.core
  let va := (c.ugetPair a).toNat
  if va % 64 != 0 then .next (s.raise (engFault (fltAt causeMisaligned 0 va .read)))
  else match resolve s c va 64 .read 4200 with
    | (t, .error e) => .next (t.raise (engFault e))
    | (t, .ok r) =>
      match t.heldBy r.pas false with
      | some cmd => .next (s.waitCmd cmd)
      | none =>
        match t.poisonOf r.pas with
        | some p => .next (t.raise { engFault (fltAt causePoison 5 (va + p.1) .read) with paddr := p.2 })
        | none =>
          let (t, bs) := t.fetchBytes c .plain r 4201
          let q := TrigRec.of bs c.launchid.toNat
          match t.armFault die c.ctx q with
          | some e => .next (t.raise e)
          | none =>
            let b := t.fab die c.ctx
            let fires := t.firing c.ctx && decide (q.t.thr.toNat ≤ (Tab.get 0 b.ctrs q.t.ctr).toNat)
            let full := decide (1024 ≤ b.trigs.length)
            let st : Word := if fires then 1 else if full then 2 else 0
            let t := if fires then t.fireNow die c.ctx q.t
              else if full then t
              else t.modFab die c.ctx (fun b => { b with trigs := b.trigs ++ [q.t] })
            let ws := (c.keysOf d c.livel).map (fun k => (k, st))
            let (_, t) := t.startOp .load (c.flagOf f) (ws.map Prod.fst) ws
            .next (t.lane id 1)

end Sys2Proof.Machine
end

