-- ==== Sys2Proof/Machine/Matrix.lean ====
section
/-!
DEFINITION. The bit-serial matrix array and the weight residencies (R238 to R283): handles, loads, refreshes and rebuilds, the
grouped multiply and the order of its sums, the accumulator store, scales, and the array queue.
-/

namespace Sys2Proof.Machine

/-! ## Handles and descriptors -/

/-- The core whose descriptors and queue a cohort's matrix commands use: the leader of a pair (R251). -/
def Cohort.lead (c : Cohort) : Nat := if c.pair then c.core - c.core % 2 else c.core
/-- A cohort that runs on the follower of its team's pair (R263). -/
def Cohort.follows (c : Cohort) : Bool := c.pair && c.core % 2 == 1
/-- RESIDENCY_HANDLE. -/
def handleFault (sub : Nat) : FaultInfo := engFault (flt causeHandle sub)

/-- The descriptor that a handle names for a context on a core (R251). -/
def State.named (s : State) (core ctx h : Nat) : Option (Nat × Residency) :=
  let idx := h % 16
  let r := Tab.get Residency.init (s.core core).res idx
  if r.state != .free && h / 16 % 4096 != 0 && r.serial == h / 16 % 4096 && r.ctx == ctx then some (idx, r) else none

/-- Changes a descriptor. -/
def State.modRes (s : State) (core idx : Nat) (f : Residency → Residency) : State :=
  s.modCore core (fun k => { k with res := Tab.put k.res idx (f (Tab.get Residency.init k.res idx)) })

/-- Whether a command of the array queue names a descriptor (R253, R270). -/
def MtxCmd.uses (idx : Nat) (m : MtxCmd) : Bool :=
  match m.kind with
  | .resl i _ _ _ _ _ _ _ _ => i == idx
  | .mma _ _ _ _ _ _ _ gs => gs.any (fun g => g.1 == idx && g.2 != 0)

/-- Slot bits of a residency (R248). -/
def Residency.lo (r : Residency) : Nat := r.width * r.s
/-- The residencies whose cells lie in a core's array (R239). -/
def State.inArray (s : State) (core : Nat) : List Residency :=
  let own := (s.core core).res.map Prod.snd
  let lead := if core % 2 = 1 then ((s.core (core - 1)).res.map Prod.snd).filter Residency.pair else []
  (own ++ lead).filter (fun r => r.state != .free)
/-- Whether a slot is free in a core's array (R258). -/
def State.slotFree (s : State) (core : Nat) (r : Residency) : Bool :=
  (s.inArray core).all (fun q => decide (q.lo + q.width ≤ r.lo) || decide (r.lo + r.width ≤ q.lo))

/-- RESA (R268). -/
def execResa (d a : Reg) (s : State) : Out :=
  let c := s.co
  let q := (c.uget a).toNat
  let r : Residency := { Residency.init with
    state := .empty, ctx := c.ctx, tenant := c.tenant, fmt := q % 16, s := bitsOf q 4 4, policy := bitsOf q 8 1 == 1
    pair := bitsOf q 9 1 == 1 }
  if c.follows then .next (s.raise (handleFault 4))
  else if 10 ≤ r.fmt || decide (64 / r.width ≤ r.s) || (r.pair && !c.pair) || q / 2 ^ 10 != 0 then
    .next (s.raise (handleFault 3))
  else if !(s.slotFree c.lead r && (!r.pair || s.slotFree (c.lead + 1) r)) then .next (s.raise (engFault (flt causeQuota 2)))
  else
    let res := (s.core c.lead).res
    match (List.range 16).find? (fun i => (Tab.get Residency.init res i).state = .free) with
    | none => .next (s.raise (engFault (flt causeQuota 3)))
    | some i =>
      let serial := (Tab.get Residency.init res i).serial % 4095 + 1
      let s := s.modRes c.lead i (fun _ => { r with serial := serial })
      .next (s.lane (fun c => c.uniform d (BitVec.ofNat 32 (serial * 16 + i))) 1)

/-- RESPIN with field 1 (R257, R269). -/
def execRespin (a : Reg) (s : State) : Out :=
  let c := s.co
  if c.follows then .next (s.raise (handleFault 4))
  else match s.named c.lead c.ctx ((c.uget a).toNat % 65536) with
    | none => .next (s.raise (handleFault 1))
    | some (i, r) =>
      let t := s.ten r.tenant
      if r.pinned then .next (s.lane id 1)
      else if t.quota < t.used + r.units then .next (s.raise (engFault (flt causeQuota 1)))
      else
        let s := s.setTen r.tenant { t with used := t.used + r.units }
        .next ((s.modRes c.lead i (fun r => { r with pinned := true })).lane id 1)

/-- RESPIN with field 0 (R269). -/
def execRespinUnpin (a : Reg) (s : State) : Out :=
  let c := s.co
  if c.follows then .next (s.raise (handleFault 4))
  else match s.named c.lead c.ctx ((c.uget a).toNat % 65536) with
    | none => .next (s.raise (handleFault 1))
    | some (i, r) =>
      if r.pinned then
        let t := s.ten r.tenant
        let s := s.setTen r.tenant { t with used := t.used - r.units }
        .next ((s.modRes c.lead i (fun r => { r with pinned := false })).lane id 1)
      else .next (s.lane id 1)

/-- RESREL (R270). -/
def execResrel (a : Reg) (s : State) : Out :=
  let c := s.co
  if c.follows then .next (s.raise (handleFault 4))
  else match s.named c.lead c.ctx ((c.uget a).toNat % 65536) with
    | none => .next (s.raise (handleFault 1))
    | some (i, _) =>
      if (s.core c.lead).mq.any (MtxCmd.uses i) then .next (s.waitFor (s.mqNext c.lead))
      else .next ((s.freeResidency c.lead i).lane id 1)

/-- State codes of R253. -/
def ResState.code : ResState → Nat
  | .free => 0
  | .empty => 1
  | .loading => 2
  | .valid => 3
  | .stale => 4
  | .evicted => 5
/-- Word 0 of RESQ (R271). -/
def Residency.word0 (r : Residency) (h : Nat) : Nat :=
  let b (x : Bool) : Nat := if x then 1 else 0
  let st := if (r.state = .valid || r.state = .stale) && r.gsrc != r.gload then 4 else r.state.code
  let blc := if r.bl = 16 then 1 else if r.bl = 32 then 2 else if r.bl = 64 then 3 else 0
  h * 2 ^ 16 + blc * 2 ^ 14 + r.fmt * 2 ^ 10 + r.s * 2 ^ 6 + b r.pair * 32 + b r.pinned * 16 + b r.policy * 8 + st

/-- RESQ (R271, R272). -/
def execResq (d a : Reg) (s : State) : Out :=
  let c := s.co
  let h := (c.uget a).toNat % 65536
  let put (s : State) (w0 w1 w2 w3 : Word) : Out :=
    .next (s.lane (fun c => (((c.uniform d w0).uniform (d + 1) w1).uniform (d + 2) w2).uniform (d + 3) w3) 1)
  if h / 16 = 0 then
    let k := s.core c.core
    if k.claim = some c.ctx then put (s.setCore c.core { k with mstat := 0 }) (BitVec.ofNat 32 k.mstat) 0 0 0
    else put s 0 0 0 0
  else match s.named c.lead c.ctx h with
    | none => put s 0 0 0 0
    | some (i, r) =>
      if (s.core c.lead).mq.any (fun m => m.co == c.id && m.uses i) then .next (s.waitFor (s.mqNext c.lead))
      else put s (BitVec.ofNat 32 (r.word0 h)) r.gload r.refreshes r.rebuilds

/-! ## The matrix claim (R245) -/

/-- Whether another context holds a core's claim. -/
def State.claimed (s : State) (core ctx : Nat) : Bool :=
  match (s.core core).claim with
  | some x => x != ctx
  | none => false
/-- Takes a core's claim: both stores and the status word are set to 0 when it was free. -/
def State.takeClaim (s : State) (core ctx : Nat) : State :=
  if (s.core core).claim.isSome then s
  else
    let s := s.clearRange (slotAddr core accOffset) (slotAddr core (accOffset + 0x20000))
    let s := s.clearRange (slotAddr core scaleOffset) (slotAddr core (scaleOffset + 0x4000))
    s.modCore core (fun k => { k with claim := some ctx, mstat := 0 })

/-! ## Checks (R266) -/

/-- Rows 4 and 7 for the ranges of a matrix command: the pieces of each range. Its reads are ordinary loads, so the conditions on
copies between local ranges and on ordered pages are not among them. -/
def checkReads (s : State) (c : Cohort) (rs : List Rg) : State × Except FaultInfo (List (List Piece)) :=
  match firstOf [straddleOf rs, beyondOf s c rs, remoteOf s c false rs] with
  | some f => (s, .error f)
  | none => allPieces c rs s

/-- Whether a run of scratchpad bytes leaves the share (row 4). -/
def Cohort.outside (c : Cohort) (off len : Nat) : Bool := decide (c.shareSize < off + len)

/-- Page formats that a residency format accepts (R274). -/
def fmtAccepts (fmt efmt bgeo : Nat) : Bool :=
  match fmt with
  | 0 | 1 | 2 | 3 => efmt == fmt + 4 && decide (1 ≤ bgeo)
  | 4 | 5 => efmt == 8 && decide (2 ≤ bgeo)
  | 6 => efmt == 9 && decide (1 ≤ bgeo)
  | 7 => efmt == 10 && decide (2 ≤ bgeo)
  | 8 => efmt == 2 && bgeo == 0
  | 9 => efmt == 3 && bgeo == 0
  | _ => false

/-- The first source element of a tile column (R273). -/
def tileJ (v : FView) (n0 k0 n : Nat) : Nat := (n0 + n) * (if v.rowlen = 0 then 256 else v.rowlen) + k0
/-- Columns of a tile (R239). -/
def Residency.cols (r : Residency) : Nat := if r.pair then 512 else 256
/-- The view that a residency records (R252). -/
def Residency.view (r : Residency) : FView := { ebase := r.ebase, sbase := r.sbase, rowlen := r.rowlen, spitch := r.spitch, rsv := 0 }

/-- Pieces as physical addresses, lengths and virtual addresses. -/
def pieceRuns (ps : List Piece) : List (Nat × Nat × Nat) := ps.map (fun p => (p.pa, p.len, p.va))

/-- What translating a source gives: where it lies, its pages and its block length. -/
structure SrcRead where
  src   : MtxSrc
  pages : List Nat
  bl    : Nat
  deriving DecidableEq, Repr

/-- Row 7 for the source of a residency (R264, R273 to R275): elements, then scale records; and what row 8 says of it. An odd sbase of the view
is MISALIGNED before any of them is translated (log entry 77). -/
def State.transSource (s : State) (c : Cohort) (idx : Nat) (r : Residency) (v : FView) (n0 k0 : Nat) :
    State × Except FaultInfo (SrcRead × Option FaultInfo) :=
  let ek := (mfmt r.fmt).getD .b16
  let fmtErr (sub : Nat) : FaultInfo := engFault (fltAt causeFormat sub v.ebase .read)
  let rsv := if v.rsv = 0 then none else some (fmtErr 7)
  if ek.block && v.sbase % 2 = 1 then (s, .error (engFault (fltAt causeMisaligned 0 v.sbase .read)))
  else match windowOf v.ebase with
    | .loc _ | .onchip _ =>
      (s, .ok ({ src := { idx := idx, near := [], so := false, cols := [], recs := [] }, pages := [], bl := r.bl }, some (rsv.getD (fmtErr 3))))
    | .glob =>
      match s.viewAttr c v .read with
      | (s, .error f) => (s, .error (engFault f))
      | (s, .ok (efmt, bgeo)) =>
        let bl := blOf bgeo
        let js := (List.range r.cols).map (tileJ v n0 k0)
        let bad := ek.block && bgeo != 0 && scaleBad v bl
        let els := js.map (fun j => elemRg v ek 1 j 256)
        let scs := if ek.block && bgeo != 0 then (js.flatMap (fun j => scaleRgs v bl 2 j 256)) else []
        match checkReads s c (els ++ scs) with
        | (s, .error f) => (s, .error f)
        | (s, .ok ps) =>
          let ep := ps.take r.cols
          let sp := ps.drop r.cols
          let wrong := attrsOf efmt bgeo ep.flatten ++ (attrBad efmt bgeo).toList ++ (if bad then [4] else [])
          let all := ep.flatten ++ sp.flatten
          (s, .ok ({ src := { idx := idx, near := nearRuns all, so := all.any (fun p => p.leaf.any Leaf.so)
                              cols := ep.map pieceRuns, recs := (scs.map Rg.va).zip (sp.map pieceRuns) }
                     pages := piecePages all, bl := bl },
                   firstOf [rsv, (leastOf wrong).map fmtErr, if fmtAccepts r.fmt efmt bgeo then none else some (fmtErr 8)]))

/-- Rows 7 and 8 for the source of a RESL. -/
def State.readSource (s : State) (c : Cohort) (idx : Nat) (r : Residency) (v : FView) (n0 k0 : Nat) :
    State × Except FaultInfo SrcRead :=
  match s.transSource c idx r v n0 k0 with
  | (s, .error f) | (s, .ok (_, some f)) => (s, .error f)
  | (s, .ok (q, none)) => (s, .ok q)

/-! ## Loads, refreshes and rebuilds (R250, R256, R260, R275) -/

def State.runBytes (s : State) (rs : List (Nat × Nat × Nat)) : List Byte := rs.flatMap (fun r => s.bytes r.1 r.2.1)
/-- The first poisoned sector that some runs touch as a core's array reads them, and the address of their first byte there. -/
def State.runPoison (s : State) (core : Nat) (rs : List (Nat × Nat × Nat)) : Option (Nat × Nat) :=
  if s.unmarked then none
  else rs.findSome? (fun r =>
    ((List.range ((r.1 % 16 + r.2.1 + 15) / 16)).find? (fun i => s.clMark (clusterOf core) (r.1 / 16 + i))).map (fun i =>
      (16 * (r.1 / 16 + i), r.2.2 + (16 * (r.1 / 16 + i) - r.1))))

/-- The element codes of a source, at n * 256 + k; codes of 0 are not listed. -/
def State.loadCodes (s : State) (ek : EKind) (v : FView) (n0 k0 : Nat) (src : MtxSrc) : Tab Nat :=
  (src.cols.zip (List.range src.cols.length)).flatMap (fun x =>
    let bs := s.runBytes x.1
    let j0 := tileJ v n0 k0 x.2
    (List.range 256).filterMap (fun k =>
      let code := codeIn ek bs j0 (j0 + k)
      if code = 0 then none else some (x.2 * 256 + k, code)))

/-- Scale records from memory, through the layout record (R250). -/
def State.memScales (s : State) (v : FView) (n0 k0 bl cols : Nat) (src : MtxSrc) : Tab Nat :=
  let recs := src.recs.map (fun e => (e.1, leNat (s.runBytes e.2)))
  (List.range cols).flatMap (fun n => (List.range (256 / bl)).map (fun b =>
    (n * 16 + b, Tab.get 0 recs (scaleAddr v bl (tileJ v n0 k0 n + b * bl)))))

/-- Scale records from the scale memories of the arrays' own cores (R275). -/
def State.sramScales (s : State) (core soff bl cols : Nat) : Tab Nat :=
  (List.range cols).flatMap (fun n => (List.range (256 / bl)).map (fun b =>
    (n * 16 + b, s.readN (slotAddr (core + n / 256) (scaleOffset + 16 * soff + 2 * (n % 256 * (256 / bl) + b))) 2)))

/-- The lines of a source (R254). -/
def MtxSrc.lines (m : MtxSrc) : List Nat :=
  ((m.cols.flatten ++ m.recs.flatMap Prod.snd).flatMap (fun r =>
    (List.range ((r.1 % 64 + r.2.1 + 63) / 64)).map (fun i => r.1 / 64 + i))).eraseDups
def State.srcPoison (s : State) (core : Nat) (m : MtxSrc) : Option (Nat × Nat) :=
  s.runPoison core (m.cols.flatten ++ m.recs.flatMap Prod.snd)
/-- The array begins to read a source for a cohort's command: through the cluster's cache (R307), and as .sc where a page of it is strongly
ordered (R338, R345). -/
def State.readSrc (s : State) (core co : Nat) (m : MtxSrc) : State :=
  let s := if m.so then (match s.cohort? co with
      | some c => ((s.release c .pkg).ticket).acquire c .pkg
      | none => s.ticket)
    else s
  s.fillRuns (clusterOf core) m.near

/-- A residency reloaded from its source (R250, R256, R260): LOADING until the command retires (R253). -/
def State.reload (s : State) (core : Nat) (src : MtxSrc) : State :=
  s.modRes core src.idx (fun r =>
    let ek := (mfmt r.fmt).getD .b16
    { r with
      gload := r.gsrc, state := .loading, lines := src.lines, gains := [], codes := s.loadCodes ek r.view r.n0 r.k0 src
      scales := if ek.block then s.memScales r.view r.n0 r.k0 r.bl r.cols src else [] })

/-- TestAndLoad of one residency under R256 and R260: the state after it, whether it is stale under FAULT, and a poisoned sector
that a reload would read. -/
def State.testLoad (s : State) (core co idx : Nat) (srcs : List MtxSrc) : State × Bool × Option (Nat × Nat) :=
  let r := Tab.get Residency.init (s.core core).res idx
  let old := r.gsrc != r.gload
  let again (s : State) : State × Bool × Option (Nat × Nat) :=
    match srcs.find? (fun m => m.idx == idx) with
    | none => (s, false, none)
    | some m => match s.srcPoison core m with
      | some p => (s, false, some p)
      | none => ((s.readSrc core co m).reload core m, false, none)
  if r.state = .evicted then
    if !old then again (s.modRes core idx (fun r => { r with rebuilds := r.rebuilds + 1 }))
    else if r.policy then again (s.modRes core idx (fun r => { r with rebuilds := r.rebuilds + 1, refreshes := r.refreshes + 1 }))
    else (s.modRes core idx (fun r => { r with state := .stale }), true, none)
  else if !old then (s, false, none)
  else if r.policy then again (s.modRes core idx (fun r => { r with refreshes := r.refreshes + 1 }))
  else (s, true, none)

/-! ## The order of summation (R246, R247) -/

/-- The common exponent of a format's values. -/
def unitExp : EKind → Int
  | .blk .q8 | .blk .q4 => 0
  | .blk .e2m1 | .blk .e2m1s => -1
  | .blk .e4m3 => -9
  | .blk .e5m2 => -16
  | .blk .e3m2 => -4
  | .blk .e2m3 => -3
  | .b16 => -133
  | .f16 => -24
  | .f32 => -149

/-- A weight as an integer multiple of 2 ^ unitExp; none for a NaN or an infinity. -/
def weightInt (ek : EKind) (code q : Nat) : Option Int :=
  match mvalue ek code q with
  | .num neg n x =>
    let m : Nat := n * 2 ^ (x - unitExp ek).toNat
    some (if neg then -(m : Int) else m)
  | .nan _ _ | .inf _ => none

/-- What the array reads of one activation row (R276): its integers, its window bytes, its scale exponents. -/
structure ActRow where
  ints  : List Int
  wins  : List Int
  exps  : List Nat
  deriving DecidableEq, Repr

/-- A signed byte. -/
def sbyte (n : Nat) : Int := if 128 ≤ n then (n : Int) - 256 else n

/-- A P-bit two's-complement integer from bit k of each plane. -/
def planeVal (bs : List Byte) (P k : Nat) : Int :=
  let u := (List.range P).foldl (fun n p => n + ((bs.getD (32 * p + k / 8) 0).toNat / 2 ^ (k % 8) % 2) * 2 ^ p) 0
  if 2 ^ (P - 1) ≤ u then (u : Int) - (2 ^ P : Nat) else u

/-- Activation row r as the planes, windows and scale memory hold it. -/
def State.actRow (s : State) (plane scale P bl mp r : Nat) (blocked : Bool) : ActRow :=
  let bs := s.bytes (plane + 32 * r * P) (32 * P)
  let nb := 256 / bl
  { ints := (List.range 256).map (planeVal bs P)
    wins := (List.range nb).map (fun b => sbyte (s.byte (plane + 32 * mp * P + r * nb + b)).toNat)
    exps := (List.range nb).map (fun b => if blocked then s.readN (scale + 2 * (r * nb + b)) 2 / 256 else 127) }

/-- One block of one column: its FP32 addend, or none for a NaN block. -/
def blockSum (ek : EKind) (r : Residency) (a : ActRow) (bl n b : Nat) : Option Nat :=
  let q := Tab.get 0 r.scales (n * 16 + b)
  let ew := if ek.block then q / 256 % 256 else 127
  let ea := a.exps.getD b 127
  let w := a.wins.getD b 0
  if w = -128 || ea = 255 || ew = 255 then none
  else
    let sum := (List.range bl).foldl (fun (t : Option Int) i =>
      let k := b * bl + i
      match t, weightInt ek (Tab.get 0 r.codes (n * 256 + k)) q with
      | some t, some x => some (t + x * a.ints.getD k 0)
      | _, _ => none) (some 0)
    sum.map (fun d => Fmt.f32.roundD .rn false (decide (d < 0)) d.natAbs (unitExp ek + w + ((ew : Int) - 127) + ((ea : Int) - 127)) 0)

/-- acc + x under R246, with the bits of the matrix status word that it sets (R272). -/
def accAdd (acc : Nat) (x : Option Nat) : Nat × Nat :=
  let nan := 0x7FC00000
  match x with
  | none => (nan, 2)
  | some x =>
    if Fmt.f32.isNan acc || Fmt.f32.isNan x then (nan, 0)
    else
      let y := Fmt.f32.add acc x
      if Fmt.f32.isNan y then (nan, 0)
      else (y, if y % 2 ^ 31 = 0x7F800000 && acc % 2 ^ 31 != 0x7F800000 then 4 else 0)

/-- One accumulator after one row, over the blocks in ascending order. -/
def accColumn (ek : EKind) (r : Residency) (a : ActRow) (bl n acc : Nat) : Nat × Nat :=
  (List.range (256 / bl)).foldl (fun t b =>
    let q := accAdd t.1 (blockSum ek r a bl n b)
    (q.1, t.2 ||| q.2)) (acc, 0)

/-- The accumulator of a row and a column of a tile: its core and its physical address (R239, R243). -/
def accAt (core row n : Nat) : Nat × Nat :=
  (core + n / 256, slotAddr (core + n / 256) (accOffset + 1024 * row + 4 * (n % 256)))

/-- The residency of each row of a command, in row order. -/
def rowGroups (gs : List (Nat × Nat)) : List Nat := gs.flatMap (fun g => List.replicate g.2 g.1)

/-- All passes of a command (R278): accumulator words and status bits. -/
def State.passes (s : State) (core plane : Nat) (ek : EKind) (bl mp asoff s0 a0 : Nat) (gs : List (Nat × Nat)) :
    List (Nat × Nat × Word) × Nat :=
  let rows := (rowGroups gs).zip (List.range (rowGroups gs).length)
  rows.foldl (fun (t : List (Nat × Nat × Word) × Nat) x =>
    let r := Tab.get Residency.init (s.core core).res x.1
    let a := s.actRow plane (slotAddr core (scaleOffset + 16 * asoff)) (planesOf ek) bl mp (s0 + x.2) ek.block
    let we := (mfmt r.fmt).getD .b16
    (List.range r.cols).foldl (fun (t : List (Nat × Nat × Word) × Nat) n =>
      let at_ := accAt core (a0 + x.2) n
      let q := accColumn we r a bl n (s.readN at_.2 4)
      (t.1 ++ [(at_.1, at_.2, BitVec.ofNat 32 q.1)], t.2 ||| (if n < 256 then q.2 else 16 * q.2))) t) ([], 0)

/-! ## The array queue (R240, R241, R278) -/

/-- Whether the head of a core's array queue can start: the arrays that it needs are idle, and no pair command waits for them. -/
def State.canStart (s : State) (core : Nat) (m : MtxCmd) : Bool :=
  let other := if core % 2 = 0 then core + 1 else core - 1
  !m.started && (s.ownerNext m.lines).isNone && !s.pairAhead core && (match (s.core other).running with
    | some o => !(m.pair || o.pair)
    | none => true)

/-- Replaces the head of a core's array queue. -/
def State.setHead (s : State) (core : Nat) (m : MtxCmd) : State :=
  s.modCore core (fun k => { k with mq := m :: k.mq.drop 1 })

/-- The residency tests of a command in ascending group order (R256): the group index of the first stale one, or a poisoned
sector. -/
def State.testAll (core co : Nat) (srcs : List MtxSrc) : List (Nat × Nat × Nat) → State → State × Option Nat × Option (Nat × Nat)
  | [], s => (s, none, none)
  | (g, idx, n) :: gs, s =>
    if n = 0 then State.testAll core co srcs gs s
    else match s.testLoad core co idx srcs with
      | (s, true, _) => (s, some g, none)
      | (s, false, some p) => (s, none, some p)
      | (s, false, none) => State.testAll core co srcs gs s

/-- A command that has started lets its cohort go on past the word (R265). -/
def State.unhold (s : State) (m : MtxCmd) : State :=
  if m.hold then s.modCohort m.co (fun c => { c.past 5 with pre := none }) else s

/-- The first poisoned sector of a run of on-chip bytes, and the address of the first byte there. -/
def State.chipPoison (s : State) (pa n : Nat) : Option (Nat × Nat) := (s.poisonIn pa n).map (fun q => (q, chipVa (max q pa)))
/-- What a RESL reads of the scale memories of its arrays' cores (R275), and what an MMA of nr rows reads on chip (R276, R278): its plane rows,
their window bytes and scale records, and the accumulator rows; the first poisoned sector of it (R266). -/
def State.sramPoison (s : State) (core soff bl cols : Nat) : Option (Nat × Nat) :=
  (List.range (cols / 256)).findSome? (fun n => s.chipPoison (slotAddr (core + n) (scaleOffset + 16 * soff)) (512 * (256 / bl)))
def State.passPoison (s : State) (core : Nat) (pair : Bool) (plane : Nat) (ek : EKind) (bl mp asoff s0 a0 nr : Nat) : Option (Nat × Nat) :=
  let P := planesOf ek
  let nb := 256 / bl
  s.chipPoison (plane + 32 * s0 * P) (32 * nr * P) <|> s.chipPoison (plane + 32 * mp * P + s0 * nb) (nr * nb) <|>
  (if ek.block then s.chipPoison (slotAddr core (scaleOffset + 16 * asoff + 2 * s0 * nb)) (2 * nr * nb) else none) <|>
  s.chipPoison (slotAddr core (accOffset + 1024 * a0)) (1024 * nr) <|>
  (if pair then s.chipPoison (slotAddr (core + 1) (accOffset + 1024 * a0)) (1024 * nr) else none)

/-- The head of a core's array queue starts (R275, R278): what it reads, and the group of the first stale residency under FAULT. -/
def State.startMtx (s : State) (core : Nat) (m : MtxCmd) : State × Option Nat :=
  let go (s : State) (m : MtxCmd) : State := (s.setHead core { m with started := true, hold := false }).unhold m
  if m.poison.isSome then (go s m, none)
  else match m.kind with
    | .resl idx ebase sbase spitch rowlen n0 k0 soff bl =>
      let src := m.srcs.headD { idx := idx, near := [], so := false, cols := [], recs := [] }
      let s := s.readSrc core m.co src
      let v : FView := { ebase := ebase, sbase := sbase, rowlen := rowlen, spitch := spitch, rsv := 0 }
      let r := Tab.get Residency.init (s.core core).res idx
      let ek := (mfmt r.fmt).getD .b16
      let codes := s.loadCodes ek v n0 k0 src
      let scales := if ek.block then s.sramScales core soff bl r.cols else []
      let s' := s.modRes core idx (fun r => { r with
        state := .loading, ebase := ebase, sbase := sbase, spitch := spitch, rowlen := rowlen, n0 := n0, k0 := k0, bl := bl
        gload := r.gsrc, lines := src.lines, gains := [], codes := codes, scales := scales })
      (go s' { m with poison := s.srcPoison core src <|> (if ek.block then s.sramPoison core soff bl r.cols else none) }, none)
    | .mma fmt bl mp asoff plane s0 a0 gs =>
      match State.testAll core m.co m.srcs ((List.range gs.length).zip gs) s with
      | (t, some g, _) => (t, some g)
      | (t, none, some p) => (go t { m with poison := some p }, none)
      | (t, none, none) =>
        let ek := (mfmt fmt).getD .b16
        let poison := t.passPoison core m.pair plane ek bl mp asoff s0 a0 (gs.foldl (fun n g => n + g.2) 0)
        let q := t.passes core plane ek bl mp asoff s0 a0 gs
        (go t { m with accs := q.1, status := q.2, poison := poison }, none)

/-- A started command that finds a stale residency under FAULT (R256, R265): it is undone, and its cohort takes the fault at the
word where it waits. -/
def State.staleStop (s : State) (core : Nat) (m : MtxCmd) (g : Nat) : State :=
  let s := (s.freeSb m.id).modCore core (fun k => { k with mq := k.mq.drop 1 })
  let s := (s.modCohort m.co (fun c => c.dropOp m.op)).focus m.co
  if s.co.id = m.co then (s.raise (engFault (flt causeStale g))).leaveSlot else s

/-- MATRIX_COMMAND_START (R240, R275, R278). -/
def execMatrixCommandStart (core : Nat) (s : State) : Out :=
  match (s.core core).mq with
  | [] => .next s
  | m :: _ =>
    if !s.canStart core m then .next s
    else match s.startMtx core m with
      | (t, some g) => .next (t.staleStop core m g)
      | (t, none) => .next t

/-! ## Acceptance of array commands (R264, R265, R278) -/

/-- The lines of which the cohort's earlier stores are to be performed before a command of the array reads or tests them (R255, R344): its
sources, what the residencies that it names are registered for, and the sources of commands that stand before it in the queue. -/
def State.mtxLines (s : State) (core : Nat) (kind : MtxKind) (srcs : List MtxSrc) : List Nat :=
  (srcs.flatMap MtxSrc.lines ++ (match kind with
    | .resl .. => []
    | .mma _ _ _ _ _ _ _ gs => gs.flatMap (fun g => (Tab.get Residency.init (s.core core).res g.1).lines) ++
      (s.core core).mq.flatMap MtxCmd.lines)).eraseDups

/-- Stays at the word until the array queue, the claim and the scoreboard let the command in; then takes its place. A command that holds its
cohort (R265) and ends a chain group starts at once, since the array is idle then: what it finds stale leaves the group unperformed. -/
def State.acceptMtx (s t : State) (f pair hold : Bool) (ks : List Claim) (kind : MtxKind) (pages : List Nat) (srcs : List MtxSrc)
    (poison : Option (Nat × Nat)) : Out :=
  let c := s.co
  let lead := c.lead
  let cores := if pair then [lead, lead + 1] else [lead]
  if cores.any (fun n => s.claimed n c.ctx) then .next (s.waitFor none)
  else match s.holdup ks with
    | some cmd => .next (s.waitCmd cmd)
    | none =>
      if 4 ≤ (s.core lead).mq.length then .next (s.waitFor (s.mqNext lead))
      else
        let t := (cores.foldl (fun t n => t.takeClaim n c.ctx) t).readyLines c (s.mtxLines lead kind srcs)
        let (id', t) := t.startOp .engine (c.flagOf f) [] []
        match t.takeSb id' ks with
        | none => .next s
        | some t =>
          let m : MtxCmd := { id := id', co := c.id, op := id', ctx := c.ctx, tenant := c.tenant, pair := pair, kind := kind
                              hold := hold, started := false, pages := pages, poison := poison, accs := [], status := 0
                              pc := c.wordAddr, srcs := srcs }
          let t := t.modCore lead (fun k => { k with mq := k.mq ++ [m] })
          if hold && c.pre.isSome then
            match s.ownerNext m.lines with
            | some e => .next (s.waitFor e)
            | none =>
              if !(s.core lead).mq.isEmpty || !t.canStart lead m then
                .next (s.waitFor (s.mqNext lead <|> s.mqNext (if lead % 2 = 0 then lead + 1 else lead - 1)))
              else match t.startMtx lead m with
              | (u, some g) => .next (({ s with cores := (s.keepLoads u).cores } : State).raise (engFault (flt causeStale g)))
              | (u, none) => .next u
          else .next (if hold then t.waitFor (t.mqNext lead) else t.lane id 5)

/-- RESL (R273 to R275). -/
def execResl (f : Bool) (a b : Reg) (p : PBlock) (s : State) : Out :=
  let c := s.co
  let va := (c.ugetPair b).toNat
  let n0 := c.sub p.h1
  let k0 := c.sub p.h2
  let soff := p.h0.toNat
  if c.follows then .next (s.raise (handleFault 4))
  else match misalignedOf 32 [(va, .read)] [] with
    | some e => .next (s.raise e)
    | none =>
      let named := s.named c.lead c.ctx ((c.uget a).toNat % 65536)
      let plain := match named with
        | some (_, r) => decide (8 ≤ r.fmt)
        | none => false
      if p.h3 != 0 || p.h4 != 0 || p.h5 != 0 || p.h6 != 0 || p.h7 != 0 || (plain && soff != 0) then
        .next (s.raise (engFault (flt causeCopyRange 5)))
      else
        let vr : List Rg := [{ grp := 0, share := false, va := va, len := 32, wr := false }]
        match firstOf [straddleOf vr, beyondOf s c vr] with
        | some e => .next (s.raise e)
        | none =>
          match named with
          | none => .next (s.raise (handleFault 1))
          | some (idx, r) =>
            match checkReads s c vr with
            | (t, .error e) => .next (t.raise e)
            | (t, .ok ps) =>
              let vp := ps.flatten
              match t.heldBy (piecePas vp) false with
              | some cmd => .next (s.waitCmd cmd)
              | none =>
                match t.piecePoison c.core vp with
                | some q => s.acceptMtx t f r.pair false [] (.resl idx 0 0 0 0 0 0 0 0) [] [] (some q)
                | none =>
                  let t := t.orderedReads c vp
                  let v := t.viewOf vp
                  match t.readSource c idx r v n0 k0 with
                  | (t, .error e) => .next (t.raise e)
                  | (t, .ok q) =>
                    let bad := !plain && (decide (16384 < 16 * soff + 512 * (256 / q.bl)) || k0 % q.bl != 0)
                    if bad then .next (t.raise (engFault (flt causeCopyRange 5)))
                    else
                      let ks : List Claim := if plain then [] else
                        (if r.pair then [c.lead, c.lead + 1] else [c.lead]).map (fun n =>
                          { slot := n, wr := false, lo := scaleOffset + 16 * soff
                            hi := scaleOffset + 16 * soff + 512 * (256 / q.bl), co := none })
                      s.acceptMtx t f r.pair false ks (.resl idx v.ebase v.sbase v.spitch v.rowlen n0 k0 soff q.bl)
                        (piecePages vp ++ q.pages) [q.src] none

/-- The source and block length that a descriptor will have when the commands queued now have retired (R266). -/
def State.laterSource (s : State) (core idx : Nat) (r : Residency) : Residency :=
  (s.core core).mq.foldl (fun r m => match m.kind with
    | .resl i ebase sbase spitch rowlen n0 k0 _ bl =>
      if i = idx && !m.started then
        { r with state := .valid, ebase := ebase, sbase := sbase, spitch := spitch, rowlen := rowlen, n0 := n0, k0 := k0, bl := bl }
      else r
    | .mma .. => r) r

/-- Row 6 of an MMA (R277): the groups of nonzero count in ascending order. first: whether the first of them is a pair tile. -/
def State.checkGroups (s : State) (c : Cohort) (ek : EKind) (bl : Nat) :
    Option Bool → List (Nat × Nat) → Except FaultInfo (List (Nat × Residency))
  | _, [] => .ok []
  | first, (_, 0) :: gs => s.checkGroups c ek bl first gs
  | first, (h, _) :: gs =>
    match s.named c.lead c.ctx h with
    | none => .error (handleFault 1)
    | some (idx, r) =>
      let r := s.laterSource c.lead idx r
      if r.state = .empty then .error (handleFault 2)
      else if (r.pair && !c.pair) || (match first with | some p => p != r.pair | none => false) then .error (handleFault 5)
      else if r.fmt < 8 && r.bl != bl then .error (engFault (flt causeFormat 9))
      else match s.checkGroups c ek bl (some r.pair) gs with
        | .error f => .error f
        | .ok rs => .ok ((idx, r) :: rs)

/-- Row 7 of an MMA: the sources of the named residencies that are of policy REFRESH or evicted, with what row 8 says of each. A source whose
pages now have another block length is FORMAT 0x09. -/
def State.transSources (c : Cohort) : List (Nat × Residency) → State → State × Except FaultInfo (List (SrcRead × Option FaultInfo))
  | [], s => (s, .ok [])
  | (idx, r) :: rs, s =>
    if r.policy || r.state = .evicted then
      match s.transSource c idx r r.view r.n0 r.k0 with
      | (s, .error f) => (s, .error f)
      | (s, .ok (q, w)) =>
        let other := if r.fmt < 8 && q.bl != r.bl then some (engFault (fltAt causeFormat 9 r.ebase .read)) else none
        match State.transSources c rs s with
        | (s, .error f) => (s, .error f)
        | (s, .ok qs) => (s, .ok ((q, firstOf [w, other]) :: qs))
    else State.transSources c rs s
/-- Rows 7 and 8 of an MMA (R266): every translation comes before the conditions on the translated pages. -/
def State.readSources (c : Cohort) (rs : List (Nat × Residency)) (s : State) : State × Except FaultInfo (List SrcRead) :=
  match State.transSources c rs s with
  | (s, .error f) => (s, .error f)
  | (s, .ok qs) => match firstOf (qs.map Prod.snd) with
    | some f => (s, .error f)
    | none => (s, .ok (qs.map Prod.fst))

/-- Where an MMA finds its counts and handles: given, or in a table of the share. -/
inductive MmaTab where
  | given (l : List Nat) | table (off : Nat)
  deriving DecidableEq, Repr

/-- The bytes of a table (R276). -/
def MmaTab.pas (c : Cohort) (size g : Nat) : MmaTab → List Nat
  | .given _ => []
  | .table off => (List.range (size * g)).map (fun i => c.shareAddr (off + i))
/-- The bytes of a table that are read for the groups of nonzero count (R277). -/
def MmaTab.used (c : Cohort) (size g : Nat) (cs : List Nat) (t : MmaTab) : List Nat :=
  ((t.pas c size g).zip (List.range (size * g))).filterMap (fun x => if cs.getD (x.2 / size) 0 = 0 then none else some x.1)
def MmaTab.read (s : State) (c : Cohort) (size g : Nat) : MmaTab → List Nat
  | .given l => l
  | .table off => (List.range g).map (fun i => s.readN (c.shareAddr (off + size * i)) size)
def MmaTab.claim (c : Cohort) (len : Nat) : MmaTab → List Claim
  | .given _ => []
  | .table off =>
    let lo := spOffset + 16384 * c.shareB + off
    [{ slot := c.core, wr := false, lo := lo, hi := lo + len, co := none }]
def MmaTab.outside (c : Cohort) (len : Nat) : MmaTab → Bool
  | .given _ => false
  | .table off => c.outside off len

/-- The limits that counts enter (R276). -/
def countsBad (s0 a0 mp : Nat) (cs : List Nat) : Bool :=
  let nr := cs.foldl (fun n x => n + x) 0
  cs.any (fun x => decide (128 < x)) || decide (128 < nr) || decide (mp < s0 + nr) || decide (128 < a0 + nr)

/-- MMA and MMA1 (R276 to R280): G groups, their counts and handles, the row word, the plane offset and the rest of the block. -/
def State.mma (s : State) (f : Bool) (rowword A : Nat) (h1 : Half) (G mp asoff : Nat) (bad05 : Bool) (counts handles : MmaTab)
    (mis : List (Nat × AccessKind)) : Out :=
  let c := s.co
  let ek := (mfmt (h1.toNat % 16)).getD .b16
  let blc := bitsOf h1.toNat 4 2
  let bl := 8 * 2 ^ blc
  let P := planesOf ek
  let s0 := bitsOf rowword 8 7
  let a0 := bitsOf rowword 0 7
  match (s.core c.lead).mq.find? (fun m => m.co == c.id && m.hold && !m.started) with
  | some _ => .next (s.waitFor (s.mqNext c.lead))
  | none =>
    let scaleLen := mp * 512 / bl
    let limits := (mfmt (h1.toNat % 16)).isNone || blc = 0 || h1.toNat / 64 != 0 || decide (mp < 1) || decide (128 < mp) ||
      bitsOf rowword 7 1 != 0 || rowword / 2 ^ 15 != 0 || decide (G < 1) || decide (64 < G) ||
      (if ek.block then decide (16384 < 16 * asoff + scaleLen) else asoff != 0)
    let early := match counts with
      | .given cs => countsBad s0 a0 mp cs
      | .table _ => false
    let planeLen := mp * (32 * P + 256 / bl)
    match firstOf
        [if c.follows then some (handleFault 4) else none, misalignedOf 16 ((A, .read) :: mis) [],
         if bad05 || limits || early then some (engFault (flt causeCopyRange 5)) else none,
         if c.outside A planeLen || handles.outside c (2 * G) || counts.outside c (4 * G) then
           some (engFault (flt causeCopyRange 2)) else none] with
    | some e => .next (s.raise e)
    | none =>
      let tabs := counts.pas c 4 G ++ handles.pas c 2 G
      match s.heldBy tabs false with
      | some cmd => .next (s.waitCmd cmd)
      | none =>
        let bad (pas : List Nat) : Option (Nat × Nat) := (s.poisonOf pas).map (fun p => (p.2, c.localVa (pas.getD p.1 0)))
        let cpoison := bad (counts.pas c 4 G)
        let all := if cpoison.isSome then [] else counts.read s c 4 G
        let late := match counts with
          | .given _ => false
          | .table _ => countsBad s0 a0 mp all
        if late then .next (s.raise (engFault (flt causeCopyRange 5)))
        else
          let poison := cpoison <|> bad (handles.used c 2 G all)
          let cs := if poison.isSome then [] else all
          match s.checkGroups c ek bl none (((handles.read s c 2 G).map (fun h => h % 65536)).zip cs) with
          | .error e => .next (s.raise e)
          | .ok rs =>
            match State.readSources c rs s with
            | (t, .error e) => .next (t.raise e)
            | (t, .ok qs) =>
              let nr := cs.foldl (fun n x => n + x) 0
              let pair := rs.any (fun r => r.2.pair)
              let hold := rs.any (fun r => !r.2.policy)
              let base := spOffset + 16384 * c.shareB + A
              let accs : List Claim := if nr = 0 then [] else (if pair then [c.lead, c.lead + 1] else [c.lead]).map (fun n =>
                { slot := n, wr := true, lo := accOffset + 1024 * a0, hi := accOffset + 1024 * (a0 + nr), co := none })
              let scs : List Claim := if ek.block then
                  [{ slot := c.lead, wr := false, lo := scaleOffset + 16 * asoff, hi := scaleOffset + 16 * asoff + scaleLen
                     co := none }]
                else []
              let planes : List Claim := [{ slot := c.lead, wr := false, lo := base, hi := base + planeLen, co := none }]
              let used := rs.map Prod.fst
              let gs := (cs.foldl (fun (t : List (Nat × Nat) × List Nat) n =>
                if n = 0 then (t.1 ++ [(16, 0)], t.2) else (t.1 ++ [(t.2.headD 16, n)], t.2.drop 1)) ([], used)).1
              s.acceptMtx t f pair hold (planes ++ counts.claim c (4 * G) ++ handles.claim c (2 * G) ++ scs ++ accs)
                (.mma (h1.toNat % 16) bl mp asoff (c.shareAddr A) s0 a0 gs) (qs.flatMap SrcRead.pages) (qs.map SrcRead.src) poison

/-- MMA (R276 to R279). -/
def execMma (f : Bool) (d a b : Reg) (p : PBlock) (s : State) : Out :=
  let c := s.co
  let G := c.sub p.h0
  let B := (c.uget b).toNat
  let hs := [c.sub p.h4, c.sub p.h5, c.sub p.h6, c.sub p.h7]
  let few := decide (G ≤ 4)
  let counts : MmaTab := if few then .given (hs.take G) else .table (16 * hs.getD 0 0)
  let bad05 := if few then (hs.drop G).any (fun h => h != 0) else (hs.drop 1).any (fun h => h != 0)
  s.mma f (c.uget d).toNat (c.uget a).toNat p.h1 G (c.sub p.h2) p.h3.toNat bad05 counts (.table B) [(B, .read)]

/-- MMA1 (R280). -/
def execMma1 (f : Bool) (d a b : Reg) (p : PBlock) (s : State) : Out :=
  let c := s.co
  let nr := c.sub p.h0
  let bad05 := p.h4 != 0 || p.h5 != 0 || p.h6 != 0 || p.h7 != 0 || decide (nr < 1)
  s.mma f (c.uget d).toNat (c.uget a).toNat p.h1 1 (c.sub p.h2) p.h3.toNat bad05 (.given [nr]) (.given [(c.uget b).toNat]) []

/-! ## The end of array commands (R241, R253, R272) -/

/-- Status bits are ORed into the status word of a core whose claim the context holds (R272). -/
def State.orStatus (s : State) (core ctx bits : Nat) : State :=
  if bits != 0 && (s.core core).claim = some ctx then s.modCore core (fun k => { k with mstat := k.mstat ||| bits }) else s

/-- The end of a load, a refresh or a rebuild (R253). -/
def Residency.loaded (r : Residency) : Residency :=
  if r.state = .loading then { r with state := if r.gsrc = r.gload then .valid else .stale } else r

/-- MATRIX_COMMAND_RETIRE (R241, R253, R266, R272). -/
def execMatrixCommandRetire (core : Nat) (s : State) : Out :=
  match (s.core core).mq with
  | [] => .next s
  | m :: _ =>
    if !m.started then .next s
    else
      let s := (s.freeSb m.id).modCore core (fun k => { k with mq := k.mq.drop 1 })
      let s := match m.kind with
        | .resl idx _ _ _ _ _ _ _ _ => s.modRes core idx Residency.loaded
        | .mma _ _ _ _ _ _ _ gs => gs.foldl (fun (s : State) (g : Nat × Nat) => if g.2 = 0 then s else s.modRes core g.1 Residency.loaded) s
      match m.poison with
      | some p => .next ((s.modCohort m.co (fun c => c.complete m.op [])).enginePoison m.ctx m.co m.pc 5 p)
      | none =>
        let s := s.write (m.accs.flatMap (fun (a : Nat × Nat × Word) => cellsFrom a.2.1 (natLe 4 a.2.2.toNat)))
        let s := (s.orStatus core m.ctx (m.status % 8)).orStatus (core + 1) m.ctx (m.status / 16 % 8)
        .next (s.modCohort m.co (fun c => c.complete m.op []))

/-! ## The accumulator store and scales (R281, R282) -/

/-- A run of a core's slot as a piece. -/
def slotPiece (core off len : Nat) : Piece := { va := 0, pa := slotAddr core off, len := len, leaf := none }
/-- The claim on a run of a core's slot. -/
def slotClaim (core off len : Nat) (wr : Bool) : Claim := { slot := core, wr := wr, lo := off, hi := off + len, co := none }

/-- ACCZ, ACCRD and ACCWR (R281): dir 0 clears, 1 reads into the scratchpad, 2 writes from it. -/
def State.accOp (s : State) (f : Bool) (a : Reg) (b : Option Reg) (dir : Nat) : Out :=
  let c := s.co
  let w := (c.uget a).toNat
  let n := w % 256
  let first := bitsOf w 8 7
  let B := match b with
    | some b => (c.uget b).toNat
    | none => 0
  let len := 1024 * n
  match firstOf
      [misalignedOf 16 [(B, if dir = 1 then .write else .read)] [],
       if w / 2 ^ 15 != 0 || decide (n < 1) || decide (128 < n) || decide (128 < first + n) then
         some (engFault (flt causeCopyRange 5)) else none,
       if dir != 0 && c.outside B len then some (engFault (flt causeCopyRange 2)) else none] with
  | some e => .next (s.raise e)
  | none =>
    if s.claimed c.core c.ctx then .next (s.waitFor none)
    else
      let t := (s.drainWc c.core (some c.id)).takeClaim c.core c.ctx
      let acc := slotPiece c.core (accOffset + 1024 * first) len
      let sp := slotPiece c.core (spOffset + 16384 * c.shareB + B) len
      let ks := slotClaim c.core (accOffset + 1024 * first) len (dir != 1) ::
        (if dir = 0 then [] else [slotClaim c.core (spOffset + 16384 * c.shareB + B) len (dir == 1)])
      let from_ := if dir = 1 then [acc] else if dir = 2 then [sp] else []
      let to_ := if dir = 1 then [sp] else [acc]
      s.accept t .acc f ks [] 1 (fun e =>
        { e with
          writes := (piecePas to_).zip (if dir = 0 then List.replicate len 0 else t.pieceBytes from_)
          dst := pieceMap to_, poison := t.piecePoison c.core from_ })
def execAccz (f : Bool) (a : Reg) (s : State) : Out := s.accOp f a none 0
def execAccrd (f : Bool) (a b : Reg) (s : State) : Out := s.accOp f a (some b) 1
def execAccwr (f : Bool) (a b : Reg) (s : State) : Out := s.accOp f a (some b) 2
/-- ACC_RETIRE (R281). -/
def execAccRetire (core cmd : Nat) (s : State) : Out := .next (s.retireCmd core cmd .acc)

/-- SCLD (R282). -/
def execScld (f : Bool) (a : Reg) (p : PBlock) (s : State) : Out :=
  let c := s.co
  let va := (c.ugetPair a).toNat
  let rows := c.sub p.h0
  let nb := p.h1.toNat
  let srow := c.sub p.h2
  let sblk := c.sub p.h3
  let doff := 16 * p.h4.toNat
  let len := 2 * rows * nb
  let vr : List Rg := [{ grp := 0, share := false, va := va, len := 16, wr := false }]
  match firstOf
      [misalignedOf 16 [(va, .read)] [],
       if decide (rows < 1) || decide (4096 < rows) || decide (nb < 1) || decide (64 < nb) || decide (16384 < doff + len) ||
          p.h5 != 0 || p.h6 != 0 || p.h7 != 0 then some (engFault (flt causeCopyRange 5)) else none] with
  | some e => .next (s.raise e)
  | none =>
    match checkReads s c vr with
    | (t, .error e) => .next (t.raise e)
    | (t, .ok ps) =>
      let vp := ps.flatten
      match t.heldBy (piecePas vp) false with
      | some cmd => .next (s.waitCmd cmd)
      | none =>
        if t.claimed c.core c.ctx then .next (s.waitFor none)
        else
          let dst := slotClaim c.core (scaleOffset + doff) len true
          match t.piecePoison c.core vp with
          | some q => s.accept (t.takeClaim c.core c.ctx) .scld f [dst] [] 5 (fun e => { e with poison := some q })
          | none =>
            let t := t.orderedReads c vp
            let lr := (t.gather c vp []).pieceBytes vp
            let sbase := leNat (lr.take 8)
            let spitch := leNat ((lr.drop 12).take 4)
            if sbase % 2 = 1 then .next (t.raise (engFault (fltAt causeMisaligned 0 sbase .read)))
            else
              let rs : List Rg := (List.range rows).map (fun i =>
                { grp := 1, share := false, va := (sbase + (srow + i) * spitch + 2 * sblk) % 2 ^ 64, len := 2 * nb, wr := false })
              match checkReads t c rs with
              | (t, .error e) => .next (t.raise e)
              | (t, .ok qs) =>
                let from_ := qs.flatten
                match t.owned from_ with
                | some cmd => .next (s.waitCmd cmd)
                | none =>
                  let t := ((t.orderedReads c from_).gather c from_ []).takeClaim c.core c.ctx
                  s.accept t .scld f (dst :: claimsOf c rs) [] 5 (fun e =>
                    { e with
                      writes := (piecePas [slotPiece c.core (scaleOffset + doff) len]).zip (t.pieceBytes from_)
                      reads := pieceLines from_, poison := t.piecePoison c.core from_, pages := piecePages (vp ++ from_) })
/-- SCLD_RETIRE (R282). -/
def execScldRetire (core cmd : Nat) (s : State) : Out := .next (s.retireCmd core cmd .scld)

end Sys2Proof.Machine
end

