-- ==== Sys2Proof/Machine/Contexts.lean ====
section
/-!
DEFINITION. Contexts and what wakes their teams (R259, R261, R349 to R355, R360 to R366): replays, granule clears, shootdowns, the
commands of ctx_cmd, the drains of PREEMPT and STOP, captures and restores, and the CPU die's poison trap.
-/

namespace Sys2Proof.Machine

/-! ## What wakes a team -/

/-- A team's cause is gone: it goes on, or, under a STOP, it stops where it stands (R299, R353, R355, R362). -/
def State.wakeTeam (s : State) (t : Team) : State :=
  if (s.ctx t.ctx).state = .stopping then
    if s.teamQuiet t.key then s.setTeam { t with status := .stopped }
    else (s.setTeam { t with status := .halting .stop }).askTeam t.key
  else s.resumeTeam t.key

/-- Whether a team stands or halts for a fault of R351. -/
def Team.parks (t : Team) : Bool :=
  match t.status with
  | .parked => true
  | .halting (.fault _ _ f) => toBuffer f
  | .halting _ | .running | .descheduled _ | .held | .stopped => false

/-- REPLAY_ALL (R353) for a context on a die: its entries become invalid, DROP clears, its parked teams resume, and the messages,
fires and launches that wait for it are tried again (R375, R378, R446, R458). No access joins a walk that began before it. -/
def State.replay (s : State) (die ctx : Nat) : State :=
  let s := s.modDie die (fun d => { d with
    fbufs := Tab.modify d.fbufs ctx (fun b => { b with ents := List.replicate 8 none, drop := false }) })
  let s : State := { s with clusters := s.clusters.map (fun (e : Nat × Cluster) => if e.1 / 32 = die then
    (e.1, { e.2 with walks := e.2.walks.map (fun w => if w.ctx = ctx then { w with shut := true } else w) }) else e) }
  let s := (s.teamsOf ctx).foldl (fun s t => if dieOf t.core = die && t.parks then s.wakeTeam t else s) s
  let s := s.modFab die ctx (fun b => { b with rx := b.rx.map (fun r => { r with held := [] }) })
  let free (m : OutMsg) : OutMsg := if m.msg.die = die && m.msg.ctx = ctx then { m with held := false } else m
  let s := { s with fcmds := s.fcmds.map (fun (f : FabCmd) => { f with msgs := f.msgs.map free }) }
  let s := if s.firing ctx then s.refire die ctx true else s
  if die = 0 then s.modCtx ctx (fun x => { x with launches := x.launches.map (fun (l : Launch) => { l with stuck := false }) }) else s

/-- REPLAY_ALL (R353). -/
def execReplayAll (die ctx : Nat) (s : State) : Out := .next (s.replay die ctx)

/-- The granule for which a team stands or halts (R355). -/
def Team.waitsGranule (t : Team) (g : Nat) : Bool :=
  match t.status with
  | .descheduled x => x == g
  | .halting (.fault _ _ f) => f.cause == causeLongLatency && f.gran == g
  | .halting _ | .running | .parked | .held | .stopped => false

/-- A flash granule is clear (R355): the teams that wait on it resume, each with an event 0x83 of its
place where the context asks for it (R424). -/
def State.clearGranule (s : State) (g : Nat) : State :=
  let s := { s with stalls := Tab.erase s.stalls g }
  s.allTeams.foldl (fun s t =>
    if t.waitsGranule g then
      let s := s.wakeTeam t
      let x := s.ctx t.ctx
      if x.llrec then s.log { FaultRec.blank t.ctx x.tenant 0x83 0 with
          paddr := 65536 * g, die := dieOf t.core, cluster := clusterOf t.core % 32, core := t.core % 16, team := t.teamid, lid := t.lid } []
      else s
    else s) s

/-- GRANULE_CLEAR (R355). The end of a relocation comes only after its shootdown (R412 steps 5 and 6): the old location then leaves every
cache, and may be reused. -/
def execGranuleClear (granule : Nat) (s : State) : Out :=
  if s.relocs.any (fun r => r.old == granule) then
    if s.relocs.any (fun r => r.old == granule && r.fresh && r.dies.isEmpty) then
      .next (({ s with relocs := s.relocs.filter (fun r => r.old != granule) }.forget (65536 * granule) (65536 * (granule + 1))).clearGranule
        granule)
    else .next s
  else .next (s.clearGranule granule)

/-- A walk of a cluster comes to its end (R349). What it read of the table may be as old as its begin or as new as its end (R353, R393): it ends
in its fault, which is every requester's, or finds a translation, which each of them meets with an access of its own kind when it comes next. -/
def State.endWalk (s : State) (cluster ctx va : Nat) (w : Walk) : State :=
  let vpn := va / 4096
  let fail (f : WalkFail) : State := s.modCluster cluster (fun q => { q with
    walks := (q.walks.map (fun x => if x = w then { x with ended := true, fail := f } else x)).filter (fun x => !x.ended || !x.reqs.isEmpty) })
  match walkRoot s (s.ctx ctx).root (4096 * vpn) with
  | .ok _ => if s.pick 5100 then fail w.fail else s.modCluster cluster (fun q => { q with walks := q.walks.filter (fun x => x != w) })
  | .error f => fail (if s.pick 5100 then w.fail else f)

/-- PAGE_WALK_COMPLETE (R349): a walk in flight ends, and its requesters take what it has come to when they come next: the first of them comes
now. Where the cluster has none in flight, one begins and ends: it fills the cluster's TLB unless it faults. -/
def execPageWalkComplete (cluster ctx va : Nat) (kind : AccessKind) (waiters : List Nat) (s : State) : Out :=
  let t := match (s.cluster cluster).walks.find? (fun w => w.is ctx (va / 4096) && !w.ended) with
    | some w => s.endWalk cluster ctx va w
    | none => match translate s none ctx va kind 5100 with
      | (t, .ok l) => t.modCluster cluster (fun q => { q with tlb := (tlbPut q.tlb ctx (va / 4096) l).take 4096 })
      | (t, .error _) => t
  match waiters.head? with
  | some w => .next (t.focus w)
  | none => .next t

/-! ## Shootdown (R350) -/

/-- Whether a fence of a die matches a context. -/
def Die.fences (d : Die) (x : Ctx) : Bool := d.allAsid || bitsOf x.root.toNat 44 16 == d.asid
/-- Whether n pages from a virtual page overlap a fence's range. -/
def Die.covers (d : Die) (vpn n : Nat) : Bool :=
  let m := 2 ^ 45
  let p := vpn % m
  let q := d.sfAddr / 4096 % m
  d.sfLen == 0 || decide ((p + m - q) % m < d.sfLen) || decide ((q + m - p) % m < n)
/-- 4 KiB pages of a leaf (R196). -/
def Leaf.pages (l : Leaf) : Nat :=
  match l.size with
  | 0 => 1
  | 1 => 16
  | n + 2 => 2 ^ (9 * (n + 1))

/-- SHOOTDOWN_GO (R350): the fence starts. -/
def execShootdownGo (die : Nat) (s : State) : Out := .next (s.modDie die (fun d => { d with busy := true }))

/-- Whether an accepted command of a die holds a translation that a fence names. -/
def State.fenceHeld (s : State) (die : Nat) : Bool :=
  let d := s.die die
  let hit (ctx : Nat) (pages : List Nat) : Bool := d.fences (s.ctx ctx) && pages.any (fun p => d.covers p 1)
  s.cores.any (fun e => dieOf e.1 == die &&
    (e.2.cmds.any (fun k => hit k.ctx k.pages) || e.2.mq.any (fun m => hit m.ctx m.pages))) ||
  s.fcmds.any (fun f => f.die == die && hit f.ctx f.pages) ||
  s.freqs.any (fun r => match r.src with
    | .cohort core _ _ ctx _ => dieOf core == die && hit ctx r.pages
    | .mbox => false)

/-- The virtual pages of granules of a window. -/
def LogWin.pageIn (w : LogWin) (gs : List Nat) (p : Nat) : Bool :=
  decide (w.base / 4096 ≤ p) && decide (p < (w.base + w.size) / 4096) && gs.contains ((p - w.base / 4096) / 16)
/-- Whether an accepted command, of one die or of any, holds a translation of some pages of a context (R350). -/
def State.pagesHeld (s : State) (die : Option Nat) (ctx : Nat) (p : Nat → Bool) : Bool :=
  let here (d : Nat) : Bool := die.all (fun x => x == d)
  s.cores.any (fun e => here (dieOf e.1) &&
    (e.2.cmds.any (fun k => k.ctx == ctx && k.pages.any p) || e.2.mq.any (fun m => m.ctx == ctx && m.pages.any p))) ||
  s.fcmds.any (fun f => here f.die && f.ctx == ctx && f.pages.any p) ||
  s.freqs.any (fun r => match r.src with
    | .cohort core _ _ x _ => here (dieOf core) && x == ctx && r.pages.any p
    | .mbox => false)
/-- The translations of granules of a window leave the TLBs of one die, or of all, and the results of walks for them are discarded. -/
def State.shoot (s : State) (die : Option Nat) (w : LogWin) (gs : List Nat) : State :=
  let here (d : Nat) : Bool := die.all (fun x => x == d)
  let keep (t : TlbEnt) : Bool := !(t.ctx == w.ctx && w.pageIn gs t.vpn)
  { s with
    clusters := s.clusters.map (fun (e : Nat × Cluster) => if here (e.1 / 32) then (e.1, { e.2 with
      tlb := e.2.tlb.filter keep, walks := e.2.walks.filter (fun x => !(x.ctx == w.ctx && w.pageIn gs x.vpn)) }) else e)
    cores := s.cores.map (fun (e : Nat × Core) => if here (dieOf e.1) then (e.1, { e.2 with tlb := e.2.tlb.filter keep }) else e) }
/-- The shootdown of a relocation completes on a die (R350, R412 step 4): only when no command of the die holds a translation of the
granule. -/
def State.relocShot (s : State) (die : Nat) (r : Reloc) : State :=
  let wins := (Tab.get FLog.init s.logs r.log).wins.map Prod.snd
  if !r.dies.contains die || wins.any (fun w => s.pagesHeld (some die) w.ctx (w.pageIn [r.index])) then s
  else { wins.foldl (fun (s : State) w => s.shoot (some die) w [r.index]) s with
    relocs := s.relocs.map (fun x => if x.old = r.old then { x with dies := x.dies.filter (fun d => d != die) } else x) }
/-- The shootdowns that the Flash Management Processor has issued complete on a die where they can (R412 step 4). -/
def State.fmpShot (s : State) (die : Nat) : State := s.relocs.foldl (fun (s : State) r => s.relocShot die r) s

/-- SHOOTDOWN_COMPLETE (R350): no accepted command holds an overlapping translation and no walk is in flight; the die's overlapping entries
become invalid, the results of overlapping walks are discarded, and what was stored through the die's translations, in combining buffers and in
caches, is performed for every agent. -/
def execShootdownComplete (die : Nat) (s : State) : Out :=
  let s := s.fmpShot die
  let d := s.die die
  let busy (w : Walk) : Bool := !w.ended && d.fences (s.ctx w.ctx)
  if !d.busy || s.fenceHeld die || s.clusters.any (fun e => e.1 / 32 == die && e.2.walks.any busy) then .next s
  else
    let keep (e : TlbEnt) : Bool :=
      let n := e.leaf.pages
      !(d.fences (s.ctx e.ctx) && d.covers (e.vpn / n * n) n)
    let stays (w : Walk) : Bool := !(d.fences (s.ctx w.ctx) && d.covers w.vpn 1)
    let t := (s.cores.filter (fun e => dieOf e.1 == die)).foldl (fun (t : State) e => (t.drainWc e.1 none).flushCore e.1) s
    let t := { t with
      clusters := t.clusters.map (fun (e : Nat × Cluster) =>
        if e.1 / 32 = die then (e.1, { e.2 with tlb := e.2.tlb.filter keep, walks := e.2.walks.filter stays }) else e)
      cores := t.cores.map (fun (e : Nat × Core) =>
        if dieOf e.1 = die then (e.1, { e.2 with tlb := e.2.tlb.filter keep }) else e) }
    .next (t.modDie die (fun d => { d with busy := false }))

/-! ## PREEMPT (R360, R361) -/

/-- A refused command: CMDERR is set (R360). -/
def State.refuse (s : State) (ctx : Nat) : State := s.modCtx ctx (fun x => { x with cmderr := true })

/-- PREEMPT. -/
def execPreempt (ctx : Nat) (s : State) : Out :=
  match (s.ctx ctx).state with
  | .running => .next (s.modCtx ctx (fun x => { x with state := .preempting, since := s.clk }))
  | .preempted | .stopped => .next s
  | .free | .preempting | .stopping | .terminated => .next (s.refuse ctx)

/-- An unpinned residency is evicted (R259): its cells go, its registration stays. -/
def Residency.evict (r : Residency) : Residency :=
  if !r.pinned && (r.state = .valid || r.state = .stale) then { r with state := .evicted, codes := [], scales := [] } else r

/-- PREEMPT_DRAINED (R361). -/
def execPreemptDrained (ctx : Nat) (s : State) : Out :=
  if (s.ctx ctx).state = .preempting && (s.teamsOf ctx).isEmpty && !s.ctxBusy ctx && !s.fcmds.any (fun f => f.ctx == ctx) then
    let s := { s with cores := s.cores.map (fun (e : Nat × Core) => (e.1, { e.2 with
      res := e.2.res.map (fun (r : Nat × Residency) => if r.2.ctx = ctx then (r.1, r.2.evict) else r) })) }
    .next ((s.modCtx ctx (fun x => { x with state := .preempted })).logEvent ctx 0x81 0)
  else .next s

/-- PREEMPT_DEADLINE (R360): the cycles allowed for a PREEMPT, or for a STOP up to the end of its drain, have passed. The record
names the lowest-numbered cohort of the lowest resident team. -/
def execPreemptDeadline (ctx : Nat) (s : State) : Out :=
  let x := s.ctx ctx
  let open_ := x.state = .preempting || (x.state = .stopping && !x.drained)
  if open_ && x.deadline != 0 && decide (x.deadline ≤ (s.clk + 2 ^ 64 - x.since) % 2 ^ 64) then
    let t := (sortBy (fun (t : Team) => t.lid * 2 ^ 24 + t.teamid) (s.teamsOf ctx)).head?
    let c := t.bind (fun t => (sortBy Cohort.cohid (s.cohortsOf t.key)).head?)
    let r := match c with
      | some c => FaultRec.of { c with skid := false } 0 (flt causeDeadline 0)
      | none => FaultRec.blank ctx x.tenant causeDeadline 0
    .next (s.killWith r [])
  else .next s

/-! ## STOP and the capture (R362, R366, R379) -/

/-- A cohort as a stop captures it (R193, R198, R285, R362): operations have landed; a suspended cohort is saved at its word, marked
where the word must not be performed again from its start. -/
def Cohort.captured (c : Cohort) : Cohort :=
  let c := (c.v.ops.filter (fun o => o.kind != .sysc)).foldl (fun c o => c.complete o.id o.writes) c
  let c := { c with
    halted := true, asked := false, fence := false, strong := false, reads := []
    v := { c.v with ops := c.v.ops.map (fun (o : Op) => { o with keys := [] }) } }
  let back (c : Cohort) (m : Option Mark) : Cohort := { c with wait := none, mark := m, idx := c.idx - 1 }
  match c.wait with
  | none => c
  | some (.waita ..) | some (.evwait ..) => back c c.mark
  | some (.sysAnswer _ pa d op) => back c (some (.sysPosted pa d op))
  | some (.barrier cl b token) => back c (some (.barArrived cl b token))
  | some .sysRoom =>
    (c.mark.bind Mark.op).elim { c with wait := none } (fun op => { c.dropOp op with wait := none, mark := none })
  | some (.arrive _ _) => { c with wait := none }

/-- The bytes of a physical range that memory lists. -/
def State.listed (s : State) (lo hi : Nat) : List (Nat × Byte) := s.mem.filter (fun e => decide (lo ≤ e.1) && decide (e.1 < hi))
/-- The scratchpad shares of a team. -/
def State.shareBytes (s : State) (t : Team) : List (Nat × Byte) :=
  let run (core b : Nat) : List (Nat × Byte) :=
    s.listed (slotAddr core (spOffset + 16384 * b)) (slotAddr core (spOffset + 16384 * (b + t.shareN)))
  run t.core t.shareB ++ (if t.pair then run (t.core + 1) t.shareB2 else [])

/-- A residency as a stop captures it (R261). -/
def Residency.captured (r : Residency) : Residency :=
  if r.state = .empty then r else { r with state := .evicted, codes := [], scales := [] }

/-- Whether a capture holds a byte on chip: of its teams' shares, or of the accumulator store or scale memory of a core that it claims. -/
def Capture.holds (k : Capture) (pa : Nat) : Bool :=
  let run (core lo n : Nat) : Bool := decide (slotAddr core lo ≤ pa) && decide (pa < slotAddr core (lo + n))
  k.teams.any (fun t => run t.team.core (spOffset + 16384 * t.team.shareB) (16384 * t.team.shareN) ||
    (t.team.pair && run (t.team.core + 1) (spOffset + 16384 * t.team.shareB2) (16384 * t.team.shareN))) ||
  k.claims.any (fun c => run c.1 accOffset 0x20000 || run c.1 scaleOffset 0x4000)

/-- What a stop captures of a context (R362), the marks of its sectors included (R367). -/
def State.captureOf (s : State) (ctx size : Nat) : Capture :=
  let hold (k : Nat) : Bool := k / 64 / 2 ^ 32 == ctx
  let k : Capture :=
    { teams := (s.teamsOf ctx).map (fun t =>
        { team := t, cohorts := (s.membersOf t.key).map Cohort.captured, bytes := s.shareBytes t })
      claims := (s.cores.filter (fun e => e.2.claim = some ctx)).map (fun e =>
        (e.1, e.2.mstat, s.listed (slotAddr e.1 accOffset) (slotAddr e.1 (accOffset + 0x20000)) ++
          s.listed (slotAddr e.1 scaleOffset) (slotAddr e.1 (scaleOffset + 0x4000))))
      res := s.cores.flatMap (fun e => (e.2.res.filter (fun r => r.2.ctx = ctx && r.2.state != .free)).map (fun r =>
        (e.1, r.1, r.2.captured)))
      bars := s.clusters.flatMap (fun e => (e.2.bars.filter (fun b => hold b.1)).map (fun b => (e.1, b.1, b.2)))
      ranks := s.clusters.flatMap (fun e => (e.2.ranks.filter (fun b => b.1 / 2 ^ 32 == ctx)).map (fun b => (e.1, b.1, b.2)))
      launches := (s.ctx ctx).launches, fabs := (List.range 4).map (fun die => (die, s.fab die ctx)), marks := []
      major := Config.firmwareMajor, size := size, image := [] }
  { k with marks := s.poison.filter (fun p => k.holds (16 * p)) }

/-- Whether the save area suffices (R366). -/
def Ctx.saveOk (x : Ctx) : Bool :=
  x.save != 0 && decide (x.savesz ≤ x.savelim) && areaRam x.save && areaRam (x.save + x.savesz - 1) &&
  areaOf x.save == areaOf (x.save + x.savesz - 1)

/-- The capture is written and the context's cores are freed (R362, R366): pinned residencies stay charged. -/
def State.putCapture (s : State) (ctx : Nat) : State :=
  let x := s.ctx ctx
  let image := (List.range x.savesz).map (fun i => Config.captureByte s.tick i)
  let k := { s.captureOf ctx x.savesz with image := image }
  let s := s.write (cellsFrom x.save image)
  let s := s.modCtx ctx (fun x => { x with capture := some k, short := false })
  let s := s.dropTeams ctx
  let s := k.res.foldl (fun (s : State) e => s.modRes e.1 e.2.1 (fun r => { Residency.init with serial := r.serial })) s
  (s.modCtx ctx (fun x => { x with state := .stopped, drained := false })).logEvent ctx 0x80 0

/-- STOP (R360): step 1 and the halt requests of step 2; in STOPPING, another test of the save area (R366). -/
def execStop (ctx : Nat) (s : State) : Out :=
  let x := s.ctx ctx
  match x.state with
  | .preempted =>
    .next ((s.modCtx ctx (fun x => { x with state := .stopping, since := s.clk, drained := false })).soon (.stopDrainEnd ctx))
  | .running =>
    let s := s.modCtx ctx (fun x => { x with state := .stopping, since := s.clk, drained := false })
    .next ((s.teamsOf ctx).foldl (fun s t =>
      if t.status = .running then (s.setTeam { t with status := .halting .stop }).askTeam t.key else s) s)
  | .stopping => if x.short && x.saveOk then .next (s.putCapture ctx) else .next (s.refuse ctx)
  | .stopped => .next s
  | .free | .preempting | .terminated => .next (s.refuse ctx)

/-- Whether a team stands still for good under a STOP. -/
def Team.still (t : Team) : Bool :=
  match t.status with
  | .parked | .descheduled _ | .held | .stopped => true
  | .halting _ | .running => false

/-- STOP_DRAIN_END (R362, R366, R459): every team has halted, every command has retired and no fabric message is in flight. The
capture is written where the save area suffices; else the context waits for one. -/
def execStopDrainEnd (ctx : Nat) (s : State) : Out :=
  let x := s.ctx ctx
  let fabric := s.fcmds.any (fun f => f.ctx == ctx || f.msgs.any (fun m => m.module == s.fabMod && m.msg.ctx == ctx && !m.done))
  if x.state = .stopping && !x.drained && (s.teamsOf ctx).all (fun t => t.still && s.teamQuiet t.key) && !s.ctxBusy ctx && !fabric then
    let s := s.drainCtx ctx
    let s := s.modCtx ctx (fun x => { x with drained := true, savesz := Config.captureSize s.tick ctx % 2 ^ 40 })
    if (s.ctx ctx).saveOk then .next (s.putCapture ctx)
    else .next ((s.modCtx ctx (fun x => { x with short := true })).ctxMsi ctx)
  else .next s

/-! ## RESUME (R360, R363, R365) -/

/-- The target slot of a source slot in the core map. -/
def State.mapped (s : State) (map slot : Nat) : Nat := s.readN (map + 2 * slot) 2

/-- The cores of which a capture holds state, and whether each is the leader of a pair (R363). -/
def Capture.sources (k : Capture) : List Nat :=
  (k.teams.flatMap (fun t => if t.team.pair then [t.team.core, t.team.core + 1] else [t.team.core]) ++ k.claims.map Prod.fst ++
    k.res.flatMap (fun r => if r.2.2.pair then [r.1, r.1 + 1] else [r.1])).eraseDups
def Capture.leaders (k : Capture) : List Nat :=
  (k.teams.filter (fun t => t.team.pair)).map (fun t => t.team.core) ++ (k.res.filter (fun r => r.2.2.pair)).map Prod.fst

/-- No target but 0xFFFF comes twice; seen has a bit for each before. -/
def distinctTargets : List Nat → Nat → Bool
  | [], _ => true
  | t :: ts, seen => if t = 0xFFFF then distinctTargets ts seen else !seen.testBit t && distinctTargets ts (seen ||| 2 ^ t)

/-- Whether a restore is allowed (R363). A map entry that names no slot is refused like 0xFFFF where its source holds state (log entry 82). -/
def State.mayRestore (s : State) (k : Capture) (map : Nat) : Bool :=
  let src := k.sources
  let tgt := src.map (s.mapped map)
  decide (k.major = Config.firmwareMajor) && tgt.all (fun t => decide (t < 2048)) &&
  distinctTargets ((List.range 2048).map (s.mapped map)) 0 &&
  k.leaders.all (fun l => s.mapped map l % 2 == 0 && s.mapped map (l + 1) == s.mapped map l + 1) &&
  tgt.all (fun t => (s.teamsOnCore t).isEmpty) &&
  k.res.all (fun r =>
    let t := s.mapped map r.1
    (Tab.get Residency.init (s.core t).res r.2.1).state == .free && s.slotFree t r.2.2 && (!r.2.2.pair || s.slotFree (t + 1) r.2.2))

/-- A byte of a source slot at its place in the target slot. -/
def movedByte (map : Nat → Nat) (e : Nat × Byte) : Nat × Byte :=
  let off := e.1 - onchipBase
  (slotAddr (map (off / 0x400000)) (off % 0x400000), e.2)

/-- A captured cohort on its target core: its share lies at the same granules. -/
def State.restoreCohort (s : State) (map : Nat → Nat) (status : TeamStatus) (c : Cohort) : State :=
  let core := map c.core
  let held := status == .held
  let slot := ((s.freeSlots core).head?).getD 0
  let c := { c with core := core, slot := slot, halted := held, asked := false, fault := none, stamp := s.tick, skip := 0 }
  { s with cohorts := Tab.put s.cohorts c.id c }

/-- A captured team on its target cores (R216, R363): held where it was held, ready elsewhere. -/
def State.restoreTeam (s : State) (map : Nat → Nat) (k : CapTeam) : State :=
  let t := k.team
  let core := map t.core
  let status : TeamStatus := if t.status = .held then .held else .running
  let s := match (s.ctx t.ctx).launches.find? (fun l => l.order == t.order) with
    | some l => (if t.pair then [core, core + 1] else [core]).foldl (fun (s : State) n =>
        let s := s.prepare l n
        s.clearRange (slotAddr n spOffset) (slotAddr n (spOffset + 0x80000))) s
    | none => s
  let s := s.setTeam { t with core := core, status := status, bars := t.bars.map (fun (e : Nat × Barrier) => (e.1, e.2.restart s.clk)) }
  k.cohorts.foldl (fun s c => s.restoreCohort map status c) s

/-- A captured cluster barrier or rank goes to every cluster on which a team of its launch and cluster is restored. -/
def Capture.homes (k : Capture) (map : Nat → Nat) (cl lk : Nat) : List Nat :=
  ((k.teams.filter (fun t => clusterOf t.team.core == cl && launchKey t.team.ctx t.team.lid == lk)).map (fun t =>
    clusterOf (map t.team.core))).eraseDups

/-- A capture comes back (R363): launches, teams with their shares on cores that are repartitioned for them (R216), claims with their stores,
descriptors, cluster barriers; queued launches test their dependences from the start (R379). -/
def State.restore (s : State) (ctx : Nat) (k : Capture) : State :=
  let map := s.mapped (s.ctx ctx).map
  let s := s.modCtx ctx (fun x => { x with
    capture := none, savesz := 0
    launches := k.launches.map (fun (l : Launch) => { l with held := if l.queued then 0 else l.held, stuck := false }) })
  let s := k.teams.foldl (fun s t => s.restoreTeam map t) s
  let s := s.pokes ((k.teams.flatMap CapTeam.bytes).map (movedByte map))
  let s := k.claims.foldl (fun (s : State) c =>
    let n := map c.1
    ((s.takeClaim n ctx).modCore n (fun e => { e with mstat := c.2.1 })).pokes (c.2.2.map (movedByte map))) s
  let s := k.res.foldl (fun (s : State) r => s.modRes (map r.1) r.2.1 (fun _ => r.2.2)) s
  let s := k.bars.foldl (fun (s : State) b => (k.homes map b.1 (b.2.1 / 64)).foldl (fun s cl =>
    s.modCluster cl (fun q => { q with bars := Tab.put q.bars b.2.1 (b.2.2.restart s.clk) })) s) s
  let s := k.ranks.foldl (fun (s : State) b => (k.homes map b.1 b.2.1).foldl (fun s cl =>
    s.modCluster cl (fun q => { q with ranks := Tab.put q.ranks b.2.1 b.2.2 })) s) s
  let s := k.fabs.foldl (fun (s : State) b => s.modFab b.1 ctx (fun x => { x with
    ctrs := b.2.ctrs, trigs := b.2.trigs, waiting := b.2.waiting })) s
  { s with poison := s.poison ++ k.marks.map (fun p => (movedByte map (16 * p, 0)).1 / 16) }

/-! ### A save area that another module has written (R363) -/

/-- The launches of such a capture in order, each with its order of acceptance there, and with a fresh one. What clk was here when such a launch's
last team started is nothing that the spec gives: a free value. -/
def adoptLaunches (ctx : Nat) : List Launch → State → State × List (Nat × Launch)
  | [], s => (s, [])
  | l :: ls, s =>
    let (n, s) := s.freshId
    let (s, more) := adoptLaunches ctx ls s
    (s, (l.order, { l with ctx := ctx, order := n, lastAt := s.choose (540000 + ls.length) (2 ^ 64) }) :: more)
/-- A team of such a capture becomes the context's own: fresh identities, the context's tenant, and no bytes but those of its shares. -/
def CapTeam.adopt (ctx tenant key : Nat) (orders : List (Nat × Launch)) (k : CapTeam) : CapTeam :=
  let ids := (List.range k.cohorts.length).map (fun i => key + 1 + i)
  let mine (core b pa : Nat) : Bool :=
    decide (slotAddr core (spOffset + 16384 * b) ≤ pa) && decide (pa < slotAddr core (spOffset + 16384 * (b + k.team.shareN)))
  let order := ((orders.find? (fun o => o.1 == k.team.order)).map (fun o => o.2.order)).getD 0
  { team := { k.team with key := key, ctx := ctx, tenant := tenant, order := order, cohorts := ids }
    cohorts := (k.cohorts.zip ids).map (fun c => { c.1 with id := c.2, team := key, ctx := ctx, tenant := tenant })
    bytes := k.bytes.filter (fun e => mine k.team.core k.team.shareB e.1 || (k.team.pair && mine (k.team.core + 1) k.team.shareB2 e.1)) }
/-- The teams of such a capture in order, each with the identities that follow the one before it. -/
def adoptTeams (ctx tenant : Nat) (orders : List (Nat × Launch)) : List CapTeam → State → State × List CapTeam
  | [], s => (s, [])
  | k :: ks, s =>
    let t := k.adopt ctx tenant s.fresh orders
    let (s, ts) := adoptTeams ctx tenant orders ks { s with fresh := s.fresh + 1 + k.cohorts.length }
    (s, t :: ts)
/-- Such a capture becomes the context's own. -/
def State.adopt (s : State) (ctx : Nat) (k : Capture) : State × Capture :=
  let tenant := (s.ctx ctx).tenant
  let (s, launches) := adoptLaunches ctx k.launches s
  let (s, teams) := adoptTeams ctx tenant launches k.teams s
  let own (n key : Nat) : Nat := ctx * 2 ^ n + key % 2 ^ n
  let area (core : Nat) (e : Nat × Byte) : Bool :=
    let off := e.1 - slotAddr core 0
    decide (slotAddr core accOffset ≤ e.1) && (decide (off < accOffset + 0x20000) ||
      (decide (scaleOffset ≤ off) && decide (off < scaleOffset + 0x4000)))
  (s, { k with
    teams := teams, claims := k.claims.map (fun c => (c.1, c.2.1, c.2.2.filter (area c.1)))
    res := k.res.map (fun r => (r.1, r.2.1 % 16, { r.2.2.captured with ctx := ctx, tenant := tenant }))
    bars := k.bars.map (fun b => (b.1, own 38 b.2.1, b.2.2)), ranks := k.ranks.map (fun b => (b.1, own 32 b.2.1, b.2.2))
    launches := launches.map Prod.snd, marks := k.marks.filter (fun p => k.holds (16 * p)) })

/-- The units that a capture's pinned residencies hold (R257, R258). -/
def Capture.units (k : Capture) : Nat := ((k.res.filter (fun r => r.2.2.pinned)).map (fun r => r.2.2.units)).foldl (fun n u => n + u) 0
/-- The capture that the save area gives (R363, R366): RESUME reads exactly the bytes of ctx_savesz. Bytes that this module has written are its
capture; any others are what another module has written, if anything, and its pinned residencies are charged in place of the captured ones. -/
def State.savedCapture (s : State) (ctx : Nat) : Option (State × Capture) :=
  let x := s.ctx ctx
  let bs := s.bytes x.save x.savesz
  match x.capture with
  | none => none
  | some k =>
    if bs = k.image then some (s, k)
    else (Config.captureFrom bs).map (fun f =>
      let (t, f) := s.adopt ctx f
      (t.setTen x.tenant { t.ten x.tenant with used := (t.ten x.tenant).used - k.units + f.units }, f))

/-- A context that runs again: its state, event 0x84, and the triggers that its counters have reached (R365, R459). -/
def State.running (s : State) (ctx : Nat) : State :=
  let s := (s.modCtx ctx (fun x => { x with state := .running })).logEvent ctx 0x84 0
  (List.range 4).foldl (fun s die => (s.refire die ctx true).testTriggers die ctx (fun _ => true)) s

/-- RESUME (R360, R363). A poisoned sector of the save area or of the core map ends the context (R368). No
team is placed in PS2 and PS3 (R435): a restore of teams is refused there (log entry 90). -/
def execResume (ctx : Nat) (s : State) : Out :=
  let x := s.ctx ctx
  match x.state with
  | .free | .preempted => .next (s.running ctx)
  | .running => .next s
  | .stopped =>
    match s.poisonIn x.save x.savesz <|> s.poisonIn x.map 4096 with
    | some p => .next (s.killWith { FaultRec.blank ctx x.tenant causePoison 5 with paddr := p, flags := 9 } [])
    | none =>
      match s.savedCapture ctx with
      | none => .next (s.refuse ctx)
      | some (t, k) => if t.mayRestore k x.map && (k.teams.isEmpty || decide (s.pwr.state < 2)) then .next ((t.restore ctx k).running ctx) else .next (s.refuse ctx)
  | .preempting | .stopping | .terminated => .next (s.refuse ctx)

/-! ## TERMINATE, RELEASE and CONTINUE (R360, R364, R365) -/

/-- TERMINATE: a commanded termination has cause 0 (R364). -/
def execTerminate (ctx : Nat) (s : State) : Out :=
  match (s.ctx ctx).state with
  | .free => .next (s.refuse ctx)
  | .terminated => .next s
  | .running | .preempting | .preempted | .stopping | .stopped => .next (s.beginEnd ctx 0)

/-- RELEASE (R360): of a context that is still coming to its end, it takes effect when that is reached (log entry 58). -/
def execRelease (ctx : Nat) (s : State) : Out :=
  match (s.ctx ctx).state with
  | .free => .next s
  | .terminated => .next (if (s.ctx ctx).ending then s.modCtx ctx (fun x => { x with release := true }) else s.releaseCtx ctx)
  | .running | .preempting | .preempted | .stopping | .stopped => .next (s.refuse ctx)

/-- CONTINUE (R365): every held team becomes ready. -/
def execContinueC (ctx : Nat) (s : State) : Out :=
  .next ((s.teamsOf ctx).foldl (fun s t => if t.status = .held then s.wakeTeam t else s) s)

/-! ## Poison at a hart (R369) -/

/-- HART_POISON_TRAP: a hart consumes a poisoned sector. -/
def execHartPoisonTrap (hart pa : Nat) (s : State) : Out :=
  if (s.poisonIn pa 1).isSome then .next (s.hartTrap hart trapHardware pa) else .next s

end Sys2Proof.Machine
end

