-- ==== Sys2Proof/Machine/Control.lean ====
section
/-!
DEFINITION. Control flow, register windows, traps, exit (R144 to R169).
-/

namespace Sys2Proof.Machine

/-- The clause ends and the focused cohort goes on at a clause start (R144). -/
def State.jump (s : State) (pc : Nat) : State := { s with co := s.co.goto pc }
/-- It goes on at the clause that follows. -/
def State.fall (s : State) : State := s.jump s.co.nextClause
/-- The target of format B: 4 * offset from the clause's own header (R50, R147). -/
def Cohort.target (c : Cohort) (o : BitVec 15) : Nat :=
  (BitVec.ofNat 64 c.hdr + (o.signExtend 64 <<< 2)).toNat

/-- The masked condition of a branch (R145). -/
def Cohort.branchMask (c : Cohort) (m : Reg) : Mask := c.mask m &&& c.rd.exec
def BrCond.test (k : BrCond) (m exec : Mask) : Bool :=
  match k with
  | .any => m != 0
  | .all => m == exec
  | .none => m == 0
  | .always => true
/-- U = 1 requires m = 0 or m = exec (R145). -/
def Cohort.disagree (c : Cohort) (u : Bool) (m : Mask) : Bool := u && m != 0 && m != c.rd.exec

/-- BRA and BRC (R147). -/
def State.branch (s : State) (u : Bool) (m : Reg) (k : BrCond) (o : BitVec 15) : Out :=
  if k = .always then .next (s.jump (s.co.target o))
  else
    let x := s.co.branchMask m
    if s.co.disagree u x then .next (s.raise (flt causeUniformity 1))
    else .next (if BrCond.test k x s.co.rd.exec then s.jump (s.co.target o) else s.fall)
def execBra (u : Bool) (m : Reg) (k : BrCond) (o : BitVec 15) (s : State) : Out := s.branch u m k o
def execBrc (u : Bool) (m : Reg) (k : BrCond) (o : BitVec 15) (s : State) : Out := s.branch u m k o

/-- The target pair of BRX and CALLX: the lowest active lane's, on which active lanes must agree when U = 1, and which must be
a multiple of 4 (R145, R148, R158); the agreement is tested first (log entry 74). -/
def Cohort.indirect (c : Cohort) (u : Bool) (a : Reg) : Except FaultInfo Nat :=
  let t := (c.ugetPair a).toNat
  if u && c.active.any (fun l => (c.getPair a l).toNat != t) then .error (flt causeUniformity 1)
  else if t % 4 != 0 then .error { flt causeMisaligned 0 with addr := t }
  else .ok t
def execBrx (u : Bool) (a : Reg) (s : State) : Out :=
  match s.co.indirect u a with
  | .error f => .next (s.raise f)
  | .ok t => .next (s.jump t)

/-- The taken set of BRD (R150). -/
def takenSet (k : BrCond) (m exec : Mask) : Mask :=
  match k with
  | .any | .always => m
  | .none => exec &&& ~~~m
  | .all => if m = exec then exec else 0

/-- BRD (R150). A record pushed as JOINED has a pending mask and target of 0 (log entry 74). -/
def execBrd (u : Bool) (m : Reg) (k : BrCond) (o : BitVec 15) (s : State) : Out :=
  let c := s.co
  let x := c.branchMask m
  let exec := c.rd.exec
  let taken := takenSet k x exec
  let rest := exec &&& ~~~taken
  if c.disagree u x then .next (s.raise (flt causeUniformity 1))
  else if c.lim < c.v.wdepth + 4 then .next (s.raise (flt causeWindowLimit 0))
  else if c.jd = 65535 then .next (s.raise (flt causeWindowLimit 0))
  else
    match s.openWindow 4 with
    | (s, some f) => .next (s.raise f)
    | (s, none) =>
      let t := c.target o
      let up (r : JoinRec) (e : Mask) : State :=
        { s with co := let q := s.co.pushRecord r; { q with jd := q.jd + 1, v := { q.v with exec := e } } }
      if rest = 0 then .next ((up ⟨exec, 0, 0, true⟩ exec).jump t)
      else .next (up ⟨exec, taken, t, false⟩ rest).fall

/-- JOIN (R151). -/
def execJoin (s : State) : Out :=
  if s.co.jd = 0 then .next (s.raise (flt causeUniformity 2))
  else
    match s.refillTo (s.co.v.wdepth - 4) with
    | (s, some f) => .next (s.raise f)
    | (s, none) =>
      let r := s.co.topRecord
      if r.joined then
        .next { s with co := ({ s.co.popRecord with jd := s.co.jd - 1 }).setExec r.restore }.fall
      else if r.target % 4 != 0 then .next (s.raise { flt causeMisaligned 0 with addr := r.target })
      else .next ({ s with co := s.co.joinRecord.setExec r.pending }.jump r.target)

/-- The link group of a call with shift k (R159), in the active and inactive lanes. -/
def Cohort.link (c : Cohort) (k ret : Nat) : Cohort :=
  let at_ (i : Nat) : Reg := BitVec.ofNat 6 (k - i)
  (((c.setLanes (at_ 4) (fun _ => BitVec.ofNat 32 ret) c.livel).setLanes (at_ 3)
      (fun _ => BitVec.ofNat 32 (ret / 2 ^ 32 % 2 ^ 25 + k / 4 * 2 ^ 25)) c.livel).setLanes (at_ 2)
      (fun _ => BitVec.ofNat 32 c.jd) c.livel).setLanes (at_ 1) (fun _ => 0) c.livel

/-- CALL and CALLX with shift k (R159); CALLX has tested its target before the window limit (log entry 74). -/
def State.callTo (s : State) (k target : Nat) : Out :=
  if s.co.lim < s.co.v.wdepth + k then .next (s.raise (flt causeWindowLimit 0))
  else
    match s.openWindow k with
    | (s, some f) => .next (s.raise f)
    | (s, none) =>
      let c := s.co.link k s.co.nextClause
      let c := { c with jd := 0, calld := c.calld + 1, v := { c.v with wdepth := c.v.wdepth + k } }
      .next ({ s with co := c.clearRegs (48 - k) 48 }.jump target)
def execCall (_u : Bool) (k : BitVec 6) (o : BitVec 15) (s : State) : Out := s.callTo (4 * k.toNat) (s.co.target o)
def execCallx (u : Bool) (a : Reg) (k : BitVec 5) (s : State) : Out :=
  match s.co.indirect u a with
  | .error f => .next (s.raise f)
  | .ok t => s.callTo (4 * k.toNat) t

/-- RET (R160). A return address that is no multiple of 4 is MISALIGNED (R38), once the frame has been refilled (log entry 74). -/
def execRet (s : State) : Out :=
  if s.co.jd != 0 then .next (s.raise (flt causeUniformity 2))
  else if s.co.calld = 0 then .next (s.raise (flt causeUniformity 3))
  else
    match s.refillLink with
    | (s, some f) => .next (s.raise f)
    | (s, none) =>
      let (ret, k, jd) := s.co.linkOf
      if ret % 4 != 0 then .next (s.raise { flt causeMisaligned 0 with addr := ret })
      else
        let c := s.co
        .next ({ s with co := { c with jd := jd, calld := c.calld - 1, v := { c.v with wdepth := c.v.wdepth - k } } }.jump ret)

/-- EXIT (R167): every active lane exits; a cohort with no live lane left issues nothing more. -/
def execExit (s : State) : Out :=
  let c := s.co
  let live := c.v.live &&& ~~~c.rd.exec
  let c := { c with v := { c.v with live := live, exec := c.v.exec &&& live } }
  .next ({ s with co := { c with exited := live == 0 } }.fall)

/-- COHORT_END (R167). -/
def execCohortEnd (co : Nat) (s : State) : Out := .next (endCohort s co)

/-- YIELD (R168): the next clause is scheduled as though the header carried Y = 1. -/
def execYieldI (s : State) : Out := let t := s.fall; .next { t with co := { t.co with y := true } }

/-- TRAP (R163, R164): SOFT_TRAP with the trap code; delivered, the handler returns to the clause that follows. -/
def execTrap (code : Byte) (s : State) : Out := .next (s.raise (flt causeSoftTrap code.toNat))

/-- ERET (R165). -/
def execEret (s : State) : Out :=
  if s.co.jd != 0 then .next (s.raise (flt causeUniformity 2))
  else
    match s.co.handler with
    | none => .next (s.raise (flt causeUniformity 4))
    | some sv =>
      if s.co.calld != 0 then .next (s.raise (flt causeUniformity 4))
      else
        let l := s.co.lowestLive
        let e : Mask := if s.co.W = 64 then s.co.getPair 0 l else (s.co.get 0 l).setWidth 64
        match s.refillTo (s.co.v.wdepth - 48) with
        | (s, some f) => .next (s.raise f)
        | (s, none) =>
          if s.co.v.trappc != sv.trappc && s.co.v.trappc.toNat % 4 != 0 then
            .next (s.raise { flt causeMisaligned 0 with addr := s.co.v.trappc.toNat })
          else .next (s.leaveTrap e sv)

/-- NOP (R168). -/
def execNop (s : State) : Out := .next (s.lane id 1)

/-- WDEPTH (R169). -/
def execWdepth (d : Reg) (s : State) : Out :=
  .next (s.lane (fun c => c.uniform d (BitVec.ofNat 32 (65536 * c.jd + c.resident))) 1)

/-- TRAP_ENTRY (R162, R163): a fault of the focused cohort at its present word that its handler takes. A cause that is not
delivered enters no handler (log entry 7). -/
def execTrapEntry (cause sub : Byte) (s : State) : Out :=
  let s := { s with co := s.co.landSfu }
  if s.co.delivers cause.toNat then
    .next (s.enterTrap (flt cause.toNat sub.toNat) s.co.wordAddr s.co.wordAddr s.co.hdr s.co.mid)
  else .next s

end Sys2Proof.Machine
end

