-- ==== Sys2Proof/Machine/Flash.lean ====
section
/-!
DEFINITION. Flash and the append engine (R403 to R418): logs and their windows, APP, APPSYNC, APPSEAL and FMPREQ, the requests of
the supervisor, durability, relocation, and the restart of the Flash Management Processor.
-/

namespace Sys2Proof.Machine

/-! ## Logs, windows and leaves (R404 to R406) -/

/-- Log n, which holds nothing unless it has been created. -/
def State.flog (s : State) (n : Nat) : FLog := Tab.get FLog.init s.logs n
def State.setLog (s : State) (n : Nat) (l : FLog) : State := { s with logs := Tab.put s.logs n l }
/-- A segment of a log: 16 MiB (R405). -/
def segSize : Nat := 2 ^ 24
/-- The first physical granule of the flash range, and how many there are (R394). -/
def flashGranule : Nat := 0x100000000000 / 65536
def flashGranules : Nat := 2 ^ 27

/-- The window of a log in a context: writable only, or any. -/
def FLog.winOf (l : FLog) (ctx : Nat) (writable : Bool) : Option LogWin :=
  (l.wins.find? (fun w => w.2.ctx == ctx && (!writable || w.1 == 0))).map Prod.snd

/-- The address of the PTE of a window for the 4 KiB page at a log offset. -/
def LogWin.pteAt (w : LogWin) (off : Nat) : Nat := w.table + 8 * (off / 4096)
/-- The leaf that the Flash Management Processor writes for a granule (R404). -/
def LogWin.leaf (w : LogWin) (frame : Nat) (moving : Bool) : Nat :=
  2 ^ 63 + w.attr * 2 ^ 55 + (frame * 16 + 8) * 2 ^ 10 + (if moving then 0x300 else 0) + 0x13

/-- Writes the sixteen PTEs of a granule of a log in a window. -/
def State.putLeaf (s : State) (w : LogWin) (g v : Nat) : State :=
  if 65536 * g < w.size then
    (List.range 16).foldl (fun s i =>
      let at_ := w.pteAt (65536 * g + 4096 * i)
      if areaRam at_ then s.writeN at_ 8 v else s) s
  else s
/-- Changes the sixteen PTEs of a granule of a log in a window. -/
def State.modLeaf (s : State) (w : LogWin) (g : Nat) (f : Nat → Nat) : State :=
  if 65536 * g < w.size then
    (List.range 16).foldl (fun s i =>
      let at_ := w.pteAt (65536 * g + 4096 * i)
      if areaRam at_ then s.writeN at_ 8 (f (s.readN at_ 8)) else s) s
  else s

/-- Every flash granule in use: mapped by a log, or the target of a relocation. -/
def State.framesUsed (s : State) : List Nat :=
  s.logs.flatMap (fun e => e.2.granules.map Prod.snd) ++ s.relocs.flatMap (fun r => [r.old, r.new])
/-- A free granule of flash, chosen freely; none when flash is exhausted. -/
def State.freeFrame (s : State) (site : Nat) : Option Nat :=
  let used := s.framesUsed
  let r := Config.frame s.tick site
  ((List.range (used.length + 1)).map (fun i => flashGranule + (r + i) % flashGranules)).find? (fun g => !used.contains g)

/-- Maps a granule of a log in every window before its first append completes (R406); its lines read as zero (R405): nothing of
what the frame held before stays in a cache. -/
def State.mapGranule (s : State) (log g frame : Nat) : State :=
  let l := s.flog log
  let s := (s.clearRange (65536 * frame) (65536 * (frame + 1))).forget (65536 * frame) (65536 * (frame + 1))
  let s := s.setLog log { l with granules := Tab.put l.granules g frame }
  l.wins.foldl (fun (s : State) w => s.putLeaf w.2 g (w.2.leaf frame false)) s

/-- Maps the granules of some offsets that are not mapped, or none of them when flash is exhausted. -/
def State.mapAll (log : Nat) : List Nat → State → Option State
  | [], s => some s
  | g :: gs, s =>
    if (Tab.find (s.flog log).granules g).isSome then State.mapAll log gs s
    else match s.freeFrame (9000 + g) with
      | none => none
      | some f => State.mapAll log gs (s.mapGranule log g f)

/-- The physical address of a log offset, where its granule is mapped. -/
def FLog.paOf (l : FLog) (off : Nat) : Option Nat := (Tab.find l.granules (off / 65536)).map (fun f => 65536 * f + off % 65536)

/-- A block that the Flash Management Processor comes to hold (R403): reads of any granule of some segments of a log may stall for a while;
which ones is free (log entry 59). -/
def State.holdBlocks (s : State) (log sub : Nat) (segs : List Nat) : State :=
  { s with stalls := (s.flog log).granules.foldl (fun (m : List (Nat × Nat)) e =>
      if segs.contains (e.1 / 256) && (Tab.find m e.2).isNone && s.pick (9200000 + e.2) then Tab.put m e.2 sub else m) s.stalls }

/-! ## Appends (R407, R410) -/

/-- What a request comes to: its status, REPLAYED, offset and sequence. -/
structure Done where
  code : Nat
  rep  : Bool
  off  : Nat
  seqn : Nat
  deriving DecidableEq, Repr

/-- A record's sequence number (R407). -/
def LogRec.seqn (r : LogRec) : Nat := r.epoch * 2 ^ 48 + r.count

/-- Where the next record of n lines of a log begins (R407). -/
def FLog.place (l : FLog) (n : Nat) : Nat :=
  if segSize < l.stop % segSize + 64 * n then (l.stop / segSize + 1) * segSize else l.stop

/-- An operation that is not performed gives an offset and a sequence that the spec does not state (log entry 16). -/
def State.notDone (s : State) (code : Nat) : Done :=
  { code := code, rep := false, off := s.choose 9100 (2 ^ 48), seqn := s.choose 9101 (2 ^ 64) }

/-- An append of a record (R407, R410, R415). A block that is being programmed may stall reads for a while (R354, R403). -/
def State.append (s : State) (log n ident : Nat) (data : List Byte) : State × Done :=
  let l := s.flog log
  match l.wins.find? (fun w => w.1 == 0) with
  | none => (s, s.notDone 1)
  | some w =>
    match (if ident = 0 then none else l.recs.find? (fun r => r.ident == ident)) with
    | some r => (s, { code := 0, rep := true, off := r.off, seqn := r.seqn })
    | none =>
      let off := l.place n
      if w.2.size < off + 64 * n then (s, s.notDone 2)
      else
        let g0 := off / 65536
        let gs := (List.range ((off + 64 * n - 1) / 65536 + 1 - g0)).map (fun i => g0 + i)
        match State.mapAll log gs s with
        | none => (s, s.notDone 2)
        | some t =>
          let l := t.flog log
          let r : LogRec := { off := off, lines := n, count := l.last + 1, epoch := t.fmp.epoch, ident := ident }
          let cells := ((List.range (64 * n)).zip data).filterMap (fun x => (l.paOf (off + x.1)).map (fun a => (a, x.2)))
          let t := t.write cells
          let t := t.setLog log { l with recs := l.recs ++ [r], stop := off + 64 * n, last := r.count, lastSeq := r.seqn }
          (t.holdBlocks log 3 [off / segSize], { code := 0, rep := false, off := off, seqn := r.seqn })

/-! ## Durability, sync and seal (R408, R416, R417) -/

/-- A log with its first d counts durable. -/
def FLog.durableTo (l : FLog) (epoch d : Nat) : FLog :=
  if d ≤ l.durable then l
  else
    let gone := l.gone.filter (fun r => decide (d < r.count))
    match (l.recs ++ l.gone).find? (fun r => r.count == d) with
    | some r => { l with durable := d, durSeq := r.seqn, durEnd := r.off + 64 * r.lines, gone := gone }
    | none => { l with durable := d, durSeq := if d = l.last then l.lastSeq else epoch * 2 ^ 48 + d, gone := gone }

/-- The count of the first record that trim has not removed. -/
def FLog.firstCount (l : FLog) : Nat := ((l.recs.head?).map LogRec.count).getD (l.last + 1)

/-- What an APPSYNC of a sequence number is to wait for (R416). -/
def FLog.goalOf (l : FLog) (epoch q : Nat) : SyncGoal :=
  let c := q % 2 ^ 48
  let e := q / 2 ^ 48
  let live := l.recs.any (fun r => r.count == c && r.epoch == e)
  if c ≤ l.durable && (decide (c < l.firstCount) || live) then .now
  else if live then .upTo c
  else if e = epoch && decide (l.last < c) then .upTo l.last
  else .lost
/-- APPSYNC's status (R416), or nothing while it waits. -/
def FLog.synced (l : FLog) : SyncGoal → Option Nat
  | .now => some 0
  | .upTo c => if c ≤ l.durable then some 0 else none
  | .lost => some 6

/-- APPSEAL (R417). -/
def FLog.seal (l : FLog) (epoch : Nat) : FLog × Done :=
  let seg := l.stop / segSize
  if l.recs.any (fun r => r.off / segSize == seg) then
    let l := l.durableTo epoch l.last
    let stop := (seg + 1) * segSize
    ({ l with sealedS := l.sealedS ++ [seg], stop := stop, durEnd := stop }, { code := 0, rep := false, off := stop, seqn := l.lastSeq })
  else (l, { code := 0, rep := false, off := l.stop, seqn := l.durSeq })

/-! ## How a request ends (R413, R418) -/

/-- The result block of a cohort's request: four registers in every active and inactive lane. -/
def State.resultBlock (s : State) (co op : Nat) (d : Done) : State :=
  let w : List Word := [BitVec.ofNat 32 d.off, BitVec.ofNat 32 (bitsOf d.off 32 16 + d.code * 2 ^ 16 + (if d.rep then 2 ^ 30 else 0)),
    BitVec.ofNat 32 d.seqn, BitVec.ofNat 32 (d.seqn / 2 ^ 32)]
  s.modCohort co (fun c => match c.op? op with
    | none => c
    | some o =>
      let n := o.keys.length / 4
      c.complete op (o.keys.zip (w.flatMap (List.replicate n))))

/-- A request leaves the queue: its scoreboard entries are freed. -/
def State.dropReq (s : State) (r : FmpReq) : State :=
  { s.freeSb r.id with freqs := s.freqs.filter (fun q => q.id != r.id) }

/-- The end of a request: the results and the status of its block, then the result block or the MSI. The issuing team's copies of the
block are gone (R342). A block whose bytes would merge into poison ends the context instead (R367, R368). -/
def State.endReq (s : State) (r : FmpReq) (d : Done) (res : List Nat) : State :=
  let s := s.dropReq r
  let cells := cellsFrom (r.block + 40) (res.flatMap (natLe 8)) ++ cellsFrom (r.block + 4) (natLe 4 (d.code + (if d.rep then 2 ^ 30 else 0) + 2 ^ 31))
  match r.src with
  | .mbox => (s.write cells).sendMsi s.fmp.msiAddr s.fmp.msiData
  | .cohort core co op ctx _ =>
    if r.op < 16 then s.resultBlock co op d
    else match s.poisonMerge cells with
      | some p =>
        let first := ((cells.filter (fun x => x.1 / 16 == p / 16)).map Prod.fst).min?.getD r.block
        (s.modCohort co (fun c => c.dropOp op)).enginePoison ctx co r.pc 2 (p, r.va + (first - r.block))
      | none =>
        let cores := ((s.cohort? co).map Cohort.teamCores).getD [core]
        (cores.foldl (fun (s : State) n => s.dropLines n [r.block / 64]) (s.write cells)).resultBlock co op { d with off := 0, seqn := 0 }

/-- A request whose source or block held poison ends its context (R227, R414); one of the supervisor is refused. -/
def State.poisonReq (s : State) (r : FmpReq) : State :=
  match r.src, r.poison with
  | .cohort _ co op ctx _, some p => ((s.dropReq r).modCohort co (fun c => c.dropOp op)).enginePoison ctx co r.pc 5 p
  | _, _ => s.endReq r { code := 5, rep := false, off := 0, seqn := 0 } []

/-- The accepted request with an id and an operation. -/
def State.reqOf (s : State) (id op : Nat) (k : FmpReq → Out) : Out :=
  match s.freqs.find? (fun r => r.id == id && r.op == op) with
  | none => .next s
  | some r => k r
/-- Whether a request comes first among those that its log takes in order (R407). -/
def State.isFirst (s : State) (r : FmpReq) : Bool := (s.fmpFirst r).id == r.id

/-- Whether a request may use its log (R413): a cohort's needs a window in its context, the supervisor's only that there is such a log. -/
def State.mayUse (s : State) (r : FmpReq) (writable : Bool) : Bool :=
  match r.src with
  | .mbox => (Tab.find s.logs r.log).isSome
  | .cohort _ _ _ ctx _ => ((s.flog r.log).winOf ctx writable).isSome

/-- APP_COMPLETE (R415). For the issuing team, its copies of the record's lines are gone. -/
def execAppComplete (req : Nat) (s : State) : Out :=
  s.reqOf req 0 (fun r =>
    if !s.isFirst r then .next s
    else if r.poison.isSome then .next (s.poisonReq r)
    else if !s.mayUse r true then .next (s.endReq r (s.notDone 1) [])
    else
      let (t, d) := s.append r.log r.lines r.ident r.data
      let l := t.flog r.log
      let lines := ((List.range r.lines).filterMap (fun i => l.paOf (d.off + 64 * i))).map (fun a => a / 64)
      let cores := match r.src with
        | .cohort core co _ _ _ => ((t.cohort? co).map Cohort.teamCores).getD [core]
        | .mbox => []
      let t := if d.code = 0 then cores.foldl (fun t n => t.dropLines n lines) t else t
      .next (t.endReq r d []))

/-- The syncs of a log that need wait no longer, and its seal where one comes first. -/
def State.settleLog (s : State) (log : Nat) : State :=
  (s.freqs.filter (fun r => r.log == log)).foldl (fun s r =>
    let l := s.flog log
    if r.op = 1 then
      if !s.mayUse r false then s.endReq r (s.notDone 1) []
      else match l.synced r.goal with
        | none => s
        | some code => s.endReq r { code := code, rep := false, off := l.stop, seqn := l.durSeq } []
    else if r.op = 2 && s.isFirst r then
      if !s.mayUse r true then s.endReq r (s.notDone 1) []
      else
        let (l, d) := l.seal s.fmp.epoch
        (s.setLog log l).endReq r d []
    else s) s

/-- DURABILITY_ADVANCE (R408): the next n records of a log become durable, in order; what waited for them completes. -/
def execDurabilityAdvance (log n : Nat) (s : State) : Out :=
  let l := s.flog log
  let s := if Tab.find s.logs log = none then s
    else s.setLog log (l.durableTo s.fmp.epoch (min l.last (l.durable + n)))
  .next (s.settleLog log)

/-! ## Requests of FMPREQ and the supervisor (R411, R418) -/

/-- A request that is refused, or that read poison. -/
def State.refuseReq (s : State) (r : FmpReq) : Out := .next (s.poisonReq r)
/-- A request that ends with a status and results. -/
def State.answerReq (s : State) (r : FmpReq) (code : Nat) (rep : Bool) (res : List Nat) : Out :=
  .next (s.endReq r { code := code, rep := rep, off := 0, seqn := 0 } res)
/-- Argument n of a request. -/
def FmpReq.arg (r : FmpReq) (n : Nat) : Nat := r.args.getD n 0
/-- Every argument from n on is 0. -/
def FmpReq.restZero (r : FmpReq) (n : Nat) : Bool := (r.args.drop n).all (fun a => a == 0)
/-- The tenant on whose behalf a request is made. -/
def FmpReq.tenant (r : FmpReq) (l : FLog) : Nat :=
  match r.src with
  | .cohort _ _ _ _ t => t
  | .mbox => ((Tab.find l.wins 0).map LogWin.tenant).getD 0

/-- LOGQUERY. -/
def execLogquery (req : Nat) (s : State) : Out :=
  s.reqOf req 17 (fun r =>
    let l := s.flog r.log
    if r.bad || r.poison.isSome || !r.restZero 0 then s.refuseReq r
    else if !s.mayUse r false then s.answerReq r 1 false []
    else s.answerReq r 0 false [l.stop, l.lastSeq, l.durable % 2 ^ 32 + l.stop / segSize % 2 ^ 16 * 2 ^ 32 + l.sealedS.length % 2 ^ 16 * 2 ^ 48])

/-- The kept result of an identifier (R411). -/
def State.keptOf (s : State) (tenant ident : Nat) : Option Kept :=
  if ident = 0 then none else s.kept.find? (fun k => k.tenant == tenant && k.ident == ident)
/-- Keeps a result: the latest 4,096 of a tenant. -/
def State.keep (s : State) (k : Kept) : State :=
  let mine := (s.kept.filter (fun x => x.tenant == k.tenant)).take 4095
  { s with kept := k :: (mine ++ s.kept.filter (fun x => x.tenant != k.tenant)) }

/-- Granules of a log leave every window with a shootdown; possible when no command holds their translations
(log entry 61). -/
def State.canUnmap (s : State) (log : Nat) (wins : List LogWin) (gs : List Nat) : Bool :=
  wins.all (fun w => !s.pagesHeld none w.ctx (w.pageIn gs)) && !s.relocs.any (fun r => r.log == log && gs.contains r.index)
def State.unmap (s : State) (wins : List LogWin) (gs : List Nat) : State :=
  wins.foldl (fun s w => (gs.foldl (fun s g => s.putLeaf w g 0) s).shoot none w gs) s

/-- LOGTRIM: the unsealed segments wholly below the offset are freed, the open one included; a sealed one below it is REFUSED. The end stays, and
the first live offset is never beyond it (log entry 60). -/
def execLogtrim (req : Nat) (s : State) : Out :=
  s.reqOf req 18 (fun r =>
    let l := s.flog r.log
    let segs := r.arg 0 / segSize
    if r.bad || r.poison.isSome || !r.restZero 1 then s.refuseReq r
    else match s.keptOf (r.tenant l) r.ident with
      | some k => s.answerReq r k.code true k.res
      | none =>
        if !s.mayUse r true then s.answerReq r 1 false []
        else if l.sealedS.any (fun x => decide (x < segs)) then s.refuseReq r
        else
          let gs := (l.granules.filter (fun e => decide (e.1 < segs * 256))).map Prod.fst
          let wins := l.wins.map Prod.snd
          if !s.canUnmap r.log wins gs then .next s
          else
            let first := max l.first (min (segs * segSize) l.stop)
            let t := (s.unmap wins gs).setLog r.log { l with
              recs := l.recs.filter (fun x => decide (segs * segSize ≤ x.off)), first := first
              gone := l.gone ++ l.recs.filter (fun x => decide (x.off < segs * segSize) && decide (l.durable < x.count))
              granules := l.granules.filter (fun e => !gs.contains e.1) }
            let t := if r.ident = 0 then t else t.keep { tenant := r.tenant l, ident := r.ident, code := 0, res := [first] }
            t.answerReq r 0 false [first])

/-- RESULT (R411). -/
def execFmpResult (req : Nat) (s : State) : Out :=
  s.reqOf req 19 (fun r =>
    let l := s.flog r.log
    if r.bad || r.poison.isSome || !r.restZero 1 || decide (2 ^ 32 ≤ r.arg 0) then s.refuseReq r
    else if !s.mayUse r false then s.answerReq r 1 false []
    else match s.keptOf (r.tenant l) (r.arg 0) with
      | some k => s.answerReq r k.code true k.res
      | none =>
        match (if r.arg 0 = 0 then none else l.recs.find? (fun x => x.ident == r.arg 0)) with
        | some x => s.answerReq r 0 true [x.off, x.seqn]
        | none => s.answerReq r 4 false [])

/-- The window that the arguments of LOGCREATE and LOGMAP describe, where they are valid. -/
def FmpReq.window (r : FmpReq) : Option LogWin :=
  let a := r.arg 1
  let size := a % 2 ^ 40
  if r.arg 0 % 2 ^ 21 = 0 && size % 2 ^ 21 = 0 && size != 0 && bitsOf a 46 2 = 0 && a / 2 ^ 58 = 0 && r.arg 2 % 4096 = 0 &&
      r.restZero 3 then
    some { ctx := bitsOf a 40 6, tenant := bitsOf a 48 4, base := r.arg 0, size := size, attr := bitsOf a 52 6, table := r.arg 2 }
  else none

/-- LOGCREATE. A log that exists is refused. -/
def execLogcreate (req : Nat) (s : State) : Out :=
  s.reqOf req 32 (fun r =>
    match r.window with
    | none => s.refuseReq r
    | some w =>
      if r.bad || (Tab.find s.logs r.log).isSome then s.refuseReq r
      else (s.setLog r.log { FLog.init with wins := [(0, w)] }).answerReq r 0 false [])

/-- LOGMAP: a read-only window with the lowest free index; mapped granules appear in it. -/
def execLogmap (req : Nat) (s : State) : Out :=
  s.reqOf req 33 (fun r =>
    match r.window, Tab.find s.logs r.log with
    | none, _ => s.refuseReq r
    | some w, some l =>
      match (List.range 8).find? (fun i => i != 0 && (Tab.find l.wins i).isNone) with
      | none => s.refuseReq r
      | some i =>
        if r.bad then s.refuseReq r
        else
          let t := s.setLog r.log { l with wins := Tab.put l.wins i w }
          let t := l.granules.foldl (fun (t : State) e =>
            t.putLeaf w e.1 (w.leaf e.2 (s.relocs.any (fun x => x.log == r.log && x.index == e.1 && !x.fresh)))) t
          t.answerReq r 0 false [i]
    | some _, none => if r.bad then s.refuseReq r else s.answerReq r 1 false [])

/-- LOGUNMAP: a window goes, with a shootdown. -/
def execLogunmap (req : Nat) (s : State) : Out :=
  s.reqOf req 34 (fun r =>
    if r.bad || !r.restZero 1 then s.refuseReq r
    else match Tab.find s.logs r.log with
      | none => s.answerReq r 1 false []
      | some l => match Tab.find l.wins (r.arg 0) with
        | none => s.refuseReq r
        | some w =>
          let gs := l.granules.map Prod.fst
          if !s.canUnmap r.log [w] gs then .next s
          else ((s.unmap [w] gs).setLog r.log { l with wins := Tab.erase l.wins (r.arg 0) }).answerReq r 0 false [])

/-- LOGDELETE: every window goes, and the log is freed. -/
def execLogdelete (req : Nat) (s : State) : Out :=
  s.reqOf req 35 (fun r =>
    if r.bad || !r.restZero 0 then s.refuseReq r
    else match Tab.find s.logs r.log with
      | none => s.answerReq r 1 false []
      | some l =>
        let gs := l.granules.map Prod.fst
        let wins := l.wins.map Prod.snd
        if !s.canUnmap r.log wins gs then .next s
        else
          let t := s.unmap wins gs
          ({ t with logs := Tab.erase t.logs r.log }).answerReq r 0 false [])

/-- APPEND of the supervisor: a source that is poisoned or no valid argument is refused. -/
def execAppendS (req : Nat) (s : State) : Out :=
  s.reqOf req 48 (fun r =>
    if !s.isFirst r then .next s
    else if r.bad || r.poison.isSome || r.arg 0 % 64 != 0 || r.arg 1 < 1 || 128 < r.arg 1 || 2 ^ 32 ≤ r.arg 2 || !r.restZero 3 then
      s.refuseReq r
    else
      let (t, d) := s.append r.log (r.arg 1) (r.arg 2) r.data
      if d.code = 0 then t.answerReq r 0 d.rep [d.off, d.seqn] else t.answerReq r d.code false [])

/-- SYNC of the supervisor: it waits as APPSYNC does. -/
def execSyncS (req : Nat) (s : State) : Out :=
  s.reqOf req 49 (fun r =>
    if r.bad || !r.restZero 1 then s.refuseReq r
    else match Tab.find s.logs r.log with
      | none => s.answerReq r 1 false []
      | some l => match l.synced r.goal with
        | none => .next (s.soon (.durabilityAdvance r.log 1))
        | some code => s.answerReq r code false [l.stop, l.durSeq])

/-- SEAL of the supervisor. -/
def execSealS (req : Nat) (s : State) : Out :=
  s.reqOf req 50 (fun r =>
    if !s.isFirst r then .next s
    else if r.bad || !r.restZero 0 then s.refuseReq r
    else match Tab.find s.logs r.log with
      | none => s.answerReq r 1 false []
      | some l =>
        let (l, d) := l.seal s.fmp.epoch
        (s.setLog r.log l).answerReq r 0 false [d.off, d.seqn])

/-- FMP_MBOX_SUBMIT (R418): a supervisor request block is read and accepted, or rejected when 64 are outstanding. A block outside
HBM and LPDDR6 is ignored. -/
def execFmpMboxSubmit (pa : Nat) (s : State) : Out :=
  if !areaRam pa then .next s
  else if 64 ≤ (s.freqs.filter (fun r => r.src == .mbox)).length then .next { s with fmp := { s.fmp with rejected := true } }
  else
    let bs := s.bytes pa 64
    let op := le bs 0 2
    let known := op == 1 || op == 2 || op == 3 || (decide (16 ≤ op) && decide (op ≤ 19)) || (decide (32 ≤ op) && decide (op ≤ 34))
    let log := le bs 2 2
    let args := (List.range 4).map (fun i => le bs (8 + 8 * i) 8)
    let n := args.getD 1 0
    let src := args.getD 0 0
    let append := op == 32
    let (id, s) := s.freshId
    let r : FmpReq :=
      { id := id, src := .mbox, op := if known then 16 + op else 17, log := log % 4096
        bad := !known || log / 4096 != 0 || (s.poisonIn pa 64).isSome, lines := n % 256, ident := 0
        goal := (s.flog (log % 4096)).goalOf s.fmp.epoch src, args := args
        data := if append && decide (n ≤ 128) then s.bytes src (64 * n) else [], block := pa
        va := 0, reads := if append && decide (n ≤ 128) then (List.range n).map (fun i => src / 64 + i) else []
        poison := if append && decide (n ≤ 128) then (s.poisonIn src (64 * n)).map (fun p => (p, 0)) else none, pages := [], pc := 0 }
    .next { s with freqs := s.freqs ++ [r] }

/-! ## APP, APPSYNC, APPSEAL and FMPREQ at acceptance (R413, R414) -/

/-- Accepts a request of the focused cohort: entries taken, flag set, the result block interlocked. -/
def State.acceptReq (s t : State) (f : Bool) (d : Reg) (ks : List Claim) (ps : List Piece) (mk : State → FmpReq → FmpReq) : Out :=
  let c := s.co
  match t.owned ps, s.holdup ks with
  | some cmd, _ => .next (s.waitCmd cmd)
  | none, some cmd => .next (s.waitCmd cmd)
  | none, none =>
    let t := t.ready c ps
    let keys := (List.range 4).flatMap (fun i => c.keysOf (d + BitVec.ofNat 6 i) c.livel)
    let (id, t) := t.startOp .engine (c.flagOf f) keys []
    match t.takeSb id ks with
    | none => .next s
    | some t =>
      let r : FmpReq :=
        { id := id, src := .cohort c.core c.id id c.ctx c.tenant, op := 0, log := 0, bad := false, lines := 0, ident := 0, goal := .now
          args := [], data := [], block := 0, va := 0, reads := pieceLines ps, poison := none, pages := piecePages ps, pc := c.wordAddr }
      .next ({ t with freqs := t.freqs ++ [mk t r] }.lane id_ 1)
where
  /-- Nothing but the advance. -/
  id_ (c : Cohort) : Cohort := c

/-- APP (R413 to R415). -/
def execApp (f : Bool) (d a b : Reg) (s : State) : Out :=
  let c := s.co
  let src := (c.ugetPair a).toNat
  let w := (c.uget b).toNat
  let n := bitsOf w 12 7 + 1
  match misalignedOf 64 [(src, .read)] [] with
  | some e => .next (s.raise e)
  | none =>
    let rs : List Rg := [{ grp := 0, share := false, va := src, len := 64 * n, wr := false }]
    match checkRanges s c { Own.plain with bad05 := w / 2 ^ 19 != 0, late := true } rs with
    | (t, .error e) => .next (t.raise e)
    | (t, .ok ps) =>
      s.acceptReq t f d (claimsOf c rs) ps.flatten (fun t r =>
        { r with op := 0, log := w % 4096, lines := n, ident := (c.uget (b + 1)).toNat, data := t.pieceBytes ps.flatten
                 poison := t.netMark ps.flatten })

/-- A control word without a length (R413). -/
def State.controlWord (s : State) (b : Reg) (k : Nat → Out) : Out :=
  let w := (s.co.uget b).toNat
  if w / 2 ^ 12 != 0 then .next (s.raise (engFault (flt causeCopyRange 5))) else k w

/-- APPSYNC (R416). -/
def execAppsync (f : Bool) (d a b : Reg) (s : State) : Out :=
  s.controlWord b (fun w =>
    s.acceptReq s f d [] [] (fun t r =>
      { r with op := 1, log := w, goal := (t.flog w).goalOf t.fmp.epoch (s.co.ugetPair a).toNat }))

/-- APPSEAL (R417). -/
def execAppseal (f : Bool) (d b : Reg) (s : State) : Out :=
  s.controlWord b (fun w => s.acceptReq s f d [] [] (fun _ r => { r with op := 2, log := w }))

/-- FMPREQ (R418): the block is read at acceptance. -/
def execFmpreq (f : Bool) (d a b : Reg) (s : State) : Out :=
  let c := s.co
  let va := (c.ugetPair a).toNat
  match misalignedOf 64 [(va, .write)] [] with
  | some e => .next (s.raise { e with rd := true })
  | none =>
    let rs : List Rg := [{ grp := 0, share := false, va := va, len := 64, wr := true },
                         { grp := 0, share := false, va := va, len := 64, wr := false }]
    match checkRanges s c { Own.plain with late := true } rs with
    | (t, .error e) => .next (t.raise { e with rd := true, wr := true })
    | (t, .ok ps) =>
      let ps := ps.getD 0 []
      s.acceptReq t f d (claimsOf c rs) ps (fun t r =>
        let bs := t.pieceBytes ps
        let op := le bs 0 2
        let log := le bs 2 2
        let known := op == 1 || op == 2 || op == 3
        { r with
          op := if known then 16 + op else 17, log := log % 4096, bad := !known || log / 4096 != 0, ident := (c.uget b).toNat
          args := (List.range 4).map (fun i => le bs (8 + 8 * i) 8), block := (ps.headD { va := 0, pa := 0, len := 0, leaf := none }).pa
          va := va, poison := t.netMark ps })

/-! ## Relocation (R412) -/

/-- The log and the granule of it that a physical granule holds. -/
def State.granuleOf (s : State) (g : Nat) : Option (Nat × Nat) :=
  s.logs.findSome? (fun e => (e.2.granules.find? (fun x => x.2 == g)).map (fun x => (e.1, x.1)))

/-- FLASH_RELOCATION (R412 step 1): a granule all of whose lines lie below its log's end is to move to a free one. -/
def execFlashRelocation (granule frame : Nat) (s : State) : Out :=
  match s.granuleOf granule with
  | none => .next s
  | some (log, g) =>
    let l := s.flog log
    if l.stop < 65536 * (g + 1) || s.relocs.any (fun r => r.log == log && r.index == g) || s.framesUsed.contains frame ||
        frame < flashGranule || flashGranule + flashGranules ≤ frame then .next s
    else
      let t := l.wins.foldl (fun (s : State) w => s.modLeaf w.2 g (fun v => v ||| 0x300)) s
      let r : Reloc := { log := log, index := g, old := granule, new := frame, fresh := false, dies := [] }
      .next ({ t with relocs := t.relocs ++ [r] }.holdBlocks log 2 [g / 256])

/-- A physical line of a granule that has moved. -/
def movedLine (old new line : Nat) : Nat := if line / 1024 = old then new * 1024 + line % 1024 else line
/-- A residency's registration moves with its page (R412). -/
def Residency.moved (old new : Nat) (r : Residency) : Residency :=
  { r with lines := r.lines.map (movedLine old new), gains := r.gains.map (fun g => (g.1, g.2.1, movedLine old new g.2.2)) }

/-- RELOCATION_COPY_END (R412 steps 2 to 4): the new location holds the granule, every maintained leaf names it, and a shootdown of the
granule in every window is issued to every die. -/
def execRelocationCopyEnd (granule : Nat) (s : State) : Out :=
  match s.relocs.find? (fun r => r.old == granule && !r.fresh) with
  | none => .next s
  | some r =>
    let l := s.flog r.log
    let lo := 65536 * r.old
    let hi := lo + 65536
    let at_ := 65536 * r.new
    let t := (s.clearRange at_ (at_ + 65536)).forget at_ (at_ + 65536)
    let t := t.pokes ((s.listed lo hi).map (fun e => (e.1 - lo + at_, e.2)))
    let bad := (s.poison.filter (fun p => decide (lo ≤ 16 * p) && decide (16 * p < hi))).map (fun p => p - 4096 * r.old + 4096 * r.new)
    let t := { t with poison := t.poison ++ bad }
    let t := l.wins.foldl (fun (t : State) w => t.modLeaf w.2 r.index (fun v => w.2.leaf r.new false + v / 64 % 4 * 64)) t
    let t : State := { t with
      cores := t.cores.map (fun (e : Nat × Core) => (e.1, { e.2 with
        res := e.2.res.map (fun (x : Nat × Residency) => (x.1, x.2.moved r.old r.new)) }))
      ctxs := t.ctxs.map (fun (e : Nat × Ctx) => (e.1, { e.2 with
        capture := e.2.capture.map (fun (k : Capture) => { k with
          res := k.res.map (fun (x : Nat × Nat × Residency) => (x.1, x.2.1, x.2.2.moved r.old r.new)) }) }))
      relocs := t.relocs.map (fun x => if x.old = granule then { x with fresh := true, dies := [0, 1, 2, 3] } else x) }
    .next (t.setLog r.log { l with granules := Tab.put l.granules r.index r.new })

/-! ## Restart (R409) -/

/-- The physical places of a log's line at an offset: where it is mapped, and where a relocation whose leaves name the new location has left
it, which a translation held from before still names (R412). -/
def State.placesOf (s : State) (log off : Nat) : List Nat :=
  ((s.flog log).paOf off).toList ++ ((s.relocs.filter (fun r => r.log == log && r.index == off / 65536 && r.fresh)).map (fun r =>
    65536 * r.old + off % 65536))
/-- A log after a restart: its end is that of its durable prefix; later lines read as zero, wherever they stand, and leave every cache. -/
def State.truncate (s : State) (log : Nat) : State :=
  let l := s.flog log
  let pas := (List.range ((l.stop - l.durEnd) / 64)).flatMap (fun i => s.placesOf log (l.durEnd + 64 * i))
  let s := s.write (pas.flatMap (fun a => (List.range 64).map (fun i => (a + i, (0 : Byte)))))
  let s := pas.foldl (fun (s : State) a => s.forget a (a + 64)) s
  s.setLog log { l with
    gone := [], stop := l.durEnd, recs := l.recs.filter (fun r => decide (r.count ≤ l.durable)), last := l.durable, lastSeq := l.durSeq }

/-- A relocation that still copies is given up: its leaves no longer migrate. One whose leaves name the new location goes on. -/
def State.abandon (s : State) (r : Reloc) : State :=
  if r.fresh then s
  else { (s.flog r.log).wins.foldl (fun (s : State) w => s.modLeaf w.2 r.index (fun v => v - v / 256 % 4 * 256)) s with
    relocs := s.relocs.filter (fun x => x.old != r.old) }

/-- FMP_RESTART (R409, R418): logs are cut to their durable prefix, the epoch rises, requests end with RETRY, every granule is clear. -/
def execFmpRestart (s : State) : Out :=
  let s := (s.logs.map Prod.fst).foldl State.truncate s
  let s := { s with fmp := { s.fmp with epoch := (s.fmp.epoch + 1) % 65536 } }
  let s := s.freqs.foldl (fun s r => s.endReq r (s.notDone 3) []) s
  let s := s.relocs.foldl State.abandon s
  let waits := s.allTeams.filterMap (fun t => match t.status with
    | .descheduled g => some g
    | .halting (.fault _ _ f) => if f.cause = causeLongLatency then some f.gran else none
    | .halting _ | .running | .parked | .held | .stopped => none)
  .next (((waits ++ s.stalls.map Prod.fst).eraseDups.foldl State.clearGranule s).ras 8 (s.choose 9202 (2 ^ 64)))

end Sys2Proof.Machine
end

