-- ==== Sys2Proof/Machine/Tiers.lean ====
section
/-!
DEFINITION. The memory tiers' own steps (R367, R396 to R402): errors and poison, refresh retries, channel retirement and rebuild,
remap shadows, and the LPDDR6 scrub.
-/

namespace Sys2Proof.Machine

/-- HBM stack n. -/
def State.stack (s : State) (n : Nat) : Stack := Tab.get Stack.init s.hbm n
def State.modStack (s : State) (n : Nat) (f : Stack → Stack) : State := { s with hbm := Tab.put s.hbm n (f (s.stack n)) }

/-- A counter of errors that saturates. -/
def satUp (n : Nat) : Nat := min 0xFFFFFFFF (n + 1)

/-- The stack of an address of HBM, and its channel while the channels of a mask are retired: an interleave of those that survive
(R396, R400). -/
def hbmStackOf (pa : Nat) : Nat := Config.hbmPlace 0 (pa / 256) % 8
def hbmLive (retired : Nat) : List Nat := (List.range 32).filter (fun c => !retired.testBit c)
def hbmChannelOf (retired pa : Nat) : Nat :=
  (hbmLive retired).getD (Config.hbmPlace retired (pa / 256) / 8 % (hbmLive retired).length) 0

/-- Marks sectors poisoned. -/
def State.taint (s : State) (sectors : List Nat) : State :=
  { s with poison := s.poison ++ sectors.filter (fun p => !s.poison.contains p) }

/-- The sectors of a line that an error at one of them affects: which others is free (R367, R402). -/
def State.affected (s : State) (pa : Nat) : List Nat :=
  ((List.range 4).map (fun i => pa / 64 * 4 + i)).filter (fun p => p == pa / 16 || s.pick (9403 + p % 4))

/-- A copy of a sector that a cache holds (R367): in an L1, in a cluster's cache, in a core's read-only (false) or constant cache (true). -/
inductive Copy where
  | l1 (core : Nat) | cc (cl : Nat) | ro (core : Nat) (k : Bool)
  deriving DecidableEq, Repr
/-- The copies of the sector of a byte. -/
def State.copiesOf (s : State) (pa : Nat) : List Copy :=
  let m (v : BitVec 4) : Bool := v.getLsbD (pa % 64 / 16)
  (s.cores.filter (fun e => (Tab.find e.2.l1 (pa / 64)).any (fun l => m l.valid))).map (fun e => .l1 e.1) ++
  (s.clusters.filter (fun e => (Tab.find e.2.cc (pa / 64)).any (fun l => m l.valid))).map (fun e => .cc e.1) ++
  s.cores.flatMap (fun e => ([false, true].filter (fun k => (e.2.roTab k).any (fun u => u.1 / 4 == pa / 16))).map (fun k => .ro e.1 k))

/-- An error in a copy marks the sector there, and there alone: the caches' other sectors keep theirs. What a cluster holds owned and dirty is
the only copy of the module, so its home is marked with it. -/
def State.strike (s : State) (pa : Nat) (c : Copy) : State :=
  let b := BitVec.ofNat 4 (2 ^ (pa % 64 / 16))
  match c with
  | .l1 n => s.modCore n (fun k => { k with l1 := Tab.modify k.l1 (pa / 64) (fun l => { l with bad := l.bad ||| b }) })
  | .cc n =>
    let t := s.modCluster n (fun q => { q with cc := Tab.modify q.cc (pa / 64) (fun l => { l with bad := l.bad ||| b }) })
    if (Tab.find (s.cluster n).cc (pa / 64)).any (fun l => l.owned && l.dirty &&& b != 0) then t.taint [pa / 16] else t
  | .ro n k => s.modCore n (fun c => { c with
      roBad := c.roBad ++ (((c.roTab k).map Prod.fst).filter (fun u => u / 4 == pa / 16 && !c.roBad.contains (k, u))).map (fun u => (k, u)) })

/-- UNCORRECTABLE_ERROR (R367, R399, R402): in a memory, or in a cache that holds a copy of the sector; which one is free. lp_ue counts a line
when it becomes poisoned. An HBM stack with parity answers from it, unless that computation fails too. -/
def execUncorrectableError (pa : Nat) (s : State) : Out :=
  match (s.copiesOf pa)[s.choose 9407 ((s.copiesOf pa).length + 1)]? with
  | some c => .next (s.strike pa c)
  | none =>
  match areaOf pa with
  | .hbm =>
    let n := hbmStackOf pa
    if (s.stack n).parity && !s.pick 9400 then .next (s.modStack n (fun k => { k with ce := satUp k.ce }))
    else .next (s.taint (s.affected pa))
  | .lpddr =>
    let ue := if s.poison.any (fun p => p / 4 == pa / 64) then s.lp.ue else satUp s.lp.ue
    .next (({ s.taint (s.affected pa) with lp := { s.lp with ue := ue, event := true } } : State).ras 3 pa)
  | .flash | .onchip => .next (s.taint (s.affected pa))
  | .control | .hole => .next s

/-- REFRESH_RETRY (R398). -/
def execRefreshRetry (stack : Nat) (s : State) : Out :=
  .next (s.modStack (stack % 8) (fun k => { k with retry := (k.retry + 1) % 2 ^ 32 }))

/-- The sectors that a channel of a stack holds. -/
def channelSectors (stack retired channel : Nat) : List Nat :=
  (List.range (2 ^ 35)).filter (fun p => hbmStackOf (16 * p) == stack && hbmChannelOf retired (16 * p) == channel)

/-- The first of some 64-byte lines that lies on a channel. -/
def lineOn (stack retired channel : Nat) (lines : List Nat) : Option Nat :=
  lines.find? (fun l => areaOf (64 * l) == .hbm && hbmStackOf (64 * l) == stack && hbmChannelOf retired (64 * l) == channel)

/-- A channel whose table is lost in both copies (R401): the accesses to it that are in flight return poison. Which of the operations that read
a line of the channel are still on their way there, and at which address, is free (log entry 22). -/
def State.flightLost (s : State) (stack retired channel : Nat) : State :=
  let lost (id : Nat) (lines : List Nat) : Option Nat := if s.pick (9410000 + id) then lineOn stack retired channel lines else none
  let lose (old : Option (Nat × Nat)) (id : Nat) (lines : List Nat) : Option (Nat × Nat) :=
    if old.isNone then (lost id lines).map (fun l => (64 * l, s.choose 9406 (2 ^ 57))) else old
  let s : State := { s with
    cores := s.cores.map (fun (e : Nat × Core) => (e.1, { e.2 with
      cmds := e.2.cmds.map (fun (k : EngCmd) => { k with poison := lose k.poison k.id k.reads })
      mq := e.2.mq.map (fun (k : MtxCmd) => if k.started then { k with poison := lose k.poison k.id k.lines } else k) }))
    clusters := s.clusters.map (fun (e : Nat × Cluster) => (e.1, { e.2 with
      route := e.2.route.map (fun (r : Nat × EngCmd) => (r.1, { r.2 with poison := lose r.2.poison r.2.id r.2.reads })) }))
    fcmds := s.fcmds.map (fun (k : FabCmd) => { k with poison := lose k.poison k.id k.reads })
    freqs := s.freqs.map (fun (k : FmpReq) => { k with poison := lose k.poison k.id k.reads }) }
  s.allCohorts.foldl (fun (s : State) (c : Cohort) =>
    match (c.reads.filter (fun r => c.v.ops.any (fun o => o.id == r.1))).findSome? (fun r => lost r.1 r.2) with
    | some l => s.killWith (FaultRec.of c c.wordAddr { flt causePoison 1 with rd := true, paddr := 64 * l, addr := s.choose 9406 (2 ^ 57) }) []
    | none => s) s

/-- CHANNEL_RETIREMENT (R400, R401): the first of a stack starts a rebuild and loses nothing; a later one poisons its channel's lines. -/
def execChannelRetirement (stack channel : Nat) (s : State) : Out :=
  let k := s.stack stack
  if 8 ≤ stack || 32 ≤ channel || k.retired.getLsbD channel then .next s
  else
    let again := k.retired != 0
    let s := if s.pick 9404 then s.flightLost stack k.retired.toNat channel else s
    let s := if again then s.taint (channelSectors stack k.retired.toNat channel) else s
    let s := s.modStack stack (fun k => { k with
      retired := k.retired ||| BitVec.ofNat 32 (2 ^ channel), rebuild := k.rebuild || !again, event := true })
    .next (s.ras 1 (Config.rasPlace stack channel))

/-- HBM_REBUILD_END (R400): the stack then has no parity. -/
def execHbmRebuildEnd (stack : Nat) (s : State) : Out :=
  if (s.stack stack).rebuild then .next (s.modStack stack (fun k => { k with rebuild := false, parity := false })) else .next s

/-- SHADOW_SWITCH (R401): the table is served from its shadow. On a stack that is served so, the rebuilt primary serves again. -/
def execShadowSwitch (stack : Nat) (s : State) : Out :=
  if 8 ≤ stack then .next s
  else if (s.stack stack).shadow then .next (s.modStack stack (fun k => { k with shadow := false }))
  else .next ((s.modStack stack (fun k => { k with shadow := true, event := true })).ras 2
    (Config.rasPlace stack (s.choose 9401 32)))

/-- PATROL_SCRUB (R402): corrected data are rewritten, and no value changes. -/
def execPatrolScrub (pa : Nat) (s : State) : Out :=
  if areaOf pa = .lpddr && s.pick 9402 then .next { s with lp := { s.lp with ce := satUp s.lp.ce } } else .next s

end Sys2Proof.Machine
end

