-- ==== Sys2Proof/Machine/Keys.lean ====
section
/-!
DEFINITION. The Tenant Key Controller (R427 to R432): its mailbox, its operations, and its restart.
-/

namespace Sys2Proof.Machine

/-- Requests that the Tenant Key Controller takes (R428). -/
def tkcRoom : Nat := 32
/-- 2 MiB. -/
def twoMiB : Nat := 2 ^ 21

/-- TKC_MBOX_SUBMIT (R428): a request block is read and accepted, or rejected when 32 are outstanding. A block outside HBM and LPDDR6
is ignored. -/
def execTkcMboxSubmit (pa : Nat) (s : State) : Out :=
  if !areaRam pa then .next s
  else if tkcRoom ≤ s.tkc.reqs.length then .next { s with tkc := { s.tkc with rejected := true } }
  else
    let bs := s.bytes pa 64
    let op := le bs 0 2
    let known := decide (1 ≤ op) && decide (op ≤ 6)
    let clean := le bs 2 1 < 16 && le bs 3 1 = 0 && le bs 14 2 = 0 && leNat (bs.drop 48) = 0 && (s.poisonIn pa 64).isNone
    let (id, s) := s.freshId
    let r : TkcReq :=
      { id := id, block := pa, tenant := le bs 2 1 % 16, ident := le bs 8 4, epoch := le bs 12 2, op := if known then op else 1
        args := (List.range 3).map (fun i => le bs (16 + 8 * i) 8), bad := !known || !clean }
    .next { s with tkc := { s.tkc with reqs := s.tkc.reqs ++ [r] } }

/-- A request ends: the result of an operation that was performed, then the status word (R428). -/
def State.endTkc (s : State) (r : TkcReq) (code : Nat) (rep : Bool) (res : List Nat) : State :=
  let s := { s with tkc := { s.tkc with reqs := s.tkc.reqs.filter (fun q => q.id != r.id) } }
  let s := match res with
    | v :: _ => s.writeN (r.block + 40) 8 v
    | [] => s
  s.writeN (r.block + 4) 4 (code + (if rep then 2 ^ 30 else 0) + 2 ^ 31)

/-- The kept result of an identifier (R430). -/
def Tkc.keptOf (t : Tkc) (tenant ident : Nat) : Option Kept := t.kept.find? (fun k => k.tenant == tenant && k.ident == ident)
/-- Keeps a result: the latest 1,024 of a tenant. -/
def Tkc.keep (t : Tkc) (k : Kept) : Tkc :=
  let mine := (t.kept.filter (fun x => x.tenant == k.tenant)).take 1023
  { t with kept := k :: (mine ++ t.kept.filter (fun x => x.tenant != k.tenant)) }

/-- What an operation of the Tenant Key Controller comes to: status, REPLAYED and result. -/
structure TkcDone where
  code : Nat
  rep  : Bool
  res  : List Nat
  deriving DecidableEq, Repr

/-- Performs an accepted request with an id and an operation under the rules of identifiers (R430). -/
def State.tkcOp (s : State) (id op : Nat) (k : State → TkcReq → State × TkcDone) : Out :=
  match s.tkc.reqs.find? (fun r => r.id == id && r.op == op) with
  | none => .next s
  | some r =>
    let run : State × TkcDone := if r.bad then (s, ⟨1, false, []⟩) else k s r
    let fin (x : State × TkcDone) : State := x.1.endTkc r x.2.code x.2.rep x.2.res
    if r.ident = 0 then .next (fin run)
    else match s.tkc.keptOf r.tenant r.ident with
      | some k => .next (s.endTkc r k.code true k.res)
      | none =>
        if r.epoch != s.tkc.epoch then .next (s.endTkc r 3 false [])
        else
          let t := fin run
          .next { t with tkc := t.tkc.keep { tenant := r.tenant, ident := r.ident, code := run.2.code, res := run.2.res } }

/-- Argument n of a request. -/
def TkcReq.arg (r : TkcReq) (n : Nat) : Nat := r.args.getD n 0
/-- The owner of a handle (R427). -/
def handleTenant (h : Nat) : Nat := bitsOf h 28 4
/-- The key that a request of a tenant names. -/
def State.keyOf (s : State) (tenant handle : Nat) : Option TKey :=
  s.tkc.keys.find? (fun k => k.handle == handle && handleTenant handle == tenant)

/-- A free key index, chosen freely; none when all are in use. -/
def State.freeKeyIndex (s : State) : Option Nat :=
  let used := s.tkc.keys.map (fun k => k.handle % 65536)
  let r := s.choose 9300 65536
  ((List.range (used.length + 1)).map (fun i => (r + i) % 65536)).find? (fun i => !used.contains i)

/-- KEYGEN (R427, R428). -/
def execKeygen (req : Nat) (s : State) : Out :=
  s.tkcOp req 1 (fun s r =>
    if 1 < r.arg 0 then (s, ⟨1, false, []⟩)
    else match s.freeKeyIndex with
      | none => (s, ⟨5, false, []⟩)
      | some i =>
        let n := s.tkc.serial % 4095 + 1
        let h := r.tenant * 2 ^ 28 + n * 2 ^ 16 + i
        let key : TKey := { handle := h, fabric := r.arg 0 == 1, ident := r.ident, secret := Config.keyMaterial s.tick }
        ({ s with tkc := { s.tkc with keys := s.tkc.keys ++ [key], serial := n } }, ⟨0, false, [h]⟩))

/-- The ciphertext of a block under a key, and the plaintext (R429): encryption and decryption undo each other. -/
def Tkc.encrypted (t : Tkc) (secret block : Nat) (plain : BitVec 128) : BitVec 128 :=
  ((t.vault.find? (fun v => v.1 == secret && v.2.1 == block && v.2.2.1 == plain)).map (fun v => v.2.2.2)).getD (Config.encipher secret block plain)
def Tkc.decrypted (t : Tkc) (secret block : Nat) (cipher : BitVec 128) : BitVec 128 :=
  ((t.vault.find? (fun v => v.1 == secret && v.2.1 == block && v.2.2.2 == cipher)).map (fun v => v.2.2.1)).getD (Config.decipher secret block cipher)
/-- A 16-byte block of memory. -/
def State.blockAt (s : State) (block : Nat) : BitVec 128 := BitVec.ofNat 128 (s.readN (16 * block) 16)

/-- One block changes its key (R429): what stands in memory under the old key, if there is one, is what the new one decrypts. Memory holds
plaintext; beside it the keys' uses stay known. -/
def State.rekeyBlock (s : State) (old new : Option Nat) (block : Nat) : State :=
  let p := s.blockAt block
  let c := old.elim p (fun k => s.tkc.encrypted k block p)
  let q := new.elim c (fun k => s.tkc.decrypted k block c)
  let seen := old.toList.map (fun k => (k, block, p, c)) ++ new.toList.map (fun k => (k, block, q, c))
  { s.pokeN (16 * block) 16 q.toNat with tkc := { s.tkc with vault := seen ++ s.tkc.vault } }
/-- A range changes its key. -/
def State.rekey (s : State) (old new : Option Nat) (base size : Nat) : State :=
  (List.range (size / 16)).foldl (fun s i => s.rekeyBlock old new (base / 16 + i)) s
/-- The secret of a key. -/
def State.keySecret (s : State) (handle : Nat) : Option Nat := (s.tkc.keys.find? (fun k => k.handle == handle)).map TKey.secret

/-- A range of one memory tier. -/
def oneTier (base size : Nat) : Bool :=
  (areaRam base || areaOf base == .flash) && areaOf base == areaOf (base + size - 1)

/-- REGION (R428, R429). A removal first writes back and invalidates the range's cached lines. -/
def execRegion (req : Nat) (s : State) : Out :=
  s.tkcOp req 2 (fun s r =>
    let base := r.arg 0
    let size := r.arg 1
    let h := r.arg 2
    let bad := base % twoMiB != 0 || size % twoMiB != 0 || size = 0 || !oneTier base size
    if bad then (s, ⟨1, false, []⟩)
    else if h = 0 then
      match s.tkc.regions.find? (fun e => e.1 == base && e.2.1 == size && handleTenant e.2.2 == r.tenant) with
      | none => (s, ⟨1, false, []⟩)
      | some e =>
        let t := (s.cores.foldl (fun (s : State) e => s.flushCore e.1) s).forget base (base + size)
        let t := { t with tkc := { t.tkc with regions := t.tkc.regions.filter (fun x => x != e) } }
        (t.rekey (s.keySecret e.2.2) none base size, ⟨0, false, []⟩)
    else match s.keyOf r.tenant h with
      | none => (s, ⟨1, false, []⟩)
      | some k =>
        if k.fabric then (s, ⟨1, false, []⟩)
        else if s.tkc.regions.any (fun e => decide (e.1 < base + size) && decide (base < e.1 + e.2.1)) then (s, ⟨4, false, []⟩)
        else if 64 ≤ s.tkc.regions.length then (s, ⟨5, false, []⟩)
        else
          let t := { s with tkc := { s.tkc with regions := s.tkc.regions ++ [(base, size, h)] } }
          (t.rekey none (s.keySecret h) base size, ⟨0, false, []⟩))

/-- FABBIND (R427, R428). -/
def execFabbind (req : Nat) (s : State) : Out :=
  s.tkcOp req 3 (fun s r =>
    let c := r.arg 0
    match s.keyOf r.tenant (r.arg 1) with
    | none => (s, ⟨1, false, []⟩)
    | some k =>
      if 64 ≤ c || !k.fabric || (s.ctx c).tenant != r.tenant then (s, ⟨1, false, []⟩)
      else ({ s with tkc := { s.tkc with binds := Tab.put s.tkc.binds c k.handle } }, ⟨0, false, []⟩))

/-- REVOKE (R428). -/
def execRevoke (req : Nat) (s : State) : Out :=
  s.tkcOp req 4 (fun s r =>
    let h := r.arg 0
    match s.keyOf r.tenant h with
    | none => (s, ⟨1, false, []⟩)
    | some _ =>
      if s.tkc.regions.any (fun e => e.2.2 == h) || s.tkc.binds.any (fun e => e.2 == h) then (s, ⟨4, false, []⟩)
      else ({ s with tkc := { s.tkc with keys := s.tkc.keys.filter (fun k => k.handle != h) } }, ⟨0, false, []⟩))

/-- RESULT (R430): the kept result, else the key that carries the identifier. -/
def execTkcResult (req : Nat) (s : State) : Out :=
  s.tkcOp req 5 (fun s r =>
    let x := r.arg 0
    if 2 ^ 32 ≤ x then (s, ⟨1, false, []⟩)
    else if x = 0 then (s, ⟨2, false, []⟩)
    else match s.tkc.keptOf r.tenant x with
      | some k => (s, ⟨k.code, true, k.res⟩)
      | none =>
        match s.tkc.keys.find? (fun k => k.ident == x && handleTenant k.handle == r.tenant) with
        | some k => (s, ⟨0, true, [k.handle]⟩)
        | none => (s, ⟨2, false, []⟩))

/-- Signatures that the device key can make (R432). -/
def maxSigned : Nat := 2 ^ 30

/-- The images (R432): the CPU-die firmware, the Flash Management Processor's and the Tenant Key Controller's. -/
def fwImages : List Nat := [0, 1, 2]
/-- The image in a slot, and the one that runs. -/
def Boot.imageAt (b : Boot) (image slot : Nat) : FwImage := Tab.get FwImage.init b.images (2 * image + slot)
def Boot.runs (b : Boot) (image : Nat) : FwImage := b.imageAt image (Tab.get 0 b.slots image)
/-- The configuration record: a copy that fails verification is ignored (R433). -/
def Boot.config (b : Boot) : Option CfgRec := if b.cfgA.good then some b.cfgA else if b.cfgB.good then some b.cfgB else none
/-- What a report on a nonce holds (R432). -/
def Boot.reportOn (b : Boot) (nonce : List Byte) : Report :=
  { nonce := nonce, config := (b.config.map Config.configDigest).getD 0, images := fwImages.map (fun i => ((b.runs i).digest, (b.runs i).version)) }

/-- ATTEST (R432): the signature counter advances durably before the report is written. -/
def execAttest (req : Nat) (s : State) : Out :=
  s.tkcOp req 6 (fun s r =>
    let a := r.arg 0
    let b := r.arg 1
    if !(areaRam a && areaRam (a + 63) && areaRam b && areaRam (b + 4095)) || (s.poisonIn a 64).isSome then (s, ⟨1, false, []⟩)
    else if maxSigned ≤ s.tkc.signed then (s, ⟨5, false, []⟩)
    else
      let n := s.choose 9310 4096 + 1
      let rep := s.boot.reportOn (s.bytes a 64)
      let t := { s with tkc := { s.tkc with signed := s.tkc.signed + 1, report := some rep } }
      (t.write ((List.range n).map (fun i => (b + i, Config.reportByte s.tick rep i))), ⟨0, false, [n]⟩))

/-- TKC_RESTART (R428, R430): the epoch rises, outstanding requests end, kept results go; keys, regions and bindings stay. -/
def execTkcRestart (s : State) : Out :=
  let e := s.tkc.epoch
  let s := { s with tkc := { s.tkc with epoch := if e = 65535 then 1 else e + 1, kept := [] } }
  .next ((s.tkc.reqs.foldl (fun s r => s.endTkc r 3 false []) s).ras 7 (s.choose 9311 (2 ^ 64)))

end Sys2Proof.Machine
end

