-- ==== Sys2Proof/Machine/Power.lean ====
section
/-!
DEFINITION. Power states, the thermal trip, the loss of power, and the cold boot (R408, R433 to R438).
-/

namespace Sys2Proof.Machine

/-- The power states of the module (R435). -/
def ps4Code : Nat := 4

/-- Flash under a region's key is left as its ciphertext when the region goes with the power (R429). -/
def State.sealFlash (s : State) : State :=
  (s.tkc.regions.filter (fun e => areaOf e.1 == .flash)).foldl (fun s e => s.rekey (s.keySecret e.2.2) none e.1 e.2.1) s

/-- What is left when everything but the boot flash loses power: flash with the durable prefix of every log and what the Flash
Management Processor journalled, sealed keys and the signature counter, and the base dies' parity and remap state (R408, R411,
R427, R432, R438). Steps that outside parties will take still come. -/
def State.powerOff (s : State) (session : Bool) : State :=
  let s := ((s.logs.map Prod.fst).foldl State.truncate s).sealFlash
  { State.reset with
    mem := s.mem.filter (fun e => areaOf e.1 == .flash), poison := s.poison.filter (fun p => areaOf (16 * p) == .flash)
    fresh := s.fresh, agenda := s.agenda, tick := s.tick, logs := s.logs, kept := s.kept, fmp := { Fmp.init with epoch := s.fmp.epoch }
    tkc := { Tkc.init with keys := s.tkc.keys, serial := s.tkc.serial, signed := s.tkc.signed, vault := s.tkc.vault }
    pwr := { Power.init with state := ps4Code }
    hbm := s.hbm.map (fun (e : Nat × Stack) =>
      (e.1, { Stack.init with retired := e.2.retired, parity := e.2.parity && !e.2.rebuild }))
    boot := { s.boot with session := session && s.boot.session, ide := [], errors := 0 } }

/-- POWER_LOSS (R408, R434). -/
def execPowerLoss (s : State) : Out := .next (s.powerOff false)

/-- The slot from which an image starts (R432, R438): the active one, or else the other, whichever first holds an image that verifies and whose
security version is no less than the fused least (log entry 36). -/
def Boot.slotFor (b : Boot) (c : CfgRec) (image : Nat) : Option Nat :=
  let first := Tab.get 0 b.active image
  [first, 1 - first].find? (fun n => let i := b.imageAt image n; i.good && decide (Tab.get 0 c.least image ≤ i.version))
/-- The step of the boot at which what boot flash holds stops it (R433, R438). -/
def Boot.failsAt (b : Boot) : Option Nat :=
  match b.config with
  | none => some 2
  | some c =>
    if (b.slotFor c 2).isNone || (b.slotFor c 0).isNone then some 3 else if (b.slotFor c 1).isNone then some 5 else none
/-- Some images run from the slots that the boot has found for them. -/
def Boot.start (b : Boot) (is : List Nat) : Boot :=
  { b with slots := is.foldl (fun (t : Tab Nat) i => Tab.put t i ((b.config.bind (fun c => b.slotFor c i)).getD 0)) b.slots }

/-- COLD_BOOT (R438): the seven steps. It stops at the first that fails, which the port reports: by what boot flash holds, or by something else
that is free (log entry 26). What the steps before it have done stays: images run, the epoch has risen, clk stands at 0, and so does the package
timer, which counts from power-on (R197). At the end the sequencer resumes, and its mark is stored. -/
def execColdBoot (s : State) : Out :=
  if s.pwr.state != ps4Code then .next s
  else
    let free := if s.pick 9500 then some (1 + s.choose 9501 7) else none
    let stop := match s.boot.failsAt, free with
      | some a, some b => some (min a b)
      | some a, none => some a
      | none, f => f
    let past (n : Nat) : Bool := stop.all (fun k => decide (n < k))
    let b := if past 3 then s.boot.start [2, 0] else s.boot
    let b := if past 5 then b.start [1] else b
    let epoch : Nat := if past 5 then (s.fmp.epoch + 1) % 65536 else s.fmp.epoch
    let clk : Nat := if past 6 then 0 else s.clk
    let s : State := { s with boot := { b with stopped := stop }, timer := 0, clk := clk, fmp := { s.fmp with epoch := epoch } }
    let q := (s.boot.mark + 2 ^ 32) % 2 ^ 64
    .next (if stop.isSome then s else { s with pwr := Power.init, seq := q, boot := { s.boot with mark := q } })

/-- SEQUENCER_MARK (R438): the high-water mark is stored. -/
def execSequencerMark (s : State) : Out := .next { s with boot := { s.boot with mark := s.seq / 2 ^ 32 * 2 ^ 32 } }

/-- A refused power command (R435). -/
def State.refusePower (s : State) : State := { s with pwr := { s.pwr with cmderr := true } }
/-- Whether a context keeps the module out of PS2 and PS3 (R435). -/
def State.anyActive (s : State) : Bool :=
  s.ctxs.any (fun e => e.2.state = .running || e.2.state = .preempting || e.2.state = .stopping)
/-- A transition begins. -/
def State.toPower (s : State) (n : Nat) : State := { s with pwr := { s.pwr with target := some n } }

/-- A command to a state other than PS4 (R435): refused while a transition is in progress; leaving PS4 is a cold boot. -/
def State.powerCommand (s : State) (n : Nat) : Out :=
  if s.pwr.state = ps4Code && s.pwr.target.isNone then execColdBoot s
  else if s.pwr.target.isSome then .next s.refusePower
  else if 2 ≤ n && s.anyActive then .next s.refusePower
  else .next (s.toPower n)

/-- pwr_cmd with state 0. -/
def execPs0 (s : State) : Out := s.powerCommand 0
/-- pwr_cmd with state 1. -/
def execPs1 (s : State) : Out := s.powerCommand 1
/-- pwr_cmd with state 2. -/
def execPs2 (s : State) : Out := s.powerCommand 2
/-- pwr_cmd with state 3. -/
def execPs3 (s : State) : Out := s.powerCommand 3
/-- pwr_cmd with state 4: never refused. -/
def execPs4 (s : State) : Out := .next (s.toPower ps4Code)

/-- POWER_TRANSITION_END (R435). -/
def execPowerTransitionEnd (s : State) : Out :=
  match s.pwr.target with
  | none => .next s
  | some n =>
    if n = ps4Code then .next (s.powerOff true)
    else .next { s with pwr := { s.pwr with state := n, target := none } }

/-- PCIE_WAKE (R435): PS3 to PS0. -/
def execPcieWake (s : State) : Out :=
  if s.pwr.state = 3 && s.pwr.target.isNone then .next (s.toPower 0) else .next s

/-- THERMAL_TRIP (R436): a die's temperature is the hottest; above the trip temperature the module writes the trip record and enters
PS4, whatever goes on. -/
def execThermalTrip (_die : Nat) (temp : Half) (s : State) : Out :=
  let s := { s with pwr := { s.pwr with therm := temp.toNat } }
  if s.boot.config.any (fun c => decide (c.trip < temp.toNat)) then
    .next (({ s with boot := { s.boot with tripRec := some temp.toNat } } : State).powerOff true)
  else .next s

end Sys2Proof.Machine
end

