-- ==== Sys2Proof/Machine/Ports.lean ====
section
/-!
DEFINITION. The ways in from outside: control registers (R7, R215, R258, R355, R358, R383, R395, R401, R402, R418, R428, R435, R443),
the harts' memory operations (R330), the side-band management port (R434), and the PCIe port (R394, R431).
-/

namespace Sys2Proof.Machine

/-! ## Control registers -/

/-- Where a control address lies: the block, and the offset in it (R395). -/
def blockOf (pa : Nat) : Nat := (pa - 0x3F0000000000) / 2 ^ 32
def blockOffset (pa : Nat) : Nat := (pa - 0x3F0000000000) % 2 ^ 32

/-- 1 for true. -/
def bit (b : Bool) (n : Nat) : Nat := if b then 2 ^ n else 0
/-- Bits [hi:lo] of a value, in place. -/
def field (v lo hi : Nat) : Nat := bitsOf v lo (hi + 1 - lo) * 2 ^ lo

/-- Where a context's free-slot counters are short (R362): launch queues, copy, matrix, Turnstile, Charabanc send and receive,
append, resident teams. They stand at capacity once a stop's drain has ended. -/
def State.busyBits (s : State) (c : Nat) : Nat :=
  let x := s.ctx c
  if x.drained || x.state = .stopped then 0
  else
    let cmd (k : EngKind) (e : Nat × Core) : Bool := e.2.cmds.any (fun m => m.ctx == c && m.kind == k)
    bit (x.launches.any Launch.queued) 0 + bit (s.cores.any (cmd .copy)) 1 +
    bit (s.cores.any (fun e => e.2.mq.any (fun m => m.ctx == c) || cmd .acc e || cmd .scld e)) 2 +
    bit (s.clusters.any (fun e => e.2.route.any (fun r => r.2.ctx == c))) 3 + bit (s.fcmds.any (fun f => f.ctx == c)) 4 +
    bit (s.fcmds.any (fun f => f.msgs.any (fun m => m.module == s.fabMod && m.msg.ctx == c && !m.done))) 5 +
    bit (s.freqs.any (fun r => match r.src with
      | .cohort _ _ _ x _ => x == c
      | .mbox => false)) 6 +
    bit (!(s.teamsOf c).isEmpty) 7

/-- The code of a context state (R360). -/
def CtxState.code : CtxState → Nat
  | .free => 0
  | .running => 1
  | .preempting => 2
  | .preempted => 3
  | .stopping => 4
  | .stopped => 5
  | .terminated => 6

/-- A doubleword of a context block (R358). -/
def State.readCtx (s : State) (c o : Nat) : Nat :=
  let x := s.ctx c
  match o with
  | 0x00 => x.root.toNat
  | 0x08 => x.tenant
  | 0x18 =>
    x.state.code + bit x.cmderr 3 + bit x.short 4 + bit ((s.teamsOf c).any (fun t => t.status = .held)) 5 + x.cause % 256 * 2 ^ 8 +
    s.busyBits c * 2 ^ 16
  | 0x20 => x.deadline
  | 0x28 => x.save
  | 0x30 => if x.short || x.state = .stopped then x.savesz else 0
  | 0x38 => x.map
  | 0x40 => x.logBase
  | 0x48 => x.logSize
  | 0x50 => x.logHead
  | 0x58 => x.logTail
  | 0x60 => x.drops + bit x.logfault 32 + bit x.llrec 33
  | 0x68 => x.msiAddr
  | 0x70 => x.msiData
  | 0x78 => x.savelim
  | 0x80 => x.sysBase
  | 0x88 => x.sysSize
  | 0x90 => x.sysHead
  | 0x98 => x.sysTail
  | 0xA0 => bit x.bkpt 0
  | _ => 0

/-- A doubleword of a die control block (R355). An entry that is not valid reads as 0. -/
def State.readDie (s : State) (d o : Nat) : Nat :=
  let x := s.die d
  if 0x1000 ≤ o ∧ o < 0x11000 then
    let c := (o - 0x1000) / 0x400
    let p := (o - 0x1000) % 0x400
    let b := Tab.get FaultBuf.init x.fbufs c
    if p < 0x200 then
      match b.ents.getD (p / 64) none with
      | some r => le r.toBytes (p % 64) 8
      | none => 0
    else if p = 0x200 then
      ((List.range 8).filter (fun i => (b.ents.getD i none).isSome)).foldl (fun n i => n + 2 ^ i) 0 + bit b.drop 8 + b.drops * 2 ^ 16
    else 0
  else match o with
    | 0x10 => x.sfAddr
    | 0x18 => x.sfLen
    | 0x20 => x.asid + bit x.allAsid 16 + bit x.busy 18
    | _ => 0

/-- A doubleword of a fabric block (R443). -/
def State.readFab (s : State) (d c o : Nat) : Nat :=
  let b := s.fab d c
  match o with
  | 0x00 => b.job
  | 0x08 => b.rank
  | 0x10 => b.nranks
  | 0x18 => b.ranktab
  | 0x20 => b.cqBase
  | 0x28 => b.cqSize
  | 0x30 => b.cqHead
  | 0x38 => b.cqTail
  | 0x40 => b.cqDrops
  | 0x48 => bit (s.bound c).isSome 0 + bit b.inr 1
  | 0x50 => b.dups
  | 0x58 => bit b.lost 0 + b.lostRank * 2 ^ 32
  | _ => 0

/-- The doubleword at an aligned address of the control range; an address that no block assigns reads 0 (R7, R395). -/
def State.readReg (s : State) (pa : Nat) : Nat :=
  let o := blockOffset pa
  match blockOf pa with
  | 0x0 =>
    let k := s.core (o / 0x10000)
    if 2048 ≤ o / 0x10000 then 0
    else match o % 0x10000 with
      | 0 => k.rf + k.sp * 2 ^ 32
      | 8 => k.l1g
      | _ => 0
  | 0x1 => if o < 256 ∧ o % 16 = 0 then (s.ten (o / 16)).quota + (s.ten (o / 16)).used * 2 ^ 32 else 0
  | 0x2 => if o < 0x400000 then s.readDie (o / 0x100000) (o % 0x100000) else 0
  | 0x3 => if o < 0x4000 then s.readCtx (o / 0x100) (o % 0x100) else 0
  | 0x4 =>
    let c := o / 0x40
    if 64 ≤ c then 0
    else match o % 0x40 with
      | 0x00 => (s.ctx c).genBase
      | 0x08 => (s.ctx c).genSize
      | 0x10 => s.genMin c
      | 0x18 => (s.ctx c).allocs.length
      | _ => 0
  | 0x5 =>
    let k := s.stack (o / 0x1000)
    if 8 ≤ o / 0x1000 then 0
    else match o % 0x1000 with
      | 0x00 => k.retired.toNat
      | 0x08 => bit k.parity 0 + bit k.rebuild 1 + bit k.shadow 2 + bit k.event 3
      | 0x10 => k.ce
      | 0x18 => k.retry
      | _ => 0
  | 0x6 => match o with
    | 0x08 => (s.freqs.filter (fun r => r.src == .mbox)).length + bit s.fmp.rejected 8 + s.fmp.epoch * 2 ^ 16
    | 0x10 => s.fmp.msiAddr
    | 0x18 => s.fmp.msiData
    | _ => 0
  | 0x7 => match o with
    | 0x00 => s.lp.ce
    | 0x08 => s.lp.ue
    | 0x10 => bit s.lp.event 0
    | _ => 0
  | 0x8 => match o with
    | 0x08 => s.tkc.reqs.length + bit s.tkc.rejected 8 + s.tkc.epoch * 2 ^ 16
    | _ => 0
  | 0x9 => match o with
    | 0x08 => s.pwr.state + bit s.pwr.target.isSome 3 + bit s.pwr.cmderr 4
    | 0x10 => s.pwr.therm
    | 0x18 => s.pwr.rasBase
    | 0x20 => s.pwr.rasSize
    | 0x28 => s.pwr.rasHead
    | 0x30 => s.pwr.rasTail
    | _ => 0
  | 0xA => if o < 0x400000 ∧ o % 0x100000 < 0x4000 then s.readFab (o / 0x100000) (o % 0x100000 / 0x100) (o % 0x100) else 0
  | 0xB => if o = 0 then s.fabMod else 0
  | _ => 0

/-- A write of ctx_cmd (R360). -/
def State.ctxCommand (s : State) (c cmd : Nat) : Out :=
  match cmd with
  | 1 => execPreempt c s
  | 2 => execStop c s
  | 3 => execResume c s
  | 4 => execTerminate c s
  | 5 => execRelease c s
  | 6 => execContinueC c s
  | _ => .next s

/-- A write of pwr_cmd (R435). -/
def State.pwrCommand (s : State) (n : Nat) : Out :=
  match n with
  | 0 => execPs0 s
  | 1 => execPs1 s
  | 2 => execPs2 s
  | 3 => execPs3 s
  | 4 => execPs4 s
  | _ => .next s

/-- A ring size that has a least and a greatest value; any other is stored as 0. -/
def ringSize (v lo hi : Nat) : Nat := if lo ≤ v % 32 ∧ v % 32 ≤ hi then v % 32 else 0

/-- Writes a doubleword of a context block (R358). -/
def State.writeCtx (s : State) (c o v : Nat) : Out :=
  let m (f : Ctx → Ctx) : Out := .next (s.modCtx c f)
  match o with
  | 0x00 => m (fun x => { x with root := BitVec.ofNat 64 v })
  | 0x08 => m (fun x => { x with tenant := if x.state = .free then v % 16 else x.tenant })
  | 0x10 => s.ctxCommand c (v % 8)
  | 0x18 => m (fun x => { x with cmderr := x.cmderr && !bitAt v 3 })
  | 0x20 => m (fun x => { x with deadline := v % 2 ^ 32 })
  | 0x28 => m (fun x => { x with save := field v 12 49 })
  | 0x38 => m (fun x => { x with map := field v 12 49 })
  | 0x40 => m (fun x => { x with logBase := field v 12 56 })
  | 0x48 => m (fun x => { x with logSize := ringSize v 6 20 })
  | 0x58 => m (fun x => { x with logTail := v % 2 ^ 32 })
  | 0x60 => m (fun x => { x with logfault := x.logfault && !bitAt v 32, llrec := bitAt v 33 })
  | 0x68 => m (fun x => { x with msiAddr := v % 2 ^ 64 })
  | 0x70 => m (fun x => { x with msiData := v % 2 ^ 32 })
  | 0x78 => m (fun x => { x with savelim := v % 2 ^ 40 })
  | 0x80 => m (fun x => { x with sysBase := field v 6 56 })
  | 0x88 => m (fun x => { x with sysSize := ringSize v 6 16 })
  | 0x98 => execSysTailWrite c (BitVec.ofNat 32 v) s
  | 0xA0 => m (fun x => { x with bkpt := bitAt v 0 })
  | _ => .next s

/-- Writes a doubleword of a die control block (R355). -/
def State.writeDie (s : State) (d o v : Nat) : Out :=
  match o with
  | 0x00 => if bitAt v 8 then execReplayAll d (v % 64) s else .next s
  | 0x10 => .next (s.modDie d (fun x => { x with sfAddr := field v 12 56 }))
  | 0x18 => .next (s.modDie d (fun x => { x with sfLen := v % 2 ^ 32 }))
  | 0x20 =>
    let s := s.modDie d (fun x => { x with asid := v % 2 ^ 16, allAsid := bitAt v 16 })
    if bitAt v 17 then execShootdownGo d s else .next s
  | _ => .next s

/-- Writes a doubleword of a fabric block (R443). -/
def State.writeFab (s : State) (d c o v : Nat) : Out :=
  let m (f : FabBlk → FabBlk) : Out := .next (s.modFab d c f)
  match o with
  | 0x00 => m (fun b => { b with job := v % 2 ^ 24 })
  | 0x08 => m (fun b => { b with rank := v % 2 ^ 17 })
  | 0x10 => m (fun b => { b with nranks := v % 2 ^ 18 })
  | 0x18 => m (fun b => { b with ranktab := field v 12 49 })
  | 0x20 => m (fun b => { b with cqBase := field v 6 56 })
  | 0x28 => m (fun b => { b with cqSize := ringSize v 6 16 })
  | 0x38 => m (fun b => { b with cqTail := v % 2 ^ 32 })
  | 0x48 => m (fun b => { b with inr := bitAt v 1 })
  | 0x58 => m (fun b => { b with lost := b.lost && !bitAt v 0 })
  | _ => .next s

/-- Writes a doubleword of the power and RAS block (R435, R437). -/
def State.writePower (s : State) (o v : Nat) : Out :=
  let m (f : Power → Power) : State := { s with pwr := f s.pwr }
  match o with
  | 0x00 => s.pwrCommand (v % 8)
  | 0x08 => .next (m (fun p => { p with cmderr := p.cmderr && !bitAt v 4 }))
  | 0x18 => .next (m (fun p => { p with rasBase := field v 12 49 })).rasTrip
  | 0x20 => .next (m (fun p => { p with rasSize := v % 16 }))
  | 0x30 => .next (m (fun p => { p with rasTail := v % 2 ^ 32 }))
  | _ => .next s

/-- A write of the doubleword at an aligned address of the control range, under the field types (R7). -/
def State.writeReg (s : State) (pa v : Nat) : Out :=
  let o := blockOffset pa
  match blockOf pa with
  | 0x1 =>
    if o < 256 ∧ o % 16 = 0 then .next (s.setTen (o / 16) { s.ten (o / 16) with quota := v % 2 ^ 16 }) else .next s
  | 0x2 => if o < 0x400000 then s.writeDie (o / 0x100000) (o % 0x100000) v else .next s
  | 0x3 => if o < 0x4000 then s.writeCtx (o / 0x100) (o % 0x100) v else .next s
  | 0x4 =>
    let c := o / 0x40
    let free := (s.ctx c).state == .free
    if 64 ≤ c ∨ free = false then .next s
    else match o % 0x40 with
      | 0x00 => .next (s.modCtx c (fun x => { x with genBase := field v 16 55 }))
      | 0x08 => .next (s.modCtx c (fun x => { x with genSize := field v 16 47 }))
      | _ => .next s
  | 0x5 =>
    if o < 0x8000 ∧ o % 0x1000 = 8 then .next (s.modStack (o / 0x1000) (fun k => { k with event := k.event && !bitAt v 3 }))
    else .next s
  | 0x6 => match o with
    | 0x00 => execFmpMboxSubmit (field v 6 49) s
    | 0x08 => .next { s with fmp := { s.fmp with rejected := s.fmp.rejected && !bitAt v 8 } }
    | 0x10 => .next { s with fmp := { s.fmp with msiAddr := v % 2 ^ 64 } }
    | 0x18 => .next { s with fmp := { s.fmp with msiData := v % 2 ^ 32 } }
    | _ => .next s
  | 0x7 => if o = 0x10 then .next { s with lp := { s.lp with event := s.lp.event && !bitAt v 0 } } else .next s
  | 0x8 => match o with
    | 0x00 => execTkcMboxSubmit (field v 6 49) s
    | 0x08 => .next { s with tkc := { s.tkc with rejected := s.tkc.rejected && !bitAt v 8 } }
    | _ => .next s
  | 0x9 => s.writePower o v
  | 0xA =>
    if o < 0x400000 ∧ o % 0x100000 < 0x4000 then s.writeFab (o / 0x100000) (o % 0x100000 / 0x100) (o % 0x100) v else .next s
  | 0xB => if o = 0 then .next { s with fabMod := v % 2 ^ 15 } else .next s
  | 0xC =>
    let h := o / 0x1000
    if h < 96 ∧ o % 0x1000 = 0 then .next (s.setHart h { s.hart h with pend := true }) else .next s
  | _ => .next s

/-- The bits of a doubleword that clear when 1 is written to them (R7). -/
def oneClears (pa : Nat) : Nat :=
  let o := blockOffset pa
  match blockOf pa with
  | 0x3 => if o % 0x100 = 0x18 then 2 ^ 3 else if o % 0x100 = 0x60 then 2 ^ 32 else 0
  | 0x5 => if o % 0x1000 = 8 then 2 ^ 3 else 0
  | 0x6 => if o = 8 then 2 ^ 8 else 0
  | 0x7 => if o = 0x10 then 1 else 0
  | 0x8 => if o = 8 then 2 ^ 8 else 0
  | 0x9 => if o = 8 then 2 ^ 4 else 0
  | 0xA => if o % 0x100 = 0x58 then 1 else 0
  | _ => 0

/-- The address of pwr_cmd (R435). -/
def pwrCmd : Nat := 0x3F0900000000

/-- A write of n bytes within a doubleword: the bytes that are not written keep their fields, and a write that leaves out the byte of
pwr_cmd names no power state. -/
def State.writeRegN (s : State) (pa n v : Nat) : Out :=
  if pa / 8 * 8 = pwrCmd && pa % 8 != 0 then .next s else
  let base := pa / 8 * 8
  let sh := 2 ^ (8 * (pa % 8))
  let top := 2 ^ (8 * n)
  let old := s.readReg base
  let keep := old - (if old / (oneClears base) % 2 = 1 ∧ oneClears base ≠ 0 then oneClears base else 0)
  s.writeReg base (keep - keep / sh % top * sh + v % top * sh)

/-- REGISTER_WRITE (R7, R395): a doubleword write by the supervisor. -/
def execRegisterWrite (pa : Nat) (v : DWord) (s : State) : Out :=
  if areaOf pa = .control && pa % 8 = 0 then s.writeReg pa v.toNat else .next s

/-! ## Harts (R330) -/

/-- What an AMO leaves in memory: the operands are n-byte values. -/
def amoResult (op : HartAmo) (n a b : Nat) : Nat :=
  let m := 2 ^ (8 * n)
  let sgn (x : Nat) : Nat := (x + m / 2) % m
  match op with
  | .swap => b
  | .add => (a + b) % m
  | .xor => a ^^^ b
  | .and => a &&& b
  | .or => a ||| b
  | .min => if sgn a ≤ sgn b then a else b
  | .max => if sgn a ≤ sgn b then b else a
  | .minu => min a b
  | .maxu => max a b

/-- A 4-byte result is sign-extended to a register. -/
def hartWide (n v : Nat) : DWord := if n = 4 then (BitVec.ofNat 32 v).signExtend 64 else BitVec.ofNat 64 v

/-- An access of a hart to ordinary memory, which waits for lines that an accepted command owns; a poisoned sector is a trap. -/
def State.hartAccess (s : State) (again : Instr) (n pa len : Nat) (wr : Bool) (reads : Bool) (k : State → Out) : Out :=
  match s.heldBy ((List.range len).map (fun i => pa + i)) wr with
  | some cmd => .next ((s.soon again).waitCmd cmd)
  | none =>
    match (if reads then s.poisonIn pa len else s.poisonMerge (cellsFrom pa (List.replicate len (0 : Byte)))) with
    | some p => .next (s.hartTrap n trapHardware p)
    | none => k s

/-- An AMO with both annotations takes a ticket (R330, R338); LR and SC take none. -/
def State.hartTicket (s : State) (aq rl : Bool) : State := if aq && rl then s.nextSeq.2 else s

/-- A store of a hart. Until the hart's next release a walk may still read the bytes that it overwrote (R330, R393). -/
def State.hartStore (s : State) (n pa len v : Nat) : State :=
  let old := (List.range len).map (fun i => (pa + i, s.byte (pa + i)))
  let t := s.writeN pa len v
  t.setHart n { t.hart n with late := old ++ (t.hart n).late }

/-- HART_MEMORY_OPERATION (R330): loads return zero-extended values. A hart's accesses are performed in program order, but that a walk may
come before its stores; a release orders them. -/
def execHartMemoryOperation (hart : Nat) (op : HartOp) (s : State) : Out :=
  let h := s.hart hart
  let again : Instr := .hartMemoryOperation hart op
  let fin (t : State) (rd : BitVec 5) (v : DWord) : Out := .next (t.setHart hart ((t.hart hart).setX rd v).on)
  let sized (n : Nat) : Bool := n == 1 || n == 2 || n == 4 || n == 8
  let atomic (n : Nat) : Bool := n == 4 || n == 8
  if 96 ≤ hart || h.wait.isSome then .next s
  else match op with
    | .fence _ rl => .next (s.setHart hart (h.on.release rl))
    | .load rd va n =>
      if !sized n then .next s
      else match s.hartAddr h va n false with
        | .error e => .next (s.hartTrap hart e.1 e.2)
        | .ok pa =>
          if areaOf pa = .control then fin s rd (BitVec.ofNat 64 (s.readReg (pa / 8 * 8) / 2 ^ (8 * (pa % 8)) % 2 ^ (8 * n)))
          else s.hartAccess again hart pa n false true (fun s => fin s rd (BitVec.ofNat 64 (s.readN pa n)))
    | .store va n v =>
      if !sized n then .next s
      else match s.hartAddr h va n true with
        | .error e => .next (s.hartTrap hart e.1 e.2)
        | .ok pa =>
          if areaOf pa = .control then (s.setHart hart h.on).writeRegN pa n v.toNat
          else s.hartAccess again hart pa n true false (fun s => fin (s.hartStore hart pa n v.toNat) 0 0)
    | .lr rd va n _ _ =>
      if !atomic n then .next s
      else match s.hartAddr h va n false with
        | .error e => .next (s.hartTrap hart e.1 e.2)
        | .ok pa =>
          if areaOf pa = .control then .next (s.hartTrap hart trapLoadFault va)
          else s.hartAccess again hart pa n false true (fun s =>
            fin (s.setHart hart { s.hart hart with resv := some (pa / 64) }) rd (hartWide n (s.readN pa n)))
    | .sc rd va n v _ rl =>
      if !atomic n then .next s
      else match s.hartAddr h va n true with
        | .error e => .next (s.hartTrap hart e.1 e.2)
        | .ok pa =>
          if areaOf pa = .control then .next (s.hartTrap hart trapStoreFault va)
          else if h.resv = some (pa / 64) then
            s.hartAccess again hart pa n true false (fun s =>
              let t := s.writeN pa n v.toNat
              fin (t.setHart hart { (t.hart hart).release rl with resv := none }) rd 0)
          else fin (s.setHart hart { h with resv := none }) rd 1
    | .amo op rd va n v aq rl =>
      if !atomic n then .next s
      else match s.hartAddr h va n true with
        | .error e => .next (s.hartTrap hart e.1 e.2)
        | .ok pa =>
          if areaOf pa = .control then .next (s.hartTrap hart trapStoreFault va)
          else s.hartAccess again hart pa n true true (fun s =>
            let old := s.readN pa n
            let t := (s.hartTicket aq rl).writeN pa n (amoResult op n old (v.toNat % 2 ^ (8 * n)))
            fin (t.setHart hart ((t.hart hart).release rl)) rd (hartWide n old))

/-! ## The side-band management port (R434) -/

/-- A firmware update (R434): the image is written to the inactive slot, and is marked active once it has been verified (R432). -/
def State.updateImage (s : State) (image : Nat) (img : FwImage) : State :=
  let n := 1 - Tab.get 0 s.boot.active image
  let t : State := { s with boot := { s.boot with images := Tab.put s.boot.images (2 * image + n) img } }
  if image < 3 then
    if img.good && s.boot.config.any (fun c => decide (Tab.get 0 c.least image ≤ img.version)) then
      ({ t with boot := { t.boot with active := Tab.put t.boot.active image n } } : State).ras 6 (s.choose 9600 (2 ^ 64))
    else t
  else s

/-- SBMP_MESSAGE: every command but version discovery requires a secured session. In PS4 no register but pwr_cmd is powered (R435). -/
def execSbmpMessage (m : SbmpMsg) (s : State) : Out :=
  let powered := s.pwr.state != ps4Code
  let inSession (k : Out) : Out := if s.boot.session then k else .next s
  match m with
  | .versionDiscovery => .next s
  | .openSession => .next { s with boot := { s.boot with session := true } }
  | .readFaultLog _ _ | .readRas _ => inSession (.next s)
  | .ctxCmd c cmd => inSession (if powered && decide (c < 64) then s.ctxCommand c cmd.toNat else .next s)
  | .pwrCmd n => inSession (s.pwrCommand n.toNat)
  | .regWrite pa v => inSession (if powered || pa = pwrCmd then execRegisterWrite pa v s else .next s)
  | .updateSlot image img => inSession (.next (s.updateImage image img))

/-! ## The PCIe port (R394, R431) -/

/-- An IDE stream of the port: the link stream, and up to four selective ones. -/
def State.ide (s : State) (n : Nat) : IdeStream := Tab.get IdeStream.init s.boot.ide n
def State.setIde (s : State) (n : Nat) (i : IdeStream) : State := { s with boot := { s.boot with ide := Tab.put s.boot.ide n i } }

/-- The idle key set of a stream is programmed and switched in; or the first packet under the new set arrives, and the old one is no longer
accepted (R431). -/
def State.keySwitch (s : State) (stream : Nat) (packet : Bool) : State :=
  s.setIde stream (if packet then { s.ide stream with newKeys := false } else { newKeys := true, secure := true })

/-- IDE_KEY_SWITCH (R431): the event names no stream, so that a free choice gives the stream and what happens to it (log entry 34). -/
def execIdeKeySwitch (s : State) : Out := .next (s.keySwitch (s.choose 9610 5) (s.pick 9611))

/-- What a PCIe request may reach: memory, and the on-chip bytes that chipReach names; the control range belongs to the supervisor and the SBMP
(R395). -/
def State.pcieMayReach (s : State) (pa : Nat) (wr : Bool) : Bool :=
  match areaOf pa with
  | .hbm | .lpddr => true
  | .onchip => s.chipReach pa
  | .flash => !wr
  | .control | .hole => false

/-- A packet that fails its integrity check, or that comes under a key set that is not programmed (R431). -/
def IdeStream.fails (i : IdeStream) (newKeys intact : Bool) : Bool := !intact || (newKeys && !i.newKeys)

/-- The parts of a request: its stream, address, size, key set and integrity. -/
def pcieParts (r : PcieReq) : Nat × Nat × Nat × Bool × Bool :=
  match r with
  | .read st pa n k i => (st, pa, n, k, i)
  | .write st pa bytes k i => (st, pa, bytes.length, k, i)

/-- PCIE_INBOUND_REQUEST: a request to what it may not reach is answered with Unsupported Request. An integrity failure is an uncorrectable
error of the port and makes its stream insecure; neither changes memory. -/
def execPcieInboundRequest (r : PcieReq) (s : State) : Out :=
  let (st, pa, n, newKeys, intact) := pcieParts r
  let wr := match r with
    | .read .. => false
    | .write .. => true
  let i := s.ide st
  if 4 < st || !i.secure then .next s
  else if i.fails newKeys intact then
    .next (({ s with boot := { s.boot with errors := s.boot.errors + 1 } } : State).setIde st { i with secure := false })
  else
    let t := if newKeys then s.setIde st { i with newKeys := false } else s
    if n = 0 || !(List.range n).all (fun i => s.pcieMayReach (pa + i) wr) || areaOf pa != areaOf (pa + n - 1) then .next t
    else match t.heldBy ((List.range n).map (fun i => pa + i)) wr with
      | some cmd => .next ((s.soon (.pcieInboundRequest r)).waitCmd cmd)
      | none => match r with
        | .read .. => .next t
        | .write _ pa bytes _ _ => .next (t.write (cellsFrom pa bytes))

end Sys2Proof.Machine
end

