-- ==== Sys2Proof/Machine/Dispatch.lean ====
section
/-!
DEFINITION. The dispatch of every instruction to its meaning: one arm per constructor of Instr.
-/

namespace Sys2Proof.Machine

/-- The effect of an instruction on the machine. -/
def exec (i : Instr) (s : State) : Host.Outcome State Fault Refusal :=
  match i with
  | .iadd u d a b => Sys2Proof.Machine.execIadd u d a b s
  | .isub u d a b => Sys2Proof.Machine.execIsub u d a b s
  | .imul u d a b => Sys2Proof.Machine.execImul u d a b s
  | .imulhI32 u d a b => Sys2Proof.Machine.execImulhI32 u d a b s
  | .imulhN32 u d a b => Sys2Proof.Machine.execImulhN32 u d a b s
  | .iminI32 u d a b => Sys2Proof.Machine.execIminI32 u d a b s
  | .iminN32 u d a b => Sys2Proof.Machine.execIminN32 u d a b s
  | .imaxI32 u d a b => Sys2Proof.Machine.execImaxI32 u d a b s
  | .imaxN32 u d a b => Sys2Proof.Machine.execImaxN32 u d a b s
  | .iabs u d a => Sys2Proof.Machine.execIabs u d a s
  | .ineg u d a => Sys2Proof.Machine.execIneg u d a s
  | .imad d a b c => Sys2Proof.Machine.execImad d a b c s
  | .iadd64 u d a b => Sys2Proof.Machine.execIadd64 u d a b s
  | .isub64 u d a b => Sys2Proof.Machine.execIsub64 u d a b s
  | .lea u d a b s0 sx off => Sys2Proof.Machine.execLea u d a b s0 sx off s
  | .iaddImm u d a imm => Sys2Proof.Machine.execIaddImm u d a imm s
  | .andImm u d a imm => Sys2Proof.Machine.execAndImm u d a imm s
  | .orImm u d a imm => Sys2Proof.Machine.execOrImm u d a imm s
  | .xorImm u d a imm => Sys2Proof.Machine.execXorImm u d a imm s
  | .movi u d lit => Sys2Proof.Machine.execMovi u d lit s
  | .andR u d a b => Sys2Proof.Machine.execAndR u d a b s
  | .orR u d a b => Sys2Proof.Machine.execOrR u d a b s
  | .xorR u d a b => Sys2Proof.Machine.execXorR u d a b s
  | .andnR u d a b => Sys2Proof.Machine.execAndnR u d a b s
  | .notR u d a => Sys2Proof.Machine.execNotR u d a s
  | .mov u d a => Sys2Proof.Machine.execMov u d a s
  | .shl u d a b => Sys2Proof.Machine.execShl u d a b s
  | .shr u d a b => Sys2Proof.Machine.execShr u d a b s
  | .sar u d a b => Sys2Proof.Machine.execSar u d a b s
  | .rot u d a b => Sys2Proof.Machine.execRot u d a b s
  | .shlImm u d a n => Sys2Proof.Machine.execShlImm u d a n s
  | .shrImm u d a n => Sys2Proof.Machine.execShrImm u d a n s
  | .sarImm u d a n => Sys2Proof.Machine.execSarImm u d a n s
  | .rotImm u d a n => Sys2Proof.Machine.execRotImm u d a n s
  | .popc u d a => Sys2Proof.Machine.execPopc u d a s
  | .clz u d a => Sys2Proof.Machine.execClz u d a s
  | .brev u d a => Sys2Proof.Machine.execBrev u d a s
  | .bfxN32 u d a len pos => Sys2Proof.Machine.execBfxN32 u d a len pos s
  | .bfxI32 u d a len pos => Sys2Proof.Machine.execBfxI32 u d a len pos s
  | .bfi u d a len pos => Sys2Proof.Machine.execBfi u d a len pos s
  | .sel d a b m => Sys2Proof.Machine.execSel d a b m s
  | .cmp u d a b t k => Sys2Proof.Machine.execCmp u d a b t k s
  | .mpop u d a => Sys2Proof.Machine.execMpop u d a s
  | .mfirst u d a => Sys2Proof.Machine.execMfirst u d a s
  | .perm u d a b => Sys2Proof.Machine.execPerm u d a b s
  | .shup u d a b => Sys2Proof.Machine.execShup u d a b s
  | .shdn u d a b => Sys2Proof.Machine.execShdn u d a b s
  | .shxr u d a b => Sys2Proof.Machine.execShxr u d a b s
  | .shupImm u d a n => Sys2Proof.Machine.execShupImm u d a n s
  | .shdnImm u d a n => Sys2Proof.Machine.execShdnImm u d a n s
  | .shxrImm u d a n => Sys2Proof.Machine.execShxrImm u d a n s
  | .bcst u d a b => Sys2Proof.Machine.execBcst u d a b s
  | .vred u d a wide uns op => Sys2Proof.Machine.execVred u d a wide uns op s
  | .scan u d a excl uns op => Sys2Proof.Machine.execScan u d a excl uns op s
  | .rds u d idx => Sys2Proof.Machine.execRds u d idx s
  | .wrs u a idx => Sys2Proof.Machine.execWrs u a idx s
  | .fadd u d a b t => Sys2Proof.Machine.execFadd u d a b t s
  | .fsub u d a b t => Sys2Proof.Machine.execFsub u d a b t s
  | .fmul u d a b t => Sys2Proof.Machine.execFmul u d a b t s
  | .fmin u d a b t => Sys2Proof.Machine.execFmin u d a b t s
  | .fmax u d a b t => Sys2Proof.Machine.execFmax u d a b t s
  | .ffma d a b c => Sys2Proof.Machine.execFfma d a b c s
  | .fcmp u d a b t k => Sys2Proof.Machine.execFcmp u d a b t k s
  | .fclass u d a t => Sys2Proof.Machine.execFclass u d a t s
  | .frint u d a t r => Sys2Proof.Machine.execFrint u d a t r s
  | .fscale u d a b t r => Sys2Proof.Machine.execFscale u d a b t r s
  | .fxp2 u d a f => Sys2Proof.Machine.execFxp2 u d a f s
  | .flog2 u d a f => Sys2Proof.Machine.execFlog2 u d a f s
  | .frcp u d a f => Sys2Proof.Machine.execFrcp u d a f s
  | .frsq u d a f => Sys2Proof.Machine.execFrsq u d a f s
  | .fsqrt u d a f => Sys2Proof.Machine.execFsqrt u d a f s
  | .fsinpi u d a f => Sys2Proof.Machine.execFsinpi u d a f s
  | .fcospi u d a f => Sys2Proof.Machine.execFcospi u d a f s
  | .ftanh u d a f => Sys2Proof.Machine.execFtanh u d a f s
  | .hadd2 u d a b bf => Sys2Proof.Machine.execHadd2 u d a b bf s
  | .hmul2 u d a b bf => Sys2Proof.Machine.execHmul2 u d a b bf s
  | .hfma2F16 d a b c => Sys2Proof.Machine.execHfma2F16 d a b c s
  | .hfma2B16 d a b c => Sys2Proof.Machine.execHfma2B16 d a b c s
  | .cvt u d a r t s0 => Sys2Proof.Machine.execCvt u d a r t s0 s
  | .cvtSat u d a r t s0 => Sys2Proof.Machine.execCvtSat u d a r t s0 s
  | .qnt d a r k => Sys2Proof.Machine.execQnt d a r k s
  | .dqt u d a k => Sys2Proof.Machine.execDqt u d a k s
  | .srnd a b => Sys2Proof.Machine.execSrnd a b s
  | .bra u m k o => Sys2Proof.Machine.execBra u m k o s
  | .brc u m k o => Sys2Proof.Machine.execBrc u m k o s
  | .brd u m k o => Sys2Proof.Machine.execBrd u m k o s
  | .join => Sys2Proof.Machine.execJoin s
  | .brx u a => Sys2Proof.Machine.execBrx u a s
  | .call u k o => Sys2Proof.Machine.execCall u k o s
  | .callx u a k => Sys2Proof.Machine.execCallx u a k s
  | .ret => Sys2Proof.Machine.execRet s
  | .exit => Sys2Proof.Machine.execExit s
  | .yieldI => Sys2Proof.Machine.execYieldI s
  | .trap code => Sys2Proof.Machine.execTrap code s
  | .eret => Sys2Proof.Machine.execEret s
  | .nop => Sys2Proof.Machine.execNop s
  | .wdepth d => Sys2Proof.Machine.execWdepth d s
  | .ld f d b x s0 off sx => Sys2Proof.Machine.execLd f d b x s0 off sx s
  | .ldRo f d b x s0 off sx => Sys2Proof.Machine.execLdRo f d b x s0 off sx s
  | .ldC f d b x s0 off sx => Sys2Proof.Machine.execLdC f d b x s0 off sx s
  | .ldNt f d b x s0 off sx => Sys2Proof.Machine.execLdNt f d b x s0 off sx s
  | .ldU f d b x s0 off sx => Sys2Proof.Machine.execLdU f d b x s0 off sx s
  | .st f d b x s0 off => Sys2Proof.Machine.execSt f d b x s0 off s
  | .stNt f d b x s0 off => Sys2Proof.Machine.execStNt f d b x s0 off s
  | .lds f d b x s0 off sx => Sys2Proof.Machine.execLds f d b x s0 off sx s
  | .sts f d b x s0 off => Sys2Proof.Machine.execSts f d b x s0 off s
  | .ldf f d b x off => Sys2Proof.Machine.execLdf f d b x off s
  | .stf f d b x off => Sys2Proof.Machine.execStf f d b x off s
  | .pref f b x l off => Sys2Proof.Machine.execPref f b x l off s
  | .aadd f d b v q => Sys2Proof.Machine.execAadd f d b v q s
  | .amin f d b v q => Sys2Proof.Machine.execAmin f d b v q s
  | .amax f d b v q => Sys2Proof.Machine.execAmax f d b v q s
  | .aand f d b v q => Sys2Proof.Machine.execAand f d b v q s
  | .aor f d b v q => Sys2Proof.Machine.execAor f d b v q s
  | .axor f d b v q => Sys2Proof.Machine.execAxor f d b v q s
  | .axch f d b v q => Sys2Proof.Machine.execAxch f d b v q s
  | .acas f d b v q => Sys2Proof.Machine.execAcas f d b v q s
  | .afadd f d b v q => Sys2Proof.Machine.execAfadd f d b v q s
  | .fence o sc ro => Sys2Proof.Machine.execFence o sc ro s
  | .waita d a b w64 k => Sys2Proof.Machine.execWaita d a b w64 k s
  | .wakea a => Sys2Proof.Machine.execWakea a s
  | .cinv f a b => Sys2Proof.Machine.execCinv f a b s
  | .cwb f a b => Sys2Proof.Machine.execCwb f a b s
  | .tlbq f d a => Sys2Proof.Machine.execTlbq f d a s
  | .clkrd d => Sys2Proof.Machine.execClkrd d s
  | .sysc f d a => Sys2Proof.Machine.execSysc f d a s
  | .bkpt => Sys2Proof.Machine.execBkpt s
  | .cpy f d a b => Sys2Proof.Machine.execCpy f d a b s
  | .cpy2d f d a p => Sys2Proof.Machine.execCpy2d f d a p s
  | .cpyg f d a b p => Sys2Proof.Machine.execCpyg f d a b p s
  | .cpyo f d a b => Sys2Proof.Machine.execCpyo f d a b s
  | .plnx f d a b p => Sys2Proof.Machine.execPlnx f d a b p s
  | .sbq d a => Sys2Proof.Machine.execSbq d a s
  | .resa d a => Sys2Proof.Machine.execResa d a s
  | .respin a => Sys2Proof.Machine.execRespin a s
  | .respinUnpin a => Sys2Proof.Machine.execRespinUnpin a s
  | .resrel a => Sys2Proof.Machine.execResrel a s
  | .resq d a => Sys2Proof.Machine.execResq d a s
  | .resl f a b p => Sys2Proof.Machine.execResl f a b p s
  | .mma f d a b p => Sys2Proof.Machine.execMma f d a b p s
  | .mma1 f d a b p => Sys2Proof.Machine.execMma1 f d a b p s
  | .accz f a => Sys2Proof.Machine.execAccz f a s
  | .accrd f a b => Sys2Proof.Machine.execAccrd f a b s
  | .accwr f a b => Sys2Proof.Machine.execAccwr f a b s
  | .scld f a p => Sys2Proof.Machine.execScld f a p s
  | .barinit t n b cl => Sys2Proof.Machine.execBarinit t n b cl s
  | .bararr d b cl => Sys2Proof.Machine.execBararr d b cl s
  | .barwait k b cl => Sys2Proof.Machine.execBarwait k b cl s
  | .barsync b cl => Sys2Proof.Machine.execBarsync b cl s
  | .barq d b cl => Sys2Proof.Machine.execBarq d b cl s
  | .route f d a b p => Sys2Proof.Machine.execRoute f d a b p s
  | .routeq d => Sys2Proof.Machine.execRouteq d s
  | .launch f d a => Sys2Proof.Machine.execLaunch f d a s
  | .evsig f a b => Sys2Proof.Machine.execEvsig f a b s
  | .evwait d a b => Sys2Proof.Machine.execEvwait d a b s
  | .galloc d a => Sys2Proof.Machine.execGalloc d a s
  | .gfree d a => Sys2Proof.Machine.execGfree d a s
  | .gadv => Sys2Proof.Machine.execGadv s
  | .gqry d => Sys2Proof.Machine.execGqry d s
  | .nput f d a b p => Sys2Proof.Machine.execNput f d a b p s
  | .nget f d a b p => Sys2Proof.Machine.execNget f d a b p s
  | .ncoll f d a b p => Sys2Proof.Machine.execNcoll f d a b p s
  | .na2a f d a b p => Sys2Proof.Machine.execNa2a f d a b p s
  | .nred f d a b p => Sys2Proof.Machine.execNred f d a b p s
  | .trigarm f d a => Sys2Proof.Machine.execTrigarm f d a s
  | .ctrset f a b => Sys2Proof.Machine.execCtrset f a b s
  | .ctradd f a b => Sys2Proof.Machine.execCtradd f a b s
  | .ctrrd d b => Sys2Proof.Machine.execCtrrd d b s
  | .app f d a b => Sys2Proof.Machine.execApp f d a b s
  | .appsync f d a b => Sys2Proof.Machine.execAppsync f d a b s
  | .appseal f d b => Sys2Proof.Machine.execAppseal f d b s
  | .fmpreq f d a b => Sys2Proof.Machine.execFmpreq f d a b s
  | .glaunch rd rs1 rs2 => Sys2Proof.Machine.execGlaunch rd rs1 rs2 s
  | .gevsig rd rs1 rs2 => Sys2Proof.Machine.execGevsig rd rs1 rs2 s
  | .gevwait rd rs1 rs2 => Sys2Proof.Machine.execGevwait rd rs1 rs2 s
  | .gctx rd rs1 rs2 => Sys2Proof.Machine.execGctx rd rs1 rs2 s
  | .selectClause core => Sys2Proof.Machine.execSelectClause core s
  | .sfuResult co op => Sys2Proof.Machine.execSfuResult co op s
  | .cohortEnd co => Sys2Proof.Machine.execCohortEnd co s
  | .trapEntry cause sub => Sys2Proof.Machine.execTrapEntry cause sub s
  | .loadComplete co op => Sys2Proof.Machine.execLoadComplete co op s
  | .storeComplete co op => Sys2Proof.Machine.execStoreComplete co op s
  | .atomicComplete co op => Sys2Proof.Machine.execAtomicComplete co op s
  | .prefComplete co op => Sys2Proof.Machine.execPrefComplete co op s
  | .fenceComplete co => Sys2Proof.Machine.execFenceComplete co s
  | .waitaWake co => Sys2Proof.Machine.execWaitaWake co s
  | .waitaTimeout co => Sys2Proof.Machine.execWaitaTimeout co s
  | .cacheMaintComplete co op => Sys2Proof.Machine.execCacheMaintComplete co op s
  | .syscAnswer co => Sys2Proof.Machine.execSyscAnswer co s
  | .sysTailWrite ctx v => Sys2Proof.Machine.execSysTailWrite ctx v s
  | .copyRetire core cmd => Sys2Proof.Machine.execCopyRetire core cmd s
  | .matrixCommandStart core => Sys2Proof.Machine.execMatrixCommandStart core s
  | .matrixCommandRetire core => Sys2Proof.Machine.execMatrixCommandRetire core s
  | .accRetire core cmd => Sys2Proof.Machine.execAccRetire core cmd s
  | .scldRetire core cmd => Sys2Proof.Machine.execScldRetire core cmd s
  | .barrierTimeout cl team b => Sys2Proof.Machine.execBarrierTimeout cl team b s
  | .siblingStop co => Sys2Proof.Machine.execSiblingStop co s
  | .teamHalt team => Sys2Proof.Machine.execTeamHalt team s
  | .routeRetire cluster => Sys2Proof.Machine.execRouteRetire cluster s
  | .evwaitWake co => Sys2Proof.Machine.execEvwaitWake co s
  | .evwaitTimeout co => Sys2Proof.Machine.execEvwaitTimeout co s
  | .gevwaitWake hart => Sys2Proof.Machine.execGevwaitWake hart s
  | .hartMemoryOperation hart op => Sys2Proof.Machine.execHartMemoryOperation hart op s
  | .pcieInboundRequest r => Sys2Proof.Machine.execPcieInboundRequest r s
  | .dependenceTest ctx q => Sys2Proof.Machine.execDependenceTest ctx q s
  | .teamPlace ctx q index slot granule => Sys2Proof.Machine.execTeamPlace ctx q index slot granule s
  | .launchComplete ctx lid => Sys2Proof.Machine.execLaunchComplete ctx lid s
  | .fabricCommandComplete cmd status hop bytes => Sys2Proof.Machine.execFabricCommandComplete cmd status hop bytes s
  | .fabricPacketReceive m => Sys2Proof.Machine.execFabricPacketReceive m s
  | .keepalive module => Sys2Proof.Machine.execKeepalive module s
  | .peerLost module => Sys2Proof.Machine.execPeerLost module s
  | .retransmission cmd => Sys2Proof.Machine.execRetransmission cmd s
  | .appComplete req => Sys2Proof.Machine.execAppComplete req s
  | .durabilityAdvance log n => Sys2Proof.Machine.execDurabilityAdvance log n s
  | .logquery req => Sys2Proof.Machine.execLogquery req s
  | .logtrim req => Sys2Proof.Machine.execLogtrim req s
  | .fmpResult req => Sys2Proof.Machine.execFmpResult req s
  | .logcreate req => Sys2Proof.Machine.execLogcreate req s
  | .logmap req => Sys2Proof.Machine.execLogmap req s
  | .logunmap req => Sys2Proof.Machine.execLogunmap req s
  | .logdelete req => Sys2Proof.Machine.execLogdelete req s
  | .appendS req => Sys2Proof.Machine.execAppendS req s
  | .syncS req => Sys2Proof.Machine.execSyncS req s
  | .sealS req => Sys2Proof.Machine.execSealS req s
  | .fmpMboxSubmit pa => Sys2Proof.Machine.execFmpMboxSubmit pa s
  | .flashRelocation granule frame => Sys2Proof.Machine.execFlashRelocation granule frame s
  | .relocationCopyEnd granule => Sys2Proof.Machine.execRelocationCopyEnd granule s
  | .granuleClear granule => Sys2Proof.Machine.execGranuleClear granule s
  | .fmpRestart => Sys2Proof.Machine.execFmpRestart s
  | .shootdownComplete die => Sys2Proof.Machine.execShootdownComplete die s
  | .preemptDrained ctx => Sys2Proof.Machine.execPreemptDrained ctx s
  | .stopDrainEnd ctx => Sys2Proof.Machine.execStopDrainEnd ctx s
  | .contextTermination ctx => Sys2Proof.Machine.execContextTermination ctx s
  | .preemptDeadline ctx => Sys2Proof.Machine.execPreemptDeadline ctx s
  | .wcFlush core => Sys2Proof.Machine.execWcFlush core s
  | .hbmRebuildEnd stack => Sys2Proof.Machine.execHbmRebuildEnd stack s
  | .keygen req => Sys2Proof.Machine.execKeygen req s
  | .region req => Sys2Proof.Machine.execRegion req s
  | .fabbind req => Sys2Proof.Machine.execFabbind req s
  | .revoke req => Sys2Proof.Machine.execRevoke req s
  | .tkcResult req => Sys2Proof.Machine.execTkcResult req s
  | .attest req => Sys2Proof.Machine.execAttest req s
  | .pageWalkComplete cluster ctx va kind waiters => Sys2Proof.Machine.execPageWalkComplete cluster ctx va kind waiters s
  | .replayAll die ctx => Sys2Proof.Machine.execReplayAll die ctx s
  | .shootdownGo die => Sys2Proof.Machine.execShootdownGo die s
  | .preempt ctx => Sys2Proof.Machine.execPreempt ctx s
  | .stop ctx => Sys2Proof.Machine.execStop ctx s
  | .resume ctx => Sys2Proof.Machine.execResume ctx s
  | .terminate ctx => Sys2Proof.Machine.execTerminate ctx s
  | .release ctx => Sys2Proof.Machine.execRelease ctx s
  | .continueC ctx => Sys2Proof.Machine.execContinueC ctx s
  | .uncorrectableError pa => Sys2Proof.Machine.execUncorrectableError pa s
  | .hartPoisonTrap hart pa => Sys2Proof.Machine.execHartPoisonTrap hart pa s
  | .refreshRetry stack => Sys2Proof.Machine.execRefreshRetry stack s
  | .channelRetirement stack channel => Sys2Proof.Machine.execChannelRetirement stack channel s
  | .shadowSwitch stack => Sys2Proof.Machine.execShadowSwitch stack s
  | .patrolScrub pa => Sys2Proof.Machine.execPatrolScrub pa s
  | .tkcMboxSubmit pa => Sys2Proof.Machine.execTkcMboxSubmit pa s
  | .sbmpMessage m => Sys2Proof.Machine.execSbmpMessage m s
  | .thermalTrip die temp => Sys2Proof.Machine.execThermalTrip die temp s
  | .registerWrite pa v => Sys2Proof.Machine.execRegisterWrite pa v s
  | .tkcRestart => Sys2Proof.Machine.execTkcRestart s
  | .ideKeySwitch => Sys2Proof.Machine.execIdeKeySwitch s
  | .ps0 => Sys2Proof.Machine.execPs0 s
  | .ps1 => Sys2Proof.Machine.execPs1 s
  | .ps2 => Sys2Proof.Machine.execPs2 s
  | .ps3 => Sys2Proof.Machine.execPs3 s
  | .ps4 => Sys2Proof.Machine.execPs4 s
  | .powerTransitionEnd => Sys2Proof.Machine.execPowerTransitionEnd s
  | .pcieWake => Sys2Proof.Machine.execPcieWake s
  | .coldBoot => Sys2Proof.Machine.execColdBoot s
  | .sequencerMark => Sys2Proof.Machine.execSequencerMark s
  | .powerLoss => Sys2Proof.Machine.execPowerLoss s

end Sys2Proof.Machine
end

