-- ==== Sys2Proof/Machine/Run.lean ====
section
/-!
DEFINITION. What comes next: an event of the agenda, a hart's turn, the issue slot of a core, or a step by which something that
is under way completes; and how a word is placed where the next step runs it.
-/

namespace Sys2Proof.Machine

/-- Harts whose pending interrupt their software takes between two steps: which ones is free (log entry 81). -/
def State.takeIrqs (s : State) : State :=
  { s with harts := s.harts.map (fun (e : Nat × Hart) => if e.2.pend && s.pick (4300 + e.1) then (e.1, { e.2 with pend := false }) else e) }

/-- What a step brings about beside its instruction: what caches do by themselves, the passage of time as far as it is visible (R31, R197),
where clk stands in PS4 (R34), and a clear record of faults. -/
def State.beat (s : State) : State :=
  let s := s.seep.takeIrqs
  { s with
    tick := s.tick + 1
    clk := if s.pwr.state = ps4Code then s.clk else (s.clk + Config.clkAdvance s.tick) % 2 ^ 64
    timer := (s.timer + Config.timerAdvance s.tick) % 2 ^ 64, lastFault := none }

/-- The word at a hart's pc, or the cause and the address of the trap of its fetch (R369, R394). S-mode runs no page of U-mode, and a page has to
be executable (log entry 31). -/
def State.hartWord (s : State) (n : Nat) : Except (Nat × Nat) Nat :=
  let h := s.hart n
  match s.hartWalk h h.pc with
  | .error f => .error (hartFail f trapFetchPage h.pc)
  | .ok (pa, l) =>
    if l.any (fun l => !l.x || (h.mode == 0) != l.u) then .error (trapFetchPage, h.pc)
    else match areaOf pa with
      | .hole => .error (trapFetchFault, h.pc)
      | .control => if h.mode = 0 then .error (trapFetchFault, h.pc) else .ok (s.readReg (pa / 8 * 8) / 2 ^ (8 * (pa % 8)) % 2 ^ 32)
      | .onchip | .hbm | .lpddr | .flash =>
        if areaOf pa = .onchip && !s.chipReach pa then .error (trapFetchFault, h.pc)
        else match s.poisonIn pa 4 with
          | some p => .error (trapHardware, p)
          | none => .ok (s.readN pa 4)

/-! ## What can come on by itself -/

/-- Steps by which a cohort's waits end. -/
def Cohort.steps (c : Cohort) : List Instr :=
  (if c.fence then [.fenceComplete c.id] else []) ++ (if c.asked then [.siblingStop c.id] else []) ++
  (if c.exited && !c.ended then [.cohortEnd c.id] else []) ++
  match c.wait with
  | some (.waita ..) => [.waitaWake c.id, .waitaTimeout c.id]
  | some (.evwait ..) => [.evwaitWake c.id, .evwaitTimeout c.id]
  | some (.sysAnswer ..) => [.syscAnswer c.id]
  | some .sysRoom | some (.barrier ..) | some (.arrive ..) | none => []

/-- A place for the next team of a head, chosen freely among those that the rules allow (R376, R377). -/
def State.placeOf (s : State) (l : Launch) : List Instr :=
  if !s.mayStart l then []
  else
    let r := s.choose 7101 2048
    let left := (List.range l.teams).filter (fun i => !l.started.contains i)
    let index := if l.walk then left.getD (s.choose 7102 left.length) 0 else l.started.length
    (((List.range 2048).map (fun i => (r + i) % 2048)).findSome? (fun slot =>
      if l.mayUse slot && !s.outranked l slot then
        match s.fitsOn l slot false, (if l.pair then s.fitsOn l (slot + 1) true else some 0) with
        | some b, some b2 => some (.teamPlace l.ctx l.queue index slot (b + 64 * b2))
        | _, _ => none
      else none)).toList

/-- Steps by which a context comes on. -/
def State.ctxSteps (s : State) (n : Nat) : List Instr :=
  [.contextTermination n, .preemptDrained n, .stopDrainEnd n, .preemptDeadline n] ++
  (s.headsOf n).map (fun l => .dependenceTest n l.queue) ++ (s.headsOf n).flatMap s.placeOf ++
  (s.ctx n).launches.map (fun l => .launchComplete n l.lid)

/-- Steps by which a team comes on. -/
def State.teamSteps (s : State) (t : Team) : List Instr :=
  .teamHalt t.key :: t.bars.map (fun b => .barrierTimeout false t.key b.1) ++
  (s.cluster (clusterOf t.core)).bars.map (fun b => .barrierTimeout true t.key (b.1 % 64))

/-- The step of a request of the Tenant Key Controller. -/
def tkcStep (r : TkcReq) : Instr :=
  match r.op with
  | 2 => .region r.id
  | 3 => .fabbind r.id
  | 4 => .revoke r.id
  | 5 => .tkcResult r.id
  | 6 => .attest r.id
  | _ => .keygen r.id

/-- Steps of the package's parts. -/
def State.partSteps (s : State) : List Instr :=
  s.dies.map (fun e => .shootdownComplete e.1) ++
  s.clusters.flatMap (fun e => (e.2.walks.filter (fun w => !w.ended)).map (fun w => .pageWalkComplete e.1 w.ctx (4096 * w.vpn) .read [])) ++ s.cores.map (fun e => .wcFlush e.1) ++ s.fcmds.filterMap s.fabNext ++
  s.freqs.filterMap s.fmpNext ++ s.logs.map (fun e => .durabilityAdvance e.1 1) ++
  s.relocs.flatMap (fun r => [.relocationCopyEnd r.old, .granuleClear r.old] ++ r.dies.map .shootdownComplete) ++
  s.stalls.map (fun e => .granuleClear e.1) ++ s.tkc.reqs.map tkcStep ++ s.hbm.map (fun e => .hbmRebuildEnd e.1) ++
  s.harts.map (fun e => .gevwaitWake e.1) ++ [.powerTransitionEnd]

/-- Every step by which something under way may complete. -/
def State.candidates (s : State) : List Instr :=
  s.allCohorts.flatMap (fun c => c.v.ops.filterMap (s.opNext c) ++ c.steps) ++ s.allTeams.flatMap s.teamSteps ++
  s.ctxs.flatMap (fun e => s.ctxSteps e.1) ++ s.partSteps

/-- Whether a step can come in the present power state (R435): in PS4 only the side-band port and the sequencing of power act, in PS3 the harts
are suspended, and from PS2 on no team is placed and the fabric ports are idle: nothing comes from another module, not even what it answers. -/
def State.allowed (s : State) (i : Instr) : Bool :=
  let power := s.pwr.state
  match i with
  | .sbmpMessage _ | .ps0 | .ps1 | .ps2 | .ps3 | .ps4 | .powerTransitionEnd | .coldBoot | .powerLoss | .pcieWake | .thermalTrip _ _ => true
  | .gevwaitWake _ | .hartMemoryOperation _ _ | .hartPoisonTrap _ _ | .registerWrite _ _ => decide (power < 3)
  | .teamPlace .. | .fabricPacketReceive _ | .keepalive _ => decide (power < 2)
  | .fabricCommandComplete cmd .. => decide (power < ps4Code) && (decide (power < 2) ||
      s.fcmds.all (fun f => f.id != cmd || f.msgs.all (fun m => m.module == s.fabMod)))
  | _ => decide (power < ps4Code)

/-- The step that comes on next by itself: a candidate that changes the machine, chosen freely. -/
def State.pendingStep (s : State) (ex : Instr → State → Host.Outcome State Fault Refusal) : Option Instr :=
  let l := s.candidates.filter s.allowed
  let r := s.choose 7100 l.length
  (l.drop r ++ l.take r).find? (fun e => match ex e s with
    | .next t => decide (t ≠ s)
    | .fault _ | .refused _ => true)

/-- A core's issue slot: the chain group that its holder has next, or the choice of the next clause. -/
def issueOn (ex : Instr → State → Host.Outcome State Fault Refusal) (n : Nat) (s : State) : Host.Outcome State Fault Refusal :=
  match (s.core n).holder with
  | h :: _ => issueGroup ex (s.focus h)
  | [] => ex (.selectClause n) s

/-- The step that comes on by itself, in a state that differs only in the model's own fields, or nothing. -/
def State.comeOn (s : State) (ex : Instr → State → Host.Outcome State Fault Refusal) (t : State) : Host.Outcome State Fault Refusal :=
  match s.pendingStep ex with
  | some e => ex e t
  | none => .next s

/-- One step, over the meanings ex of the instructions. -/
def stepWith (ex : Instr → State → Host.Outcome State Fault Refusal) (s : State) : Host.Outcome State Fault Refusal :=
  let s := s.beat
  match s.agenda with
  | e :: rest => if s.allowed e then ex e { s with agenda := rest } else .next { s with agenda := rest }
  | [] =>
    match s.turn with
    | some h =>
      let s' := { s with turn := none }
      if (s.hart h).wait.isSome || decide (3 ≤ s.pwr.state) then .next s'
      else match s.hartWord h with
        | .error e => .next (s'.hartTrap h e.1 e.2)
        | .ok w => match decodeHart w with
          | none => if w % 128 = 0x0B then .next (s'.hartTrap h trapIllegal (s.hart h).pc) else .fault (.hartWord h)
          | some i => match ex i s with
            | .next t => .next { t with turn := none }
            | .fault r => .fault r
            | .refused r => .refused r
    | none =>
      match s.burst with
      | k + 1 =>
        match s.nextCore with
        | some n => issueOn ex n { s with burst := k }
        | none => s.comeOn ex s
      | 0 =>
        let t := { s with burst := s.choose 7103 (2 ^ 64) }
        if s.pick 7105 then
          match s.freeCore with
          | some n => issueOn ex n t
          | none => s.comeOn ex t
        else
          match s.pendingStep ex with
          | some e => ex e t
          | none =>
            match s.freeCore with
            | some n => issueOn ex n t
            | none => .next s

/-- The address of the clause that placeWord builds, and of its two page tables. -/
def placeCode : Nat := 0x10000
def placeRoot : Nat := 0x1000
def placeLeaf : Nat := 0x2000

/-- The words of a clause that holds one instruction of the opcode table first: its header, the word and its operand words, and
NOPs (R44, R47). -/
def placeClause (nbits w : Nat) : List Nat :=
  match wordsOf 5 (w % 2 ^ nbits) with
  | i :: ls => [0x7F000FF4, i % 2 ^ 31] ++ ls.take (literalCount i) ++ List.replicate (7 - literalCount i) 0x44000000
  | [] => []

/-- Puts little-endian words into memory from an address up. -/
def State.pokeWords (s : State) : Nat → List Nat → State
  | _, [] => s
  | a, w :: ws => (s.pokeN a 4 w).pokeWords (a + 4) ws

/-- A machine in which the next step runs one instruction of the opcode table (log entry 6): a hart word stands at the pc of
hart 0, whose turn it is; a device word stands in the clause that an 8-lane cohort of a running context has in the slot. -/
def placeWord (s : State) (nbits w : Nat) : State :=
  let s := { s with agenda := [], turn := none, burst := 1, pwr := { s.pwr with state := 0 } }
  match decodeHart (w % 2 ^ nbits) with
  | some _ =>
    let h := s.hart 0
    let s := s.pokeN h.pc 4 (w % 2 ^ nbits)
    { s.setHart 0 { h with wait := none } with turn := some 0 }
  | none =>
    let ws := placeClause nbits w
    let s := (s.pokeN placeRoot 8 0x801).pokeN placeLeaf 8 0xDF
    let s := s.pokeWords placeCode ws
    let s := s.modCtx 0 (fun c => { c with state := .running, root := 0xA000000000000001, nextLid := 2 })
    let id := s.fresh
    let c : Cohort :=
      { Cohort.init with
        id := id, team := id + 1, teamN := 8, launchid := 1, launched := 0xFF, hdr := placeCode, mid := true, words := ws
        idx := 1, clause := id + 2, ended := false, shareN := 1, spill := 0x20000
        v := { View.init with exec := 0xFF, live := 0xFF } }
    let t : Team :=
      { key := id + 1, ctx := 0, tenant := 0, lid := 1, teamid := 0, N := 8, W := 8, core := 0, pair := false, order := 0, cohorts := [id]
        shareB := 0, shareN := 1, shareB2 := 0, gen := 0, rank := 0, bars := [], done := 0, diag := [], status := .running }
    let others := if s.co.id = 0 then s.cohorts else Tab.put s.cohorts s.co.id s.co
    let s := { s with co := c, cohorts := others, fresh := id + 3 }
    (s.setTeam t).modCore 0 (fun k => { k with holder := [id], prev := some id, run := 1 })

end Sys2Proof.Machine
end

