-- ==== Sys2Proof/Safety.lean ====
section
/-!
DEFINITION. What counts as a safe run: a run of steps that reaches neither a fault nor a refusal.
-/

namespace Sys2Proof

/-- The machine can make n steps from s without stopping. -/
def runsFor : Nat → Machine.State → Prop
  | 0, _ => True
  | n + 1, s => ∃ t, Machine.step s = .next t ∧ runsFor n t

/-- The machine never stops from s. -/
def Safe (s : Machine.State) : Prop := ∀ n, runsFor n s

end Sys2Proof
end

