-- ==== Sys2Proof/Values.lean ====
section
/-!
DEFINITION. The values of codes and the rounding of exact values, as the spec states them over the rational numbers (R100 to R102, R104,
R105, R109, R114, R115, R117, R119, R120, R124, R125, R127, R128, R132, R138, R141). The statements about floating point are stated in
these words, and not in the functions by which the model computes them.
-/

open Sys2Proof.Machine

namespace Sys2Proof.Claims

/-! ## Codes and their values (R100 to R102) -/

/-- The fields of a code: sign, exponent and fraction, from the most significant bit down; the bits above the format count for nothing. -/
def fFrac (f : Fmt) (c : Nat) : Nat := c % 2 ^ f.m
def fExp (f : Fmt) (c : Nat) : Nat := c / 2 ^ f.m % 2 ^ f.e
def fNeg (f : Fmt) (c : Nat) : Bool := c / 2 ^ (f.e + f.m) % 2 == 1
def fBits (f : Fmt) : Nat := 1 + f.e + f.m
def fOwn (f : Fmt) (c : Nat) : Nat := c % 2 ^ fBits f

/-- Infinities and NaNs: exponent all ones in the wide formats and E5M2; S.1111.111 alone in E4M3; none in the others. -/
def fNaN (f : Fmt) (c : Nat) : Bool := match f.kind with
  | .ieee => fExp f c == 2 ^ f.e - 1 && fFrac f c != 0
  | .e4m3 => fExp f c == 15 && fFrac f c == 7
  | .finite => false
def fInf (f : Fmt) (c : Nat) : Bool := match f.kind with
  | .ieee => fExp f c == 2 ^ f.e - 1 && fFrac f c == 0
  | .e4m3 | .finite => false

/-- The magnitude of a finite code, and its value. -/
def fMag (f : Fmt) (c : Nat) : ℚ :=
  if fExp f c = 0 then fFrac f c * 2 ^ (1 - (f.bias : ℤ) - f.m) else (2 ^ f.m + fFrac f c) * 2 ^ ((fExp f c : ℤ) - f.bias - f.m)
def fVal (f : Fmt) (c : Nat) : ℚ := if fNeg f c then -fMag f c else fMag f c
/-- The place of a code that is not NaN in the order of the values: an infinity lies beyond every finite value. -/
def fOrd (f : Fmt) (c : Nat) : ℚ :=
  if fInf f c then (if fNeg f c then -(2 ^ (f.bias + 2)) else 2 ^ (f.bias + 2)) else fVal f c

/-- The largest finite magnitude M. -/
def fTop (f : Fmt) : ℚ := match f.kind with
  | .ieee => (2 - 1 / 2 ^ f.m) * 2 ^ f.bias
  | .e4m3 => 448
  | .finite => (2 ^ (f.m + 1) - 1) * 2 ^ ((2 ^ f.e - 1 : ℤ) - f.bias - f.m)
/-- The canonical NaN. -/
def fCanon : FType → Nat
  | .f32 => 0x7FC00000
  | .f16 => 0x7E00
  | .b16 => 0x7FC0
/-- The three types of the float instructions, with the parameters of R100. -/
def fType : FType → Fmt
  | .f32 => ⟨8, 23, .ieee⟩
  | .f16 => ⟨5, 10, .ieee⟩
  | .b16 => ⟨8, 7, .ieee⟩

/-! ## Rounding (R114, R115, R117) -/

/-- A representable magnitude, with the exponent range unbounded above and with subnormal spacing below. -/
def Rep (f : Fmt) (q : ℚ) : Prop := ∃ (n : ℕ) (k : ℤ), n < 2 ^ (f.m + 1) ∧ 1 - (f.bias : ℤ) - f.m ≤ k ∧ q = n * 2 ^ k
/-- The integers as the representable magnitudes (R132). -/
def Whole (q : ℚ) : Prop := ∃ n : ℕ, q = n
/-- lo and hi are the adjacent magnitudes of a kind with lo ≤ x < hi. -/
def Between (S : ℚ → Prop) (x lo hi : ℚ) : Prop := S lo ∧ S hi ∧ lo ≤ x ∧ x < hi ∧ ∀ q, S q → q ≤ lo ∨ hi ≤ q

/-- The rounded magnitude y of the magnitude x between lo and hi, of an exact value that is negative or not. At a tie lo is an even or an
odd multiple of the spacing: its lowest fraction bit is 0, or that of hi is. M bounds the magnitudes that a draw rounds. -/
def Picks (mode : Rnd) (neg : Bool) (draw : Nat) (M x lo hi y : ℚ) : Prop := match mode with
  | .rn => (x - lo < hi - x → y = lo) ∧ (hi - x < x - lo → y = hi) ∧
      (x - lo = hi - x → (∃ n : ℕ, lo = 2 * n * (hi - lo) ∧ y = lo) ∨ ∃ n : ℕ, lo = (2 * n + 1) * (hi - lo) ∧ y = hi)
  | .rz => y = lo
  | .ru => y = if !neg ∧ x ≠ lo then hi else lo
  | .rd => y = if neg ∧ x ≠ lo then hi else lo
  | .rs => y = if x = lo then lo else if M < x then hi else if (draw : ℤ) < ⌊(x - lo) / (hi - lo) * 2 ^ 32⌋ then hi else lo

/-- The magnitude of a result beyond M (R115). -/
def Overflows (f : Fmt) (mode : Rnd) (sat neg : Bool) (c : Nat) : Prop :=
  let up : Bool := !sat && (mode == .rn || (mode == .ru && !neg) || (mode == .rd && neg))
  match f.kind with
  | .ieee => if up then fInf f c = true else fInf f c = false ∧ fMag f c = fTop f
  | .e4m3 => if up then fNaN f c = true else fNaN f c = false ∧ fMag f c = fTop f
  | .finite => fMag f c = fTop f

/-- c is the code of Round(x) of the exact value of magnitude x and sign neg. -/
def Rounds (f : Fmt) (mode : Rnd) (sat neg : Bool) (x : ℚ) (draw c : Nat) : Prop :=
  c < 2 ^ fBits f ∧ fNeg f c = neg ∧ ∃ lo hi y, Between (Rep f) x lo hi ∧ Picks mode neg draw (fTop f) x lo hi y ∧
    if y ≤ fTop f then fNaN f c = false ∧ fInf f c = false ∧ fMag f c = y else Overflows f mode sat neg c
/-- n is the integer that a magnitude rounds to (R132). -/
def RoundsInt (mode : Rnd) (neg : Bool) (x : ℚ) (draw n : Nat) : Prop :=
  ∃ lo hi, Between Whole x lo hi ∧ Picks mode neg draw x x lo hi n

/-! ## Arithmetic (R124, R125, R127, R128) -/

/-- The first NaN operand, in its own format with the quiet bit set. -/
def firstNaN (f : Fmt) (cs : List Nat) : Option Nat := (cs.find? (fNaN f)).map (fun c => fOwn f c ||| 2 ^ (f.m - 1))
/-- A code with the other sign. -/
def fFlip (f : Fmt) (c : Nat) : Nat := fOwn f c ^^^ 2 ^ (f.e + f.m)

/-- A sum of finite values: an exact zero is +0, but for two zeros of sign -. -/
def Sums (f : Fmt) (x : ℚ) (zeros : Bool) (r : Nat) : Prop := Rounds f .rn false (decide (x < 0) || (decide (x = 0) && zeros)) |x| 0 r

/-- r is the result of FADD, FSUB, FMUL and FFMA; nan is the canonical NaN of the format. -/
def Adds (f : Fmt) (nan a b r : Nat) : Prop := match firstNaN f [a, b] with
  | some q => r = q
  | none =>
    if fInf f a && fInf f b then r = if fNeg f a = fNeg f b then fOwn f a else nan
    else if fInf f a then r = fOwn f a
    else if fInf f b then r = fOwn f b
    else Sums f (fVal f a + fVal f b) (fNeg f a && fNeg f b) r
def Subtracts (f : Fmt) (nan a b r : Nat) : Prop := match firstNaN f [a, b] with
  | some q => r = q
  | none =>
    if fInf f a && fInf f b then r = if fNeg f a = fNeg f b then nan else fOwn f a
    else if fInf f a then r = fOwn f a
    else if fInf f b then r = fFlip f b
    else Sums f (fVal f a - fVal f b) (fNeg f a && !fNeg f b) r
def Multiplies (f : Fmt) (nan a b r : Nat) : Prop := match firstNaN f [a, b] with
  | some q => r = q
  | none =>
    let neg := fNeg f a != fNeg f b
    if fInf f a || fInf f b then
      if (!fInf f a && fMag f a == 0) || (!fInf f b && fMag f b == 0) then r = nan
      else r < 2 ^ fBits f ∧ fInf f r = true ∧ fNeg f r = neg
    else Rounds f .rn false neg (fMag f a * fMag f b) 0 r
def Fuses (f : Fmt) (nan a b c r : Nat) : Prop := match firstNaN f [a, b, c] with
  | some q => r = q
  | none =>
    let neg := fNeg f a != fNeg f b
    if fInf f a || fInf f b then
      if (!fInf f a && fMag f a == 0) || (!fInf f b && fMag f b == 0) || (fInf f c && fNeg f c != neg) then r = nan
      else r < 2 ^ fBits f ∧ fInf f r = true ∧ fNeg f r = neg
    else if fInf f c then r = fOwn f c
    else Sums f (fVal f a * fVal f b + fVal f c) (neg && fNeg f c) r
/-- r is the lesser or the greater of two operands, with -0 < +0, and A if they are equal. -/
def Selects (f : Fmt) (greatest : Bool) (a b r : Nat) : Prop := match firstNaN f [a, b] with
  | some q => r = q
  | none =>
    let less := fOrd f a < fOrd f b ∨ (fOrd f a = fOrd f b ∧ fNeg f a = true ∧ fNeg f b = false)
    let more := fOrd f b < fOrd f a ∨ (fOrd f a = fOrd f b ∧ fNeg f a = false ∧ fNeg f b = true)
    if greatest then (less → r = fOwn f b) ∧ (¬less → r = fOwn f a) else (more → r = fOwn f b) ∧ (¬more → r = fOwn f a)

/-- The class of a code (R131). -/
def fClass (f : Fmt) (c : Nat) : Nat :=
  if fNaN f c then (if fFrac f c / 2 ^ (f.m - 1) = 1 then 9 else 8)
  else if fInf f c then (if fNeg f c then 0 else 7)
  else if fFrac f c = 0 ∧ fExp f c = 0 then (if fNeg f c then 3 else 4)
  else if fExp f c = 0 then (if fNeg f c then 2 else 5)
  else (if fNeg f c then 1 else 6)
/-- A float condition on two codes (R130). -/
def fHolds (f : Fmt) (k : FloatCond) (a b : Nat) : Bool :=
  let unordered := fNaN f a || fNaN f b
  match k with
  | .eq => !unordered && decide (fOrd f a = fOrd f b)
  | .ne => unordered || decide (fOrd f a ≠ fOrd f b)
  | .lt => !unordered && decide (fOrd f a < fOrd f b)
  | .le => !unordered && decide (fOrd f a ≤ fOrd f b)
  | .gt => !unordered && decide (fOrd f b < fOrd f a)
  | .ge => !unordered && decide (fOrd f b ≤ fOrd f a)
  | .ord => !unordered
  | .unord => unordered

/-- FRINT and FSCALE (R132). -/
def RoundsToInt (f : Fmt) (mode : Rnd) (a draw r : Nat) : Prop := match firstNaN f [a] with
  | some q => r = q
  | none =>
    if fInf f a = true ∨ fMag f a = 0 then r = fOwn f a
    else r < 2 ^ fBits f ∧ fNeg f r = fNeg f a ∧ fNaN f r = false ∧ fInf f r = false ∧
      ∃ n : ℕ, RoundsInt mode (fNeg f a) (fMag f a) draw n ∧ fMag f r = n
def Scales (f : Fmt) (mode : Rnd) (a : Nat) (n : ℤ) (draw r : Nat) : Prop := match firstNaN f [a] with
  | some q => r = q
  | none => if fInf f a = true ∨ fMag f a = 0 then r = fOwn f a else Rounds f mode false (fNeg f a) (fMag f a * 2 ^ n) draw r

/-! ## Conversions (R119, R120, R137, R138) -/

/-- The conversion types: an integer's bits and whether it is signed, or a format. -/
def cvtInt : CvtType → Option (Nat × Bool)
  | .i8 => some (8, true)
  | .i16 => some (16, true)
  | .i32 => some (32, true)
  | .i64 => some (64, true)
  | .n8 => some (8, false)
  | .n16 => some (16, false)
  | .n32 => some (32, false)
  | .n64 => some (64, false)
  | .f32 | .f16 | .b16 | .e4m3 | .e5m2 | .e3m2 | .e2m3 | .e2m1 => none
def cvtFmt : CvtType → Fmt
  | .f16 => ⟨5, 10, .ieee⟩
  | .b16 => ⟨8, 7, .ieee⟩
  | .e4m3 => ⟨4, 3, .e4m3⟩
  | .e5m2 => ⟨5, 2, .ieee⟩
  | .e3m2 => ⟨3, 2, .finite⟩
  | .e2m3 => ⟨2, 3, .finite⟩
  | .e2m1 => ⟨2, 1, .finite⟩
  | .f32 | .i8 | .i16 | .i32 | .i64 | .n8 | .n16 | .n32 | .n64 => ⟨8, 23, .ieee⟩
/-- The integer in the low bits of a source, the limits of an integer type, and an integer as its result is written. -/
def iVal (t : Nat × Bool) (x : DWord) : ℤ := if t.2 then (x.setWidth t.1).toInt else (x.setWidth t.1).toNat
def iMin (t : Nat × Bool) : ℤ := if t.2 then -2 ^ (t.1 - 1) else 0
def iMax (t : Nat × Bool) : ℤ := if t.2 then 2 ^ (t.1 - 1) - 1 else 2 ^ t.1 - 1
def iPut (t : Nat × Bool) (v : ℤ) : DWord := let x := BitVec.ofInt t.1 v; if t.2 then x.signExtend 64 else x.setWidth 64
def iClamp (t : Nat × Bool) (v : ℤ) : ℤ := if v < iMin t then iMin t else if iMax t < v then iMax t else v

/-- A NaN of format g in format f (R119, R120): the fraction aligned at the top, and quiet. -/
def nanIn (g f : Fmt) (a : Nat) : Nat :=
  let s := if fNeg g a then 2 ^ (f.e + f.m) else 0
  match f.kind with
  | .ieee => s + (2 ^ f.e - 1) * 2 ^ f.m +
      ((if f.m ≤ g.m then fFrac g a / 2 ^ (g.m - f.m) else fFrac g a * 2 ^ (f.m - g.m)) ||| 2 ^ (f.m - 1))
  | .e4m3 => s + 0x7F
  | .finite => 0
/-- An infinity of a sign in format f (R119). -/
def InfIn (f : Fmt) (sat neg : Bool) (c : Nat) : Prop :=
  c < 2 ^ fBits f ∧ fNeg f c = neg ∧ match f.kind with
    | .ieee => fInf f c = true
    | .e4m3 => if sat then fMag f c = 448 ∧ fNaN f c = false else fNaN f c = true
    | .finite => fMag f c = fTop f
/-- A code of format g in format f. -/
def Recodes (g f : Fmt) (mode : Rnd) (sat : Bool) (a draw c : Nat) : Prop :=
  if fNaN g a then c = nanIn g f a
  else if fInf g a then InfIn f sat (fNeg g a) c
  else Rounds f mode sat (fNeg g a) (fMag g a) draw c

/-- One conversion to type t from type k (R138): w is the result of x. -/
def Converts (mode : Rnd) (sat : Bool) (t k : CvtType) (x : DWord) (draw : Nat) (w : DWord) : Prop :=
  match cvtInt k, cvtInt t with
  | some i, some j => w = iPut j (if sat then iClamp j (iVal i x) else iVal i x)
  | some i, none => Rounds (cvtFmt t) mode sat (decide (iVal i x < 0)) |(iVal i x : ℚ)| draw w.toNat
  | none, some j =>
    let g := cvtFmt k
    if fNaN g x.toNat then w = 0
    else if fInf g x.toNat then w = iPut j (if fNeg g x.toNat then iMin j else iMax j)
    else ∃ n : ℕ, RoundsInt mode (fNeg g x.toNat) (fMag g x.toNat) draw n ∧ w = iPut j (iClamp j (if fNeg g x.toNat then -n else n))
  | none, none => Recodes (cvtFmt k) (cvtFmt t) mode sat x.toNat draw w.toNat

/-! ## Blocks (R104, R105, R109, R141) -/

/-- The format of a block's elements; none for the integers, with their bits. -/
def blkFmt : BlkFmt → Fmt ⊕ Nat
  | .e4m3 => .inl ⟨4, 3, .e4m3⟩
  | .e5m2 => .inl ⟨5, 2, .ieee⟩
  | .e3m2 => .inl ⟨3, 2, .finite⟩
  | .e2m3 => .inl ⟨2, 3, .finite⟩
  | .e2m1 | .e2m1s => .inl ⟨2, 1, .finite⟩
  | .q8 => .inr 8
  | .q4 => .inr 4
/-- Emax of QNT. -/
def blkEmax : BlkFmt → ℤ
  | .e4m3 => 8
  | .e5m2 => 15
  | .e3m2 => 4
  | .e2m3 | .e2m1 | .e2m1s => 2
  | .q8 => 6
  | .q4 => 2

/-- DecodeBlock (R109): w is the FP32 code of the element c under scale record q. -/
def Decodes (k : BlkFmt) (c q w : Nat) : Prop :=
  let E := q / 256 % 256
  let scaled (neg : Bool) (v : ℚ) : Prop := Rounds (fType .f32) .rn false neg (v * 2 ^ ((E : ℤ) - 127)) 0 w
  if E = 255 then w = 0x7FC00000
  else if k = .e2m1s ∧ c % 16 = 8 then scaled (decide (q / 128 % 2 = 1)) ((q % 128 : Nat) / 2)
  else match blkFmt k with
    | .inr n => let v := iVal (n, true) (BitVec.ofNat 64 c); scaled (decide (v < 0)) |(v : ℚ)|
    | .inl f => if fNaN f c then w = 0x7FC00000 else if fInf f c then w = (if fNeg f c then 0xFF800000 else 0x7F800000)
      else scaled (fNeg f c) (fMag f c)

/-- Encode(Round(y), saturating) of the value of magnitude y and sign neg (R141). -/
def Encodes (k : BlkFmt) (mode : Rnd) (neg : Bool) (y : ℚ) (draw c : Nat) : Prop := match blkFmt k with
  | .inl f => Rounds f mode true neg y draw c
  | .inr n => ∃ v : ℕ, RoundsInt mode neg y draw v ∧ c < 2 ^ n ∧
      (c : ℤ) % 2 ^ n = iClamp (n, true) (if neg then -v else v) % 2 ^ n

/-- A block of the active lanes ls with the FP32 codes x, as QNT forms it: scale record q and element codes (R141). -/
def Quantises (k : BlkFmt) (mode : Rnd) (ls : List Nat) (x : Nat → Nat) (draw : Nat → Nat) (q : Nat) (code : Nat → Nat) : Prop :=
  let f := fType .f32
  let signed (l : Nat) (y : ℚ) : ℚ := if fNeg f (x l) then -y else y
  if ls.any (fun l => fNaN f (x l) || fInf f (x l)) then q = 0xFF00 ∧ ∀ l ∈ ls, code l = 0
  else ∃ (E : ℕ) (amax : ℚ) (base : Nat → Nat),
    (∀ l ∈ ls, fMag f (x l) ≤ amax) ∧ ((∃ l ∈ ls, fMag f (x l) = amax) ∨ (ls = [] ∧ amax = 0)) ∧
    (if amax = 0 then E = 127 else ∃ g : ℤ, 2 ^ g ≤ amax ∧ amax < 2 ^ (g + 1) ∧ (E : ℤ) = max 0 (min 254 (g - blkEmax k + 127))) ∧
    let y (l : Nat) : ℚ := fMag f (x l) / 2 ^ ((E : ℤ) - 127)
    (∀ l ∈ ls, Encodes k mode (fNeg f (x l)) (y l) (draw l) (base l)) ∧
    if k = .e2m1s ∧ amax ≠ 0 then
      ∃ m ∈ ls, fMag f (x m) = amax ∧ (∀ l ∈ ls, l < m → fMag f (x l) ≠ amax) ∧ ∃ n : ℕ, RoundsInt .rn false (2 * y m) 0 n ∧
        let sp := max 1 (min 127 n)
        q = E * 256 + (if fNeg f (x m) then 128 else 0) + sp ∧
        ∀ l ∈ ls, code l =
          if |signed l (y l) - signed m (sp / 2)| < |signed l (y l) - fVal ⟨2, 1, .finite⟩ (base l)| then 8
          else if base l = 8 then 0 else base l
    else q = E * 256 ∧ ∀ l ∈ ls, code l = base l

/-! ## The matrix array (R235, R246, R247) -/

/-- The value of an element under its scale record's special value; none for a NaN or an infinity. -/
def eVal (ek : EKind) (q c : Nat) : Option ℚ :=
  let fin (f : Fmt) : Option ℚ := if fNaN f c || fInf f c then none else some (fVal f c)
  match ek with
  | .blk k =>
    if k = .e2m1s ∧ c % 16 = 8 then some ((if q / 128 % 2 = 1 then -1 else 1) * (q % 128 : Nat) / 2)
    else match blkFmt k with
      | .inl f => fin f
      | .inr n => some (iVal (n, true) (BitVec.ofNat 64 c))
  | .b16 => fin (fType .b16)
  | .f16 => fin (fType .f16)
  | .f32 => fin (fType .f32)

/-- The window of a block whose elements have the values v (R235); P is the plane count. -/
def Windows (ek : EKind) (P : Nat) (vs : List ℚ) (w : ℤ) : Prop := match ek with
  | .blk .q4 | .blk .q8 => w = 0
  | .blk .e2m1 | .blk .e2m1s => w = -1
  | .blk .e2m3 => w = -3
  | .blk .e3m2 | .blk .e4m3 | .blk .e5m2 | .b16 | .f16 | .f32 =>
    ((∀ v ∈ vs, v = 0) ∧ w = 0) ∨
      ∃ m : ℤ, (∃ v ∈ vs, 2 ^ m ≤ |v|) ∧ (∀ v ∈ vs, |v| < 2 ^ (m + 1)) ∧ w = max (m - P + 2) (-127)

/-- A block of n elements as PLNX forms it (R235): the P-bit integers, the window byte, whether a nonzero bit was lost, and whether it
is a NaN block. -/
def Planes (ek : EKind) (code : Nat → Nat) (q n : Nat) (ints : Nat → Nat) (win : Nat) (lost nan : Bool) : Prop :=
  let P := planesOf ek
  let bad : Bool := (List.range n).any (fun i => (eVal ek q (code i)).isNone) || (ek.block && q / 256 % 256 == 255)
  let v (i : Nat) : ℚ := (eVal ek q (code i)).getD 0
  if bad then nan = true ∧ lost = false ∧ win = 0x80 ∧ ∀ i < n, ints i = 0
  else nan = false ∧ ∃ w : ℤ, Windows ek P ((List.range n).map v) w ∧ win = (w % 256).toNat ∧
    ∃ t : Nat → ℤ, (∀ i < n, t i = if 0 ≤ v i then ⌊v i * 2 ^ (-w)⌋ else ⌈v i * 2 ^ (-w)⌉) ∧
      (∀ i < n, ints i = (t i % 2 ^ P).toNat) ∧ (lost = true ↔ ∃ i < n, (t i : ℚ) * 2 ^ w ≠ v i)

/-- The integer of element k of a row of bit planes, plane P - 1 its sign (R236). -/
def rowInt (P : Nat) (bit : Nat → Nat → Bool) (k : Nat) : ℤ :=
  (BitVec.ofNat P ((List.range P).map (fun p => if bit p k then 2 ^ p else 0)).sum).toInt

/-- One turn of the loop of R246, over the n reduction indices from k0: codes and scale record q are those of the weights of a column,
ints, window and scale exponent those of the activation row; acc' follows acc. -/
def Accumulates (ek : EKind) (codes : Nat → Nat) (q : Nat) (ints : Nat → ℤ) (window : ℤ) (ea k0 n acc acc' : Nat) : Prop :=
  let f := fType .f32
  let ew := if ek.block then q / 256 % 256 else 127
  let ks := (List.range n).map (fun i => k0 + i)
  let nan : Bool := window == -128 || ea == 255 || ew == 255 || ks.any (fun k => (eVal ek q (codes k)).isNone)
  let d : ℚ := (ks.map (fun k => (eVal ek q (codes k)).getD 0 * ints k)).sum
  if nan || fNaN f acc then acc' = 0x7FC00000
  else ∃ x, Rounds f .rn false (decide (d < 0)) (|d| * 2 ^ (window + ((ew : ℤ) - 127) + ((ea : ℤ) - 127))) 0 x ∧ Adds f 0x7FC00000 acc x acc'

end Sys2Proof.Claims
end

