-- ==== Sys2Proof/Claims.lean ====
section
/-!
DEFINITION. The words that the statements about the model are stated in.
-/

open Sys2Proof.Machine

namespace Sys2Proof.Claims

/-- The value of a register in a lane, as the cohort holds it now. -/
def regOf (c : Cohort) (r : Reg) (lane : Nat) : Word := Tab.get 0 c.v.regs (regKey c.v.wdepth c.S r lane)

/-- t is s but for the registers of the focused cohort and its place, n words on: memory, flags, masks, special registers, every
other cohort and every other part of the machine are as they were. -/
def OnlyRegs (s t : State) (n : Nat) : Prop :=
  ∃ regs, t = { s with co := { s.co with idx := s.co.idx + n, v := { s.co.v with regs := regs } } }

/-- Register d holds val of the lane's source in each lane that an operation with this U bit writes (R16, R24), and no other
register of the cohort has changed in any lane. -/
def Wrote (s t : State) (u : Bool) (d : Reg) (val : Nat → Word) : Prop :=
  (∀ l ∈ s.co.targets u, regOf t.co d l = val (s.co.source u l)) ∧
  (∀ k, (∀ l ∈ s.co.targets u, k ≠ regKey s.co.v.wdepth s.co.S d l) → Tab.get 0 t.co.v.regs k = Tab.get 0 s.co.v.regs k)

/-- The instruction completes in s: it writes d so, goes n words on, and changes nothing else. -/
def Lanes (s : State) (i : Instr) (u : Bool) (d : Reg) (n : Nat) (val : Nat → Word) : Prop :=
  ∃ t, exec i s = .next t ∧ OnlyRegs s t n ∧ Wrote s t u d val

/-- An instruction of one word that computes f of one source, or of two, in each lane that it writes. -/
def One (s : State) (i : Instr) (u : Bool) (d a : Reg) (f : Word → Word) : Prop := Lanes s i u d 1 (fun l => f (s.co.get a l))
def Two (s : State) (i : Instr) (u : Bool) (d a b : Reg) (f : Word → Word → Word) : Prop :=
  Lanes s i u d 1 (fun l => f (s.co.get a l) (s.co.get b l))

/-- The same for an instruction that writes one value in every active and inactive lane. -/
def Uniform (s : State) (i : Instr) (d : Reg) (n : Nat) (val : Word) : Prop :=
  ∃ t, exec i s = .next t ∧ OnlyRegs s t n ∧
    (∀ l ∈ s.co.livel, regOf t.co d l = val) ∧
    (∀ k, (∀ l ∈ s.co.livel, k ≠ regKey s.co.v.wdepth s.co.S d l) → Tab.get 0 t.co.v.regs k = Tab.get 0 s.co.v.regs k)

/-- The ring of a cohort is no shorter than the 48 registers of a window (R18), and its width is at most 64 (R11). -/
abbrev Shape (c : Cohort) : Prop := 48 ≤ c.S ∧ c.W ≤ 64

/-- The same for a pair destination: an even code and the code after it (R5, R21). -/
def LanesPair (s : State) (i : Instr) (u : Bool) (d : Reg) (n : Nat) (val : Nat → DWord) : Prop :=
  ∃ t, exec i s = .next t ∧ OnlyRegs s t n ∧
    (∀ l ∈ s.co.targets u, pairOf (regOf t.co d l) (regOf t.co (d + 1) l) = val (s.co.source u l)) ∧
    (∀ k, (∀ l ∈ s.co.targets u, k ≠ regKey s.co.v.wdepth s.co.S d l ∧ k ≠ regKey s.co.v.wdepth s.co.S (d + 1) l) →
      Tab.get 0 t.co.v.regs k = Tab.get 0 s.co.v.regs k)

def UniformPair (s : State) (i : Instr) (d : Reg) (n : Nat) (val : DWord) : Prop :=
  ∃ t, exec i s = .next t ∧ OnlyRegs s t n ∧
    (∀ l ∈ s.co.livel, pairOf (regOf t.co d l) (regOf t.co (d + 1) l) = val) ∧
    (∀ k, (∀ l ∈ s.co.livel, k ≠ regKey s.co.v.wdepth s.co.S d l ∧ k ≠ regKey s.co.v.wdepth s.co.S (d + 1) l) →
      Tab.get 0 t.co.v.regs k = Tab.get 0 s.co.v.regs k)

/-- The instruction writes a mask (R26, R27): bit n of it is p n for an active lane n, and every other bit is 0. At W = 64 the
destination is a pair. -/
def WritesMask (s : State) (i : Instr) (d : Reg) (p : Nat → Bool) : Prop :=
  (s.co.W ≤ 32 → ∃ val : Word, Uniform s i d 1 val ∧ ∀ n < 32, val.getLsbD n = (s.co.active.contains n && p n)) ∧
  (s.co.W = 64 → ∃ val : DWord, UniformPair s i d 1 val ∧ ∀ n < 64, val.getLsbD n = (s.co.active.contains n && p n))

/-- The instruction completes: it goes n words on with a new focused cohort, and changes nothing else. -/
def OnlyCo (s : State) (i : Instr) (n : Nat) (f : Cohort → Cohort) : Prop :=
  exec i s = .next { s with co := { f s.co with idx := s.co.idx + n } }

/-- t is s but for the registers of the focused cohort, its place one word on, and its draw count, which a stochastic rounding
advances by 1 (R116). -/
def OnlyRegsDraw (s t : State) (r : Rnd) : Prop :=
  ∃ regs, t = { s with co := { s.co with
    idx := s.co.idx + 1, v := { s.co.v with regs := regs, k := if r = .rs then s.co.v.k + 1 else s.co.v.k } } }

/-- A rounding instruction completes: it writes d so. -/
def LanesDraw (s : State) (i : Instr) (u : Bool) (d : Reg) (r : Rnd) (val : Nat → Word) : Prop :=
  ∃ t, exec i s = .next t ∧ OnlyRegsDraw s t r ∧ Wrote s t u d val

/-- An operation begins (R30, R43): the cohort goes n words on with a new outstanding operation, and nothing else changes. -/
def Begins (s : State) (i : Instr) (n : Nat) (kind : OpKind) (f : Bool) (keys : List Nat) (ws : List (Nat × Word)) : Prop :=
  exec i s = .next { s with
    fresh := s.fresh + 1
    co := { s.co with
      idx := s.co.idx + n
      v := { s.co.v with
        ops := s.co.v.ops ++ [{ id := s.fresh, kind := kind, flag := s.co.flagOf f, clause := s.co.clause, keys := keys, writes := ws }] } } }

/-- The clause ends and the cohort goes on at the clause start pc, with its t0-t3 left 0 (R20, R47, R144); nothing else changes. -/
def Jumps (s : State) (i : Instr) (pc : Nat) : Prop :=
  ∃ regs, exec i s = .next { s with co := { s.co with
      hdr := pc % 2 ^ 64, mid := false, words := [], idx := 0, y := s.co.header % 2 == 1, v := { s.co.v with regs := regs } } } ∧
    ∀ k, Tab.get 0 regs k = if 768 ≤ k ∧ k < 1024 then 0 else Tab.get 0 s.co.v.regs k

/-- The instruction completes in a state of which p holds. -/
def Reaches (s : State) (i : Instr) (p : State → Prop) : Prop := ∃ t, exec i s = .next t ∧ p t

/-- The cohort stands at the start of the clause at pc. -/
def At (t : State) (pc : Nat) : Prop := t.co.hdr = pc % 2 ^ 64 ∧ t.co.mid = false ∧ t.co.idx = 0 ∧ t.co.words = []

/-- From t to q an operation of the focused cohort begins, and the cohort goes n words on: its registers are as they were, and the
operation is outstanding with its flag and with the values that its completion writes (R30, R43). -/
def Opens (t q : State) (n : Nat) (kind : OpKind) (flag : Option Nat) (ws : List (Nat × Word)) : Prop :=
  q.co.idx = t.co.idx + n ∧ q.co.v.regs = t.co.v.regs ∧ q.co.v.exec = t.co.v.exec ∧ q.co.hdr = t.co.hdr ∧
  q.co.v.ops = t.co.v.ops ++
    [{ id := t.fresh, kind := kind, flag := flag, clause := t.co.clause, keys := ws.map Prod.fst, writes := ws }]

/-- Everything that the focused cohort's core and its cluster have stored is in memory: no byte of the core's L1 is its own, the
cluster's cache holds no byte that it has accepted and does not own, and no store is buffered. -/
abbrev Quiet (t : State) : Prop :=
  (∀ e ∈ (t.core t.co.core).l1, e.2.own = 0) ∧ (∀ e ∈ (t.cluster (t.co.core / 16)).cc, e.2.data = []) ∧ (t.core t.co.core).wc = []

/-- No core and no cluster holds a store that memory lacks. -/
abbrev AllQuiet (t : State) : Prop :=
  (∀ k ∈ t.cores, (∀ e ∈ k.2.l1, e.2.own = 0) ∧ k.2.wc = []) ∧ ∀ k ∈ t.clusters, ∀ e ∈ k.2.cc, e.2.data = []

/-- No core holds a store of its own to some lines: as while a command owns them, since every store to them waits for it (R342). -/
abbrev Clean (t : State) (lines : List Nat) : Prop := ∀ k ∈ t.cores, ∀ e ∈ k.2.l1, e.1 ∈ lines → e.2.own = 0

/-- "word C compare value" at 32 or 64 bits, unsigned or signed as the suffix names (R191). -/
def wordHolds (k : WaitCond) (w64 : Bool) (word cmp : DWord) : Bool := match k with
  | .eq => word == cmp
  | .ne => word != cmp
  | .ltn => decide (word.toNat < cmp.toNat)
  | .gen => decide (cmp.toNat ≤ word.toNat)
  | .lti => if w64 then decide (word.toInt < cmp.toInt) else decide ((loOf word).toInt < (loOf cmp).toInt)
  | .gei => if w64 then decide (cmp.toInt ≤ word.toInt) else decide ((loOf cmp).toInt ≤ (loOf word).toInt)

/-- What the core of the focused cohort holds of memory agrees with memory: every valid sector of its L1, every unit of its read-only
caches; and everything that it has stored is in memory. -/
abbrev Agrees (t : State) : Prop :=
  let k := t.core t.co.core
  (∀ e ∈ k.l1, e.2.data.length = 64 ∧ ∀ n < 4, e.2.valid.getLsbD n = true → e.2.sector n = t.bytes (64 * e.1 + 16 * n) 16) ∧
  (∀ e ∈ k.ro ++ k.cst, e.2 = BitVec.ofNat 32 (t.readN (4 * e.1) 4)) ∧ Quiet t

/-- A resolved access lies on chip, or on normal pages that do not name the control range. -/
abbrev Plain (r : Resolved) : Prop := ∀ l ∈ r.leaves, l.normal = true ∧ areaOf l.pa ≠ .control
/-- A resolved access lies on normal pages that do not name the control range. -/
abbrev Paged (r : Resolved) : Prop := ∀ p ∈ r.parts, ∃ l, p.1 = some l ∧ l.normal = true ∧ areaOf l.pa ≠ .control

/-- The n bytes from an offset of a cohort's scratchpad share (R217). -/
def ShareBytes (c : Cohort) (x n : Nat) : List Nat := (List.range n).map (fun i => slotAddr c.core (0x100000 + 16384 * c.shareB + (x + i)))
/-- An access of n bytes at va lies in a cohort's scratchpad share from offset x on: through the LOCAL window (R171, R172, R217), or as an
offset of LDS or STS (R182). -/
def InShare (share : Bool) (c : Cohort) (va n x : Nat) : Prop :=
  x + n ≤ 16384 * c.shareN ∧
  if share then va = x else windowOf va = .loc x ∧ ∃ y, windowOf ((va + (n - 1)) % 2 ^ 64) = .loc y

/-- The registers of a load: size and register number in each lane that takes the value of a lane's access. -/
def loadKeys (c : Cohort) (d : Reg) (size : MSize) (takes : Nat → List Nat) (rs : List (Nat × Nat × Resolved)) : List Nat :=
  rs.flatMap (fun e => (takes e.1).flatMap (fun l =>
    (List.range (sizeRegs size)).map (fun i => regKey c.v.wdepth c.S (d + BitVec.ofNat 6 i) l)))

/-- s accepts an engine command at an instruction (R226, R227), with t the state in which its operands have been checked: where no
scoreboard entry holds up its claims and there are entries for them, u holding them, a command of which p holds is under way on the
cohort's core, its operation is outstanding on the registers that its result goes to, the cohort goes n words on, and memory and
registers are as they were. -/
def Accepts (s t : State) (i : Instr) (kind : EngKind) (f : Bool) (ks : List Claim) (keys : List Nat) (n : Nat)
    (p : EngCmd → Prop) : Prop :=
  s.holdup ks = none →
  ∀ u, (t.startOp .engine (t.co.flagOf f) keys []).2.takeSb t.fresh ks = some u →
  Reaches s i (fun q => ∃ e, p e ∧ e.kind = kind ∧ e.co = t.co.id ∧ e.op = t.fresh ∧ e.ctx = t.co.ctx ∧ e.pc = t.co.wordAddr ∧
    (q.core t.co.core).cmds = (u.core t.co.core).cmds ++ [e] ∧ (q.core t.co.core).sb = (u.core t.co.core).sb ∧
    q.co.idx = t.co.idx + n ∧ q.co.v.regs = t.co.v.regs ∧ q.mem = t.mem ∧
    q.co.v.ops = t.co.v.ops ++
      [{ id := t.fresh, kind := .engine, flag := t.co.flagOf f, clause := t.co.clause, keys := keys, writes := [] }])

/-- s accepts a command of the array queue (R264, R265): no context but the cohort's holds the claims of its cores, no entry holds it up,
the queue has room; it is last in the queue of the leading core, whose cores the context has claimed, once the cohort's earlier stores to
the lines that it reads are performed. Its cohort goes on, or stays for its start when a named residency may stop it. -/
def Queues (s t : State) (i : Instr) (f pair hold : Bool) (ks : List Claim) (kind : MtxKind) (pages : List Nat) (srcs : List MtxSrc) :
    Prop :=
  let c := s.co
  let cores := if pair then [c.lead, c.lead + 1] else [c.lead]
  let t' := (cores.foldl (fun t n => t.takeClaim n c.ctx) t).readyLines c (s.mtxLines c.lead kind srcs)
  (∀ n ∈ cores, s.claimed n c.ctx = false) → s.holdup ks = none → (s.core c.lead).mq.length < 4 → (hold = true → c.pre = none) →
  ∀ u, (t'.startOp .engine (c.flagOf f) [] []).2.takeSb t'.fresh ks = some u →
  Reaches s i (fun q => ∃ m, (q.core c.lead).mq = (u.core c.lead).mq ++ [m] ∧ m.kind = kind ∧ m.srcs = srcs ∧ m.poison = none ∧
    m.pages = pages ∧ m.pair = pair ∧ m.hold = hold ∧ m.started = false ∧ m.co = c.id ∧ m.op = t'.fresh ∧ m.ctx = c.ctx ∧
    m.pc = c.wordAddr ∧ q.co.idx = t'.co.idx + (if hold then 0 else 5) ∧ q.mem = t'.mem ∧
    q.co.v.ops = t'.co.v.ops ++
      [{ id := t'.fresh, kind := .engine, flag := c.flagOf f, clause := t'.co.clause, keys := [], writes := [] }])

/-- s accepts a fabric command (R445, R447), with t the state in which its operands have been checked: where no command owns a line of its
local range and no entry holds it up, a command of which p holds is in flight, with its operation outstanding; r is the state that its
bytes are read in, after the release that comes with it. -/
def Sends (s t : State) (i : Instr) (f : Bool) (ks : List Claim) (ps : List Piece) (p : State → FabCmd → Prop) : Prop :=
  let c := s.co
  let r := (t.release c .pkg).ready c ps
  t.owned ps = none → s.holdup ks = none →
  ∀ u, (r.startOp .engine (c.flagOf f) [] []).2.takeSb r.fresh ks = some u →
  Reaches s i (fun q => ∃ e, p r e ∧ q.fcmds = u.fcmds ++ [e] ∧ e.opId = r.fresh ∧ e.co = c.id ∧ e.ctx = c.ctx ∧
    e.die = c.core / 512 ∧ e.lid = c.launchid.toNat ∧ e.trig = false ∧ q.co.idx = r.co.idx + 5 ∧ q.co.v.regs = r.co.v.regs ∧
    q.mem = r.mem ∧ q.fabs = r.fabs ∧ q.co.v.ops = r.co.v.ops ++
      [{ id := r.fresh, kind := .engine, flag := c.flagOf f, clause := r.co.clause, keys := [], writes := [] }])

/-- A message that stands to be performed at a rank of the context's job. -/
def Addressed (m : OutMsg) (b : FabBlk) (k : Rank) (ordered : Bool) (rctr add : Nat) (op : NetOp) : Prop :=
  m.module = k.module ∧ m.rank = k.no ∧ m.done = false ∧ m.msg.die = k.die ∧ m.msg.ctx = k.ctx ∧ m.msg.job = BitVec.ofNat 24 b.job ∧
  m.msg.srcRank = b.rank ∧ m.msg.ordered = ordered ∧ m.msg.rctr = rctr ∧ m.msg.rctrAdd = add ∧ m.msg.op = op

/-- No armed trigger of a block comes due when counter n holds v. -/
abbrev NoneDue (b : FabBlk) (n : Nat) (v : Word) : Prop := ∀ t ∈ b.trigs, t.ctr = n → v.toNat < t.thr.toNat

/-- s accepts an append or a request (R413, R414), with t the state in which its operands have been checked: it is last among the
requests that the Flash Management Processor has, and the four registers of its result block are interlocked. -/
def Requests (s t : State) (i : Instr) (f : Bool) (d : Reg) (ks : List Claim) (ps : List Piece) (p : State → FmpReq → Prop) : Prop :=
  let c := s.co
  let r := t.ready c ps
  let keys := (List.range 4).flatMap (fun i => c.keysOf (d + BitVec.ofNat 6 i) c.livel)
  t.owned ps = none → s.holdup ks = none →
  ∀ u, (r.startOp .engine (c.flagOf f) keys []).2.takeSb r.fresh ks = some u →
  Reaches s i (fun q => ∃ e, p r e ∧ q.freqs = u.freqs ++ [e] ∧ e.id = r.fresh ∧ e.src = .cohort c.core c.id r.fresh c.ctx c.tenant ∧
    e.pages = piecePages ps ∧ e.pc = c.wordAddr ∧ q.co.idx = r.co.idx + 1 ∧ q.co.v.regs = r.co.v.regs ∧ q.mem = r.mem ∧
    q.co.v.ops = r.co.v.ops ++
      [{ id := r.fresh, kind := .engine, flag := c.flagOf f, clause := r.co.clause, keys := keys, writes := [] }])

/-- A request block, and the 4 bytes that an MSI of the Flash Management Processor may write. -/
def inBlock (r : FmpReq) (b : Nat) : Prop := r.block ≤ b ∧ b < r.block + 64
def inMsi (s : State) (r : FmpReq) (b : Nat) : Prop := r.src = .mbox ∧ s.fmp.msiAddr ≤ b ∧ b < s.fmp.msiAddr + 4

/-- From t to q a request is answered with a status and results (R413, R418): it is gone; and where the results are at most three, as many
as a block holds, its block holds them, and no other byte of memory has changed but those of its MSI. -/
def Answers (t q : State) (r : FmpReq) (code : Nat) (rep : Bool) (res : List Nat) : Prop :=
  q.freqs = t.freqs.filter (fun x => x.id != r.id) ∧
  (res.length ≤ 3 → ∀ b, ¬inBlock r b → ¬inMsi t r b → q.byte b = t.byte b) ∧
  ((∀ b, inBlock r b → ¬inMsi t r b) → res.length ≤ 3 → q.readN (r.block + 4) 4 = (code + (if rep then 2 ^ 30 else 0) + 2 ^ 31) % 2 ^ 32 ∧
    ∀ n < res.length, q.readN (r.block + 40 + 8 * n) 8 = res.getD n 0 % 2 ^ 64)

end Sys2Proof.Claims
end

