-- ==== Sys2Proof/Certificates/Slice0/Obligations.lean ====
section
/-!
DEFINITION. The statements about the model. Each names the rules of the spec that it rests on.
-/

open Sys2Proof Sys2Proof.Machine
open Sys2Proof.Claims

/-! ## Integer, logic and shift instructions (R77 to R88) -/

/-- Two-source integer instructions compute exactly and keep the bits of R77, in every lane that they write. One-source integer
instructions, and those with an immediate or a literal (R77, R78, R81, R82, R85). Three-source instructions on every destination, and pair instructions (R77,
R79, R80, R88). -/
def Obligations.IntegerArithmetic : Prop :=
  (∀ (s : State) (u : Bool) (d a b : Reg),
     Two s (.iadd u d a b) u d a b (fun x y => BitVec.ofInt 32 (x.toInt + y.toInt)) ∧
     Two s (.isub u d a b) u d a b (fun x y => BitVec.ofInt 32 (x.toInt - y.toInt)) ∧
     Two s (.imul u d a b) u d a b (fun x y => BitVec.ofInt 32 (x.toInt * y.toInt)) ∧
     Two s (.imulhI32 u d a b) u d a b (fun x y => BitVec.ofInt 32 (x.toInt * y.toInt / 2 ^ 32)) ∧
     Two s (.imulhN32 u d a b) u d a b (fun x y => BitVec.ofNat 32 (x.toNat * y.toNat / 2 ^ 32)) ∧
     Two s (.iminI32 u d a b) u d a b (fun x y => if x.toInt ≤ y.toInt then x else y) ∧
     Two s (.iminN32 u d a b) u d a b (fun x y => if x.toNat ≤ y.toNat then x else y) ∧
     Two s (.imaxI32 u d a b) u d a b (fun x y => if x.toInt ≤ y.toInt then y else x) ∧
     Two s (.imaxN32 u d a b) u d a b (fun x y => if x.toNat ≤ y.toNat then y else x)) ∧
  (∀ (s : State) (u : Bool) (d a : Reg) (imm : BitVec 11) (lit : Word),
     One s (.iabs u d a) u d a (fun x => BitVec.ofNat 32 x.toInt.natAbs) ∧
     One s (.ineg u d a) u d a (fun x => BitVec.ofInt 32 (-x.toInt)) ∧
     One s (.iaddImm u d a imm) u d a (fun x => BitVec.ofInt 32 (x.toInt + imm.toInt)) ∧
     Lanes s (.movi u d lit) u d 2 (fun _ => lit) ∧
     One s (.mov u d a) u d a (fun x => x) ∧
     One s (.clz u d a) u d a (fun x => if x = 0 then 32 else BitVec.ofNat 32 (31 - Nat.log2 x.toNat)) ∧
     One s (.brev u d a) u d a BitVec.reverse ∧
     One s (.popc u d a) u d a (fun x => BitVec.ofNat 32 ((List.range 32).filter (fun n => x.getLsbD n)).length)) ∧
  (∀ (s : State) (u : Bool) (d a b c m : Reg) (sh : BitVec 3) (sx : Bool) (off : Word),
     Shape s.co →
     Lanes s (.imad d a b c) false d 1 (fun l => BitVec.ofInt 32 ((s.co.get a l).toInt * (s.co.get b l).toInt + (s.co.get c l).toInt)) ∧
     Lanes s (.sel d a b m) false d 1 (fun l => if (s.co.mask m).getLsbD l then s.co.get a l else s.co.get b l) ∧
     (d.even = true →
       LanesPair s (.iadd64 u d a b) u d 1 (fun l => BitVec.ofInt 64 ((s.co.getPair a l).toInt + (s.co.getPair b l).toInt)) ∧
       LanesPair s (.isub64 u d a b) u d 1 (fun l => BitVec.ofInt 64 ((s.co.getPair a l).toInt - (s.co.getPair b l).toInt)) ∧
       LanesPair s (.lea u d a b sh sx off) u d 2 (fun l => BitVec.ofInt 64 ((s.co.getPair a l).toInt +
         (if sx then (s.co.get b l).toInt else (s.co.get b l).toNat) * 2 ^ sh.toNat + off.toInt))))

/-- Logic instructions act on each bit (R78, R82). Shifts by a register read the amount unsigned, and an amount above 31 shifts every
bit out (R83); a rotation takes it mod 32; the immediate shifts do the same with an amount of 0 to 31 (R84). Bit fields (R86): len bits
from bit pos of the extension to 64 bits; BFI replaces the bits of D at pos, those that do not go beyond bit 31. -/
def Obligations.LogicShiftsAndFields : Prop :=
  (∀ (s : State) (u : Bool) (d a b : Reg) (imm : BitVec 11),
     let bitwise (i : Instr) (f : Bool → Bool → Bool) (other : Nat → Word) : Prop :=
       ∃ val : Nat → Word, Lanes s i u d 1 val ∧
         ∀ l, ∀ n < 32, (val l).getLsbD n = f ((s.co.get a l).getLsbD n) ((other l).getLsbD n)
     bitwise (.andR u d a b) (fun p q => p && q) (s.co.get b) ∧
     bitwise (.orR u d a b) (fun p q => p || q) (s.co.get b) ∧
     bitwise (.xorR u d a b) (fun p q => p ^^ q) (s.co.get b) ∧
     bitwise (.andnR u d a b) (fun p q => p && !q) (s.co.get b) ∧
     bitwise (.notR u d a) (fun p _ => !p) (s.co.get a) ∧
     bitwise (.andImm u d a imm) (fun p q => p && q) (fun _ => BitVec.ofInt 32 imm.toInt) ∧
     bitwise (.orImm u d a imm) (fun p q => p || q) (fun _ => BitVec.ofInt 32 imm.toInt) ∧
     bitwise (.xorImm u d a imm) (fun p q => p ^^ q) (fun _ => BitVec.ofInt 32 imm.toInt)) ∧
  (∀ (s : State) (u : Bool) (d a b : Reg) (n : BitVec 5),
     let left (v : Word) (k : Nat) : Word := if k ≤ 31 then BitVec.ofNat 32 (v.toNat * 2 ^ k) else 0
     let right (v : Word) (k : Nat) : Word := if k ≤ 31 then BitVec.ofNat 32 (v.toNat / 2 ^ k) else 0
     let arith (v : Word) (k : Nat) : Word := BitVec.ofInt 32 (v.toInt / 2 ^ min k 31)
     let turn (v : Word) (k : Nat) : Word := BitVec.ofNat 32 (v.toNat * 2 ^ (k % 32) + v.toNat / 2 ^ (32 - k % 32))
     Two s (.shl u d a b) u d a b (fun x y => left x y.toNat) ∧
     Two s (.shr u d a b) u d a b (fun x y => right x y.toNat) ∧
     Two s (.sar u d a b) u d a b (fun x y => arith x y.toNat) ∧
     Two s (.rot u d a b) u d a b (fun x y => turn x y.toNat) ∧
     One s (.shlImm u d a n) u d a (fun x => left x n.toNat) ∧
     One s (.shrImm u d a n) u d a (fun x => right x n.toNat) ∧
     One s (.sarImm u d a n) u d a (fun x => arith x n.toNat) ∧
     One s (.rotImm u d a n) u d a (fun x => turn x n.toNat)) ∧
  (∀ (s : State) (u : Bool) (d a : Reg) (len : BitVec 6) (pos : BitVec 5), 1 ≤ len.toNat → len.toNat ≤ 32 →
     One s (.bfxN32 u d a len pos) u d a (fun x => BitVec.ofNat 32 (x.toNat / 2 ^ pos.toNat % 2 ^ len.toNat)) ∧
     (∃ val : Nat → Word, Lanes s (.bfxI32 u d a len pos) u d 1 val ∧
       ∀ l, ∀ n < 32, (val l).getLsbD n = (s.co.get a l).getLsbD (min (min n (len.toNat - 1) + pos.toNat) 31)) ∧
     (∃ val : Nat → Word, Lanes s (.bfi u d a len pos) u d 1 val ∧
       ∀ l, ∀ n < 32, (val l).getLsbD n =
         if pos.toNat ≤ n ∧ n < pos.toNat + len.toNat then (s.co.get a l).getLsbD (n - pos.toNat) else (s.co.get d l).getLsbD n))

/-! ## Compares, masks, cross-lane operations and special registers (R87 to R97) -/

/-- CMP (R87) writes the mask of the active lanes in which the condition holds, signed or unsigned, on words or pairs. MPOP counts the 1
bits of a mask below W, and MFIRST finds the lowest (R89). FCMP writes the mask of the active lanes in which the condition holds, an
infinity beyond every finite value and -0 equal to +0; with a NaN operand only NE and UNORD hold (R130). FCLASS sets the one bit of the
operand's class (R131). -/
def Obligations.ComparesAndMaskCounts : Prop :=
  (∀ (s : State) (u : Bool) (d a b : Reg) (k : IntCond) (t : CmpType), Shape s.co → (s.co.W = 64 → d.even = true) →
     let order (x y : Int) : Bool := match k with
       | .eq => decide (x = y)
       | .ne => decide (x ≠ y)
       | .lt => decide (x < y)
       | .le => decide (x ≤ y)
       | .gt => decide (x > y)
       | .ge => decide (x ≥ y)
     let val (r : Reg) (l : Nat) : Int := match t with
       | .i32 => (s.co.get r l).toInt
       | .n32 => (s.co.get r l).toNat
       | .i64 => (s.co.getPair r l).toInt
       | .n64 => (s.co.getPair r l).toNat
     WritesMask s (.cmp u d a b t k) d (fun l => order (val a (s.co.source u l)) (val b (s.co.source u l)))) ∧
  (∀ (s : State) (u : Bool) (d a : Reg), Shape s.co →
     let ones := (List.range s.co.W).filter (fun n => (s.co.mask a).getLsbD n)
     Lanes s (.mpop u d a) u d 1 (fun _ => BitVec.ofNat 32 ones.length) ∧
     Lanes s (.mfirst u d a) u d 1 (fun _ => match ones with
       | n :: _ => BitVec.ofNat 32 n
       | [] => 0xFFFFFFFF)) ∧
  (∀ (s : State) (u : Bool) (d a b : Reg) (t : FType) (k : FloatCond), Shape s.co → (s.co.W = 64 → d.even = true) →
     WritesMask s (.fcmp u d a b t k) d (fun l =>
       fHolds (fType t) k (s.co.get a (s.co.source u l)).toNat (s.co.get b (s.co.source u l)).toNat) ∧
     One s (.fclass u d a t) u d a (fun x => BitVec.ofNat 32 (2 ^ fClass (fType t) x.toNat)))

/-- PERM, the shifts between lanes and BCST (R90 to R92): a lane outside the cohort gives the lane's own value. -/
def Obligations.CrossLaneMoves : Prop :=
  ∀ (s : State) (u : Bool) (d a b : Reg) (n : BitVec 6),
    let c := s.co
    let k := (c.uget b).toNat
    let up (n l : Nat) : Word := if n ≤ l ∧ l - n < c.W then c.get a (l - n) else c.get a l
    let dn (n l : Nat) : Word := if l + n < c.W then c.get a (l + n) else c.get a l
    let xr (n l : Nat) : Word := if l ^^^ n < c.W then c.get a (l ^^^ n) else c.get a l
    0 < c.W →
    Lanes s (.perm u d a b) u d 1 (fun l => c.get a ((c.get b l).toNat % c.W)) ∧
    Lanes s (.shup u d a b) u d 1 (up k) ∧ Lanes s (.shdn u d a b) u d 1 (dn k) ∧ Lanes s (.shxr u d a b) u d 1 (xr k) ∧
    Lanes s (.shupImm u d a n) u d 1 (up n.toNat) ∧ Lanes s (.shdnImm u d a n) u d 1 (dn n.toNat) ∧
    Lanes s (.shxrImm u d a n) u d 1 (xr n.toNat) ∧
    Lanes s (.bcst u d a b) u d 1 (fun _ => c.get a (k % c.W))

/-- VRED reduces the active lanes to one value, on words or pairs, and SCAN gives each lane the reduction of the active lanes before
it, itself included unless exclusive (R93, R94). With no active lane a uniform SCAN gives the identity, or lane 0's own value when
inclusive (R24, R94), and one that is not uniform writes nothing. -/
def Obligations.ReductionsAndScans : Prop :=
  ∀ (s : State) (u excl uns : Bool) (d a : Reg) (op : RedOp), Shape s.co → 0 < s.co.W →
    Uniform s (.vred u d a false uns op) d 1 ((s.co.active.map (s.co.get a)).foldl (opWord op uns) (idWord op uns)) ∧
    (d.even = true →
      UniformPair s (.vred u d a true uns op) d 1 ((s.co.active.map (s.co.getPair a)).foldl (opDWord op uns) (idDWord op uns))) ∧
    (s.co.active ≠ [] →
      Lanes s (.scan u d a excl uns op) u d 1 (fun l =>
        ((s.co.active.filter (fun m => decide (m < l) || (!excl && m == l))).map (s.co.get a)).foldl (opWord op uns) (idWord op uns))) ∧
    (s.co.active = [] →
      Lanes s (.scan u d a excl uns op) u d 1 (fun l =>
        if excl then idWord op uns else opWord op uns (idWord op uns) (s.co.get a l)))

/-- RDS reads each special register of R31 as it stood before the chain group (R96). WRS writes A, or the pair, of the lowest active
lane, whatever its U bit: exec under the live mask, trapcause, trappc and seed (R97). WDEPTH writes the join depth and the resident
depth to every active and inactive lane (R169); NOP does nothing. -/
def Obligations.SpecialRegisters : Prop :=
  (∀ (s : State) (u : Bool) (d : Reg), Shape s.co →
     let c := s.co
     let one (n : Nat) (v : Nat → Nat) : Prop := Lanes s (.rds u d (BitVec.ofNat 6 n)) u d 1 (fun l => BitVec.ofNat 32 (v l))
     let two (n : Nat) (v : DWord) : Prop := LanesPair s (.rds u d (BitVec.ofNat 6 n)) u d 1 (fun _ => v)
     (c.W ≠ 64 → one 0 (fun _ => c.rd.exec.toNat)) ∧ one 1 (fun l => l) ∧ one 2 (fun _ => c.W) ∧ one 3 (fun _ => c.cohid) ∧
     one 4 (fun _ => c.teamid) ∧ one 5 (fun _ => c.teamN) ∧ one 6 (fun _ => c.launchid.toNat) ∧
     one 7 (fun _ => 256 * c.tenant + c.ctx) ∧ one 8 (fun _ => c.rd.wdepth % c.S) ∧ one 9 (fun _ => c.rd.wdepth) ∧
     one 10 (fun _ => c.wlimit) ∧ one 11 (fun _ => c.rd.flags.toNat) ∧ one 12 (fun _ => c.rd.trapcause.toNat) ∧
     one 14 (fun _ => if c.skid then 1 else 0) ∧
     one 17 (fun _ => c.shareN + (if c.shareN = 0 then 0 else 256 * c.shareB)) ∧
     (d.even = true → (c.W = 64 → two 0 c.rd.exec) ∧ two 13 c.rd.trappc ∧ two 15 c.rd.seed ∧ two 16 (BitVec.ofNat 64 s.clk))) ∧
  (∀ (s : State) (u : Bool) (a : Reg),
     let w := s.co.uget a
     let p := s.co.ugetPair a
     OnlyCo s (.wrs u a 0) 1 (fun c => { c with v := { c.v with
       exec := (if c.W = 64 then p else w.setWidth 64) &&& c.v.live &&& BitVec.ofNat 64 (2 ^ c.W - 1) } }) ∧
     OnlyCo s (.wrs u a 12) 1 (fun c => { c with v := { c.v with trapcause := w.setWidth 16 } }) ∧
     OnlyCo s (.wrs u a 13) 1 (fun c => { c with v := { c.v with trappc := p } }) ∧
     OnlyCo s (.wrs u a 15) 1 (fun c => { c with v := { c.v with seed := p } })) ∧
  (∀ (s : State) (d : Reg),
     Uniform s (.wdepth d) d 1 (BitVec.ofNat 32 (65536 * s.co.jd + s.co.resident)) ∧ OnlyCo s .nop 1 id)

/-! ## Floating point, conversion and special functions (R121 to R143) -/

/-- FADD, FSUB, FMUL, FMIN, FMAX and FFMA (R122 to R128) complete with nothing but D written, and a result in each lane that is the first
NaN operand made quiet, the canonical NaN of an invalid operation, the infinity, the operand selected, or the exact sum, difference or
product rounded once to nearest; the packed instructions compute each half so in its own format (R121, R129). -/
def Obligations.FloatArithmetic : Prop :=
  ∀ (s : State) (u : Bool) (d a b c : Reg) (t : FType) (bf : Bool),
    let two (i : Instr) (p : Nat → Nat → Nat → Prop) : Prop :=
      ∃ g : Word → Word → Word, Two s i u d a b g ∧ ∀ x y, p x.toNat y.toNat (g x y).toNat
    let three (i : Instr) (p : Nat → Nat → Nat → Nat → Prop) : Prop :=
      ∃ g : Word → Word → Word → Word, Lanes s i false d 1 (fun l => g (s.co.get a l) (s.co.get b l) (s.co.get c l)) ∧
        ∀ x y z, p x.toNat y.toNat z.toNat (g x y z).toNat
    let pair (p : Nat → Nat → Nat → Prop) (x y r : Nat) : Prop :=
      p (x % 65536) (y % 65536) (r % 65536) ∧ p (x / 65536) (y / 65536) (r / 65536)
    let pair3 (p : Nat → Nat → Nat → Nat → Prop) (x y z r : Nat) : Prop :=
      p (x % 65536) (y % 65536) (z % 65536) (r % 65536) ∧ p (x / 65536) (y / 65536) (z / 65536) (r / 65536)
    let h : FType := if bf then .b16 else .f16
    two (.fadd u d a b t) (Adds (fType t) (fCanon t)) ∧ two (.fsub u d a b t) (Subtracts (fType t) (fCanon t)) ∧
    two (.fmul u d a b t) (Multiplies (fType t) (fCanon t)) ∧
    two (.fmin u d a b t) (Selects (fType t) false) ∧ two (.fmax u d a b t) (Selects (fType t) true) ∧
    three (.ffma d a b c) (Fuses (fType .f32) 0x7FC00000) ∧
    two (.hadd2 u d a b bf) (pair (Adds (fType h) (fCanon h))) ∧ two (.hmul2 u d a b bf) (pair (Multiplies (fType h) (fCanon h))) ∧
    three (.hfma2F16 d a b c) (pair3 (Fuses (fType .f16) 0x7E00)) ∧ three (.hfma2B16 d a b c) (pair3 (Fuses (fType .b16) 0x7FC0))

/-- FRINT, FSCALE, CVT and CVT.sat complete with D written by R132 and R138: a NaN and an infinity as the tables say, a number rounded once by
the rounding code to the integers or to the destination format. Only stochastic rounding draws, and it advances the draw count once (R116,
R137 to R139). -/
def Obligations.RoundingAndConversion : Prop :=
  ∀ (s : State) (u : Bool) (d a b : Reg) (t : FType) (r : Rnd) (x k : CvtType), Shape s.co →
    let c := s.co
    let draw (l : Nat) : Nat := (c.draw l 1 0).toNat
    (∃ val : Nat → Word, LanesDraw s (.frint u d a t r) u d r val ∧
      ∀ l, RoundsToInt (fType t) r (c.get a l).toNat (draw l) (val l).toNat) ∧
    (∃ val : Nat → Word, LanesDraw s (.fscale u d a b t r) u d r val ∧
      ∀ l, Scales (fType t) r (c.get a l).toNat (c.get b l).toInt (draw l) (val l).toNat) ∧
    (∀ (sat : Bool) (i : Instr), (i = if sat then .cvtSat u d a r x k else .cvt u d a r x k) →
      let source (l : Nat) : DWord := if k = .i64 ∨ k = .n64 then c.getPair a l else (c.get a l).setWidth 64
      ∃ val : Nat → DWord, (∀ l, Converts r sat x k (source l) (draw l) (val l)) ∧
        (x ≠ .i64 → x ≠ .n64 → LanesDraw s i u d r (fun l => loOf (val l))) ∧
        (x = .i64 ∨ x = .n64 → d.even = true → ∃ t, exec i s = .next t ∧ OnlyRegsDraw s t r ∧
          (∀ l ∈ c.targets u, pairOf (regOf t.co d l) (regOf t.co (d + 1) l) = val (c.source u l)) ∧
          (∀ q, (∀ l ∈ c.targets u, q ≠ regKey c.v.wdepth c.S d l ∧ q ≠ regKey c.v.wdepth c.S (d + 1) l) →
            Tab.get 0 t.co.v.regs q = Tab.get 0 c.v.regs q)))

/-- QNT on a cohort of 32 or 64 lanes (R141) completes: each block's codes go to D in its active lanes and its scale record to D + 1 in
its active and inactive lanes, and the conversion draws once when it rounds stochastically. On a narrower cohort QNT raises FORMAT 0x06
and writes nothing. DQT decodes an element with its scale record (R109, R142), and SRND sets the seed, the stream word and a draw count
of 0 (R143). -/
def Obligations.BlockConversions : Prop :=
  (∀ (s : State) (d a : Reg) (r : Rnd) (k : BlkFmt), Shape s.co → d.even = true →
     (s.co.W = 32 ∨ s.co.W = 64 → ∃ t, exec (.qnt d a r k) s = .next t ∧ OnlyRegsDraw s t r ∧
       (∀ j < s.co.W / 32, ∃ (q : Nat) (code : Nat → Nat),
         let mine := s.co.active.filter (fun l => l / 32 == j)
         Quantises k r mine (fun l => (s.co.get a l).toNat) (fun l => (s.co.draw l 1 0).toNat) q code ∧
         (∀ l ∈ mine, regOf t.co d l = BitVec.ofNat 32 (code l)) ∧
         ∀ l ∈ s.co.livel, l / 32 = j → regOf t.co (d + 1) l = BitVec.ofNat 32 q) ∧
       ∀ key, (∀ l ∈ s.co.active, key ≠ regKey s.co.v.wdepth s.co.S d l) → (∀ l ∈ s.co.livel, key ≠ regKey s.co.v.wdepth s.co.S (d + 1) l) →
         Tab.get 0 t.co.v.regs key = Tab.get 0 s.co.v.regs key) ∧
     (s.co.W < 32 → s.co.landSfu.delivers 0x08 = false → ∃ t, exec (.qnt d a r k) s = .next t ∧ t.lastFault = some (flt 0x08 6) ∧
       t.co.halted = true ∧ t.co.v.regs = s.co.landSfu.v.regs)) ∧
  (∀ (s : State) (u : Bool) (d a b : Reg) (k : BlkFmt),
     (∃ val : Nat → Word, Lanes s (.dqt u d a k) u d 1 val ∧
       ∀ l, Decodes k (s.co.get a l).toNat ((s.co.get (a + 1) l).toNat % 65536) (val l).toNat) ∧
     OnlyCo s (.srnd a b) 1 (fun c => { c with v := { c.v with seed := s.co.ugetPair a, sw := s.co.uget b, k := 0 } }))

/-- A special function (R133, R134) with an entry of the queue free begins: its results are pending in the lanes that it writes. A NaN gives
itself made quiet; the operands of the table's last column give what it says; the reciprocal and the roots are the exact value's rounding, and
a logarithm of a power of two is exact. -/
def Obligations.SpecialFunctionsBegin : Prop :=
  ∀ (s : State) (u : Bool) (d a : Reg) (f : Bool), (s.sfuQueue s.co.core).length < 16 →
    let c := s.co
    let F := fType .f32
    let begun (i : Instr) (p : Nat → Nat → Prop) : Prop :=
      ∃ g : Word → Word, Begins s i 1 .sfu f ((c.targets u).map (regKey c.v.wdepth c.S d))
        ((c.targets u).map (fun l => (regKey c.v.wdepth c.S d l, g (c.get a (c.source u l))))) ∧
      ∀ x, (∀ q, firstNaN F [x.toNat] = some q → (g x).toNat = q) ∧
        (fNaN F x.toNat = false → p x.toNat (g x).toNat)
    let nan : Nat := 0x7FC00000
    let inf : Nat := 0x7F800000
    let one : Nat := 0x3F800000
    let sign (x : Nat) : Nat := if fNeg F x then 2 ^ 31 else 0
    -- y is the magnitude between lo and hi that is nearer to the exact one, of which le says whether a magnitude is not above it
    let nearest (le : ℚ → Prop) (r : Nat) : Prop := fNeg F r = false ∧ ∃ lo hi, Rep F lo ∧ Rep F hi ∧ le lo ∧ ¬le hi ∧
      (∀ q, Rep F q → q ≤ lo ∨ hi ≤ q) ∧ (le ((lo + hi) / 2) → fMag F r = hi ∨ (fMag F r = lo ∧ ∀ q, (lo + hi) / 2 < q → ¬le q)) ∧
      (¬le ((lo + hi) / 2) → fMag F r = lo)
    begun (.fxp2 u d a f) (fun x r => (fMag F x = 0 → fInf F x = false → r = one) ∧ (fInf F x = true ∨ 1 < fMag F x → r = nan)) ∧
    begun (.flog2 u d a f) (fun x r => (fMag F x = 0 → fInf F x = false → r = inf + 2 ^ 31) ∧
      (fNeg F x = true → fInf F x = true ∨ fMag F x ≠ 0 → r = nan) ∧ (fInf F x = true → fNeg F x = false → r = inf) ∧
      (∀ k : ℤ, fInf F x = false → fVal F x = 2 ^ k → fInf F r = false ∧ fNaN F r = false ∧ fVal F r = k)) ∧
    begun (.frcp u d a f) (fun x r => (fInf F x = true → r = sign x) ∧ (fInf F x = false → fMag F x = 0 → r = inf + sign x) ∧
      (fInf F x = false → fMag F x ≠ 0 → Rounds F .rn false (fNeg F x) (1 / fMag F x) 0 r)) ∧
    begun (.frsq u d a f) (fun x r => (fInf F x = false → fMag F x = 0 → r = inf + sign x) ∧
      (fNeg F x = true → fInf F x = true ∨ fMag F x ≠ 0 → r = nan) ∧ (fInf F x = true → fNeg F x = false → r = 0) ∧
      (fInf F x = false → fNeg F x = false → fMag F x ≠ 0 → nearest (fun q => q * q * fMag F x ≤ 1) r)) ∧
    begun (.fsqrt u d a f) (fun x r => (fInf F x = false → fMag F x = 0 → r = x) ∧
      (fNeg F x = true → fInf F x = true ∨ fMag F x ≠ 0 → r = nan) ∧ (fInf F x = true → fNeg F x = false → r = inf) ∧
      (fInf F x = false → fNeg F x = false → fMag F x ≠ 0 → nearest (fun q => q * q ≤ fMag F x) r)) ∧
    begun (.fsinpi u d a f) (fun x r => (fInf F x = true → r = nan) ∧ (fInf F x = false → (∃ n : ℕ, fMag F x = n) → r = sign x)) ∧
    begun (.fcospi u d a f) (fun x r => (fInf F x = true → r = nan) ∧ (fInf F x = false → (∃ n : ℕ, fMag F x = n + 1 / 2) → r = 0)) ∧
    begun (.ftanh u d a f) (fun x r => (fInf F x = true → r = one + sign x) ∧ (fInf F x = false → fMag F x = 0 → r = x))

/-! ## Control flow, windows and traps (R144 to R169) -/

/-- BRA and BRC go to the target, 4 times the offset from the header of their own clause, when the condition holds of the mask AND exec,
and to the next clause otherwise; with U = 1 the mask must be none or all of exec (R145, R147). BRX goes to the target of the lowest
active lane, a multiple of 4, on which the active lanes agree with U = 1 (R148). EXIT takes the active lanes out of the live lanes, and
exec with them (R167); YIELD asks for Y = 1 (R168). -/
def Obligations.BranchesAndExit : Prop :=
  (∀ (s : State) (u : Bool) (m a : Reg) (k : BrCond) (o : BitVec 15),
     let c := s.co
     let x := c.mask m &&& c.rd.exec
     let holds : Bool := match k with
       | .any => x != 0
       | .all => x == c.rd.exec
       | .none => x == 0
       | .always => true
     let next := c.hdr + 4 * clauseWords c.header
     let target := (BitVec.ofInt 64 (c.hdr + 4 * o.toInt)).toNat
     ((u = true → k = .always ∨ x = 0 ∨ x = c.rd.exec) →
       Jumps s (.bra u m k o) (if holds then target else next) ∧ Jumps s (.brc u m k o) (if holds then target else next)) ∧
     ((c.ugetPair a).toNat % 4 = 0 → (u = true → ∀ l ∈ c.active, c.getPair a l = c.ugetPair a) →
       Jumps s (.brx u a) (c.ugetPair a).toNat)) ∧
  (∀ (s : State),
     Reaches s .exit (fun t => At t s.co.nextClause ∧ t.co.v.live = s.co.v.live &&& ~~~s.co.rd.exec ∧
       t.co.v.exec = s.co.v.exec &&& t.co.v.live ∧ (t.co.exited = true ↔ t.co.v.live = 0) ∧
       t.mem = s.mem ∧ t.cohorts = s.cohorts) ∧
     Reaches s .yieldI (fun t => At t s.co.nextClause ∧ t.co.y = true ∧ t.mem = s.mem ∧ t.cohorts = s.cohorts ∧
       t.co.v.exec = s.co.v.exec ∧ ∀ key, 1024 ≤ key → Tab.get 0 t.co.v.regs key = Tab.get 0 s.co.v.regs key))

/-- BRD divides exec into taken and not taken lanes and pushes a join record; the spill that it needs has gone well (R150). A push of a
join record leaves every window register v0 to v47 with its value in every lane (R149). JOIN takes up the pending lanes of the top
record at its target, a multiple of 4 (R38), or restores exec, pops the record and goes on (R151). -/
def Obligations.DivergenceAndJoin : Prop :=
  (∀ (s s1 : State) (u : Bool) (m : Reg) (k : BrCond) (o : BitVec 15), k ≠ .always →
     let c := s.co
     let x := c.mask m &&& c.rd.exec
     let taken : Mask := match k with
       | .any | .always => x
       | .none => c.rd.exec &&& ~~~x
       | .all => if x = c.rd.exec then c.rd.exec else 0
     let rest := c.rd.exec &&& ~~~taken
     let target := (BitVec.ofInt 64 (c.hdr + 4 * o.toInt)).toNat
     (u = true → x = 0 ∨ x = c.rd.exec) → c.v.wdepth + 4 ≤ c.lim → c.jd < 65535 → 52 ≤ c.S →
     s.openWindow 4 = (s1, none) →
     Reaches s (.brd u m k o) (fun t =>
       t.co.v.wdepth = s1.co.v.wdepth + 4 ∧ t.co.jd = s1.co.jd + 1 ∧
       (rest = 0 → At t target ∧ t.co.v.exec = c.rd.exec ∧
         t.co.topRecord.joined = true ∧ t.co.topRecord.restore = c.rd.exec) ∧
       (rest ≠ 0 → At t s1.co.nextClause ∧ t.co.v.exec = rest ∧ t.co.topRecord = ⟨c.rd.exec, taken, target, false⟩))) ∧
  (∀ (s s1 t : State) (u : Bool) (m : Reg) (k : BrCond) (o : BitVec 15),
     (∀ e ∈ s1.co.v.regs, e.1 < (16 + s1.co.S) * 64) → Tab.ok 0 s1.co.v.regs = true → 52 ≤ s1.co.S →
     s.openWindow 4 = (s1, none) → exec (.brd u m k o) s = .next t → t.co.jd = s1.co.jd + 1 →
     ∀ (r : Reg) (l : Nat), r.toNat < 48 → l < 64 → regOf t.co r l = regOf s1.co r l) ∧
  (∀ (s s1 : State), s.co.jd ≠ 0 → s.refillTo (s.co.v.wdepth - 4) = (s1, none) →
     let r := s1.co.topRecord
     let cut (m : Mask) : Mask := m &&& s1.co.v.live &&& BitVec.ofNat 64 (2 ^ s1.co.W - 1)
     Reaches s .join (fun t =>
       (r.joined = false → r.target % 4 = 0 → At t r.target ∧ t.co.v.exec = cut r.pending ∧ t.co.jd = s1.co.jd ∧
         t.co.v.wdepth = s1.co.v.wdepth ∧ t.co.topRecord = { r with joined := true }) ∧
       (r.joined = true → At t s1.co.nextClause ∧ t.co.v.exec = cut r.restore ∧ t.co.jd = s1.co.jd - 1 ∧
         t.co.v.wdepth = s1.co.v.wdepth - 4) ∧
       (r.joined = false → r.target % 4 ≠ 0 → s1.co.landSfu.delivers 0x04 = false →
         t.lastFault = some { flt 0x04 0 with addr := r.target } ∧ t.co.halted = true)))

/-- CALL and CALLX with a shift of k registers (R159): the link group is written below the new v0, the callee's v0 to v(47 - k) are the
caller's vk to v47, the registers above them are 0 in every lane that is not exited, and the cohort goes on at the target. RET takes the
return address, the shift and the caller's jd from the link group below v0, in the lowest lane that is not exited (R160), once the frame
has been refilled; a return address that is no multiple of 4 is MISALIGNED (R38). -/
def Obligations.CallsAndReturns : Prop :=
  (∀ (s s1 : State) (u : Bool) (n : Nat) (o : BitVec 15) (a : Reg), 1 ≤ n → n ≤ 11 → 52 ≤ s1.co.S → s1.co.W ≤ 64 →
     let c := s.co
     let k := 4 * n
     let ret := s1.co.nextClause
     let p := s1.co.v.wdepth + k
     let called (target : Nat) (t : State) : Prop :=
       At t target ∧ t.co.v.wdepth = p ∧ t.co.jd = 0 ∧ t.co.calld = s1.co.calld + 1 ∧ t.co.v.exec = s1.co.v.exec ∧
       (∀ l ∈ s1.co.livel, t.co.posGet (p - 4) l = BitVec.ofNat 32 ret ∧
         t.co.posGet (p - 3) l = BitVec.ofNat 32 (ret / 2 ^ 32 % 2 ^ 25 + n * 2 ^ 25) ∧
         t.co.posGet (p - 2) l = BitVec.ofNat 32 s1.co.jd ∧ t.co.posGet (p - 1) l = 0) ∧
       (∀ (r : Nat) (l : Nat), r + k < 48 → l < 64 →
         regOf t.co (BitVec.ofNat 6 r) l = regOf s1.co (BitVec.ofNat 6 (r + k)) l) ∧
       (∀ (r : Nat) (l : Nat), 48 - k ≤ r → r < 48 → l < 64 → (s1.co.v.live.getLsbD l || !s1.co.launched.getLsbD l) = true →
         regOf t.co (BitVec.ofNat 6 r) l = 0)
     c.v.wdepth + k ≤ c.lim → s.openWindow k = (s1, none) →
     Reaches s (.call u (BitVec.ofNat 6 n) o) (called (BitVec.ofInt 64 (c.hdr + 4 * o.toInt)).toNat) ∧
     ((c.ugetPair a).toNat % 4 = 0 → (u = true → ∀ l ∈ c.active, c.getPair a l = c.ugetPair a) →
       Reaches s (.callx u a (BitVec.ofNat 5 n)) (called (c.ugetPair a).toNat))) ∧
  (∀ (s s2 : State), s.co.jd = 0 → s.co.calld ≠ 0 → s.refillLink = (s2, none) →
     let p := s2.co.v.wdepth
     let l := s2.co.lowestLive
     let lo := (s2.co.posGet (p - 4) l).toNat
     let hi := (s2.co.posGet (p - 3) l).toNat
     let k := hi / 2 ^ 25 % 16 * 4
     let ret := ((BitVec.ofNat 57 (hi % 2 ^ 25 * 2 ^ 32 + lo)).signExtend 64).toNat
     (lo % 4 = 0 → Reaches s .ret (fun t =>
       At t ret ∧ t.co.jd = (s2.co.posGet (p - 2) l).toNat ∧ t.co.v.wdepth = p - k ∧ t.co.calld = s2.co.calld - 1 ∧
       t.co.v.exec = s2.co.v.exec ∧ ∀ key, 1024 ≤ key → Tab.get 0 t.co.v.regs key = Tab.get 0 s2.co.v.regs key)) ∧
     (lo % 4 ≠ 0 → s2.co.landSfu.delivers 0x04 = false → Reaches s .ret (fun t =>
       t.lastFault = some { flt 0x04 0 with addr := ret } ∧ t.co.halted = true)))

/-- Trap entry (R162, R163) by a fault that the cohort's handler takes, and by TRAP (R164): the special-function results land first, the
cause and subcause, the word's address in trappc, or the clause after the TRAP's; 48 more registers of window depth; exec is the live
mask, and the handler's v0, or v0:v1 at W = 64, the old exec; the cohort goes on at the trap vector as it stands after those results
(log entry 75). The resumption point is saved: the clause that follows a TRAP, or the faulting word's place in its clause with t0 to t3, and
jd, the call depth, s and k. The spill that it needs has gone well, and no command is to write registers of the cohort. ERET (R165) restores
s, k, jd, the call depth and exec, and goes on at the saved point, within its clause with t0 to t3 as saved, or at a clause of its own
choice. -/
def Obligations.TrapsAndReturns : Prop :=
  (∀ (s s1 : State) (cause sub code : Byte),
     let c := s.co.landSfu
     let s0 : State := { s with co := c }
     let entered (cause sub pc hdr : Nat) (mid : Bool) (t : State) : Prop :=
       t.co.v.trapcause = BitVec.ofNat 16 (256 * sub + cause) ∧ t.co.v.trappc = BitVec.ofNat 64 pc ∧
       t.co.v.wdepth = s1.co.v.wdepth + 48 ∧ t.co.v.exec = s1.co.v.live ∧ t.co.jd = 0 ∧ t.co.calld = 0 ∧
       (∃ sv, t.co.handler = some sv ∧ sv.hdr = hdr ∧ sv.mid = mid ∧ sv.trappc = BitVec.ofNat 64 pc ∧ sv.jd = s1.co.jd ∧
         sv.calld = s1.co.calld ∧ sv.sw = s1.co.v.sw ∧ sv.k = s1.co.v.k ∧
         (mid = true → sv.words = s1.co.words ∧ sv.idx = s1.co.idx ∧
           ∀ key, 768 ≤ key → key < 1024 → Tab.get 0 sv.temps key = Tab.get 0 s1.co.v.regs key)) ∧
       At t (c.ugetPair 58).toNat ∧
       (∀ l ∈ lanesIn s1.co.v.live s1.co.W, s1.co.W ≤ 64 → 48 ≤ s1.co.S →
         regOf t.co 0 l = loOf s1.co.v.exec ∧ regOf t.co 1 l = (if s1.co.W = 64 then hiOf s1.co.v.exec else 0) ∧
         ∀ r : Reg, 2 ≤ r.toNat → r.toNat < 48 → regOf t.co r l = 0) ∧
       t.mem = s1.mem ∧ t.cohorts = s1.cohorts
     s0.regEntries = [] → s0.openWindow 48 = (s1, none) →
     (c.delivers 0x03 = true → Reaches s (.trap code) (entered 0x03 code.toNat c.nextClause c.nextClause false)) ∧
     (c.delivers cause.toNat = true → Reaches s (.trapEntry cause sub) (entered cause.toNat sub.toNat c.wordAddr c.hdr c.mid))) ∧
  (∀ (s s1 : State) (sv : Saved), s.co.handler = some sv → s.co.calld = 0 → s.co.jd = 0 →
     (s.co.v.trappc = sv.trappc ∨ s.co.v.trappc.toNat % 4 = 0) → s.refillTo (s.co.v.wdepth - 48) = (s1, none) →
     s1.co.v.trappc = s.co.v.trappc →
     let l := s.co.lowestLive
     let e : Mask := if s.co.W = 64 then s.co.getPair 0 l else (s.co.get 0 l).setWidth 64
     Reaches s .eret (fun t =>
       t.co.handler = none ∧ t.co.jd = sv.jd ∧ t.co.calld = sv.calld ∧ t.co.v.sw = sv.sw ∧ t.co.v.k = sv.k ∧
       t.co.v.wdepth = s1.co.v.wdepth - 48 ∧ t.co.v.exec = e &&& s1.co.v.live &&& BitVec.ofNat 64 (2 ^ s1.co.W - 1) ∧
       t.co.v.trapcause = s1.co.v.trapcause ∧ t.co.v.trappc = s1.co.v.trappc ∧
       (s.co.v.trappc = sv.trappc → t.co.hdr = sv.hdr % 2 ^ 64 ∧ t.co.mid = sv.mid ∧
         (sv.mid = true → t.co.words = sv.words ∧ t.co.idx = sv.idx ∧
           (Tab.ok 0 s1.co.v.regs = true → Tab.ok 0 sv.temps = true →
             ∀ key, 768 ≤ key → key < 1024 → Tab.get 0 t.co.v.regs key = Tab.get 0 sv.temps key))) ∧
       (s.co.v.trappc ≠ sv.trappc → At t s.co.v.trappc.toNat)))

/-- Where control transfers fault (R146, R148, R150, R151, R158 to R160, R164, R165): in a cohort whose handler does not take the cause, the
fault is noted and the cohort halts. CALLX tests its target before the window limit (log entry 74). -/
def Obligations.ControlFaults : Prop :=
  ∀ (s : State) (u : Bool) (m a : Reg) (k : BrCond) (o : BitVec 15) (n : Nat) (code : Byte),
    let c := s.co
    let x := c.mask m &&& c.rd.exec
    let faults (i : Instr) (f : FaultInfo) : Prop := c.landSfu.delivers f.cause = false →
      Reaches s i (fun t => t.lastFault = some f ∧ t.co.halted = true ∧ t.co.fault = some f)
    let agree : Prop := u = true → ∀ l ∈ c.active, c.getPair a l = c.ugetPair a
    let target := (c.ugetPair a).toNat
    (k ≠ .always → x ≠ 0 → x ≠ c.rd.exec → faults (.bra true m k o) (flt 0x02 1) ∧ faults (.brc true m k o) (flt 0x02 1) ∧
      faults (.brd true m k o) (flt 0x02 1)) ∧
    (k ≠ .always → (u = true → x = 0 ∨ x = c.rd.exec) → (c.lim < c.v.wdepth + 4 ∨ c.jd = 65535) →
      faults (.brd u m k o) (flt 0x0A 0)) ∧
    ((∃ l ∈ c.active, c.getPair a l ≠ c.ugetPair a) → faults (.brx true a) (flt 0x02 1) ∧
      faults (.callx true a (BitVec.ofNat 5 n)) (flt 0x02 1)) ∧
    (agree → target % 4 ≠ 0 → faults (.brx u a) { flt 0x04 0 with addr := target } ∧
      faults (.callx u a (BitVec.ofNat 5 n)) { flt 0x04 0 with addr := target }) ∧
    (n ≤ 11 → c.lim < c.v.wdepth + 4 * n → faults (.call u (BitVec.ofNat 6 n) o) (flt 0x0A 0) ∧
      (agree → target % 4 = 0 → faults (.callx u a (BitVec.ofNat 5 n)) (flt 0x0A 0))) ∧
    (c.jd = 0 → faults .join (flt 0x02 2)) ∧
    (c.jd ≠ 0 → faults .ret (flt 0x02 2) ∧ faults .eret (flt 0x02 2)) ∧
    (c.jd = 0 → c.calld = 0 → faults .ret (flt 0x02 3)) ∧
    (c.jd = 0 → (c.handler = none ∨ c.calld ≠ 0) → faults .eret (flt 0x02 4)) ∧
    faults (.trap code) (flt 0x03 code.toNat)

/-! ## Lane memory (R170 to R190) -/

/-- Loads (R176 to R182): once the lanes' accesses resolve, and none meets an accepted command or poison, the load is outstanding on the
registers of its size in the lanes that take a value. LD.u makes one access, for every active and inactive lane. Where what the core
holds agrees with memory, each register is to receive the bytes that memory holds, extended as asked, and memory is as it was. A load whose
accesses all lie in the cohort's scratchpad share (R171, R172, R182, R217), with no poison and no command under way there, completes so. -/
def Obligations.LoadsBegin : Prop :=
  ∀ (s t : State) (rs : List (Nat × Nat × Resolved)) (f : Bool) (d b x : Reg) (size : MSize) (off : Option Word) (sx : Bool),
    let c := s.co
    let n := sizeBytes size
    let value (bs : List Byte) (i : Nat) : Word :=
      let v := leNat ((bs.drop (4 * i)).take 4)
      if sx && n < 4 then BitVec.ofInt 32 ((BitVec.ofNat (8 * n) v).toInt) else BitVec.ofNat 32 v
    let begun (i : Instr) (p : Machine.Path) (share : Bool) (lanes : List Nat) (takes : Nat → List Nat) : Prop :=
      resolveLanes c p n .read share (lanes.map (fun l => (l, c.laneAddr b x off l))) s = (t, .ok rs) →
      Reaches s i (fun q => ∃ ws, Opens t q (wordsM off) .load (c.flagOf f) ws ∧ ws.map Prod.fst = loadKeys c d size takes rs ∧
        (Agrees t → (∀ e ∈ rs, Plain e.2.2) → q.mem = t.mem ∧
          ws.map Prod.snd = rs.flatMap (fun e => (takes e.1).flatMap (fun _ =>
            (List.range (sizeRegs size)).map (value (e.2.2.pas.map t.byte))))))
    let near (i : Instr) (share : Bool) (lanes : List Nat) (takes : Nat → List Nat) : Prop := ∀ at_ : Nat → Nat,
      (∀ l ∈ lanes, InShare share c (c.laneAddr b x off l) n (at_ l)) → s.unmarked = true → (∀ pas, s.heldBy pas false = none) →
      (s.core c.core).wc = [] → Reaches s i (fun q => q.mem = s.mem ∧ Opens s q (wordsM off) .load (c.flagOf f) (lanes.flatMap (fun l => (takes l).flatMap (fun m =>
        (List.range (sizeRegs size)).map (fun i => (regKey c.v.wdepth c.S (d + BitVec.ofNat 6 i) m,
          value ((ShareBytes c (at_ l) n).map s.byte) i))))))
    let both (i : Instr) (p : Machine.Path) (share : Bool) (lanes : List Nat) (takes : Nat → List Nat) : Prop :=
      begun i p share lanes takes ∧ near i share lanes takes
    both (.ld f d b x size off sx) .plain false c.active (fun l => [l]) ∧
    both (.ldRo f d b x size off sx) .ro false c.active (fun l => [l]) ∧
    both (.ldC f d b x size off sx) .const false c.active (fun l => [l]) ∧
    both (.ldNt f d b x size off sx) .nt false c.active (fun l => [l]) ∧
    both (.lds f d b x size off sx) .plain true c.active (fun l => [l]) ∧
    both (.ldU f d b x size off sx) .plain false [c.lowest] (fun _ => c.livel)

/-- Stores (R176 to R178): once the lanes' accesses resolve, and none meets an accepted command or merges into poison, every byte of a lane's
access takes its byte of the lane's data, the highest lane last: at once in memory on chip, and as the core has it on normal pages, where the
L1 may hold it (R222). No other byte changes. A store whose accesses all lie in the cohort's scratchpad share, with no poison and no command
under way there, completes so. -/
def Obligations.StoresPerform : Prop :=
  ∀ (s t : State) (rs : List (Nat × Nat × Resolved)) (f : Bool) (d b x : Reg) (size : MSize) (off : Option Word),
    let c := s.co
    let cells := rs.flatMap (fun e => e.2.2.pas.zip (c.storeData d size e.1))
    let stored (i : Instr) (share : Bool) : Prop :=
      resolveLanes c .plain (sizeBytes size) .write share (c.active.map (fun l => (l, c.laneAddr b x off l))) s = (t, .ok rs) →
      Reaches s i (fun q => Opens t q (wordsM off) .store (c.flagOf f) [] ∧
        (Quiet t → ∀ a, (∀ e ∈ rs, a ∉ e.2.2.pas) → q.byte a = t.byte a) ∧
        ((t.core c.core).wc = [] → (∀ e ∈ rs, e.2.2.leaf = none ∧ e.2.2.next = none) → ∀ a, q.byte a = t.byteAfter cells a) ∧
        (Quiet t → (∀ e ∈ rs, Paged e.2.2) → ∀ a, q.nearByte c.core a = t.byteAfter cells a))
    let near (i : Instr) (share : Bool) : Prop := ∀ at_ : Nat → Nat,
      (∀ l ∈ c.active, InShare share c (c.laneAddr b x off l) (sizeBytes size) (at_ l)) → s.unmarked = true → (∀ pas, s.heldBy pas true = none) →
      (s.core c.core).wc = [] → Reaches s i (fun q => Opens s q (wordsM off) .store (c.flagOf f) [] ∧ ∀ a, q.byte a =
        s.byteAfter (c.active.flatMap (fun l => (ShareBytes c (at_ l) (sizeBytes size)).zip (c.storeData d size l))) a)
    let both (i : Instr) (share : Bool) : Prop := stored i share ∧ near i share
    both (.st f d b x size off) false ∧ both (.stNt f d b x size off) false ∧ both (.sts f d b x size off) true

/-- LDF and STF through a format view (R183 to R185): with no active lane there is no access, which is the model's reading (log entry 67);
else, once the elements resolve and meet no
accepted command and no poison, LDF gives each lane its element's value and STF stores each lane's code. -/
def Obligations.FormatAccesses : Prop :=
  ∀ (s t : State) (ek : EKind) (es : List Elem) (f : Bool) (d b x : Reg) (off : Option Word),
    let c := s.co
    let scale (e : Elem) : Nat := leNat (e.sc.pas.map t.byte)
    (c.active = [] → Reaches s (.ldf f d b x off) (fun q => Opens s q (wordsM off) .load (c.flagOf f) [] ∧ q.mem = s.mem) ∧
      Reaches s (.stf f d b x off) (fun q => Opens s q (wordsM off) .store (c.flagOf f) [] ∧ q.mem = s.mem)) ∧
    (c.active ≠ [] → s.elems c b x off .read = (t, .ok (ek, es)) →
      Reaches s (.ldf f d b x off) (fun q => ∃ ws, Opens t q (wordsM off) .load (c.flagOf f) ws ∧
        ws.map Prod.fst = es.map (fun e => regKey c.v.wdepth c.S d e.lane) ∧
        (Agrees t → (∀ e ∈ es, Plain e.el ∧ Plain e.sc) → q.mem = t.mem ∧ ws.map Prod.snd = es.map (fun e => BitVec.ofNat 32
          (elemValue ek (elemCode ek e.half (e.el.pas.map t.byte)) (scale e)))))) ∧
    (c.active ≠ [] → s.elems c b x off .write = (t, .ok (ek, es)) →
      Reaches s (.stf f d b x off) (fun q => Opens t q (wordsM off) .store (c.flagOf f) [] ∧
        (Quiet t → ∀ a, (∀ e ∈ es, a ∉ e.el.pas) → q.byte a = t.byte a) ∧
        (Agrees t → (∀ e ∈ es, Paged e.el ∧ Plain e.sc) →
          ∀ a, q.nearByte c.core a = t.byteAfter ((t.stfCells c d ek (es.map (fun e => (e, scale e))) []).flatMap Prod.snd) a)))

/-- Atomics (R187, R188): once the lanes' accesses are aligned and resolve, and meet no accepted command and no poison, the lanes are
performed in ascending order, each on the bytes as the lanes before it left them; the old values are to land in D, and no other byte
changes. EVSIG is one 64-bit add of B by the lowest lane that returns nothing (R381). An atomic whose accesses are aligned in the cohort's
scratchpad share, with no poison and no command under way there, completes so. -/
def Obligations.AtomicsPerform : Prop :=
  ∀ (s t : State) (rs : List (Nat × Nat × Resolved)) (f : Bool) (d b v : Reg) (q : AtomQual),
    let c := s.co
    let n := if q.w64 then 8 else 4
    let val (r : Reg) (l : Nat) : DWord := if q.w64 then c.getPair r l else (c.get r l).setWidth 64
    let less (x y : DWord) : Bool :=
      if q.sgn then (if q.w64 then decide (x.toInt < y.toInt) else decide ((loOf x).toInt < (loOf y).toInt))
      else decide (x.toNat < y.toNat)
    let performed (i : Instr) (n words : Nat) (lanes : List (Nat × Nat)) (dest : Option Reg) (g : Nat → Nat → Nat) : Prop :=
      resolveAtomics c n lanes s = (t, .ok rs) → Quiet t →
      Reaches s i (fun u =>
        Opens t u words .atomic (c.flagOf f) (match dest with
          | none => []
          | some d => (t.atomLanes n g rs []).1.flatMap (fun e =>
            (regKey c.v.wdepth c.S d e.1, (BitVec.ofNat 32 e.2 : Word)) ::
              (if n = 8 then [(regKey c.v.wdepth c.S (d + 1) e.1, (BitVec.ofNat 32 (e.2 / 2 ^ 32) : Word))] else []))) ∧
        (∀ a, u.byte a = t.byteAfter (t.atomLanes n g rs []).2 a) ∧
        (∀ a, (∀ e ∈ rs, a ∉ e.2.2.pas) → u.byte a = t.byte a) ∧
        ∀ l a r, rs = [(l, a, r)] → Plain r → r.pas.length = n → r.pas.Nodup →
          (t.atomLanes n g rs []).1 = [(l, leNat (r.pas.map t.byte))] ∧
          leNat (r.pas.map u.byte) = g l (leNat (r.pas.map t.byte)) % 2 ^ (8 * n))
    let near (i : Instr) (n words : Nat) (lanes : List (Nat × Nat)) (dest : Option Reg) (g : Nat → Nat → Nat) : Prop := ∀ at_ : Nat → Nat,
      (∀ e ∈ lanes, e.2 % n = 0 ∧ InShare false c e.2 n (at_ e.1)) → s.unmarked = true → (∀ pas, s.heldBy pas true = none) → Quiet s →
      Reaches s i (fun u => ∃ ws, Opens s u words .atomic (c.flagOf f) ws ∧ (dest = none → ws = []) ∧
        (∀ a, (∀ e ∈ lanes, a ∉ ShareBytes c (at_ e.1) n) → u.byte a = s.byte a) ∧
        ∀ l va, lanes = [(l, va)] →
          let old := leNat ((ShareBytes c (at_ l) n).map s.byte)
          leNat ((ShareBytes c (at_ l) n).map u.byte) = g l old % 2 ^ (8 * n) ∧
          ∀ d, dest = some d → ws = (regKey c.v.wdepth c.S d l, (BitVec.ofNat 32 old : Word)) ::
            (if n = 8 then [(regKey c.v.wdepth c.S (d + 1) l, (BitVec.ofNat 32 (old / 2 ^ 32) : Word))] else []))
    let both (i : Instr) (n words : Nat) (lanes : List (Nat × Nat)) (dest : Option Reg) (g : Nat → Nat → Nat) : Prop :=
      performed i n words lanes dest g ∧ near i n words lanes dest g
    let each (i : Instr) (h : DWord → DWord → DWord → DWord) : Prop :=
      both i n 2 (c.active.map (fun l => (l, (c.getPair b l + q.off.signExtend 64).toNat))) (some d)
        (fun l m => (h (BitVec.ofNat 64 m) (val v l) (val d l)).toNat)
    each (.aadd f d b v q) (fun m x _ => m + x) ∧ each (.amin f d b v q) (fun m x _ => if less x m then x else m) ∧
    each (.amax f d b v q) (fun m x _ => if less m x then x else m) ∧ each (.aand f d b v q) (fun m x _ => m &&& x) ∧
    each (.aor f d b v q) (fun m x _ => m ||| x) ∧ each (.axor f d b v q) (fun m x _ => m ^^^ x) ∧
    each (.axch f d b v q) (fun _ x _ => x) ∧ each (.acas f d b v q) (fun m x e => if m = e then x else m) ∧
    (∃ sum : DWord → DWord → DWord, each (.afadd f d b v q) (fun m x _ => sum m x) ∧
      ∀ m x, Adds (fType .f32) 0x7FC00000 (m.toNat % 2 ^ 32) (x.toNat % 2 ^ 32) (sum m x).toNat) ∧
    both (.evsig f b v) 8 1 [(c.lowest, (c.ugetPair b).toNat)] none (fun _ m => (m + (c.uget v).toNat) % 2 ^ 64)

/-- PREF, CINV and CWB (R186, R195) never fault: they begin and go on, PREF once no accepted command owns a line that it reads (R342); with B = 0 a maintenance names no byte, and its flag is clear at
once. CINV takes the line of its range out of the L1, and CWB leaves it clean with scope tag cluster, where its page translates to a
normal page. FENCE (R181, R190, R223, R336 to R338): it is pending until it completes; a release leaves the cohort no buffered store,
beyond the core no byte of the L1 that is not written back, and at .die and .pkg no byte in the cluster's cache that is not performed
for every agent; an acquire leaves no clean line of narrower scope, .sc takes a number of the sequencer, and .ro empties the read-only
caches. Nothing else of the cohort changes. -/
def Obligations.CachesAndFences : Prop :=
  (∀ (s : State) (f : Bool) (a b x : Reg) (l : CacheLevel) (off : Option Word),
     let c := s.co
     let va := (c.ugetPair a).toNat
     let one : Prop := 1 ≤ (c.uget b).toNat ∧ va % 64 + (c.uget b).toNat ≤ 64 ∧ windowOf (va / 64 * 64) = .glob
     let goes (q : State) (n : Nat) : Prop := q.co.idx = c.idx + n ∧ q.co.v.regs = c.v.regs ∧ q.co.halted = c.halted ∧ q.lastFault = s.lastFault
     let began (i : Instr) (n : Nat) (kind : OpKind) (p : State → Prop) : Prop := Reaches s i (fun q => goes q n ∧ p q ∧
       q.co.v.ops = c.v.ops ++ [{ id := s.fresh, kind := kind, flag := c.flagOf f, clause := c.clause, keys := [], writes := [] }])
     let none_ (i : Instr) : Prop := Reaches s i (fun q => goes q 1 ∧ q.co.v.ops = c.v.ops ∧ q.mem = s.mem ∧ q.cores = s.cores)
     ((∀ t ls, State.prefLines c (c.active.map (fun l => c.laneAddr a x off l)) s = (t, ls) → t.heldBy (ls.map (fun l => 64 * l)) false = none) →
       began (.pref f a x l off) (wordsM off) .pref (fun q => c.active = [] → q.mem = s.mem ∧ q.cores = s.cores)) ∧
     (c.uget b = 0 → none_ (.cinv f a b) ∧ none_ (.cwb f a b)) ∧
     (c.uget b ≠ 0 →
       began (.cinv f a b) 1 .maint (fun q => one → ∀ t p, s.quietPage c (va / 64 * 64) = (t, some p) →
         Tab.find (q.core c.core).l1 ((p.pa + va / 64 * 64 % 4096) / 64) = none) ∧
       began (.cwb f a b) 1 .maint (fun q => one → ∀ t p, s.quietPage c (va / 64 * 64) = (t, some p) →
         ∀ e ∈ (q.core c.core).l1, e.1 = (p.pa + va / 64 * 64 % 4096) / 64 → e.2.own = 0 ∧ e.2.tag = .cluster ∧ e.2.reg = true))) ∧
  (∀ (s : State) (o : MOrd) (sc : Scope) (ro : Bool), let c := s.co
     let releases : Prop := o = .rel ∨ o = .ar ∨ o = .sc
     Reaches s (.fence o sc ro) (fun q =>
       q.co = { c with fence := true, idx := c.idx + 1 } ∧
       (Quiet s → q.mem = s.mem) ∧
       (releases → (∀ w ∈ (q.core c.core).wc, w.co ≠ c.id) ∧
         (sc = .cluster ∨ sc = .die ∨ sc = .pkg ∨ (sc = .team ∧ c.pair = true) → ∀ e ∈ (q.core c.core).l1, e.2.own = 0) ∧
         (sc = .die ∨ sc = .pkg → ((s.cluster (c.core / 16)).cc.map Prod.fst).Pairwise (· < ·) →
           ∀ n e, Tab.find (q.cluster (c.core / 16)).cc n = some e → e.data = [])) ∧
       (o = .acq ∨ o = .ar ∨ o = .sc → ∀ e ∈ (q.core c.core).l1, scopeRank c.pair sc ≤ scopeRank false e.2.tag ∨ e.2.own ≠ 0) ∧
       q.seq = (if o = .sc then (s.seq + 1) % 2 ^ 64 else s.seq) ∧
       (ro = true → ∀ k ∈ c.teamCores, (q.core k).ro = [] ∧ (q.core k).cst = [])))

/-- WAITA and EVWAIT (R191, R382), once the address is aligned and resolves on chip or to a normal page, meets no accepted command and
no poison, and the core and its cluster hold no store that memory lacks: status 0 when the condition holds already, 1 when it does not
and the timeout is 0, and else the cohort waits. The waits end (R191, R382): by their condition with status 0, or by a timeout of which
T cycles have passed with status 1 where the condition does not hold; the status is a uniform value. The word is not poisoned, and the
core and its cluster hold no store that memory lacks. WAKEA (R192), once its address resolves, and where no core and no cluster holds a
store that memory lacks: every other cohort of the context that waits on the line by WAITA goes on with status 0 or 2 as its condition
holds or not; a cohort of another context, or one that waits for nothing, stays as it is. -/
def Obligations.WaitsAndWakes : Prop :=
  (∀ (s t : State) (r : Resolved) (d a b : Reg) (w64 : Bool) (k : WaitCond),
     let c := s.co
     let va := (c.ugetPair a).toNat
     let at_ (n : Nat) : Prop := resolveOne s c va n .read = (t, .ok r) ∧ t.heldBy r.pas false = none ∧
       t.poisonRead t.co.core .plain true va r = none ∧ Plain r ∧ areaOf (r.pas.headD 0) ≠ .control ∧ Quiet t
     let cmp : DWord := if w64 then c.ugetPair b else (c.uget b).setWidth 64
     let word : DWord := BitVec.ofNat 64 (leNat (r.pas.map t.byte))
     let done (q : State) (st : Nat) : Prop := q.co = { t.co.uniform d (BitVec.ofNat 32 st) with strong := false, idx := t.co.idx + 1 } ∧
       q.mem = t.mem
     let holds : Bool := wordHolds k w64 word cmp
     (at_ (if w64 then 8 else 4) → Reaches s (.waita d a b w64 k) (fun q =>
       (holds = true → done q 0) ∧ (holds = false → c.uget d = 0 → done q 1) ∧
       (holds = false → c.uget d ≠ 0 → q.co = { t.co with
         wait := some (.waita va (r.pas.headD 0) w64 k cmp d (waitLimit t.clk (c.uget d)))
         strong := false, idx := t.co.idx + 1 } ∧ q.mem = t.mem))) ∧
     (at_ 8 → Reaches s (.evwait d a b) (fun q =>
       ((c.ugetPair b).toNat ≤ word.toNat → done q 0) ∧
       (word.toNat < (c.ugetPair b).toNat → c.uget d = 0 → done q 1) ∧
       (word.toNat < (c.ugetPair b).toNat → c.uget d ≠ 0 → q.co = { t.co with
         wait := some (.evwait va (r.pas.headD 0) (c.ugetPair b) d (waitLimit t.clk (c.uget d)))
         strong := false, idx := t.co.idx + 1 } ∧ q.mem = t.mem)))) ∧
  (∀ (s : State) (va pa : Nat) (w64 : Bool) (k : WaitCond) (b : DWord) (d : Reg) (limit : Option (Nat × Nat)), Quiet s →
     let c := s.co
     let ended (i : Instr) (st : Nat) : Prop := Reaches s i (fun q =>
       q.co = { c.uniform d (BitVec.ofNat 32 st) with wait := none } ∧ q.mem = s.mem)
     let n := if w64 then 8 else 4
     let word (n : Nat) : DWord := BitVec.ofNat 64 (leNat (s.bytes pa n))
     let clean (n : Nat) : Prop := areaOf pa ≠ .control ∧ s.heldBy (wordAt pa n).pas false = none ∧
       s.poisonRead c.core .plain true va (wordAt pa n) = none
     let late (issue tmo : Nat) : Prop := limit = some (issue, tmo) ∧ tmo ≤ (s.clk + 2 ^ 64 - issue) % 2 ^ 64
     (c.wait = some (.waita va pa w64 k b d limit) → clean n →
       (wordHolds k w64 (word n) b = true → ended (.waitaWake c.id) 0) ∧
       (wordHolds k w64 (word n) b = false → Reaches s (.waitaWake c.id) (fun q => q.co = c ∧ q.mem = s.mem)) ∧
       (∀ issue tmo, late issue tmo → ended (.waitaTimeout c.id) (if wordHolds k w64 (word n) b then 0 else 1))) ∧
     (c.wait = some (.evwait va pa b d limit) → clean 8 →
       (b.toNat ≤ (word 8).toNat → ended (.evwaitWake c.id) 0) ∧
       ((word 8).toNat < b.toNat → Reaches s (.evwaitWake c.id) (fun q => q.co = c ∧ q.mem = s.mem)) ∧
       (∀ issue tmo, late issue tmo → ended (.evwaitTimeout c.id) (if b.toNat ≤ (word 8).toNat then 0 else 1)))) ∧
  (∀ (s t : State) (r : Resolved) (a : Reg), let c := s.co
     resolve s c (c.ugetPair a).toNat 1 .read 970 = (t, .ok r) → AllQuiet t → t.co.wait = none →
     (t.cohorts.map Prod.fst).Pairwise (· < ·) → (∀ e ∈ t.cohorts, e.2.id = e.1 ∧ e.1 ≠ t.co.id) → t.unmarked = true →
     (∀ pas, t.heldBy pas false = none) → areaOf (r.pas.headD 0) ≠ .control →
     Reaches s (.wakea a) (fun q => q.co = { t.co with idx := t.co.idx + 1 } ∧ q.mem = t.mem ∧
       ∀ id x, Tab.find t.cohorts id = some x →
         (∀ va pa w64 k b d fin, x.ctx = c.ctx → x.wait = some (.waita va pa w64 k b d fin) → pa / 64 = r.pas.headD 0 / 64 →
           Tab.find q.cohorts id = some
             { x.uniform d (if wordHolds k w64 (BitVec.ofNat 64 (leNat (t.bytes pa (if w64 then 8 else 4)))) b then 0 else 2) with
               wait := none }) ∧
         (x.ctx ≠ c.ctx ∨ x.wait = none → Tab.find q.cohorts id = some x)))

/-- TLBQ (R196): its answer is to land in D:D+1 of every active and inactive lane: bit 62 alone for the LOCAL window, bit 63 with the
physical page for the ONCHIP window, the failing subcause shifted by 8 for a failed walk, and the permissions and attributes of a page of
which no TLB of the core holds a translation. CLKRD gives the package timer (R197). -/
def Obligations.TranslationQueries : Prop :=
  ∀ (s : State) (f : Bool) (d a : Reg), Shape s.co →
    let c := s.co
    let va := (c.ugetPair a).toNat
    let answers (x : Nat) : Prop := Reaches s (.tlbq f d a) (fun q =>
      q.co.idx = c.idx + 1 ∧ q.co.v.regs = c.v.regs ∧ ∃ ws, q.co.v.ops = c.v.ops ++
        [{ id := s.fresh, kind := .maint, flag := c.flagOf f, clause := c.clause, keys := ws.map Prod.fst, writes := ws }] ∧
      ws = c.livel.flatMap (fun l => [(regKey c.v.wdepth c.S d l, loOf (BitVec.ofNat 64 x)),
        (regKey c.v.wdepth c.S (d + 1) l, hiOf (BitVec.ofNat 64 x))]))
    let bit (p : Bool) (n : Nat) : Nat := if p then 2 ^ n else 0
    (∀ x, windowOf va = .loc x → answers (2 ^ 62)) ∧
    (∀ x, windowOf va = .onchip x → answers (2 ^ 63 + (0x300000000000 + x) / 4096 % 2 ^ 38 * 2 ^ 12)) ∧
    (windowOf va = .glob → s.tlbHeld c.core c.ctx (va / 4096) = none →
      (∀ e, walkRoot s (s.ctx c.ctx).root va = .error e → e.cause = 0x06 → answers (256 * e.sub)) ∧
      (∀ w, walkRoot s (s.ctx c.ctx).root va = .ok w → let l := w.leaf
        let open_ : Bool := l.u && l.pbmt != 3
        answers (1 + bit (open_ && l.r) 1 + bit (open_ && l.w && areaOf l.pa != .flash) 2 + bit (open_ && l.x) 3 + bit l.mig 4 +
          l.pbmt * 2 ^ 5 + bit l.so 7 + l.efmt * 2 ^ 8 + (l.pa + va % 4096) / 4096 % 2 ^ 38 * 2 ^ 12 + l.bgeo * 2 ^ 50 + l.size * 2 ^ 52))) ∧
    (d.even = true → UniformPair s (.clkrd d) d 1 (BitVec.ofNat 64 s.timer))

/-- SYSC (R198), once its block has passed its checks: all ones when there is no call ring; with the ring full the cohort waits for room
at its word; else the block's answer word becomes 0, and with a slot that translates the entry is written, the head advances and the
cohort waits; with one that does not the result is all ones but bit 0, and where its walk meets poison the fault is the cohort's (R368). A call that has been posted only waits again. Its answer ends the wait and lands in D:D+1; a write of the tail takes
effect and lets waiting calls try again. BKPT (R199): without ctx_dbg.bkpt the cohort goes on at the next clause; with it the cohort
stops there. -/
def Obligations.CallsAndBreakpoints : Prop :=
  (∀ (s t u : State) (blk : Resolved) (slot ctx : Nat) (f : Bool) (d a : Reg) (v : Word),
     let c := s.co
     let pa := blk.pas.headD 0
     let va := (c.ugetPair a).toNat
     let r := t.release c .pkg
     let op := r.fresh
     let b : State := (r.startOp .sysc (r.co.flagOf f) (r.co.keysOf d r.co.livel ++ r.co.keysOf (d + 1) r.co.livel) []).2
     let x := r.ctx c.ctx
     let full : Prop := (x.sysHead + 2 ^ 32 - x.sysTail) % 2 ^ 32 = 2 ^ x.sysSize
     let at_ := (x.sysBase + 64 * (x.sysHead % 2 ^ x.sysSize)) % 2 ^ 64
     let w := (b.past c.core [pa / 64]).writeN pa 8 0
     (s.syscBlock c va = (t, .ok blk) → c.mark = none → r.co.mark = none →
       (x.sysSize = 0 → Reaches s (.sysc f d a) (fun q =>
         q.co = { (b.co.uniformPair d 0xFFFFFFFFFFFFFFFF).dropOp op with idx := r.co.idx + 1 })) ∧
       (x.sysSize ≠ 0 → full → Reaches s (.sysc f d a) (fun q =>
         q.co = { b.co with wait := some .sysRoom, mark := some (.sysIssued op) } ∧ q.mem = r.mem)) ∧
       (x.sysSize ≠ 0 → ¬full → b.accessBad c.core .plain .write va blk = none →
         (w.slotAt c.ctx at_ = some (u, slot) → x.msiAddr = 0 →
           Reaches s (.sysc f d a) (fun q => q.co.wait = some (.sysAnswer va pa d op) ∧
             (q.ctx c.ctx).sysHead = (x.sysHead + 1) % 2 ^ 32 ∧ q.bytes slot 64 = callEntry c va u.seq ∧
             q.co.idx = u.co.idx + 1 ∧ q.co.v.ops = u.co.v.ops)) ∧
         (w.slotAt c.ctx at_ = none → w.slotPoison c.ctx [at_] = none → Reaches s (.sysc f d a) (fun q =>
           q.co = { (b.co.uniformPair d 0xFFFFFFFFFFFFFFFE).dropOp op with idx := r.co.idx + 1 } ∧ q.mem = w.mem ∧ q.ctxs = w.ctxs)) ∧
         (∀ p, w.slotAt c.ctx at_ = none → w.slotPoison c.ctx [at_] = some p → t.co.landSfu.delivers 0x10 = false →
           Reaches s (.sysc f d a) (fun q => q.lastFault = some { fltAt 0x10 6 at_ .write with paddr := p } ∧ q.co.halted = true)))) ∧
     (∀ p e n, s.syscBlock c va = (t, .ok blk) → c.mark = some (.sysPosted p e n) →
       Reaches s (.sysc f d a) (fun q =>
         q.co = { t.co with mark := none, wait := some (.sysAnswer va pa e n), idx := t.co.idx + 1 } ∧ q.mem = t.mem)) ∧
     (∀ op, c.wait = some (.sysAnswer va pa d op) → Quiet s → areaOf pa ≠ .control → s.heldBy (wordAt pa 8).pas false = none →
       s.poisonRead c.core .plain true va (wordAt pa 8) = none →
       (leNat (s.bytes pa 8) ≠ 0 → Reaches s (.syscAnswer c.id) (fun q => q.co =
         (({ c.uniformPair d (BitVec.ofNat 64 (leNat (s.bytes pa 8))) with wait := none } : Cohort).dropOp op) ∧ q.mem = s.mem)) ∧
       (leNat (s.bytes pa 8) = 0 → Reaches s (.syscAnswer c.id) (fun q => q.co = c ∧ q.mem = s.mem))) ∧
     Reaches s (.sysTailWrite ctx v) (fun q => (q.ctx ctx).sysTail = v.toNat ∧ q.mem = s.mem ∧
       (c.ctx = ctx → c.wait = some .sysRoom → q.co = { c with wait := none }))) ∧
  (∀ (s : State),
     ((s.ctx s.co.ctx).bkpt = false → Jumps s .bkpt s.co.nextClause) ∧
     ((s.ctx s.co.ctx).bkpt = true → (s.ctx s.co.ctx).logBase = 0 → s.co.v.ops = [] →
       Reaches s .bkpt (fun q => At q s.co.nextClause ∧ q.co.halted = true ∧
         ((q.ctx s.co.ctx).drops = ((s.ctx s.co.ctx).drops + 1) % 2 ^ 32))))

/-! ## The copy engine (R219 to R237) -/

/-- CPY and CPYG (R229, R231): with aligned operands whose ranges pass the checks of R228 and whose lines no command owns, the bytes as
they stand at acceptance are to be written at retirement, the higher lane's last; with nothing to move the command is done at once, whatever
its windows, which is the model's reading (log entry 67). CPY2D (R230): mode 0 moves rows, the higher row's bytes last; mode 1 writes the FP32 values of the elements of a format view. -/
def Obligations.CopiesAreAccepted : Prop :=
  (∀ (s t : State) (ps : List (List Piece)) (f : Bool) (d a b : Reg) (p : PBlock),
     let c := s.co
     let dst := (c.ugetPair d).toNat
     let src := (c.ugetPair a).toNat
     let n := (c.uget b).toNat
     let rs : List Rg := [{ grp := 0, share := false, va := src, len := n, wr := false },
                          { grp := 1, share := false, va := dst, len := n, wr := true }]
     let go (i : Instr) (rs : List Rg) (words : Nat) (from_ to_ : List Piece) (writes : State → List (Nat × Byte)) : Prop :=
       let u := t.gather t.co from_ to_
       t.owned (from_ ++ to_) = none → Accepts s u i .copy f (claimsOf c rs) [] words (fun e =>
         e.writes = writes u ∧ e.poison = u.piecePoison u.co.core from_ ∧ e.regs = [] ∧ e.dest = [] ∧ e.pages = piecePages (from_ ++ to_))
     (n = 0 → src % 16 = 0 → dst % 16 = 0 → OnlyCo s (.cpy f d a b) 1 id) ∧
     (n ≠ 0 → n % 16 = 0 → src % 16 = 0 → dst % 16 = 0 → (inLocal src || inLocal dst) = true → checkRanges s c Own.plain rs = (t, .ok ps) →
       go (.cpy f d a b) rs 1 (ps.getD 0 []) (ps.getD 1 []) (fun t => (piecePas (ps.getD 1 [])).zip (t.pieceBytes (ps.getD 0 [])))) ∧
     (let rowlen := c.sub p.h1
      let spitch := p.h2.toNat + 65536 * p.h3.toNat
      let dpitch := p.h4.toNat + 65536 * p.h5.toNat
      let row (l : Nat) : Nat := (src + (c.get b l).toNat * spitch) % 2 ^ 64
      16 ≤ rowlen → rowlen ≤ 61440 → p.h0 = 0 → p.h6 = 0 → p.h7 = 0 → rowlen % 16 = 0 → dpitch % 16 = 0 → src % 16 = 0 → dst % 16 = 0 →
      (∀ l ∈ c.active, row l % 16 = 0) →
       (c.active = [] → OnlyCo s (.cpyg f d a b p) 5 id) ∧
       (∀ h, c.active.getLast? = some h → inLocal dst = true →
         let rs : List Rg := c.active.map (fun l => { grp := 0, share := false, va := row l, len := rowlen, wr := false }) ++
           [{ grp := 1, share := false, va := dst, len := h * dpitch + rowlen, wr := true }]
         checkRanges s c Own.plain rs = (t, .ok ps) →
         go (.cpyg f d a b p) rs 5 (ps.take c.active.length).flatten (ps.getD c.active.length []) (fun t =>
           (c.active.zip (ps.take c.active.length)).flatMap (fun x =>
             cellsFrom (((ps.getD c.active.length []).headD { va := 0, pa := 0, len := 0, leaf := none }).pa + x.1 * dpitch)
               (t.pieceBytes x.2)))))) ∧
  (∀ (s t : State) (ps : List (List Piece)) (f : Bool) (d a : Reg) (p : PBlock),
     let c := s.co
     let dst := (c.ugetPair d).toNat
     let src := (c.ugetPair a).toNat
     let rows := c.sub p.h0
     let rowlen := c.sub p.h1
     let spitch := p.h2.toNat + 65536 * p.h3.toNat
     let dpitch := p.h4.toNat + 65536 * p.h5.toNat
     let rgs (g : Nat) (wr : Bool) (base pitch len : Nat) : List Rg :=
       (List.range rows).map (fun r => { grp := g, share := false, va := (base + r * pitch) % 2 ^ 64, len := len, wr := wr })
     let go (t : State) (rs : List Rg) (from_ to_ : List Piece) (writes : State → List (Nat × Byte)) : Prop :=
       let u := t.gather t.co from_ to_
       t.owned (from_ ++ to_) = none → Accepts s u (.cpy2d f d a p) .copy f (claimsOf c rs) [] 5 (fun e =>
         e.writes = writes u ∧ e.poison = u.piecePoison u.co.core from_ ∧ e.pages = piecePages (from_ ++ to_))
     1 ≤ rows → rows ≤ 4096 → p.h7 = 0 → dst % 16 = 0 → dpitch % 16 = 0 →
     (p.h6 = 0 → 16 ≤ rowlen → rowlen ≤ 61440 → rowlen % 16 = 0 → src % 16 = 0 → (1 < rows → (src + spitch) % 2 ^ 64 % 16 = 0) →
       (inLocal src || inLocal dst) = true →
       checkRanges s c Own.plain (rgs 0 false src spitch rowlen ++ rgs 1 true dst dpitch rowlen) = (t, .ok ps) →
       go t (rgs 0 false src spitch rowlen ++ rgs 1 true dst dpitch rowlen) (ps.take rows).flatten (ps.drop rows).flatten (fun t =>
         (List.range rows).flatMap (fun r => (piecePas ((ps.drop rows).getD r [])).zip (t.pieceBytes ((ps.take rows).getD r []))))) ∧
     (∀ (t2 t3 : State) (lf : Option Leaf) (ek : EKind) (vp : List Piece) (qs : List (List Piece)),
       p.h6 = 1 → 4 ≤ rowlen → rowlen ≤ 15360 → rowlen % 4 = 0 → src % 32 = 0 → inLocal dst = true →
       let out := rgs 1 true dst dpitch (4 * rowlen)
       let view : Rg := { grp := 2, share := false, va := src, len := 32, wr := false }
       rangesBad s c Own.plain (out ++ [view]) = none → piecesOf s c view = (t, .ok vp) →
       t.heldBy (piecePas vp) false = none → t.piecePoison c.core vp = none →
       let v := t.viewOf vp
       t.viewLeaf c v .read = (t2, .ok lf) → ekind (leafAttr lf).1 = some ek → v.rsv = 0 → attrBad (leafAttr lf).1 (leafAttr lf).2 = none →
       let scaled := ek.block && (leafAttr lf).2 != 0
       let bl := blOf (leafAttr lf).2
       (scaled = true → v.sbase % 2 = 0 ∧ scaleBad v bl = false) →
       let scs := if scaled then (List.range rows).flatMap (fun r => scaleRgs v bl 4 (r * spitch) rowlen) else []
       let rs := out ++ (List.range rows).map (fun r => elemRg v ek 3 (r * spitch) rowlen) ++ scs
       rangesBad t2 c Own.plain rs = none → allPieces c rs t2 = (t3, .ok qs) → orderedOf (vp :: qs) = none →
       let ep := (qs.drop rows).take rows
       let sp := qs.drop (2 * rows)
       attrsOf (leafAttr lf).1 (leafAttr lf).2 ep.flatten = [] →
       go t3 rs (ep.flatten ++ sp.flatten ++ vp) (qs.take rows).flatten (fun t =>
         let recs := (scs.map Rg.va).zip (sp.map (fun p => leNat (t.pieceBytes p)))
         (List.range rows).flatMap (fun r =>
           (piecePas ((qs.take rows).getD r [])).zip ((List.range rowlen).flatMap (fun i =>
             natLe 4 (elemValue ek (codeIn ek (t.pieceBytes (ep.getD r [])) (r * spitch) (r * spitch + i))
               (if scaled then Tab.get 0 recs (scaleAddr v bl (r * spitch + i)) else 0))))))))

/-- CPYO (R232, R233) writes words to registers of the cohort that its target word names, whose declaration covers them. PLNX (R234 to
R236) forms bit planes and window bytes of M rows of K elements, and its status goes to D. -/
def Obligations.RemoteAndPlanesAccepted : Prop :=
  ∀ (s t : State) (ps : List (List Piece)) (x : Cohort) (ek : EKind) (f : Bool) (d a b : Reg) (p : PBlock),
    let c := s.co
    (let n := (c.uget d).toNat
     let src := (c.ugetPair a).toNat
     let tw := (c.uget b).toNat
     let rs : List Rg := [{ grp := 0, share := false, va := src, len := 4 * n * c.W, wr := false }]
     let u := t.gather t.co ps.flatten []
     src % 4 = 0 → n ≠ 0 → tw < 2 ^ 30 → (∀ y, windowOf src ≠ .onchip y) → s.cpyoTarget c tw n = .ok x →
     s.heldBy x.declPas false = none → checkRanges s c Own.plain rs = (t, .ok ps) → t.owned ps.flatten = none →
      Accepts s u (.cpyo f d a b) .copy f
        (claimsOf c rs ++ [{ slot := x.core, wr := true, lo := bitsOf tw 21 9, hi := bitsOf tw 21 9 + n, co := some x.id }]) [] 1 (fun e =>
          e.writes = [] ∧ e.pages = piecePages ps.flatten ∧
          (u.poisonOf x.declPas = none → e.poison = u.piecePoison c.core ps.flatten) ∧
          e.regs = (List.range (n * c.W)).map (fun q =>
            let i := bitsOf tw 21 9 + q / c.W
            (x.id, (if i < x.S then 16 + i else i - x.S) * 64 + q % c.W,
              BitVec.ofNat 32 (leNat (((u.pieceBytes ps.flatten).drop (4 * q)).take 4)))))) ∧
    (let A := (c.uget a).toNat
     let B := (c.uget b).toNat
     let M := c.sub p.h0
     let K := c.sub p.h1
     let bl := 8 * 2 ^ bitsOf p.h2.toNat 4 2
     let rowb := K * ek.nibs / 2
     let nb := K / bl
     let P := planesOf ek
     let rs : List Rg :=
       (List.range M).map (fun r => { grp := 0, share := true, va := A + r * p.h3.toNat, len := rowb, wr := false }) ++
       [{ grp := 1, share := true, va := B, len := M * (P * K / 8 + nb), wr := true }] ++
       (if ek.block then (List.range M).map (fun r =>
         { grp := 2, share := true, va := 16 * p.h4.toNat + r * p.h5.toNat, len := 2 * nb, wr := false }) else [])
     A % 16 = 0 → B % 16 = 0 → 1 ≤ M → M ≤ 128 → mfmt (p.h2.toNat % 16) = some ek → bitsOf p.h2.toNat 4 2 ≠ 0 → p.h2.toNat / 64 = 0 →
     16 ≤ K → K ≤ 4096 → K % bl = 0 → rowb ≤ p.h3.toNat →
     (if ek.block then 2 * nb ≤ p.h5.toNat else p.h4 = 0 ∧ p.h5 = 0) → p.h6 = 0 → p.h7 = 0 → checkRanges s c Own.plain rs = (t, .ok ps) →
      let u := t.drainWc c.core (some c.id)
      let code (r k : Nat) : Nat := codeIn ek (u.pieceBytes (ps.getD r [])) 0 k
      let record (r b : Nat) : Nat := leNat (((u.pieceBytes ((ps.drop (M + 1)).getD r [])).drop (2 * b)).take 2)
      Accepts s u (.plnx f d a b p) .copy f (claimsOf c rs) (c.keysOf d c.livel) 5 (fun e =>
        ∃ (ints : Nat → Nat → Nat) (wins : Nat → Nat → Nat) (lost nan : Nat → Nat → Bool),
          (∀ r < M, ∀ b < nb, Planes ek (fun i => code r (b * bl + i)) (record r b) bl (fun i => ints r (b * bl + i)) (wins r b) (lost r b)
            (nan r b)) ∧
          e.writes.map Prod.fst = piecePas (ps.getD M []) ∧
          (∀ r < M, ∀ k < K, ∀ p < P,
            ((e.writes.map Prod.snd).getD ((r * P + p) * (K / 8) + k / 8) 0).getLsbD (k % 8) = (ints r k).testBit p) ∧
          (∀ r < M, ∀ b < nb, ((e.writes.map Prod.snd).getD (M * P * (K / 8) + r * nb + b) 0).toNat = wins r b) ∧
          let some_ (x : Nat → Nat → Bool) : Bool := (List.range M).any (fun r => (List.range nb).any (x r))
          e.dest = (c.keysOf d c.livel).map (fun k => (k, BitVec.ofNat 32 ((if some_ lost then 1 else 0) + (if some_ nan then 2 else 0)))) ∧
          e.status = (if some_ lost then 1 else 0)))

/-- Retirement of an accepted command (R226, R227, R281, R282) that read no poison and merges into none: its bytes are written and no
others, its entries are freed, it leaves its core, and its operation is no longer outstanding. A CPYO's words are in the registers of its
target cohort, in the lanes that have not exited, the last for a register, and in no others (R232); a result, as the status of PLNX, lands in
the registers that the operation named (R234). SBQ (R237): the entries in use, and
whether the offset lies in a range that a command writes or reads. -/
def Obligations.CommandsRetireAndQuery : Prop :=
  (∀ (s : State) (core cmd : Nat) (e : EngCmd),
     let retires (i : Instr) (kind : EngKind) : Prop :=
       (s.core core).cmds.find? (fun e => e.id == cmd && e.kind = kind) = some e → e.poison = none →
       s.poisonMerge e.writes = none → Clean s (linesOf e.writes) →
       Reaches s i (fun q => (∀ a, q.byte a = s.byteAfter e.writes a) ∧
         (∀ k ∈ (q.core core).cmds, k.id ≠ cmd) ∧ (∀ k ∈ q.cores, ∀ b ∈ k.2.sb, b.cmd ≠ e.id) ∧
         (e.co = s.co.id → q.co.op? e.op = none) ∧
         (e.dest = [] → ∀ id c, s.cohort? id = some c → ∃ c', q.cohort? id = some c' ∧ ∀ key, Tab.get 0 c'.v.regs key =
           match (e.regs.filter (fun r => r.1 == id && r.2.1 == key && c.v.live.getLsbD (key % 64))).getLast? with
           | some r => r.2.2
           | none => Tab.get 0 c.v.regs key) ∧
         (e.regs = [] → ∀ c o, s.cohort? e.co = some c → c.op? e.op = some o → o.keys.Nodup → o.keys.length = e.dest.length →
           ∃ c', q.cohort? e.co = some c' ∧ (∀ key, key ∉ o.keys → Tab.get 0 c'.v.regs key = Tab.get 0 c.v.regs key) ∧
             ∀ n < o.keys.length, let key := o.keys.getD n 0
               c.v.live.getLsbD (key % 64) = true → (768 ≤ key → key < 1024 → c.mid = true ∧ o.clause = c.clause) →
               Tab.get 0 c'.v.regs key = (e.dest.map Prod.snd).getD n 0))
     retires (.copyRetire core cmd) .copy ∧ retires (.accRetire core cmd) .acc ∧ retires (.scldRetire core cmd) .scld) ∧
  (∀ (s : State) (d a : Reg), let c := s.co
     let x := (c.uget a).toNat
     let at_ := 0x100000 + 16384 * c.shareB + x
     let hit (wr : Bool) : Bool := decide (x < 16384 * c.shareN) &&
       (s.core c.core).sb.any (fun e => e.wr == wr && e.co.isNone && decide (e.lo ≤ at_) && decide (at_ < e.hi))
     (∀ e ∈ (s.core c.core).sb, e.slot < 16) →
     ∃ val : Word, Uniform s (.sbq d a) d 1 val ∧
       (∀ n < 16, val.getLsbD n = (s.core c.core).sb.any (fun e => e.slot == n)) ∧
       val.getLsbD 16 = hit true ∧ val.getLsbD 17 = hit false)

/-! ## Residencies and the matrix array (R238 to R283) -/

/-- RESA (R268): the lowest free descriptor takes the slot when it is free in the arrays that it needs, with a new serial in its handle.
RESPIN, unpin, RESREL and RESQ for a handle that names a descriptor of the context (R257, R269 to R272): pins are charged to the tenant
and returned, a release frees the descriptor, and RESQ gives its words; RESQ of handle 0 reads and clears the matrix status word. -/
def Obligations.Residencies : Prop :=
  (∀ (s : State) (d a : Reg) (i : Nat), let c := s.co
     let q := (c.uget a).toNat
     let res := (s.core c.lead).res
     let r : Residency := { Residency.init with
       state := .empty, ctx := c.ctx, tenant := c.tenant, fmt := q % 16, s := q / 16 % 16
       policy := q / 256 % 2 == 1, pair := q / 512 % 2 == 1 }
     c.follows = false → r.fmt < 10 → r.s < 64 / r.width → (r.pair = true → c.pair = true) → q < 1024 →
     s.slotFree c.lead r = true → (r.pair = true → s.slotFree (c.lead + 1) r = true) →
     i < 16 → (Tab.get Residency.init res i).state = .free → (∀ j < i, (Tab.get Residency.init res j).state ≠ .free) →
     let serial := (Tab.get Residency.init res i).serial % 4095 + 1
     Reaches s (.resa d a) (fun t =>
       t.co = { c.uniform d (BitVec.ofNat 32 (serial * 16 + i)) with idx := c.idx + 1 } ∧ t.mem = s.mem ∧
       Tab.get Residency.init (t.core c.lead).res i = { r with serial := serial })) ∧
  (∀ (s : State) (d a : Reg) (i : Nat) (r : Residency), let c := s.co
     let h := (c.uget a).toNat % 65536
     let ten (t : State) : Tenant := t.ten r.tenant
     let now (t : State) : Residency := Tab.get Residency.init (t.core c.lead).res i
     let on (t : State) : Prop := t.co = { c with idx := c.idx + 1 } ∧ t.mem = s.mem
     let four (t : State) (w0 w1 w2 w3 : Word) : Prop :=
       t.co = { (((c.uniform d w0).uniform (d + 1) w1).uniform (d + 2) w2).uniform (d + 3) w3 with idx := c.idx + 1 } ∧ t.mem = s.mem
     (h / 16 = 0 → ((s.core c.core).claim = some c.ctx →
         Reaches s (.resq d a) (fun t => four t (BitVec.ofNat 32 (s.core c.core).mstat) 0 0 0 ∧ (t.core c.core).mstat = 0)) ∧
       ((s.core c.core).claim ≠ some c.ctx → Reaches s (.resq d a) (fun t => four t 0 0 0 0))) ∧
     (h / 16 ≠ 0 → s.named c.lead c.ctx h = none → Reaches s (.resq d a) (fun t => four t 0 0 0 0)) ∧
     (s.named c.lead c.ctx h = some (i, r) →
       (h / 16 ≠ 0 → (∀ m ∈ (s.core c.lead).mq, m.co = c.id → m.uses i = false) →
         Reaches s (.resq d a) (fun t => four t (BitVec.ofNat 32 (r.word0 h)) r.gload r.refreshes r.rebuilds)) ∧
       (c.follows = false →
         (r.pinned = false → (ten s).used + r.units ≤ (ten s).quota →
           Reaches s (.respin a) (fun t => on t ∧ now t = { r with pinned := true } ∧
             ten t = { ten s with used := (ten s).used + r.units })) ∧
         (r.pinned = true → Reaches s (.respin a) (fun t => on t ∧ now t = r ∧ ten t = ten s)) ∧
         (r.pinned = true → Reaches s (.respinUnpin a) (fun t => on t ∧ now t = { r with pinned := false } ∧
           ten t = { ten s with used := (ten s).used - r.units })) ∧
         (r.pinned = false → Reaches s (.respinUnpin a) (fun t => on t ∧ now t = r ∧ ten t = ten s)) ∧
         ((∀ m ∈ (s.core c.lead).mq, m.uses i = false) → Reaches s (.resrel a) (fun t => on t ∧ (now t).state = .free ∧
           (now t).serial = r.serial ∧ ten t = if r.pinned then { ten s with used := (ten s).used - r.units } else ten s)))))

/-- RESL and the multiplies take their place in the array queue once their operands pass their checks (R264, R265, R273 to R280). -/
def Obligations.ArrayCommandsQueued : Prop :=
  ∀ (s : State) (f : Bool) (d a b : Reg) (p : PBlock), let c := s.co
    c.follows = false →
    (∀ (t t2 : State) (ps : List (List Piece)) (idx : Nat) (r : Residency) (q : SrcRead),
      let soff := p.h0.toNat
      let plain := decide (8 ≤ r.fmt)
      let need := 512 * (256 / q.bl)
      let vr : List Rg := [{ grp := 0, share := false, va := (c.ugetPair b).toNat, len := 32, wr := false }]
      (c.ugetPair b).toNat % 32 = 0 → p.h3 = 0 → p.h4 = 0 → p.h5 = 0 → p.h6 = 0 → p.h7 = 0 →
      s.named c.lead c.ctx ((c.uget a).toNat % 65536) = some (idx, r) → (plain = true → soff = 0) →
      checkReads s c vr = (t, .ok ps) → t.heldBy (piecePas ps.flatten) false = none → t.piecePoison c.core ps.flatten = none →
      let t1 := t.orderedReads c ps.flatten
      let v := t1.viewOf ps.flatten
      t1.readSource c idx r v (c.sub p.h1) (c.sub p.h2) = (t2, .ok q) →
      (plain = false → 16 * soff + need ≤ 16384 ∧ c.sub p.h2 % q.bl = 0) →
      Queues s t2 (.resl f a b p) f r.pair false
        (if plain then [] else (if r.pair then [c.lead, c.lead + 1] else [c.lead]).map (fun n =>
          { slot := n, wr := false, lo := 0x240000 + 16 * soff, hi := 0x240000 + 16 * soff + need, co := none }))
        (.resl idx v.ebase v.sbase v.spitch v.rowlen (c.sub p.h1) (c.sub p.h2) soff q.bl) (piecePages ps.flatten ++ q.pages) [q.src]) ∧
    (∀ (t : State) (ek : EKind) (rs : List (Nat × Residency)) (qs : List SrcRead),
      let A := (c.uget a).toNat
      let B := (c.uget b).toNat
      let row := (c.uget d).toNat
      let bl := 8 * 2 ^ bitsOf p.h1.toNat 4 2
      let mp := c.sub p.h2
      let asoff := p.h3.toNat
      let scaleLen := mp * 512 / bl
      let planeLen := mp * (32 * planesOf ek + 256 / bl)
      let s0 := row / 256 % 128
      let a0 := row % 128
      let multiplies (i : Instr) (G : Nat) (counts handles : MmaTab) : Prop :=
        1 ≤ G → G ≤ 64 → handles.outside c (2 * G) = false → counts.outside c (4 * G) = false →
        s.heldBy (counts.pas c 4 G ++ handles.pas c 2 G) false = none → s.poisonOf (counts.pas c 4 G) = none →
        let cs := counts.read s c 4 G
        s.poisonOf (handles.used c 2 G cs) = none →
        countsBad s0 a0 mp cs = false →
        s.checkGroups c ek bl none (((handles.read s c 2 G).map (fun h => h % 65536)).zip cs) = .ok rs →
        State.readSources c rs s = (t, .ok qs) →
        let nr := cs.foldl (fun n x => n + x) 0
        let pair := rs.any (fun r => r.2.pair)
        let base := 0x100000 + 16384 * c.shareB + A
        let run (slot : Nat) (wr : Bool) (lo len : Nat) : Claim := { slot := slot, wr := wr, lo := lo, hi := lo + len, co := none }
        Queues s t i f pair (rs.any (fun r => !r.2.policy))
          ([run c.lead false base planeLen] ++ counts.claim c (4 * G) ++ handles.claim c (2 * G) ++
            (if ek.block then [run c.lead false (0x240000 + 16 * asoff) scaleLen] else []) ++
            (if nr = 0 then [] else (if pair then [c.lead, c.lead + 1] else [c.lead]).map (fun n =>
              { slot := n, wr := true, lo := 0x200000 + 1024 * a0, hi := 0x200000 + 1024 * (a0 + nr), co := none })))
          (.mma (p.h1.toNat % 16) bl mp asoff (c.shareAddr A) s0 a0
            (cs.foldl (fun (t : List (Nat × Nat) × List Nat) n =>
              if n = 0 then (t.1 ++ [(16, 0)], t.2) else (t.1 ++ [(t.2.headD 16, n)], t.2.drop 1)) ([], rs.map Prod.fst)).1)
          (qs.flatMap SrcRead.pages) (qs.map SrcRead.src)
      (∀ m ∈ (s.core c.lead).mq, m.co = c.id → m.hold = true → m.started = true) →
      A % 16 = 0 → mfmt (p.h1.toNat % 16) = some ek → bitsOf p.h1.toNat 4 2 ≠ 0 → p.h1.toNat / 64 = 0 → 1 ≤ mp → mp ≤ 128 →
      row / 128 % 2 = 0 → row < 2 ^ 15 → (if ek.block then 16 * asoff + scaleLen ≤ 16384 else asoff = 0) → c.outside A planeLen = false →
      (B % 16 = 0 →
        (c.sub p.h0 ≤ 4 → (([c.sub p.h4, c.sub p.h5, c.sub p.h6, c.sub p.h7]).drop (c.sub p.h0)).all (fun h => h == 0) = true →
          multiplies (.mma f d a b p) (c.sub p.h0)
            (.given (([c.sub p.h4, c.sub p.h5, c.sub p.h6, c.sub p.h7]).take (c.sub p.h0))) (.table B)) ∧
        (4 < c.sub p.h0 → c.sub p.h5 = 0 → c.sub p.h6 = 0 → c.sub p.h7 = 0 →
          multiplies (.mma f d a b p) (c.sub p.h0) (.table (16 * c.sub p.h4)) (.table B))) ∧
      (p.h4 = 0 → p.h5 = 0 → p.h6 = 0 → p.h7 = 0 → 1 ≤ c.sub p.h0 →
        multiplies (.mma1 f d a b p) 1 (.given [c.sub p.h0]) (.given [B])))

/-- ACCZ, ACCRD, ACCWR (R281) and SCLD (R282) once their operands pass their checks and no other context holds the core's claim. -/
def Obligations.AccumulatorCommandsAccepted : Prop :=
  ∀ (s t t2 : State) (ps qs : List (List Piece)) (f : Bool) (a b : Reg) (p : PBlock), let c := s.co
    let w := (c.uget a).toNat
    let n := w % 256
    let first := w / 256 % 128
    let B := (c.uget b).toNat
    let acc := 0x200000 + 1024 * first
    let sp := 0x100000 + 16384 * c.shareB + B
    let run (wr : Bool) (lo len : Nat) : Claim := { slot := c.core, wr := wr, lo := lo, hi := lo + len, co := none }
    let at_ (off len : Nat) : List Nat := (List.range len).map (fun i => slotAddr c.core off + i)
    let u := (s.drainWc c.core (some c.id)).takeClaim c.core c.ctx
    (s.claimed c.core c.ctx = false → w < 2 ^ 15 → 1 ≤ n → first + n ≤ 128 →
      Accepts s u (.accz f a) .acc f [run true acc (1024 * n)] [] 1 (fun e =>
        e.writes = (at_ acc (1024 * n)).zip (List.replicate (1024 * n) 0)) ∧
      (B % 16 = 0 → B + 1024 * n ≤ 16384 * c.shareN →
        Accepts s u (.accrd f a b) .acc f [run false acc (1024 * n), run true sp (1024 * n)] [] 1 (fun e =>
          e.writes = (at_ sp (1024 * n)).zip (u.bytes (slotAddr c.core acc) (1024 * n))) ∧
        Accepts s u (.accwr f a b) .acc f [run true acc (1024 * n), run false sp (1024 * n)] [] 1 (fun e =>
          e.writes = (at_ acc (1024 * n)).zip (u.bytes (slotAddr c.core sp) (1024 * n))))) ∧
    (let va := (c.ugetPair a).toNat
     let rows := c.sub p.h0
     let nb := p.h1.toNat
     let doff := 16 * p.h4.toNat
     let len := 2 * rows * nb
     let t1 := t.orderedReads c ps.flatten
     let lr := (t1.gather c ps.flatten []).pieceBytes ps.flatten
     let sbase := leNat (lr.take 8)
     let spitch := leNat ((lr.drop 12).take 4)
     let rs : List Rg := (List.range rows).map (fun i =>
       { grp := 1, share := false, va := (sbase + (c.sub p.h2 + i) * spitch + 2 * c.sub p.h3) % 2 ^ 64, len := 2 * nb, wr := false })
     let v := ((t2.orderedReads c qs.flatten).gather c qs.flatten []).takeClaim c.core c.ctx
     va % 16 = 0 → 1 ≤ rows → rows ≤ 4096 → 1 ≤ nb → nb ≤ 64 → doff + len ≤ 16384 → p.h5 = 0 → p.h6 = 0 → p.h7 = 0 →
     checkReads s c [{ grp := 0, share := false, va := va, len := 16, wr := false }] = (t, .ok ps) →
     t.heldBy (piecePas ps.flatten) false = none → t.claimed c.core c.ctx = false → t.piecePoison c.core ps.flatten = none →
     sbase % 2 = 0 → checkReads t1 c rs = (t2, .ok qs) → t2.owned qs.flatten = none →
      Accepts s v (.scld f a p) .scld f (run true (0x240000 + doff) len :: claimsOf c rs) [] 5 (fun e =>
        e.writes = (at_ (0x240000 + doff) len).zip (v.pieceBytes qs.flatten)))

/-- The array queue's head starts when no owned line and no other array holds it up (R240, R275, R278), and otherwise nothing happens: a load,
where no core and no cluster holds a store that memory lacks, takes its codes from its source and the scale records of a block format from the
scale memories of its arrays' cores, at soff, and is loading; a multiply whose residencies need no reload has its sums. At retirement the load is valid, or stale when its source was
written meanwhile, and the sums are in the accumulators (R241, R253). -/
def Obligations.ArrayCommandsRun : Prop :=
  ∀ (s : State) (core : Nat) (m : MtxCmd) (rest : List MtxCmd), (s.core core).mq = m :: rest →
    let now (t : State) (i : Nat) : Residency := Tab.get Residency.init (t.core core).res i
    (s.canStart core m = false → exec (.matrixCommandStart core) s = .next s) ∧
    (m.started = false → exec (.matrixCommandRetire core) s = .next s) ∧
    (m.started = false → s.canStart core m = true → m.poison = none →
      (∀ idx ebase sbase spitch rowlen n0 k0 soff bl, m.kind = .resl idx ebase sbase spitch rowlen n0 k0 soff bl → m.hold = false → AllQuiet s →
        let ek := (mfmt (now s idx).fmt).getD .b16
        Reaches s (.matrixCommandStart core) (fun t => t.mem = s.mem ∧
          (now t idx).state = .loading ∧ (now t idx).gload = (now s idx).gsrc ∧ (now t idx).bl = bl ∧ (now t idx).ebase = ebase ∧
          (now t idx).sbase = sbase ∧ (now t idx).spitch = spitch ∧ (now t idx).rowlen = rowlen ∧ (now t idx).n0 = n0 ∧ (now t idx).k0 = k0 ∧
          (∀ src, m.srcs = [src] → (now t idx).lines = src.lines) ∧
          (ek.block = false → (now t idx).scales = []) ∧
          (ek.block = true → 16 ≤ bl → ∀ n < (now s idx).cols, ∀ b < 256 / bl, Tab.get 0 (now t idx).scales (n * 16 + b) =
            s.readN (slotAddr (core + n / 256) (0x240000 + 16 * soff + 2 * (n % 256 * (256 / bl) + b))) 2) ∧
          (∀ src, m.srcs = [src] → ∀ n < src.cols.length, ∀ k < 256,
            let j0 := (n0 + n) * (if rowlen = 0 then 256 else rowlen) + k0
            Tab.get 0 (now t idx).codes (n * 256 + k) = codeIn ek (s.runBytes (src.cols.getD n [])) j0 (j0 + k)) ∧
          ∃ m', (t.core core).mq = m' :: rest ∧ m'.started = true ∧ m'.kind = m.kind)) ∧
      (∀ fmt bl mp asoff plane s0 a0 gs ek, m.kind = .mma fmt bl mp asoff plane s0 a0 gs → m.hold = false → mfmt fmt = some ek →
        (∀ g ∈ gs, g.2 ≠ 0 → (now s g.1).state ≠ .evicted ∧ (now s g.1).gsrc = (now s g.1).gload) →
        let rows := gs.flatMap (fun g => List.replicate g.2 g.1)
        let cell (i n : Nat) : Nat := slotAddr (core + n / 256) (0x200000 + 1024 * (a0 + i) + 4 * (n % 256))
        let bit (r p k : Nat) : Bool := (s.byte (plane + 32 * (r * planesOf ek + p) + k / 8)).getLsbD (k % 8)
        let nb := 256 / bl
        let gives (i n x : Nat) : Prop := ∃ acc : Nat → Nat, acc 0 = s.readN (cell i n) 4 ∧ acc nb = x ∧ ∀ b < nb,
          let w := now s (rows.getD i 0)
          Accumulates ((mfmt w.fmt).getD .b16) (fun k => Tab.get 0 w.codes (n * 256 + k)) (Tab.get 0 w.scales (n * 16 + b))
            (rowInt (planesOf ek) (bit (s0 + i)))
            (s.byte (plane + 32 * mp * planesOf ek + (s0 + i) * nb + b)).toInt
            (if ek.block then s.readN (slotAddr core (0x240000 + 16 * asoff + 2 * ((s0 + i) * nb + b))) 2 / 256 else 127)
            (b * bl) bl (acc b) (acc (b + 1))
        Reaches s (.matrixCommandStart core) (fun t => t.mem = s.mem ∧ ∃ m', (t.core core).mq = m' :: rest ∧ m'.started = true ∧
          (∀ i < rows.length, ∀ n < (now s (rows.getD i 0)).cols, ∃ x ∈ m'.accs, x.2.1 = cell i n ∧ gives i n x.2.2.toNat) ∧
          (∀ x ∈ m'.accs, ∃ i < rows.length, ∃ n < (now s (rows.getD i 0)).cols, x.2.1 = cell i n ∧ gives i n x.2.2.toNat)))) ∧
    (m.started = true → m.poison = none →
      Reaches s (.matrixCommandRetire core) (fun t => (t.core core).mq = rest ∧
        (m.co = s.co.id → t.co.op? m.op = none) ∧
        (∀ idx ebase sbase spitch rowlen n0 k0 soff bl, m.kind = .resl idx ebase sbase spitch rowlen n0 k0 soff bl → m.accs = [] →
          t.mem = s.mem ∧ ((now s idx).state = .loading →
            (now t idx).state = if (now s idx).gsrc = (now s idx).gload then .valid else .stale)) ∧
        (∀ a, t.byte a = s.byteAfter (m.accs.flatMap (fun x => cellsFrom x.2.1 (natLe 4 x.2.2.toNat))) a)))

/-! ## Barriers and the Turnstile (R291 to R318) -/

/-- The named-barrier instructions (R291 to R294, R312) of a cohort whose team is resident, with a team rank below 32 for a cluster barrier:
BARINIT binds a name, leaves a name bound alike, or changes a name on which no cohort has arrived or waits; an arrival sets the cohort's bit,
or completes the phase when it is the last; BARWAIT and BARSYNC go on at once when their phase has passed and else suspend; an arrival whose
bit is set waits; BARQ reads the barrier. -/
def Obligations.Barriers : Prop :=
  ∀ (s : State) (tm : Team) (x : Barrier) (t n k d b : Reg) (cl : Bool), let c := s.co
    s.team? c.team = some tm → tm.key = c.team → c.wait = none → c.mark = none → (cl = true → tm.rank < 32) →
    let bound (q : State) (x : Barrier) : Prop :=
      if cl then Tab.find (q.cluster (tm.core / 16)).bars ((tm.ctx * 2 ^ 32 + tm.lid) * 64 + b.toNat) = some x
      else ∃ tm', q.team? c.team = some tm' ∧ Tab.find tm'.bars b.toNat = some x
    let E := (c.uget n).toNat
    let T := if c.uget t = 0 then 2 ^ 32 else (c.uget t).toNat
    let on (q : State) (n : Nat) : Prop := q.co = { c with idx := c.idx + n }
    let bit : Word := BitVec.ofNat 32 (2 ^ (if cl then tm.rank else c.cohid))
    let arr := x.arr ||| bit
    let last := decide (x.E ≤ bitCount arr)
    let arrived (q : State) : Prop := ∃ y, bound q y ∧ y.E = x.E ∧ y.T = x.T ∧
      y.arr = (if last then 0 else arr) ∧ y.phase = (if last then x.phase + 1 else x.phase)
    (1 ≤ E → E ≤ 32 →
      (s.barOf tm cl b.toNat = none → s.barFree tm cl = true → Reaches s (.barinit t n b cl) (fun q => on q 1 ∧ q.mem = s.mem ∧
        bound q { E := E, T := T, arr := 0, phase := 0, pcs := [], left := [], wd := none })) ∧
      (bound s x → x.E = E → x.T = T → Reaches s (.barinit t n b cl) (fun q => on q 1 ∧ q.mem = s.mem ∧ bound q x)) ∧
      (bound s x → (x.E ≠ E ∨ x.T ≠ T) → x.arr = 0 → (∀ p ∈ s.barPeers tm cl, p.2.onBar cl b.toNat = false) →
        Reaches s (.barinit t n b cl) (fun q => on q 1 ∧ q.mem = s.mem ∧ bound q { x with E := E, T := T }))) ∧
    (bound s x → x.arr.getLsbD (if cl then tm.rank else c.cohid) = false →
      Reaches s (.bararr d b cl) (fun q => q.co = { c.uniform d x.phase with idx := c.idx + 1 } ∧ arrived q) ∧
      Reaches s (.barsync b cl) (fun q => arrived q ∧
        (last = true → on q 1) ∧ (last = false → q.co = { c with wait := some (.barrier cl b.toNat x.phase), idx := c.idx + 1 }))) ∧
    (bound s x → x.arr.getLsbD (if cl then tm.rank else c.cohid) = true →
      Reaches s (.bararr d b cl) (fun q => q.co = { c with wait := some (.arrive cl b.toNat) } ∧ q.mem = s.mem) ∧
      Reaches s (.barsync b cl) (fun q => q.co = { c with wait := some (.arrive cl b.toNat) } ∧ q.mem = s.mem)) ∧
    (bound s x →
      (2 ^ 31 ≤ (c.uget k - x.phase).toNat → Reaches s (.barwait k b cl) (fun q => on q 1 ∧ q.mem = s.mem)) ∧
      ((c.uget k - x.phase).toNat < 2 ^ 31 → Reaches s (.barwait k b cl) (fun q => q.mem = s.mem ∧
        q.co = { c with wait := some (.barrier cl b.toNat (c.uget k)), idx := c.idx + 1 })) ∧
      Uniform s (.barq d b cl) d 1
        (BitVec.ofNat 32 (2 ^ 31 + x.E * 2 ^ 16 + bitCount x.arr * 2 ^ 8 + x.phase.toNat % 256)))

/-- ROUTE (R314 to R317) with fields in their limits and ranges that pass the checks is accepted in its cluster's queue, with the tables of
R315 to be written; ROUTEQ reads the queue (R318); the command at its head retires. -/
def Obligations.Routing : Prop :=
  ∀ (s t u : State) (ps : List (List Piece)) (f : Bool) (d a b : Reg) (p : PBlock), let c := s.co
    let cl := c.core / 16
    let A := (c.uget a).toNat
    let B := (c.uget b).toNat
    let T := c.sub p.h0
    let k := p.h1.toNat
    let E := c.sub p.h2
    let C := c.sub p.h3
    let P := p.h6.toNat % 2 == 1
    let Q := p.h6.toNat / 2 % 2 == 1
    let EP := p.h6.toNat / 4 % 512
    let rg (g at_ len : Nat) (w : Bool) : Rg := { grp := g, share := true, va := at_, len := len, wr := w }
    let rs := rg 0 A (2 * T * k) false :: ([rg 1 B (4 * T * k) true, rg 2 (16 * p.h4.toNat) (4 * E) true] ++
      (if P then [rg 3 (16 * p.h5.toNat) (4 * T * k) true] else []) ++ (if Q then [rg 4 (16 * p.h7.toNat) (4 * (E / EP)) true] else []))
    let keys := c.keysOf d c.livel
    let num (n : Nat) (p : Nat → Bool) : Nat := ((List.range n).filter p).length
    let n := T * k
    let r := t.drainWc c.core (some c.id)
    let x (i : Nat) : Nat := leNat (((r.pieceBytes (ps.getD 0 [])).drop (2 * i)).take 2)
    let kept (i : Nat) : Bool := decide (x i < E) && (C == 0 || decide (num i (fun j => x j == x i) < C))
    let beyond (i : Nat) : Bool := decide (x i < E) && !kept i
    let pos (i : Nat) : Nat :=
      if kept i then num n (fun j => kept j && (decide (x j < x i) || (x j == x i && decide (j < i)))) else num n kept + num i beyond
    let count (e : Nat) : Nat := num n (fun j => x j == e && kept j)
    let region (r : Nat) : List Nat := piecePas (ps.getD r [])
    (A % 16 = 0 → B % 16 = 0 → 1 ≤ T → T ≤ 4096 → 1 ≤ k → k ≤ 8 → 1 ≤ E → E ≤ 256 → C ≤ 4096 → (P = false → p.h5 = 0) →
      (if Q then 1 ≤ EP ∧ EP ≤ 256 ∧ E % EP = 0 else EP = 0 ∧ p.h7 = 0) → p.h6.toNat / 2048 = 0 →
      checkRanges s c Own.plain rs = (t, .ok ps) →
      s.holdup (claimsOf c rs) = none → (s.cluster cl).route.length < 8 →
      (r.startOp .engine (c.flagOf f) keys []).2.takeSb r.fresh (claimsOf c rs) = some u →
      Reaches s (.route f d a b p) (fun v => v.co.idx = r.co.idx + 5 ∧ v.co.v.regs = r.co.v.regs ∧ v.mem = r.mem ∧
        v.co.v.ops = r.co.v.ops ++
          [{ id := r.fresh, kind := .engine, flag := c.flagOf f, clause := r.co.clause, keys := keys, writes := [] }] ∧
        ∃ e, (v.cluster cl).route = (u.cluster cl).route ++ [(c.core, e)] ∧
          e.dest = keys.map (fun r => (r, BitVec.ofNat 32 (num n beyond + num n (fun i => decide (E ≤ x i)) * 2 ^ 16))) ∧
          let word (r i v : Nat) : Prop := ∀ b < 4, ((region r).getD (4 * i + b) 0, (BitVec.ofNat 8 (v / 256 ^ b) : Byte)) ∈ e.writes
          e.writes.map Prod.fst = (region 1).take (4 * (num n kept + num n beyond)) ++ region 2 ++ (if P then region 3 else []) ++
            (if Q then region (if P then 4 else 3) else []) ∧
          (∀ i < n, x i < E → word 1 (pos i) (i / k + i % k * 2 ^ 16)) ∧
          (∀ e < E, word 2 e (count e)) ∧
          (P = true → ∀ i < n, word 3 i (if E ≤ x i then 0xFFFFFFFF else pos i + (if kept i then 0 else 0x80000000))) ∧
          (Q = true → ∀ q < E / EP, word (if P then 4 else 3) q ((List.range EP).map (fun i => count (q * EP + i))).sum))) ∧
    Uniform s (.routeq d) d 1 (BitVec.ofNat 32
      (((s.cluster cl).route.filter (fun r => r.1 == c.core)).length * 256 + (if (s.cluster cl).route = [] then 0 else 16) +
        (s.cluster cl).route.length)) ∧
    (∀ (n core : Nat) (e : EngCmd) (rest : List (Nat × EngCmd)), (s.cluster n).route = (core, e) :: rest → e.poison = none →
      s.poisonMerge e.writes = none → Clean s (linesOf e.writes) →
      Reaches s (.routeRetire n) (fun v => (v.cluster n).route = rest ∧ (∀ x, v.byte x = s.byteAfter e.writes x) ∧
        (e.co = c.id → v.co.op? e.op = none)))

/-! ## Launches, events, generations and harts (R330, R369 to R386) -/

/-- LAUNCH (R380): a misaligned record, one outside the global map, and one whose page does not translate are refused with 2, 5 and 5; a
record that is read is submitted for the cohort's own context, and its launchid and code are to land in D and D + 1. That a page outside
normal memory is refused with 5 too is the model's reading (log entry 49). Poison that the submission consumes is the cohort's fault (R368).
A submission that is accepted adds the launch to its context (R373). The generation instructions (R383, R384): GALLOC gives the heap's lowest fit for its
size in whole 256 bytes, or 0; GFREE takes an allocation off; GADV advances the team's generation, which does not pass the last; GQRY
reads it and the least live one. -/
def Obligations.LaunchAndGenerations : Prop :=
  (∀ (s : State) (f : Bool) (d a : Reg), let c := s.co
     let va := (c.ugetPair a).toNat
     let r := s.release c .pkg
     let lands (t : State) (lid code : Nat) : Prop := Reaches s (.launch f d a) (fun q =>
       Opens t q 1 .load (c.flagOf f) (c.livel.flatMap (fun l =>
         [(regKey c.v.wdepth c.S d l, (BitVec.ofNat 32 lid : Word)), (regKey c.v.wdepth c.S (d + 1) l, BitVec.ofNat 32 code)])) ∧
       q.ctxs = t.ctxs ∧ q.mem = t.mem)
     (va % 64 ≠ 0 → lands r 0 2) ∧
     (va % 64 = 0 → windowOf va ≠ .glob → lands r 0 5) ∧
     (va % 64 = 0 → windowOf va = .glob →
       (∀ t e, translate r (some c.core) c.ctx va .read 4001 = (t, .error e) → e.cause ≠ 0x10 → lands t 0 5) ∧
       (∀ t l, translate r (some c.core) c.ctx va .read 4001 = (t, .ok l) →
         (l.inMemory = false → lands t 0 5) ∧
         (l.inMemory = true → t.heldBy ((List.range 64).map (fun i => l.pa + va % 4096 + i)) false = none →
           t.poisonOf ((List.range 64).map (fun i => l.pa + va % 4096 + i)) = none →
           (∀ u p, t.submit (some c.ctx) (t.bytes (l.pa + va % 4096) 64) = (u, .poisoned p) → u.co.landSfu.delivers p.cause = false →
             Reaches s (.launch f d a) (fun q => q.lastFault = some { p with eng := true } ∧ q.co.halted = true)) ∧
           (∀ u code, t.submit (some c.ctx) (t.bytes (l.pa + va % 4096) 64) = (u, .refused code) → lands u 0 code) ∧
           (∀ u lid, t.submit (some c.ctx) (t.bytes (l.pa + va % 4096) 64) = (u, .accepted lid) → lands u lid 0 ∧
             lid = (s.ctx c.ctx).nextLid ∧ ∃ x, (u.ctx c.ctx).launches = (s.ctx c.ctx).launches ++ [x] ∧ x.lid = lid ∧
               x.entry = le (t.bytes (l.pa + va % 4096) 64) 32 8))))) ∧
  (∀ (s : State) (d a : Reg), let c := s.co
     let x := s.ctx c.ctx
     let need := ((c.uget a).toNat + 255) / 256 * 256
     let p := (c.ugetPair a).toNat
     let own := ((s.team? c.team).map Team.gen).getD 0
     let free (p : Nat) : Prop := x.genBase ≤ p ∧ p + need ≤ x.genBase + x.genSize ∧
       ∀ e ∈ x.allocs, e.base + e.size ≤ p ∨ p + need ≤ e.base
     let gives (p : Nat) (as : List Alloc) : Prop := Reaches s (.galloc d a) (fun q => q.mem = s.mem ∧ (q.ctx c.ctx).allocs = as ∧
       q.co = { c.uniformPair d (BitVec.ofNat 64 p) with idx := c.idx + 1 })
     ((need = 0 ∨ x.genSize = 0 ∨ 4096 ≤ x.allocs.length ∨ ∀ p, ¬free p) → gives 0 x.allocs) ∧
     (∀ p, need ≠ 0 → x.genSize ≠ 0 → x.allocs.length < 4096 → free p → (∀ p' < p, ¬free p') →
       gives p (x.allocs ++ [{ base := p, size := need, gen := own }])) ∧
     Reaches s (.gfree d a) (fun q => q.mem = s.mem ∧ (q.ctx c.ctx).allocs = x.allocs.filter (fun e => e.base != p) ∧
       q.co = { c.uniform d (if x.allocs.any (fun e => e.base == p) then 0 else 1) with idx := c.idx + 1 }) ∧
     (∀ tm, s.team? c.team = some tm → Reaches s .gadv (fun q => q.co = { c with idx := c.idx + 1 } ∧
       ∃ tm', q.team? c.team = some tm' ∧ tm'.gen = if tm.gen = 0xFFFFFFFF then tm.gen else tm.gen + 1)) ∧
     Reaches s (.gqry d) (fun q => q.mem = s.mem ∧
       q.co = { (c.uniform d own).uniform (d + 1) (BitVec.ofNat 32 (s.genMin c.ctx)) with idx := c.idx + 1 }))

/-- The Ringmasters (R374 to R378): a dependence whose word has come to its value holds; a team of the head of a queue that may start, in its
order, at a place where it fits and that no higher head takes first, is resident with its cohorts at the entry address, the parameter in
v0:v1; a launch whose teams have all ended adds 1 to its event word and is gone, but in a stopped context, where it has been captured (R362). -/
def Obligations.Ringmasters : Prop :=
  ∀ (s t : State) (ctx n index slot granule a v lid : Nat) (l : Launch) (pas : List Nat),
    (s.headOf ctx n = some l → l.ctx = ctx → (s.ctx ctx).state.tests = true → l.stuck = false → l.deps.drop l.held = [(a, v)] →
      s.devBytes ctx a 8 .read = (t, .ok pas) → t.heldBy pas false = none → t.poisonOf pas = none →
      Reaches s (.dependenceTest ctx n) (fun q => q.mem = t.mem ∧ ∃ l' ∈ (q.ctx ctx).launches, l'.order = l.order ∧ l'.lid = l.lid ∧
        l'.held = if v ≤ leNat (pas.map t.byte) then l.held + 1 else l.held)) ∧
    (s.headOf ctx n = some l → s.mayStart l = true → index < l.teams → l.started.contains index = false →
      (l.walk = true ∨ index = l.started.length) → l.mayUse slot = true → s.fitsAt l slot false (granule % 64) = true →
      (l.pair = true → s.fitsAt l (slot + 1) true (granule / 64 % 64) = true) → s.outranked l slot = false → 64 ≤ l.S → l.W ≤ 64 →
      Reaches s (.teamPlace ctx n index slot granule) (fun q =>
        (∃ tm, q.team? s.fresh = some tm ∧ tm.ctx = l.ctx ∧ tm.lid = l.lid ∧ tm.teamid = index ∧ tm.core = slot ∧ tm.status = .running) ∧
        ∀ k < l.cohortsPer, ∃ c, Tab.find q.cohorts (s.fresh + 1 + k) = some c ∧ c.cohid = k ∧ c.hdr = l.entry ∧ c.W = l.W ∧ c.S = l.S ∧
          c.v.wdepth = 0 ∧ c.v.exec = BitVec.ofNat 64 (2 ^ min l.W (l.N - k * l.W) - 1) ∧ c.v.live = c.v.exec ∧
          ∀ lane < min l.W (l.N - k * l.W), lane < 64 → regOf c 0 lane = loOf l.param ∧ regOf c 1 lane = hiOf l.param)) ∧
    ((s.ctx ctx).launches.find? (fun x => x.lid == lid && x.over) = some l →
      ((s.ctx ctx).state = .stopped → exec (.launchComplete ctx lid) s = .next s) ∧
      ((s.ctx ctx).state ≠ .free → (s.ctx ctx).state ≠ .terminated → (s.ctx ctx).state ≠ .stopped →
        (l.event = 0 → Reaches s (.launchComplete ctx lid) (fun q => q.mem = s.mem ∧ ∀ x ∈ (q.ctx ctx).launches, x.order ≠ l.order)) ∧
        (l.event ≠ 0 → s.devBytes ctx l.event 8 .write = (t, .ok pas) → t.heldBy pas true = none → t.poisonOf pas = none →
          Reaches s (.launchComplete ctx lid) (fun q => (∀ x ∈ (q.ctx ctx).launches, x.order ≠ l.order) ∧
            leNat (pas.map q.byte) = (leNat (pas.map t.byte) + 1) % 2 ^ 64 ∧ ∀ b, b ∉ pas → q.byte b = t.byte b))))

/-- The CPU-die extension (R385), with the model's choices for what the base architecture gives: a word moves the pc on by 4 and x0 discards
(log entry 31), an illegal GCTX is recorded as the hart's last trap (log entry 32), and which pending interrupt ends a wait is free (log entry
81). GCTX binds the hart and gives the old binding, and is illegal in U-mode; GEVSIG adds to its word;
GEVWAIT goes on with 0 when its word has come to the bound, and else waits or, for a pending interrupt, goes on with 1, as it does when
it is tested again; GLAUNCH, after its FENCE rw,w, gives the launchid and the code of its submission for the bound context. Memory
operations of harts (R330) that reach ordinary memory at pa, meet no accepted command and no poison: loads, stores, LR, SC with and
without the reservation, AMO; the words of LR and AMO are sign-extended (log entry 33). A fence moves the pc on, and where it releases no walk
finds memory as it was before the hart's earlier stores (R330, R393). -/
def Obligations.Harts : Prop :=
  (∀ (s : State) (rd rs1 rs2 : BitVec 5) (pa : Nat),
     let n := s.turn.getD 0
     let h := s.hart n
     let va := (h.x rs1).toNat
     let pc := (h.pc + 4) % 2 ^ 64
     let set (v : DWord) : Tab DWord := if rd = 0 then h.regs else Tab.set 0 h.regs rd.toNat v
     (h.mode ≠ 0 → Reaches s (.gctx rd rs1 rs2) (fun q => q.mem = s.mem ∧
       q.hart n = { h with pc := pc, bind := some (va % 64), regs := set (match h.bind with
         | some c => BitVec.ofNat 64 c
         | none => 0xFFFFFFFF) })) ∧
     (h.mode = 0 → Reaches s (.gctx rd rs1 rs2) (fun q => q.hart n = { h with trap := some (2, h.pc) } ∧ q.mem = s.mem)) ∧
     (s.hartAddr h va 8 true = .ok pa → areaOf pa ≠ .control → s.heldBy ((List.range 8).map (fun i => pa + i)) true = none →
       s.poisonIn pa 8 = none → Reaches s (.gevsig rd rs1 rs2) (fun q => (q.hart n).pc = pc ∧ (q.hart n).regs = h.regs ∧
         q.readN pa 8 = (s.readN pa 8 + (h.x rs2).toNat) % 2 ^ 64 ∧
         ∀ b, (b < pa ∨ pa + 8 ≤ b) → q.byte b = s.byte b)) ∧
     (s.hartAddr h va 8 false = .ok pa → areaOf pa ≠ .control → s.heldBy ((List.range 8).map (fun i => pa + i)) false = none →
       s.poisonIn pa 8 = none → Reaches s (.gevwait rd rs1 rs2) (fun q => q.mem = s.mem ∧
         if (h.x rs2).toNat ≤ s.readN pa 8 then q.hart n = { h with pc := pc, regs := set 0 }
         else q.hart n = { h with wait := some (rd.toNat, pa, (h.x rs2).toNat) } ∨
           (h.pend = true ∧ q.hart n = { h with pc := pc, regs := set 1 }))) ∧
     (∀ bound, h.wait = some (rd.toNat, pa, bound) → s.heldBy ((List.range 8).map (fun i => pa + i)) false = none →
       s.poisonIn pa 8 = none → Reaches s (.gevwaitWake n) (fun q => q.mem = s.mem ∧
         if bound ≤ s.readN pa 8 then q.hart n = { h with pc := pc, regs := set 0, wait := none }
         else q.hart n = h ∨ (h.pend = true ∧ q.hart n = { h with pc := pc, regs := set 1, wait := none }))) ∧
     (let s' := s.setHart n { h with late := [] }
      va % 64 = 0 → s'.hartAddr h va 64 false = .ok pa → s'.hartNormal h va = true →
      s'.heldBy ((List.range 64).map (fun i => pa + i)) false = none → s'.poisonIn pa 64 = none →
      ∀ u r, s'.submit h.bind (s'.bytes pa 64) = (u, r) → (∀ p, r ≠ .poisoned p) → (∀ k, r ≠ .waits k) →
      Reaches s (.glaunch rd rs1 rs2) (fun q => q.ctxs = u.ctxs ∧ q.mem = u.mem ∧ (q.hart n).pc = pc ∧
        (q.hart n).regs = set (BitVec.ofNat 64 (match r with
          | .accepted lid => lid
          | .refused code => code * 2 ^ 32
          | .poisoned _ | .waits _ => 0))))) ∧
  (∀ (s : State) (n pa va size : Nat) (rd : BitVec 5) (v : DWord) (aq rl : Bool) (op : HartAmo),
     let h := s.hart n
     let pc := (h.pc + 4) % 2 ^ 64
     let got (q : State) (v : DWord) : Prop := (q.hart n).pc = pc ∧ (q.hart n).regs = if rd = 0 then h.regs else Tab.set 0 h.regs rd.toNat v
     let wide (x : Nat) : DWord := if size = 4 then (BitVec.ofNat 32 x).signExtend 64 else BitVec.ofNat 64 x
     let only (q : State) (x : Nat) : Prop := q.readN pa size = x ∧ ∀ b, (b < pa ∨ pa + size ≤ b) → q.byte b = s.byte b
     n < 96 → h.wait = none →
     Reaches s (.hartMemoryOperation n (.fence aq rl)) (fun q =>
       q.hart n = { h with pc := pc, late := if rl then [] else h.late } ∧ q.mem = s.mem) ∧
     (areaOf pa ≠ .control → s.heldBy ((List.range size).map (fun i => pa + i)) true = none →
       s.heldBy ((List.range size).map (fun i => pa + i)) false = none → s.poison = [] →
       (s.hartAddr h va size false = .ok pa →
         (size = 1 ∨ size = 2 ∨ size = 4 ∨ size = 8 → Reaches s (.hartMemoryOperation n (.load rd va size)) (fun q =>
           got q (BitVec.ofNat 64 (s.readN pa size)) ∧ q.mem = s.mem)) ∧
         (size = 4 ∨ size = 8 → Reaches s (.hartMemoryOperation n (.lr rd va size aq rl)) (fun q =>
           got q (wide (s.readN pa size)) ∧ (q.hart n).resv = some (pa / 64) ∧ q.mem = s.mem))) ∧
       (s.hartAddr h va size true = .ok pa →
         (size = 1 ∨ size = 2 ∨ size = 4 ∨ size = 8 → Reaches s (.hartMemoryOperation n (.store va size v)) (fun q =>
           only q (v.toNat % 2 ^ (8 * size)) ∧ (q.hart n).pc = pc ∧ (q.hart n).regs = h.regs)) ∧
         (size = 4 ∨ size = 8 →
           (h.resv = some (pa / 64) → Reaches s (.hartMemoryOperation n (.sc rd va size v aq rl)) (fun q =>
             got q 0 ∧ only q (v.toNat % 2 ^ (8 * size)) ∧ (q.hart n).resv = none)) ∧
           (h.resv ≠ some (pa / 64) → Reaches s (.hartMemoryOperation n (.sc rd va size v aq rl)) (fun q =>
             got q 1 ∧ q.mem = s.mem ∧ (q.hart n).resv = none)) ∧
           Reaches s (.hartMemoryOperation n (.amo op rd va size v aq rl)) (fun q => got q (wide (s.readN pa size)) ∧
             only q (amoResult op size (s.readN pa size) (v.toNat % 2 ^ (8 * size)) % 2 ^ (8 * size)))))))

/-! ## The fabric (R439 to R461) -/

/-- NPUT, NGET and NRED (R449, R452, R454), with aligned addresses, fields in their limits and a bound rank: one message, which carries the
bytes as they stand at acceptance, asks for bytes, or carries a contribution with the next sequence number of its collective and target. -/
def Obligations.PutsGetsReductions : Prop :=
  ∀ (s t : State) (ps : List (List Piece)) (k : Rank) (f : Bool) (d a b : Reg) (p : PBlock), let c := s.co
    let die := c.core / 512
    let rem := (c.ugetPair d).toNat
    let loc := (c.ugetPair a).toNat
    let r := (c.uget b).toNat
    let blk := t.fab die c.ctx
    let ord := p.h7.toNat % 2 == 1
    let own : Own := { Own.plain with never := true }
    let limits : Prop := c.sub p.h1 ≤ 4096 ∧ p.h2.toNat ≤ 4096 ∧ c.sub p.h3 < 65536
    loc % 16 = 0 → rem % 16 = 0 → limits → s.rankFault die c.ctx [r] = none → t.rankOf blk r = .ok k →
    (1 ≤ c.sub p.h0 → c.sub p.h0 ≤ 2 ^ 26 → p.h4 = 0 → p.h5 = 0 → p.h6 = 0 → p.h7.toNat < 4 →
      let len := 16 * c.sub p.h0
      let rg (wr : Bool) : List Rg := [{ grp := 0, share := false, va := loc, len := len, wr := wr }]
      let fields (e : FabCmd) (code : Nat) : Prop := e.code = code ∧ e.tag = c.sub p.h3 ∧ e.rank = r ∧ e.lctr = p.h2.toNat ∧ e.bytes = len ∧
        e.recd = (p.h7.toNat / 2 % 2 == 1) ∧ e.ord = ord
      (checkRanges s c own (rg false) = (t, .ok ps) →
        Sends s t (.nput f d a b p) f (claimsOf c (rg false)) ps.flatten (fun u e => fields e 0 ∧
          ∃ m, e.msgs = [m] ∧ Addressed m blk k ord (c.sub p.h1) 1 (.put rem (u.pieceBytes ps.flatten)))) ∧
      (checkRanges s c own (rg true) = (t, .ok ps) →
        Sends s t (.nget f d a b p) f (claimsOf c (rg true)) ps.flatten (fun _ e => fields e 1 ∧ e.lpas = piecePas ps.flatten ∧
          ∃ m, e.msgs = [m] ∧ Addressed m blk k ord (c.sub p.h1) 1 (.get rem len)))) ∧
    (let ty : BitVec 2 := BitVec.ofNat 2 (p.h7.toNat / 4)
     let op : BitVec 2 := BitVec.ofNat 2 (p.h7.toNat / 16)
     let len := c.sub p.h0 * redSize ty
     let rs : List Rg := [{ grp := 0, share := false, va := loc, len := len, wr := false }]
     let key := c.sub p.h4 * 2 ^ 18 + r
     let seqn := Tab.get 0 blk.redNext key
     1 ≤ c.sub p.h0 → c.sub p.h0 ≤ 2 ^ 24 → len % 16 = 0 → p.h5 = 0 → p.h6 = 0 → p.h7.toNat < 128 → op ≠ 3 → c.sub p.h4 < 65536 →
     checkRanges s c own rs = (t, .ok ps) → (t.redOut die c.ctx (c.sub p.h4) r).length < 64 →
      Sends s (t.modFab die c.ctx (fun b => { b with redNext := Tab.put b.redNext key (seqn + 1) })) (.nred f d a b p) f (claimsOf c rs)
        ps.flatten (fun u e => e.code = 4 ∧ e.bytes = len ∧ ∃ m, e.msgs = [m] ∧ Addressed m blk k ord (c.sub p.h1) 1
          (.reduce rem ty op (p.h7.toNat / 64 % 2 == 1) (c.sub p.h4) [(blk.rank, seqn)] blk.inr false (u.pieceBytes ps.flatten))))

/-- NCOLL and NA2A (R450, R451), with operands that pass their checks. NCOLL: one put for each active lane, to the rank, from the range and to
the address that the lane names, whose target's counter rises by 1; with no active lane none, and the end at once. NA2A: for each peer, at its
rank, the rows that the count table gives it and its count word, and its counter rises by 1 after both, as one message (log entry 56). -/
def Obligations.Collectives : Prop :=
  ∀ (s t : State) (ps : List (List Piece)) (ks : List Rank) (f : Bool) (d a b : Reg) (p : PBlock), let c := s.co
    let die := c.core / 512
    let blk := t.fab die c.ctx
    let ord := p.h7.toNat % 2 == 1
    let own : Own := { Own.plain with never := true }
    let fields (e : FabCmd) (code : Nat) : Prop := e.code = code ∧ e.tag = c.sub p.h3 ∧ e.rank = 0xFFFFFFFF ∧ e.lctr = p.h2.toNat ∧
      e.recd = (p.h7.toNat / 2 % 2 == 1) ∧ e.ord = ord
    c.sub p.h1 ≤ 4096 → p.h2.toNat ≤ 4096 → c.sub p.h3 < 65536 → p.h7.toNat < 4 →
    (let act := c.active
     let len := 16 * c.sub p.h0
     let ranks := act.map (fun l => (c.get b l).toNat)
     let rs : List Rg := act.map (fun l => { grp := 0, share := false, va := (c.getPair a l).toNat, len := len, wr := false })
     (∀ l ∈ act, (c.getPair a l).toNat % 16 = 0 ∧ (c.getPair d l).toNat % 16 = 0) → 1 ≤ c.sub p.h0 → c.sub p.h0 ≤ 512 →
     p.h4 = 0 → p.h5 = 0 → p.h6 = 0 → s.rankFault die c.ctx ranks = none → checkRanges s c own rs = (t, .ok ps) →
     t.ranksOf blk ranks = .ok ks →
      (act = [] → p.h2 = 4096 → p.h7.toNat / 2 % 2 = 0 → (∀ g ∈ blk.trigs, g.ctr < 4096) → ∀ u, ((t.release c .pkg).ready c []).startOp .engine (c.flagOf f) [] [] = u →
        Reaches s (.ncoll f d a b p) (fun q => q.co.idx = u.2.co.idx + 5 ∧ q.co.v.regs = u.2.co.v.regs ∧ q.mem = u.2.mem ∧
          q.fabs = u.2.fabs ∧ q.fcmds = u.2.fcmds.filter (fun g => g.id != u.1) ∧ q.co.op? u.1 = none)) ∧
      (act ≠ [] → Sends s t (.ncoll f d a b p) f (claimsOf c rs) ps.flatten (fun u e => fields e 2 ∧ e.bytes = len * act.length ∧
        e.msgs.length = act.length ∧ ∀ n < act.length, ∃ m l k q, e.msgs[n]? = some m ∧ act[n]? = some l ∧ ks[n]? = some k ∧ ps[n]? = some q ∧
          k.no = (c.get b l).toNat ∧ Addressed m blk k ord (c.sub p.h1) 1 (.put (c.getPair d l).toNat (u.pieceBytes q))))) ∧
    (let dst := (c.ugetPair d).toNat
     let src := (c.ugetPair a).toNat
     let tab := (c.uget b).toNat
     let P := c.sub p.h0
     let R := 16 * p.h4.toNat
     let base := c.sub p.h5
     let cap := c.sub p.h6
     let here := s.fab die c.ctx
     let q := here.rank - base
     let ranks := (List.range P).map (fun i => base + i)
     let tpas := (List.range (4 * P)).map (fun i => c.shareAddr (tab + i))
     let counts := (List.range P).map (fun i => leNat (((tpas.map s.byte).drop (4 * i)).take 4))
     let total := R * counts.foldl (fun n x => n + x) 0
     let rs : List Rg := [{ grp := 0, share := false, va := src, len := total, wr := false },
                          { grp := 1, share := true, va := tab, len := 4 * P, wr := false }]
     src % 16 = 0 → dst % 16 = 0 → tab % 16 = 0 → 1 ≤ P → P ≤ 4096 → 1 ≤ p.h4.toNat → p.h4.toNat ≤ 4096 → 1 ≤ cap → cap ≤ 65535 →
     tab + 4 * P ≤ 16384 * c.shareN → s.heldBy tpas false = none → s.poisonOf tpas = none → (∀ n ∈ counts, n ≤ cap) →
     s.unbound die c.ctx = none → s.ranksOf here ranks = .ok ks → base ≤ here.rank → here.rank < base + P →
     checkRanges s c own rs = (t, .ok ps) → t.ranksOf here ranks = .ok ks →
      Sends s t (.na2a f d a b p) f (claimsOf c rs) (ps.getD 0 []) (fun u e => fields e 3 ∧ e.bytes = total + 4 * P ∧ e.msgs.length = P ∧
        ∀ n < P, ∃ m k x, e.msgs[n]? = some m ∧ ks[n]? = some k ∧ counts[n]? = some x ∧ k.no = base + n ∧
          Addressed m blk k ord (c.sub p.h1) 1 (.slice ((dst + q * cap * R) % 2 ^ 64)
            (((u.pieceBytes (ps.getD 0 [])).drop (R * (counts.take n).foldl (fun n x => n + x) 0)).take (x * R))
            ((dst + P * cap * R + 4 * q) % 2 ^ 64) x)))

/-- Counters and triggers (R455 to R458): CTRSET and CTRADD write a counter on which no trigger comes due, CTRRD reads it, and TRIGARM arms
a valid record, fires it at once when its counter has come to its threshold and the context may fire, or finds 1,024 armed already; its status goes to D. -/
def Obligations.CountersAndTriggers : Prop :=
  ∀ (s : State) (f : Bool) (d a b : Reg), let c := s.co
    let die := c.core / 512
    let blk := s.fab die c.ctx
    let n := (c.uget b).toNat
    let old := Tab.get 0 blk.ctrs n
    let r := s.release c .pkg
    let ctr (q : State) : Word := Tab.get 0 (q.fab die c.ctx).ctrs n
    (n < 4096 → NoneDue blk n (c.uget a) → Reaches s (.ctrset f a b) (fun q => Opens r q 1 .store (c.flagOf f) [] ∧
      ctr q = c.uget a ∧ q.mem = r.mem)) ∧
    (n < 4096 → NoneDue blk n (old + c.uget a) → Reaches s (.ctradd f a b) (fun q => Opens r q 1 .store (c.flagOf f) [] ∧
      ctr q = old + c.uget a ∧ q.mem = r.mem)) ∧
    (n < 4096 → Reaches s (.ctrrd d b) (fun q => Opens s q 1 .load none ((c.keysOf d c.livel).map (fun k => (k, old))) ∧ q.mem = s.mem)) ∧
    (∀ (t u : State) (x : Resolved) (bs : List Byte), let va := (c.ugetPair a).toNat
      va % 64 = 0 → resolve s c va 64 .read 4200 = (t, .ok x) → t.heldBy x.pas false = none → t.poisonOf x.pas = none →
      t.fetchBytes c .plain x 4201 = (u, bs) →
      let g := (TrigRec.of bs c.launchid.toNat).t
      u.armFault die c.ctx (TrigRec.of bs c.launchid.toNat) = none →
      let now := (Tab.get 0 (u.fab die c.ctx).ctrs g.ctr).toNat
      let trigs := (u.fab die c.ctx).trigs
      let ends (v : State) (st : Word) (p : State → Prop) : Prop := Reaches s (.trigarm f d a) (fun q =>
        Opens v q 1 .load (c.flagOf f) ((c.keysOf d c.livel).map (fun k => (k, st))) ∧ p q)
      let due : Bool := u.firing c.ctx && decide (g.thr.toNat ≤ now)
      (due = false → trigs.length < 1024 → ends u 0 (fun q => (q.fab die c.ctx).trigs = trigs ++ [g] ∧ q.mem = u.mem)) ∧
      (due = false → 1024 ≤ trigs.length → ends u 2 (fun q => (q.fab die c.ctx).trigs = trigs ∧ q.mem = u.mem)) ∧
      (due = true → ends (u.fireNow die c.ctx g) 1 (fun _ => True)))

/-- Fabric events (R441, R446 to R448, R452 to R454, R460). A command whose messages have all been performed here ends: the bytes that its
gets brought, its local counter, its completion record. A packet that fails authentication or is of another transport than the commands' is
discarded, and one that has been performed, or is held, changes nothing more. A message of another module to the right job of a running
context is performed, bytes first and its counter after them: a put, a get, a slice, a counter update, and a contribution, which is added
once; a message of this module to itself is the same, and a get's answer comes back to its command. A keepalive is heard; a module not heard
of for 10,000,000 timer counts is lost to every block with a rank on it, and its streams begin anew; a message not yet performed is delivered
again. What keys, streams and numbers say of packets is the model's (log entry 91). -/
def Obligations.FabricEvents : Prop :=
  ∀ (s : State) (cmd module n : Nat) (f : FabCmd) (m : NetMsg) (ps qs : List Piece) (t v : State),
    (s.fcmds.find? (fun f => f.id == cmd) = some f → f.poison = none → (∀ e ∈ s.fabs, e.2.waiting = []) →
      let data := f.msgs.flatMap OutMsg.reply
      let old := Tab.get 0 (s.fab f.die f.ctx).ctrs f.lctr
      let x := s.fabLand f 0 data
      let y := if f.recd then x.fabRecord f (f.msgs.foldl (fun n m => n + m.size) 0) 0 false else x
      NoneDue (s.fab f.die f.ctx) f.lctr (if f.lctr < 4096 then old + 1 else old) →
      (∀ x ∈ f.msgs, x.module = s.fabMod ∧ x.done = true ∧ x.status = 0 ∧ x.hop = false) →
      Reaches s (.fabricCommandComplete cmd 0 false []) (fun q => q.mem = y.mem ∧ q.fabs = y.fabs ∧ q.fcmds = y.fcmds ∧
        (f.co = s.co.id → q.co.op? f.opId = none)) ∧
      x.fcmds = s.fcmds.filter (fun g => g.id != f.id) ∧
      (Clean s (linesOf (f.lpas.zip data) ++ f.msgs.flatMap OutMsg.lines) → ∀ a, x.byte a = s.byteAfter (f.lpas.zip data) a) ∧
      (f.lctr < 4096 → Tab.get 0 (x.fab f.die f.ctx).ctrs f.lctr = old + 1) ∧ (4096 ≤ f.lctr → x.fabs = s.fabs)) ∧
    (∀ (bytes st : Nat) (hop : Bool), let b := s.fab f.die f.ctx
      let used := (b.cqHead + 2 ^ 32 - b.cqTail) % 2 ^ 32
      let slot := s.cqSlot f.ctx ((b.cqBase + 32 * (b.cqHead % 2 ^ b.cqSize)) % 2 ^ 64)
      let q := s.fabRecord f bytes st hop
      (b.cqSize = 0 ∨ 2 ^ b.cqSize ≤ used ∨ slot = .error none →
        q = s.modFab f.die f.ctx (fun b => { b with cqDrops := (b.cqDrops + 1) % 2 ^ 32 })) ∧
      (b.cqSize ≠ 0 → used < 2 ^ b.cqSize → ∀ pa, slot = .ok (t, pa) → areaOf pa ≠ .control →
        (q.fab f.die f.ctx) = { t.fab f.die f.ctx with cqHead := ((t.fab f.die f.ctx).cqHead + 1) % 2 ^ 32 } ∧ q.seq = (t.seq + 1) % 2 ^ 64 ∧
        ∀ a, q.byte a = t.byteAfter (cellsFrom pa (natLe 8 t.seq ++ natLe 4 f.rank ++ natLe 4 bytes ++ natLe 2 f.tag ++ natLe 1 f.code ++
          natLe 1 st ++ natLe 1 ((if hop then 1 else 0) + (if f.trig then 2 else 0) + (if f.ord then 4 else 0)) ++ natLe 3 0 ++
          natLe 4 f.lid ++ natLe 4 0)) a)) ∧
    (let h := s.hear m.srcModule
     let b := s.fab m.die m.ctx
     let r := b.stream m
     let outside : Prop := m.srcModule ≠ s.fabMod ∨ m.stream ≠ 0
     let mine : Prop := m.srcModule = s.fabMod ∧ m.stream = 0 ∧ s.outOf m = some (f, n)
     let old := Tab.get 0 b.ctrs m.rctr
     let rose (q : State) : Prop := m.rctr < 4096 → Tab.get 0 (q.fab m.die m.ctx).ctrs m.rctr = old + BitVec.ofNat 32 m.rctrAdd
     let took (q : State) : Prop := (q.fab m.die m.ctx).stream m = r.take m.number
     let gets (p : State → Prop) : Prop := Reaches s (.fabricPacketReceive m) p
     let ended (t : State) (hop : Bool) (reply : List Byte) (lines : List Nat) (q : State) : Prop :=
       let u := t.modMsg f.id n (fun q => { q with done := true, status := 0, hop := hop, reply := reply, lines := lines })
       q.fcmds = (if hop then u.spreadHop m else u).fcmds
     let from_ (src : State) : Prop := (outside ∧ s.discards m = false ∧ r.admits m.number = true ∧ src = h) ∨ (mine ∧ src = s)
     let fits : Prop := m.job.toNat = b.job ∧ (s.ctx m.ctx).state = .running
     let calm : Prop := m.rctr < 4096 → NoneDue b m.rctr (old + BitVec.ofNat 32 m.rctrAdd)
     let local_ (src : State) (k : AccessKind) (va len : Nat) (ps : List Piece) (t : State) : Prop :=
       (k = .write → src.spillHit m.ctx va len = false) ∧ netPieces m.ctx k (pageCount va len) va len src = (t, .ok ps) ∧
       orderedOf [ps] = none ∧ t.owned ps = none
     (outside → s.discards m = true → gets (fun q => q = s)) ∧
     (outside → s.discards m = false → r.admits m.number = false → gets (fun q => q = h)) ∧
     (∀ src, from_ src → fits →
       (∀ dst bytes, m.op = .put dst bytes → calm → local_ src .write dst bytes.length ps t → t.poisonMerge ((piecePas ps).zip bytes) = none →
         gets (fun q => (∀ a, q.byte a = t.byteAfter ((piecePas ps).zip bytes) a) ∧ rose q ∧ (outside → took q) ∧
           (mine → ended t false [] (linesOf ((piecePas ps).zip bytes)) q))) ∧
       (∀ dst rows cdst k, m.op = .slice dst rows cdst k → calm → local_ src .write dst rows.length ps v → local_ v .write cdst 4 qs t →
         let cells := (piecePas (ps ++ qs)).zip (rows ++ natLe 4 k)
         t.poisonMerge cells = none → gets (fun q => (∀ a, q.byte a = t.byteAfter cells a) ∧ rose q ∧ (outside → took q) ∧
           (mine → ended t false [] (linesOf cells) q))) ∧
       (∀ va len, m.op = .get va len → calm → local_ src .read va len ps t → t.netMark ps = none →
         gets (fun q => q.mem = t.mem ∧ rose q ∧ (outside → took q) ∧ (mine → ended t false (t.pieceBytes ps) [] q))) ∧
       (∀ dst ty op sat coll parts inr hop bytes, m.op = .reduce dst ty op sat coll parts inr hop bytes →
         ((∀ p ∈ parts, b.seen coll p = false) → calm → local_ src .write dst bytes.length ps t → t.netMark ps = none →
           let sum := redBytes ty op sat (t.pieceBytes ps) bytes
           t.poisonMerge ((piecePas ps).zip sum.1) = none →
           gets (fun q => (∀ a, q.byte a = t.byteAfter ((piecePas ps).zip sum.1) a) ∧ rose q ∧ (outside → took q) ∧
             (mine → ended t (hop || sum.2) [] (linesOf ((piecePas ps).zip sum.1)) q) ∧
             ((parts.map Prod.fst).Nodup → ∀ p ∈ parts, (q.fab m.die m.ctx).seen coll p = true ∧
               ∀ x, ((q.fab m.die m.ctx).win coll p.1).low ≤ x → x ≠ p.2 → (x ∈ ((q.fab m.die m.ctx).win coll p.1).added ↔
                 x ∈ (b.win coll p.1).added)))) ∧
         ((∃ p ∈ parts, b.seen coll p = true) → gets (fun q => q.mem = s.mem ∧ (q.fab m.die m.ctx).dups = (b.dups + 1) % 2 ^ 32 ∧
           (q.fab m.die m.ctx).ctrs = b.ctrs ∧ (outside → took q) ∧ (mine → ended s false [] [] q)))) ∧
       (∀ v, m.op = .counterAdd v → m.rctr < 4096 → NoneDue b m.rctr (old + v) → gets (fun q => q.mem = s.mem ∧ q.co = s.co ∧
         Tab.get 0 (q.fab m.die m.ctx).ctrs m.rctr = old + v)))) ∧
    Reaches s (.keepalive module) (fun q => q = { s with heard := q.heard } ∧ Tab.find q.heard module = some s.timer) ∧
    (module ≠ s.fabMod → Tab.get 0 s.heard module + 10000000 ≤ s.timer → (∀ n, (s.ctx n).msiAddr = 0) →
      (∀ g ∈ s.fcmds, ∀ x ∈ g.msgs, x.module = module → x.done = true) →
      Reaches s (.peerLost module) (fun q => q.mem = s.mem ∧ q.fcmds = s.fcmds ∧
        ∀ e ∈ s.fabs, (s.ranksOn (Tab.get FabBlk.init s.fabs e.1) module ≠ [] → (Tab.get FabBlk.init q.fabs e.1).lost = true) ∧
          ∀ r ∈ (Tab.get FabBlk.init q.fabs e.1).rx, r.module ≠ module)) ∧
    (∀ x, (s.fcmds.find? (fun f => f.id == cmd)) = some f →
      f.msgs.find? (fun m => !m.done && !m.held && m.module == s.fabMod) = some x →
      Reaches s (.retransmission cmd) (fun q => q = { s with agenda := .fabricPacketReceive x.msg :: s.agenda }))

/-! ## Flash and the append engine (R403 to R418) -/

/-- APP, APPSYNC, APPSEAL and FMPREQ with operands that pass their checks are accepted, with the lines of the source or the arguments of
the block as they stand at acceptance (R413 to R418). -/
def Obligations.AppendCommandsAccepted : Prop :=
  ∀ (s t : State) (ps : List (List Piece)) (f : Bool) (d a b : Reg), let c := s.co
    let w := (c.uget b).toNat
    let va := (c.ugetPair a).toNat
    let n := bitsOf w 12 7 + 1
    let rg (len : Nat) (wr : Bool) : Rg := { grp := 0, share := false, va := va, len := len, wr := wr }
    let own : Own := { Own.plain with late := true }
    (va % 64 = 0 → w < 2 ^ 19 → checkRanges s c own [rg (64 * n) false] = (t, .ok ps) →
      Requests s t (.app f d a b) f d (claimsOf c [rg (64 * n) false]) ps.flatten (fun r e => e.op = 0 ∧ e.log = w % 4096 ∧ e.lines = n ∧
        e.ident = (c.uget (b + 1)).toNat ∧ e.data = r.pieceBytes ps.flatten ∧ e.poison = r.netMark ps.flatten)) ∧
    (w < 2 ^ 12 →
      Requests s s (.appsync f d a b) f d [] [] (fun r e => e.op = 1 ∧ e.log = w ∧ e.poison = none ∧
        let l := r.flog w
        let live := ∃ x ∈ l.recs, x.count = va % 2 ^ 48 ∧ x.epoch = va / 2 ^ 48
        (va % 2 ^ 48 ≤ l.durable → live ∨ va % 2 ^ 48 < l.firstCount → e.goal = .now) ∧
        (l.durable < va % 2 ^ 48 → live → e.goal = .upTo (va % 2 ^ 48)) ∧
        (¬live → l.firstCount ≤ va % 2 ^ 48 ∨ l.durable < va % 2 ^ 48 → va / 2 ^ 48 = r.fmp.epoch → l.last < va % 2 ^ 48 →
          e.goal = .upTo l.last) ∧
        (¬live → l.firstCount ≤ va % 2 ^ 48 ∨ l.durable < va % 2 ^ 48 → va / 2 ^ 48 ≠ r.fmp.epoch ∨ va % 2 ^ 48 ≤ l.last →
          e.goal = .lost)) ∧
      Requests s s (.appseal f d b) f d [] [] (fun _ e => e.op = 2 ∧ e.log = w ∧ e.poison = none)) ∧
    (va % 64 = 0 → checkRanges s c own [rg 64 true, rg 64 false] = (t, .ok ps) →
      let p := ps.getD 0 []
      Requests s t (.fmpreq f d a b) f d (claimsOf c [rg 64 true, rg 64 false]) p (fun r e =>
        let bs := r.pieceBytes p
        let op := le bs 0 2
        e.ident = w ∧ e.args = (List.range 4).map (fun i => le bs (8 + 8 * i) 8) ∧ e.log = le bs 2 2 % 4096 ∧
        (op = 1 ∨ op = 2 ∨ op = 3 → e.op = 16 + op ∧ (le bs 2 2 < 4096 → e.bad = false)) ∧
        (op ≠ 1 → op ≠ 2 → op ≠ 3 → e.bad = true)))

/-- An append (R407, R410, R415) in its turn: of a log with no writable window it ends with status 1, of an identifier that the log
holds with the offset and sequence number of the first, beyond the window with status 2; else the record stands where R407 puts it, with
the next count under the epoch, and the lines that fit into granules that are mapped hold its data. Durability advances in order, and a
sync or seal that waits for it ends (R408, R416, R417). Which segment a seal takes for the open one where the end lies on a boundary, and that
any window lets a sync through, are log entry 60. -/
def Obligations.AppendsAndDurability : Prop :=
  ∀ (s : State) (r : FmpReq) (id n : Nat) (data : List Byte),
    let l := s.flog r.log
    let m := (s.append r.log r.lines r.ident r.data).1
    let done := (s.append r.log r.lines r.ident r.data).2
    let off := l.place r.lines
    let gone (t q : State) : Prop := q.freqs = t.freqs.filter (fun x => x.id != r.id)
    let easy : Prop := r.src = .mbox ∨ (s.poison = [] ∧ Clean s [r.block / 64])
    (s.freqs.find? (fun x => x.id == id && x.op == 0) = some r → r.id = id → s.isFirst r = true → r.poison = none → r.src ≠ .mbox →
      (s.mayUse r true = false → Reaches s (.appComplete id) (fun q => gone s q ∧ q.mem = s.mem ∧ q.logs = s.logs)) ∧
      (s.mayUse r true = true → AllQuiet m → Reaches s (.appComplete id) (fun q => gone m q ∧ q.mem = m.mem ∧ q.logs = m.logs ∧
        ∀ core o ctx tn x, r.src = .cohort core s.co.id o ctx tn → s.co.op? o = some x →
          q.co = m.co.complete o (x.keys.zip (([BitVec.ofNat 32 done.off,
            BitVec.ofNat 32 (done.off / 2 ^ 32 % 2 ^ 16 + done.code * 2 ^ 16 + (if done.rep then 2 ^ 30 else 0)),
            BitVec.ofNat 32 done.seqn, BitVec.ofNat 32 (done.seqn / 2 ^ 32)] : List Word).flatMap (List.replicate (x.keys.length / 4))))))) ∧
    (l.wins.find? (fun w => w.1 == 0) = none → done.code = 1 ∧ m = s) ∧
    (∀ w, l.wins.find? (fun w => w.1 == 0) = some w →
      (∀ x ∈ l.recs, r.ident ≠ 0 → x.ident = r.ident → m = s ∧ done.code = 0 ∧ done.rep = true ∧
        ∃ y ∈ l.recs, y.ident = r.ident ∧ done.off = y.off ∧ done.seqn = y.seqn) ∧
      ((∀ x ∈ l.recs, r.ident = 0 ∨ x.ident ≠ r.ident) →
        (w.2.size < off + 64 * r.lines → done.code = 2 ∧ m = s) ∧
        (off + 64 * r.lines ≤ w.2.size → 1 ≤ r.lines → r.data.length = 64 * r.lines →
          (∀ g, off / 65536 ≤ g → g ≤ (off + 64 * r.lines - 1) / 65536 → (Tab.find l.granules g).isSome = true) →
          (∀ g h y, Tab.find l.granules g = some y → Tab.find l.granules h = some y → g = h) →
          done.code = 0 ∧ done.rep = false ∧ done.off = off ∧ done.seqn = s.fmp.epoch * 2 ^ 48 + (l.last + 1) ∧
          (m.flog r.log).stop = off + 64 * r.lines ∧ (m.flog r.log).last = l.last + 1 ∧ (m.flog r.log).lastSeq = done.seqn ∧
          (∀ x < 64 * r.lines, ∀ a, l.paOf (off + x) = some a → m.byte a = r.data.getD x 0) ∧
          ∀ b, (∀ x < 64 * r.lines, l.paOf (off + x) ≠ some b) → m.byte b = s.byte b))) ∧
    (∀ log, (Tab.find s.logs log).isSome = true → (∀ x ∈ s.freqs, x.log ≠ log) →
      Reaches s (.durabilityAdvance log n) (fun q => q.mem = s.mem ∧
        (q.flog log).durable = max (s.flog log).durable (min (s.flog log).last ((s.flog log).durable + n)))) ∧
    (s.freqs = [r] → r.op = 1 → r.poison = none → r.src ≠ .mbox → (Tab.find s.logs r.log).isSome = true → s.mayUse r false = true →
      Reaches s (.durabilityAdvance r.log n) (fun q => q.mem = s.mem ∧
        (q.freqs = [] ↔ match r.goal with
          | .upTo c => c ≤ max l.durable (min l.last (l.durable + n))
          | .now | .lost => True) ∧ (q.freqs = [] ∨ q.freqs = [r]))) ∧
    (s.freqs.find? (fun x => x.id == id && x.op == 48) = some r → r.id = id → s.isFirst r = true → r.poison = none → r.bad = false →
      easy → r.arg 0 % 64 = 0 → 1 ≤ r.arg 1 → r.arg 1 ≤ 128 → r.arg 2 < 2 ^ 32 → r.restZero 3 = true → data = r.data →
      let k := s.append r.log (r.arg 1) (r.arg 2) data
      Reaches s (.appendS id) (fun q => q.logs = k.1.logs ∧
        (k.2.code = 0 → Answers k.1 q r 0 k.2.rep [k.2.off, k.2.seqn]) ∧ (k.2.code ≠ 0 → Answers k.1 q r k.2.code false []))) ∧
    (s.freqs.find? (fun x => x.id == id && x.op == 49) = some r → r.id = id → r.poison = none → r.bad = false → r.restZero 1 = true →
      easy → (Tab.find s.logs r.log).isSome = true → ∀ code, (match r.goal with
        | .now => code = 0
        | .upTo c => c ≤ l.durable ∧ code = 0
        | .lost => code = 6) →
      Reaches s (.syncS id) (fun q => q.logs = s.logs ∧ Answers s q r code false [l.stop, l.durSeq])) ∧
    (s.freqs.find? (fun x => x.id == id && x.op == 50) = some r → r.id = id → s.isFirst r = true → r.poison = none → r.bad = false →
      easy → r.restZero 0 = true → (Tab.find s.logs r.log).isSome = true →
      let seg := l.stop / 2 ^ 24
      Reaches s (.sealS id) (fun q =>
        ((∃ x ∈ l.recs, x.off / 2 ^ 24 = seg) → (q.flog r.log).stop = (seg + 1) * 2 ^ 24 ∧ seg ∈ (q.flog r.log).sealedS ∧
          l.last ≤ (q.flog r.log).durable ∧ Answers s q r 0 false [(seg + 1) * 2 ^ 24, l.lastSeq]) ∧
        ((∀ x ∈ l.recs, x.off / 2 ^ 24 ≠ seg) → q.flog r.log = l ∧ Answers s q r 0 false [l.stop, l.durSeq])))

/-- The requests of the supervisor and of FMPREQ (R411, R418) that pass their checks. A request block of the supervisor is accepted, and
the 65th outstanding one is rejected. Relocation and restart (R409, R412): a granule below its log's end becomes migrating in every
window; its lines then stand in the new one, with a shootdown to come on every die, after which it ends; its waiters go on. A restart
raises the epoch, leaves of each log its durable prefix, whose later lines read as zero, ends every accepted request with RETRY, and clears
every granule. Where a trim leaves the end, what an unmap of window 0 does and the order in which RESULT looks are log entry 60; what a restart
makes of relocations is log entry 61. -/
def Obligations.LogRequestsAndRelocation : Prop :=
  (∀ (s : State) (r : FmpReq) (id pa : Nat), let l := s.flog r.log
     let is (op : Nat) : Prop := s.freqs.find? (fun x => x.id == id && x.op == op) = some r ∧ r.id = id ∧ r.bad = false ∧ r.poison = none ∧
       (r.src = .mbox ∨ (s.poison = [] ∧ Clean s [r.block / 64]))
     let ten := r.tenant l
     let wins := l.wins.map Prod.snd
     let gs := l.granules.map Prod.fst
     (is 17 → r.restZero 0 = true → s.mayUse r false = true → Reaches s (.logquery id) (fun q => q.logs = s.logs ∧
       Answers s q r 0 false [l.stop, l.lastSeq,
         l.durable % 2 ^ 32 + l.stop / segSize % 2 ^ 16 * 2 ^ 32 + l.sealedS.length % 2 ^ 16 * 2 ^ 48])) ∧
     (is 18 → r.restZero 1 = true → s.keptOf ten r.ident = none → s.mayUse r true = true →
       (∀ x ∈ l.sealedS, r.arg 0 / segSize ≤ x) →
       let segs := r.arg 0 / segSize
       let first := max l.first (min (segs * segSize) l.stop)
       let cut := (l.granules.filter (fun e => decide (e.1 < segs * 256))).map Prod.fst
       s.canUnmap r.log wins cut = true → Reaches s (.logtrim id) (fun q =>
         (q.flog r.log).recs = l.recs.filter (fun x => decide (segs * segSize ≤ x.off)) ∧ (q.flog r.log).stop = l.stop ∧
         (q.flog r.log).first = first ∧ (q.flog r.log).granules = l.granules.filter (fun e => !cut.contains e.1) ∧
         Answers (s.unmap wins cut) q r 0 false [first])) ∧
     (is 18 → r.restZero 1 = true → s.keptOf ten r.ident = none → s.mayUse r true = true → (∃ x ∈ l.sealedS, x < r.arg 0 / segSize) →
       Reaches s (.logtrim id) (fun q => q.logs = s.logs ∧ Answers s q r 5 false [])) ∧
     (is 18 → r.restZero 1 = true → ∀ k, s.keptOf ten r.ident = some k →
       Reaches s (.logtrim id) (fun q => q.logs = s.logs ∧ Answers s q r k.code true k.res)) ∧
     (is 19 → r.restZero 1 = true → r.arg 0 < 2 ^ 32 → s.mayUse r false = true → Reaches s (.fmpResult id) (fun q => q.logs = s.logs ∧
       match s.keptOf ten (r.arg 0) with
       | some k => Answers s q r k.code true k.res
       | none => match (if r.arg 0 = 0 then none else l.recs.find? (fun x => x.ident == r.arg 0)) with
         | some x => Answers s q r 0 true [x.off, x.seqn]
         | none => Answers s q r 4 false [])) ∧
     (∀ w, r.window = some w →
       (is 32 → Tab.find s.logs r.log = none →
         Reaches s (.logcreate id) (fun q => q.flog r.log = { FLog.init with wins := [(0, w)] } ∧ Answers s q r 0 false [])) ∧
       (is 33 → ∀ x i, Tab.find s.logs r.log = some x → i < 8 → i ≠ 0 → Tab.find x.wins i = none →
         (∀ j, 0 < j → j < i → (Tab.find x.wins j).isSome = true) →
         Reaches s (.logmap id) (fun q => Tab.find (q.flog r.log).wins i = some w ∧
           Answers (x.granules.foldl (fun (t : State) e => t.putLeaf w e.1 (w.leaf e.2
             (s.relocs.any (fun y => y.log == r.log && y.index == e.1 && !y.fresh)))) s) q r 0 false [i]))) ∧
     (is 34 → r.restZero 1 = true → ∀ x w, Tab.find s.logs r.log = some x → Tab.find x.wins (r.arg 0) = some w →
       s.canUnmap r.log [w] gs = true → Reaches s (.logunmap id) (fun q => (q.flog r.log).wins = Tab.erase x.wins (r.arg 0) ∧
         (q.flog r.log).recs = x.recs ∧ Answers (s.unmap [w] gs) q r 0 false [])) ∧
     (is 35 → r.restZero 0 = true → ∀ x, Tab.find s.logs r.log = some x → s.canUnmap r.log wins gs = true →
       Reaches s (.logdelete id) (fun q => q.logs = Tab.erase s.logs r.log ∧ Answers (s.unmap wins gs) q r 0 false [])) ∧
     (areaRam pa = true →
       ((s.freqs.filter (fun r => r.src == .mbox)).length < 64 → Reaches s (.fmpMboxSubmit pa) (fun q => q.mem = s.mem ∧
         ∃ e, q.freqs = s.freqs ++ [e] ∧ e.id = s.fresh ∧ e.src = .mbox ∧ e.block = pa ∧ e.log = s.readN (pa + 2) 2 % 4096 ∧
           e.args = [s.readN (pa + 8) 8, s.readN (pa + 16) 8, s.readN (pa + 24) 8, s.readN (pa + 32) 8])) ∧
       (64 ≤ (s.freqs.filter (fun r => r.src == .mbox)).length →
         Reaches s (.fmpMboxSubmit pa) (fun q => q = { s with fmp := { s.fmp with rejected := true } })))) ∧
  (∀ (s : State) (granule frame log g : Nat) (w : Reloc) (r : FmpReq), let l := s.flog log
     (s.granuleOf granule = some (log, g) → 65536 * (g + 1) ≤ l.stop → (∀ x ∈ s.relocs, x.log ≠ log ∨ x.index ≠ g) →
       frame ∉ s.framesUsed → flashGranule ≤ frame → frame < flashGranule + flashGranules →
       Reaches s (.flashRelocation granule frame) (fun q => q.logs = s.logs ∧
         q.relocs = s.relocs ++ [{ log := log, index := g, old := granule, new := frame, fresh := false, dies := [] }] ∧
         q.mem = (l.wins.foldl (fun (s : State) w => s.modLeaf w.2 g (fun v => v ||| 0x300)) s).mem)) ∧
     (s.relocs.find? (fun x => x.old == granule && !x.fresh) = some w → Memory.wf s.mem = true → w.old ≠ w.new →
       flashGranule ≤ w.old → flashGranule ≤ w.new → Reaches s (.relocationCopyEnd granule) (fun q =>
         (∀ i < 65536, q.byte (65536 * w.new + i) = s.byte (65536 * w.old + i)) ∧
         q.relocs = s.relocs.map (fun x => if x.old = granule then { x with fresh := true, dies := [0, 1, 2, 3] } else x) ∧
         Tab.find (q.flog w.log).granules w.index = some w.new)) ∧
     (((∀ x ∈ s.relocs, x.old ≠ granule) ∨ ∃ x ∈ s.relocs, x.old = granule ∧ x.fresh = true ∧ x.dies = []) →
       Reaches s (.granuleClear granule) (fun q => ((∀ n, (s.ctx n).llrec = false) → q.mem = s.mem) ∧
         q.relocs = s.relocs.filter (fun x => x.old != granule) ∧ Tab.find q.stalls granule = none ∧
         ((s.teams.map Prod.fst).Nodup → (∀ e ∈ s.teams, e.2.key = e.1) → (∀ n, (s.ctx n).llrec = false) →
           ∀ e ∈ s.teams, e.2.status = .descheduled granule → (s.ctx e.2.ctx).state ≠ .stopping →
             ∃ tm, q.team? e.1 = some tm ∧ tm.status = .running))) ∧
     ((∃ x ∈ s.relocs, x.old = granule) → (∀ x ∈ s.relocs, x.old = granule → x.fresh = false ∨ x.dies ≠ []) →
       Reaches s (.granuleClear granule) (fun q => q = s)) ∧
     Reaches s .fmpRestart (fun q => q.fmp.epoch = (s.fmp.epoch + 1) % 65536 ∧ (∀ x ∈ q.relocs, x ∈ s.relocs ∧ x.fresh = true) ∧
       (∀ n x, Tab.find s.logs n = some x → (q.flog n).stop = x.durEnd ∧ (q.flog n).last = x.durable ∧ (q.flog n).lastSeq = x.durSeq ∧
         (q.flog n).recs = x.recs.filter (fun y => decide (y.count ≤ x.durable))) ∧
       q.freqs = [] ∧ (∀ g, Tab.find q.stalls g = none) ∧
       (s.freqs = [] → s.pwr.rasBase = 0 → (∀ n, (s.ctx n).llrec = false) →
         (∀ n x off, Tab.find s.logs n = some x → x.durEnd % 64 = 0 → x.stop % 64 = 0 → x.durEnd ≤ off → off < x.stop →
           ∀ a ∈ s.placesOf n off, areaOf a = .flash → q.byte a = 0) ∧
         ((s.teams.map Prod.fst).Nodup → (∀ e ∈ s.teams, e.2.key = e.1) → ∀ e ∈ s.teams, ∀ g, e.2.status = .descheduled g →
           (s.ctx e.2.ctx).state ≠ .stopping → ∃ tm, q.team? e.1 = some tm ∧ tm.status = .running)) ∧
       (s.freqs = [r] → s.relocs = [] → s.stalls = [] → (∀ e ∈ s.teams, e.2.status = .running) → s.pwr.rasBase = 0 →
         r.src = .mbox ∨ (s.poison = [] ∧ Clean s [r.block / 64]) →
         (16 ≤ r.op → Answers ((s.logs.map Prod.fst).foldl State.truncate s) q r 3 false []) ∧
         (r.op < 16 → ∀ core o ctx tn y, r.src = .cohort core s.co.id o ctx tn → s.co.op? o = some y → ∃ off seqn : Nat,
           q.co = s.co.complete o (y.keys.zip (([BitVec.ofNat 32 off, BitVec.ofNat 32 (off / 2 ^ 32 % 2 ^ 16 + 3 * 2 ^ 16),
             BitVec.ofNat 32 seqn, BitVec.ofNat 32 (seqn / 2 ^ 32)] : List Word).flatMap (List.replicate (y.keys.length / 4))))))))

/-! ## Completions and halts (R43, R167, R179, R287, R295 to R299) -/

/-- An operation of a cohort completes (R43, R134, R179): its values land, it is outstanding no more, and nothing else of the cohort
changes; a value for a live lane, outside t0-t3, is then what its register holds. A store or a fence also ends so (R190, R345). The
issue slot takes the next clause (R45 to R48, R284 to R290): a held slot goes on with its holder; else the chosen cohort and its mates
take it, at the first word of the clause that is fetched at its pc. A cohort that has exited ends when nothing of it is outstanding, and
its team with its last cohort (R167). -/
def Obligations.CompletionsAndClauses : Prop :=
  (∀ (s : State) (co op : Nat) (c : Cohort) (o : Op), s.cohort? co = some c → c.id = co →
     let lands (i : Instr) : Prop := Reaches s i (fun q => q.cohort? co = some (c.complete op o.writes) ∧ q.mem = s.mem)
     (c.op? op = some o →
       (o.kind = .sfu → lands (.sfuResult co op)) ∧ (o.kind = .load → lands (.loadComplete co op)) ∧
       (o.kind = .atomic → lands (.atomicComplete co op)) ∧ (o.kind = .pref → lands (.prefComplete co op)) ∧
       (o.kind = .maint → lands (.cacheMaintComplete co op)) ∧
       (o.kind = .store → Reaches s (.storeComplete co op) (fun q => q.cohort? co = some (c.complete op o.writes) ∧
         ∀ w ∈ (q.core c.core).wc, w.co ≠ co)) ∧
       (c.complete op o.writes).op? op = none ∧
       (∀ x ∈ o.writes, (o.writes.map Prod.fst).Nodup → isTemp x.1 = false → c.v.live.getLsbD (x.1 % 64) = true →
         Tab.get 0 (c.complete op o.writes).v.regs x.1 = x.2) ∧
       (∀ k, (∀ x ∈ o.writes, x.1 ≠ k) → Tab.get 0 (c.complete op o.writes).v.regs k = Tab.get 0 c.v.regs k)) ∧
     Reaches s (.fenceComplete co) (fun q => q.cohort? co = some { c with fence := false } ∧ q.mem = s.mem)) ∧
  (∀ (s t u : State) (core co h : Nat) (x c : Cohort) (ws hs : List Nat) (pas : List (Leaf × Nat)) (tm : Team), let k := s.core core
     let ready := s.readyOn core
     (k.holder = h :: hs → Reaches s (.selectClause core) (fun q => q = s.focus h)) ∧
     (k.holder = [] → chooseCohort k ready = some x → s.cohort? x.id = some x → x.mid = false →
       (s.focus x.id).fetchPlan x = (t, .ok pas) → t.fetchHeld x pas = none → State.codeWords x 0 pas t = (u, ws) →
       (∃ hd, decodeClause x.W ws = .ok hd) →
       Reaches s (.selectClause core) (fun q => (q.core core).holder = x.id :: (packOf x ready).map Cohort.id ∧
         q.co.id = x.id ∧ q.co.words = ws ∧ q.co.idx = 1 ∧ q.co.mid = true ∧ q.co.hdr = x.hdr ∧ q.co.skip = 0 ∧ q.co.v = x.v ∧
         q.mem = u.mem)) ∧
     (s.cohort? co = some c → c.id = co → c.exited = true → c.ended = false → c.v.ops = [] → s.team? c.team = some tm → tm.key = c.team →
       ((∃ y ∈ s.cohortsOf tm.key, y.id ≠ co) → Reaches s (.cohortEnd co) (fun q => q.mem = s.mem ∧
         q.cohort? co = some { c with ended := true, wait := none } ∧
         q.team? c.team = some { tm with done := tm.done ||| BitVec.ofNat 32 (2 ^ c.cohid) })) ∧
       ((∀ y ∈ s.cohortsOf tm.key, y.id = co) → (s.cohorts.map Prod.fst).Pairwise (· < ·) → (∀ e ∈ s.cohorts, e.2.id = e.1 ∧ e.1 ≠ s.co.id) →
         Reaches s (.cohortEnd co) (fun q => q.team? c.team = none ∧
           (∀ l ∈ (s.ctx tm.ctx).launches, l.order = tm.order → ∃ l' ∈ (q.ctx tm.ctx).launches, l'.order = l.order ∧ l'.ended = l.ended + 1) ∧
           (∀ a, slotAddr tm.core (spOffset + 16384 * tm.shareB) ≤ a →
             a < slotAddr tm.core (spOffset + 16384 * (tm.shareB + tm.shareN)) → q.byte a = 0) ∧
           (tm.pair = true → ∀ a, slotAddr (tm.core + 1) (spOffset + 16384 * tm.shareB2) ≤ a →
             a < slotAddr (tm.core + 1) (spOffset + 16384 * (tm.shareB2 + tm.shareN)) → q.byte a = 0)))))

/-- Halts (R295 to R299, R364): a watchdog whose count reaches T faults a waiting cohort and halts its team, or, where the cohort's team has
departed, ends the context with the record that it left; a cohort asked to stop stops; a team all of whose cohorts have stopped and whose
commands have retired follows the cause of its halt, and its record is written. That a sibling's own terminating fault ends the context whatever
the team halts for is log entry 68 (R298, R357, R360). -/
def Obligations.TeamsHalt : Prop :=
  ∀ (s : State) (cl : Bool) (key b w pc co g : Nat) (t vt : Team) (x : Barrier) (v c : Cohort) (f : FaultInfo),
    (s.team? key = some t → s.barOf t cl b = some x → x.wd = some w → s.barVictim t cl b x = some (.inl (vt, v, pc)) →
      s.expired w x.T = true → vt.status = .running → ((s.ctx vt.ctx).state = .running ∨ (s.ctx vt.ctx).state = .preempting) →
      s.team? v.team = some vt → vt.key = v.team → s.cohort? v.id = some v →
      Reaches s (.barrierTimeout cl key b) (fun q => q.mem = s.mem ∧ q.co.id = v.id ∧ q.co.halted = true ∧
        q.co.fault = some (flt 0x0F 1) ∧ ∃ tm, q.team? v.team = some tm ∧ tm.status = .halting (.fault v.id pc (flt 0x0F 1)))) ∧
    (∀ r, s.team? key = some t → s.barOf t cl b = some x → x.wd = some w → s.barVictim t cl b x = some (.inr r) → s.expired w x.T = true →
      (s.ctx t.ctx).state = .running ∨ (s.ctx t.ctx).state = .preempting → r.ctx = t.ctx →
      Reaches s (.barrierTimeout cl key b) (fun q => (q.ctx t.ctx).state = .terminated ∧ (q.ctx t.ctx).ending = true)) ∧
    (s.expired w x.T = decide (x.T ≤ (s.clk + 2 ^ 64 - w) % 2 ^ 64)) ∧
    (s.cohort? co = some c → c.id = co → c.asked = true → c.ended = false →
      ((c.mid = false ∨ c.wait.isSome = true) ∧ co ∉ (s.core c.core).holder) ∨
        (c.mid = true ∧ c.wait = none ∧ s.noCommands c.ctx = true ∧ (s.focus co).atCommand = true) → Reaches s (.siblingStop co) (fun q => q.mem = s.mem ∧
        q.cohort? co = some { c.landSfu with halted := true, asked := false })) ∧
    (s.team? key = some t → t.key = key → s.teamQuiet key = true →
      let quiet : Prop := ∀ y ∈ s.cohortsOf key, ∀ g, y.fault = some g → toBuffer g = true ∨ g.cause = 9
      let ended (q : State) : Prop := (q.ctx t.ctx).state = .terminated ∧ (q.ctx t.ctx).ending = true ∧
        ∃ tm, q.team? key = some tm ∧ tm.status = .halting .terminate
      let other : Prop := ∃ y ∈ s.cohortsOf key, ∃ g, y.fault = some g ∧ toBuffer g = false ∧ g.cause ≠ 9
      let lives : Prop := (s.ctx t.ctx).state ≠ .free ∧ (s.ctx t.ctx).state ≠ .terminated
      ((∃ y, t.status = .halting (.bkpt y)) → quiet →
        Reaches s (.teamHalt key) (fun q => q.team? key = some { t with status := .held } ∧ q.mem = s.mem)) ∧
      (t.status = .halting .stop → quiet →
        Reaches s (.teamHalt key) (fun q => q.team? key = some { t with status := .stopped } ∧ q.mem = s.mem)) ∧
      ((∃ y, t.status = .halting (.bkpt y)) ∨ t.status = .halting .stop → other → lives → Reaches s (.teamHalt key) ended) ∧
      (t.status = .halting (.fault g pc f) → (s.ctx t.ctx).ending = false →
        (toBuffer f = true → quiet → Reaches s (.teamHalt key) (fun q => q.team? key = some { t with status := .parked } ∧ q.mem = s.mem)) ∧
        (toBuffer f = false → f.cause = 9 → quiet → Reaches s (.teamHalt key) (fun q =>
          q.team? key = some { t with status := .descheduled f.gran } ∧ q.mem = s.mem)) ∧
        (toBuffer f = false → f.cause ≠ 9 → lives → s.poison = [] →
          (s.ctx t.ctx).causeSet = false → Reaches s (.teamHalt key) (fun q => (q.ctx t.ctx).cause = f.cause ∧ ended q ∧
            ∀ y, s.cohort? g = some y → y.ctx = t.ctx → t.diag = [] → (∀ z ∈ s.cohortsOf key, z.id ≠ g → z.fault = none) →
              q.mem = (s.log (FaultRec.of y pc f) []).mem)) ∧
        (toBuffer f = true ∨ f.cause = 9 → other → lives → Reaches s (.teamHalt key) ended)))

/-! ## Contexts (R360 to R366) -/

/-- The commands of ctx_cmd in each state that accepts them, those that change nothing, and those that are refused with CMDERR (R360,
R364, R365). What the bytes of a save area mean is log entry 57; that RELEASE waits for the end of a termination, and that STOP in PREEMPTED
passes through STOPPING, are log entry 58; that a RESUME of teams is refused in PS2 and PS3 is log entry 90. -/
def Obligations.ContextCommands : Prop :=
  ∀ (s : State) (n : Nat), let x := s.ctx n
    let same (i : Instr) : Prop := Reaches s i (fun q => q = s)
    let refused (i : Instr) : Prop := Reaches s i (fun q => q.ctx n = { x with cmderr := true } ∧ q.mem = s.mem ∧ q.teams = s.teams)
    let idle (b : FabBlk) : Prop := b.trigs = [] ∧ b.waiting = []
    let quiet : Prop := ∀ die < 4, idle (s.fab die n)
    let sound : Prop := s.poison = [] ∨ x.logBase = 0
    (x.state = .running → Reaches s (.preempt n) (fun q => q.mem = s.mem ∧ q.teams = s.teams ∧
      q.ctx n = { x with state := .preempting, since := s.clk })) ∧
    (x.state = .preempted ∨ x.state = .stopped → same (.preempt n)) ∧
    (x.state = .free ∨ x.state = .preempting ∨ x.state = .stopping ∨ x.state = .terminated → refused (.preempt n)) ∧
    (x.state = .running → Reaches s (.stop n) (fun q => q.mem = s.mem ∧
      q.ctx n = { x with state := .stopping, since := s.clk, drained := false } ∧
      ((s.teams.map Prod.fst).Nodup → (∀ e ∈ s.teams, e.2.key = e.1) → ∀ e ∈ s.teams, e.2.ctx = n → e.2.status = .running →
        ∃ tm, q.team? e.1 = some tm ∧ tm.status = .halting .stop))) ∧
    (x.state = .preempted → Reaches s (.stop n) (fun q => q.mem = s.mem ∧ q.teams = s.teams ∧
      q.ctx n = { x with state := .stopping, since := s.clk, drained := false })) ∧
    (x.state = .stopping → x.short = true → x.saveOk = true → sound →
      Reaches s (.stop n) (fun q => (q.ctx n).state = .stopped ∧ (q.ctx n).capture.isSome = true ∧ (q.ctx n).short = false)) ∧
    (x.state = .stopping → (x.short && x.saveOk) = false → refused (.stop n)) ∧
    (x.state = .stopped → same (.stop n)) ∧
    (x.state = .free ∨ x.state = .preempting ∨ x.state = .terminated → refused (.stop n)) ∧
    (x.state = .free ∨ x.state = .preempted → quiet → sound → Reaches s (.resume n) (fun q => (q.ctx n).state = .running)) ∧
    (x.state = .running → same (.resume n)) ∧
    (x.state = .preempting ∨ x.state = .stopping ∨ x.state = .terminated → refused (.resume n)) ∧
    (∀ p, x.state = .stopped → s.poisonIn x.save x.savesz = some p → x.causeSet = false → Reaches s (.resume n) (fun q =>
      (q.ctx n).state = .terminated ∧ (q.ctx n).ending = true ∧ (q.ctx n).cause = 0x10)) ∧
    (∀ k, x.state = .stopped → s.poisonIn x.save x.savesz = none → s.poisonIn x.map 4096 = none → x.capture = some k →
      s.bytes x.save x.savesz = k.image →
      (s.mayRestore k x.map = false ∨ (k.teams ≠ [] ∧ 2 ≤ s.pwr.state) → refused (.resume n)) ∧
      (s.mayRestore k x.map = true → k.teams = [] ∨ s.pwr.state < 2 → sound → k.marks = [] ∨ x.logBase = 0 → quiet → (∀ b ∈ k.fabs, idle b.2) → (k.teams.map (fun e => e.team.key)).Nodup →
        Reaches s (.resume n) (fun q => (q.ctx n).state = .running ∧ (q.ctx n).capture = none ∧
          ∀ e ∈ k.teams, ∃ tm, q.team? e.team.key = some tm ∧ tm.core = s.mapped x.map e.team.core ∧
            tm.status = if e.team.status = .held then .held else .running))) ∧
    (x.state = .free → refused (.terminate n)) ∧
    (x.state = .terminated → same (.terminate n)) ∧
    (x.state ≠ .free → x.state ≠ .terminated → Reaches s (.terminate n) (fun q => (q.ctx n).state = .terminated ∧
      (q.ctx n).ending = true ∧ (x.causeSet = false → (q.ctx n).cause = 0) ∧ q.mem = s.mem)) ∧
    (x.state = .free → same (.release n)) ∧
    (x.state = .terminated → x.ending = false → Reaches s (.release n) (fun q => (q.ctx n).state = .free ∧ (q.ctx n).cause = 0 ∧
      (q.ctx n).launches = [] ∧ (q.ctx n).nextLid = 1 ∧ (q.ctx n).root = x.root ∧ (q.ctx n).tenant = x.tenant ∧
      (q.ctx n).logBase = x.logBase ∧ (n < 64 → ∀ die < 4, (q.fab die n).ctrs = [] ∧ (q.fab die n).trigs = []))) ∧
    (x.state = .terminated → x.ending = true → Reaches s (.release n) (fun q =>
      q.ctx n = { x with release := true } ∧ q.mem = s.mem ∧ q.teams = s.teams)) ∧
    (x.state ≠ .free → x.state ≠ .terminated → refused (.release n)) ∧
    (x.state ≠ .stopping → (s.teams.map Prod.fst).Nodup → (∀ e ∈ s.teams, e.2.key = e.1) →
      Reaches s (.continueC n) (fun q => q.mem = s.mem ∧ ∀ e ∈ s.teams, e.2.ctx = n → e.2.status = .held →
        ∃ tm, q.team? e.1 = some tm ∧ tm.status = .running))

/-- How PREEMPT, STOP and a termination end (R259, R360 to R366): each leaves its context in the state that the rule names. A termination that
leaves FREE because RELEASE was written before its end is log entry 58. A record takes the next slot of its context's log, in the layout of
R356, under the next sequence number; without a log, a free slot or a translation of the slot it is dropped and counted, and the last of these
sets LOGFAULT (R358). -/
def Obligations.ContextsDrain : Prop :=
  ∀ (s : State) (n : Nat), let x := s.ctx n
    let still : Prop := s.ctxBusy n = false ∧ ∀ f ∈ s.fcmds, f.ctx ≠ n ∧ ∀ m ∈ f.msgs, m.msg.ctx ≠ n
    let sound : Prop := s.unmarked = true ∨ x.logBase = 0
    (x.state = .preempting → s.teamsOf n = [] → still → sound → Reaches s (.preemptDrained n) (fun q => (q.ctx n).state = .preempted ∧
      q.mem = (s.log (FaultRec.blank n x.tenant 0x81 0) []).mem ∧
      ∀ core idx r, Tab.find (s.core core).res idx = some r → r.ctx = n → r.pinned = false →
        (r.state = .valid ∨ r.state = .stale) →
        ∃ r', Tab.find (q.core core).res idx = some r' ∧ r'.state = .evicted ∧ r'.lines = r.lines ∧ r'.codes = [] ∧ r'.scales = [])) ∧
    (x.state = .stopping → x.drained = false → (∀ t ∈ s.teamsOf n, t.still = true ∧ s.teamQuiet t.key = true) → still →
      s.unmarked = true ∨ (x.logBase = 0 ∧ x.msiAddr = 0) →
      let size := Config.captureSize s.tick n % 2 ^ 40
      Reaches s (.stopDrainEnd n) (fun q =>
        (({ x with savesz := size } : Ctx).saveOk = true → (q.ctx n).state = .stopped ∧ (q.ctx n).capture.isSome = true) ∧
        (({ x with savesz := size } : Ctx).saveOk = false → (q.ctx n).state = .stopping ∧ (q.ctx n).short = true ∧
          (q.ctx n).savesz = size))) ∧
    (x.state = .preempting ∨ (x.state = .stopping ∧ x.drained = false) → x.deadline ≠ 0 → x.causeSet = false →
      x.deadline ≤ (s.clk + 2 ^ 64 - x.since) % 2 ^ 64 → (∀ t ∈ s.teamsOf n, ∀ c ∈ s.cohortsOf t.key, c.ctx = n) →
      sound → Reaches s (.preemptDeadline n) (fun q => (q.ctx n).state = .terminated ∧ (q.ctx n).cause = 0x13 ∧ (q.ctx n).ending = true ∧
        (s.teamsOf n = [] → q.mem = (s.log (FaultRec.blank n x.tenant 0x13 0) []).mem) ∧
        ∀ t c, (sortBy (fun (t : Team) => t.lid * 2 ^ 24 + t.teamid) (s.teamsOf n)).head? = some t →
          (sortBy Cohort.cohid (s.cohortsOf t.key)).head? = some c →
          q.mem = (s.log (FaultRec.of { c with skid := false } 0 (flt 0x13 0)) []).mem)) ∧
    (x.state = .terminated → x.ending = true → (∀ t ∈ s.teamsOf n, t.status = .halting .terminate ∧ s.teamQuiet t.key = true) →
      s.ctxBusy n = false → (∀ e ∈ s.teams, e.2.key = e.1) →
      Reaches s (.contextTermination n) (fun q => (q.ctx n).state = (if x.release then .free else .terminated) ∧
        (q.ctx n).ending = false ∧ (q.ctx n).launches = [] ∧
        (q.ctx n).allocs = [] ∧ q.teamsOf n = [] ∧ ∀ f ∈ q.fcmds, f.ctx ≠ n)) ∧
    (∀ (r : FaultRec), r.ctx = n → let q := s.log r []
      let size := 2 ^ x.logSize
      let used := (x.logHead + 2 ^ 32 - x.logTail) % 2 ^ 32
      let slot := s.slotAt n ((x.logBase + 64 * (x.logHead % size)) % 2 ^ 64)
      (x.logSize = 0 ∨ x.logBase = 0 ∨ size ≤ used → q.mem = s.mem ∧ q.ctx n = { x with drops := (x.drops + 1) % 2 ^ 32 }) ∧
      (x.logSize ≠ 0 → x.logBase ≠ 0 → used < size →
        (slot = none → s.poison = [] → q.mem = s.mem ∧ q.ctx n = { x with drops := (x.drops + 1) % 2 ^ 32, logfault := true }) ∧
        (∀ t pa, slot = some (t, pa) → x.msiAddr = 0 → (q.ctx n).logHead = (x.logHead + 1) % 2 ^ 32 ∧ (q.ctx n).drops = x.drops ∧
          ∀ a, q.byte a = t.byteAfter (cellsFrom pa (natLe 8 s.seq ++ natLe 8 r.pc ++ natLe 8 r.addr ++ natLe 8 r.paddr ++
            natLe 1 r.ctx ++ natLe 1 r.tenant ++ natLe 1 r.cause ++ natLe 1 r.sub ++ natLe 1 r.die ++ natLe 1 r.cluster ++ natLe 1 r.core ++
            natLe 1 r.cohort ++ natLe 4 r.team ++ natLe 4 r.lid ++ natLe 1 r.skid ++ natLe 1 r.flags ++ natLe 2 r.waiters ++ natLe 12 0)) a)))

/-! ## Translation, and the memory tiers (R346 to R355, R367, R396 to R402) -/

/-- A walk that is permitted fills its cluster's TLB and sets A, and D for a write (R348, R349); a replay empties the fault buffer and
wakes the parked teams of its die, and no access joins a walk that began before it (R353); a fence starts, and when no command holds a
translation it names, those translations go, and what the die's cores have stored is performed (R350). -/
def Obligations.WalksReplaysFences : Prop :=
  ∀ (s : State) (n ctx va die : Nat) (kind : AccessKind) (waiters : List Nat) (w : Walked),
    (walkRoot s (s.ctx ctx).root va = .ok w → permit w.leaf kind = .ok () → (∀ h ∈ s.harts, h.2.late = []) →
      (∀ y ∈ (s.cluster n).walks, y.ctx = ctx → y.vpn = va / 4096 → y.ended = true) →
      Reaches s (.pageWalkComplete n ctx va kind waiters) (fun q => q.mem = (setAD s w kind).mem ∧
        tlbFind (q.cluster n).tlb ctx (va / 4096) = some { w.leaf with dirty := w.leaf.dirty || kind = .write })) ∧
    (∀ y, (s.cluster n).walks.find? (fun y => y.ctx == ctx && y.vpn == va / 4096 && !y.ended) = some y →
      Reaches s (.pageWalkComplete n ctx va kind waiters) (fun q => y ∉ (q.cluster n).walks ∧
        ∀ x ∈ (s.cluster n).walks, x ≠ y → x.ended = false ∨ x.reqs ≠ [] → x ∈ (q.cluster n).walks)) ∧
    (s.firing ctx = false ∨ (s.fab die ctx).waiting = [] → Reaches s (.replayAll die ctx) (fun q =>
      (∀ b, Tab.find (s.die die).fbufs ctx = some b →
        Tab.find (q.die die).fbufs ctx = some { b with ents := List.replicate 8 none, drop := false }) ∧
      (n / 32 = die → ∀ y ∈ (q.cluster n).walks, y.ctx = ctx → y.shut = true) ∧ (∀ r ∈ (q.fab die ctx).rx, r.held = []) ∧
      ((s.teams.map Prod.fst).Nodup → (∀ e ∈ s.teams, e.2.key = e.1) → (s.ctx ctx).state ≠ .stopping → ∀ e ∈ s.teams,
        e.2.ctx = ctx → dieOf e.2.core = die → e.2.status = .parked → ∃ tm, q.team? e.1 = some tm ∧ tm.status = .running))) ∧
    Reaches s (.shootdownGo die) (fun q => q = { s with dies := Tab.put s.dies die { s.die die with busy := true } }) ∧
    ((s.die die).busy = true → s.relocs = [] →
      (s.fenceHeld die = true → Reaches s (.shootdownComplete die) (fun q => q = s)) ∧
      (s.fenceHeld die = false →
        (∀ e ∈ s.clusters, e.1 / 32 = die → ∀ y ∈ e.2.walks, (s.die die).fences (s.ctx y.ctx) = true → y.ended = true) →
        let stays (e : TlbEnt) : Prop := ¬((s.die die).fences (s.ctx e.ctx) = true ∧
          (s.die die).covers (e.vpn / e.leaf.pages * e.leaf.pages) e.leaf.pages = true)
        Reaches s (.shootdownComplete die) (fun q => (q.die die).busy = false ∧
          (AllQuiet s → q.mem = s.mem) ∧
          (∀ core, dieOf core = die → (q.core core).wc = [] ∧ (∀ l ∈ (q.core core).l1, l.2.own = 0) ∧ ∀ e, e ∈ (q.core core).tlb ↔ e ∈ (s.core core).tlb ∧ stays e) ∧
          (∀ core, dieOf core ≠ die → (q.core core).tlb = (s.core core).tlb) ∧
          (n / 32 ≠ die → (q.cluster n).tlb = (s.cluster n).tlb) ∧
          (n / 32 = die → ∀ e, e ∈ (q.cluster n).tlb ↔ e ∈ (s.cluster n).tlb ∧ stays e))))

/-- The memory tiers (R345, R367 to R369, R396 to R402): buffered stores become visible in order; an uncorrectable error is answered from
parity, or poisons its sector, or marks one copy of it that a cache holds and no other; retirements, rebuilds, shadows, retries, the scrub; a
hart that consumes poison traps. That a shadow switch while the shadow serves ends its service is log entry 20; the code and the record of a
hart's trap are log entries 31 and 32. -/
def Obligations.MemoryTiers : Prop :=
  ∀ (s : State) (pa n ch hart : Nat), let k := s.stack n
    let clean (lines : List Nat) : Prop := (∀ e ∈ (s.core n).l1, e.1 ∈ lines → e.2.own = 0) ∧
      ∀ e ∈ (s.cluster (n / 16)).cc, e.1 ∈ lines → e.2.data = []
    let struck (q : State) : Prop := ∃ c ∈ s.copiesOf pa, q = s.strike pa c
    Reaches s (.wcFlush n) (fun q => (q.core n).wc = [] ∧ (clean ((s.core n).wc.map WcLine.line) → ∀ b,
      q.byte b = s.byteAfter ((s.core n).wc.flatMap (fun w => w.bytes.map (fun e => (64 * w.line + e.1, e.2)))) b)) ∧
    (areaOf pa = .hbm → let st := s.stack (hbmStackOf pa)
      Reaches s (.uncorrectableError pa) (fun q => struck q ∨ (q.mem = s.mem ∧
        ((st.parity = true ∧ q.stack (hbmStackOf pa) = { st with ce := min 0xFFFFFFFF (st.ce + 1) } ∧ q.poison = s.poison) ∨
          (pa / 16 ∈ q.poison ∧ (∀ p ∈ q.poison, p ∈ s.poison ∨ p / 4 = pa / 64) ∧ q.hbm = s.hbm))))) ∧
    (areaOf pa = .lpddr → Reaches s (.uncorrectableError pa) (fun q => struck q ∨ (q.lp.event = true ∧
      q.lp.ue = (if ∃ p ∈ s.poison, p / 4 = pa / 64 then s.lp.ue else min 0xFFFFFFFF (s.lp.ue + 1)) ∧
      (s.pwr.rasBase = 0 → pa / 16 ∈ q.poison ∧ q.mem = s.mem)))) ∧
    (areaOf pa = .flash ∨ areaOf pa = .onchip →
      Reaches s (.uncorrectableError pa) (fun q => struck q ∨ (pa / 16 ∈ q.poison ∧ q.mem = s.mem))) ∧
    (areaOf pa = .control ∨ areaOf pa = .hole → Reaches s (.uncorrectableError pa) (fun q => struck q ∨ q = s)) ∧
    (let b := BitVec.ofNat 4 (2 ^ (pa % 64 / 16))
     ∀ k l, (s.strike pa k).mem = s.mem ∧ (s.strike pa k).lp = s.lp ∧ (s.strike pa k).hbm = s.hbm ∧
       (Tab.find (s.core n).l1 (pa / 64) = some l → let u := s.strike pa (.l1 n)
         Tab.find (u.core n).l1 (pa / 64) = some { l with bad := l.bad ||| b } ∧ u.poison = s.poison ∧ u.clusters = s.clusters ∧
         ∀ m, m ≠ n → u.core m = s.core m)) ∧
    Reaches s (.refreshRetry n) (fun q => q = { s with
      hbm := Tab.put s.hbm (n % 8) { s.stack (n % 8) with retry := ((s.stack (n % 8)).retry + 1) % 2 ^ 32 } }) ∧
    (n < 8 → ch < 32 → k.retired.getLsbD ch = false → Reaches s (.channelRetirement n ch) (fun q =>
      q.stack n = { k with retired := k.retired ||| BitVec.ofNat 32 (2 ^ ch), rebuild := k.rebuild || k.retired == 0, event := true } ∧
      (k.retired ≠ 0 → s.pwr.rasBase = 0 → ∀ p < 2 ^ 35, hbmStackOf (16 * p) = n →
        hbmChannelOf k.retired.toNat (16 * p) = ch → p ∈ q.poison))) ∧
    (k.rebuild = true → Reaches s (.hbmRebuildEnd n) (fun q =>
      q = { s with hbm := Tab.put s.hbm n { k with rebuild := false, parity := false } })) ∧
    (n < 8 → k.shadow = false → Reaches s (.shadowSwitch n) (fun q => q.stack n = { k with shadow := true, event := true })) ∧
    (n < 8 → k.shadow = true → Reaches s (.shadowSwitch n) (fun q => q.stack n = { k with shadow := false } ∧ q.mem = s.mem)) ∧
    Reaches s (.patrolScrub pa) (fun q => q.mem = s.mem ∧ q.poison = s.poison ∧
      (q.lp = s.lp ∨ (areaOf pa = .lpddr ∧ q.lp = { s.lp with ce := min 0xFFFFFFFF (s.lp.ce + 1) }))) ∧
    (s.poisonIn pa 1 ≠ none → Reaches s (.hartPoisonTrap hart pa) (fun q => (q.hart hart).trap = some (19, pa)))

/-! ## Keys (R427 to R432) -/

/-- The requests of the Tenant Key Controller that pass their checks, with no identifier, or with one that keeps no result and the present
epoch (R427 to R430, R432); a kept result is answered with REPLAYED; a block is accepted, or rejected when 32 are outstanding; a restart. That
unused arguments are ignored is log entry 23; how a serial is counted, that a removal names its region exactly, and what the blocks of a range
read as when its key changes, are log entry 24; the length of a report is log entry 25. -/
def Obligations.TenantKeys : Prop :=
  ∀ (s : State) (r : TkcReq) (id pa : Nat), let k := s.tkc
    let is (op : Nat) : Prop := k.reqs.find? (fun x => x.id == id && x.op == op) = some r ∧ r.id = id ∧ r.bad = false ∧
      (r.ident = 0 ∨ (k.keptOf r.tenant r.ident = none ∧ r.epoch = k.epoch))
    let inB (b : Nat) : Prop := r.block ≤ b ∧ b < r.block + 64
    let ends (q : State) (code : Nat) (rep : Bool) (res : List Nat) (free : Nat → Prop) : Prop :=
      q.tkc.reqs = k.reqs.filter (fun x => x.id != id) ∧ (∀ b, ¬inB b → ¬free b → q.byte b = s.byte b) ∧
      q.readN (r.block + 4) 4 = (code + (if rep then 2 ^ 30 else 0) + 2 ^ 31) % 2 ^ 32 ∧
      ∀ v ∈ res.head?, q.readN (r.block + 40) 8 = v % 2 ^ 64
    let no (_ : Nat) : Prop := False
    let base := r.arg 0
    let size := r.arg 1
    let within (b : Nat) : Prop := base ≤ b ∧ b < base + size
    (is 1 → r.arg 0 ≤ 1 → ∀ i, s.freeKeyIndex = some i →
      let n := k.serial % 4095 + 1
      let h := r.tenant * 2 ^ 28 + n * 2 ^ 16 + i
      Reaches s (.keygen id) (fun q => ends q 0 false [h] no ∧ q.tkc.serial = n ∧
        ∃ key, q.tkc.keys = k.keys ++ [key] ∧ key.handle = h ∧ key.fabric = (r.arg 0 == 1) ∧ key.ident = r.ident)) ∧
    (is 2 → base % 2 ^ 21 = 0 → size % 2 ^ 21 = 0 → size ≠ 0 → oneTier base size = true →
      (r.arg 2 = 0 → ∀ e, k.regions.find? (fun e => e.1 == base && e.2.1 == size && handleTenant e.2.2 == r.tenant) = some e →
        AllQuiet s → Reaches s (.region id) (fun q => ends q 0 false [] within ∧ q.tkc.regions = k.regions.filter (fun x => x != e) ∧
          ((∀ b, inB b → ¬within b) → ∀ key, s.keySecret e.2.2 = some key → ∀ x, base / 16 ≤ x → x < (base + size) / 16 →
            q.blockAt x = k.encrypted key x (s.blockAt x)))) ∧
      (r.arg 2 ≠ 0 → ∀ key, s.keyOf r.tenant (r.arg 2) = some key → key.fabric = false → k.regions.length < 64 →
        (∀ e ∈ k.regions, base + size ≤ e.1 ∨ e.1 + e.2.1 ≤ base) →
        Reaches s (.region id) (fun q => ends q 0 false [] within ∧ q.tkc.regions = k.regions ++ [(base, size, r.arg 2)] ∧
          ((∀ b, inB b → ¬within b) → ∀ x, base / 16 ≤ x → x < (base + size) / 16 →
            q.blockAt x = k.decrypted key.secret x (s.blockAt x))))) ∧
    (is 3 → ∀ key, s.keyOf r.tenant (r.arg 1) = some key → key.fabric = true → r.arg 0 < 64 → (s.ctx (r.arg 0)).tenant = r.tenant →
      Reaches s (.fabbind id) (fun q => ends q 0 false [] no ∧ Tab.find q.tkc.binds (r.arg 0) = some key.handle)) ∧
    (is 4 → ∀ key, s.keyOf r.tenant (r.arg 0) = some key → (∀ e ∈ k.regions, e.2.2 ≠ r.arg 0) → (∀ e ∈ k.binds, e.2 ≠ r.arg 0) →
      Reaches s (.revoke id) (fun q => ends q 0 false [] no ∧ q.tkc.keys = k.keys.filter (fun x => x.handle != r.arg 0))) ∧
    (is 5 → r.arg 0 ≠ 0 → r.arg 0 < 2 ^ 32 → Reaches s (.tkcResult id) (fun q =>
      match k.keptOf r.tenant (r.arg 0) with
      | some x => ends q x.code true x.res no
      | none => match k.keys.find? (fun x => x.ident == r.arg 0 && handleTenant x.handle == r.tenant) with
        | some x => ends q 0 true [x.handle] no
        | none => ends q 2 false [] no)) ∧
    (is 6 → areaRam (r.arg 0) = true → areaRam (r.arg 0 + 63) = true → areaRam (r.arg 1) = true → areaRam (r.arg 1 + 4095) = true →
      s.poisonIn (r.arg 0) 64 = none → k.signed < 2 ^ 30 → Reaches s (.attest id) (fun q => q.tkc.signed = k.signed + 1 ∧
        (∃ rep, q.tkc.report = some rep ∧ rep.nonce = s.bytes (r.arg 0) 64 ∧
          rep.images = [0, 1, 2].map (fun i => ((s.boot.runs i).digest, (s.boot.runs i).version)) ∧
          ∀ c, s.boot.config = some c → rep.config = Config.configDigest c) ∧
        ∃ n, 1 ≤ n ∧ n ≤ 4096 ∧ ends q 0 false [n] (fun b => r.arg 1 ≤ b ∧ b < r.arg 1 + n))) ∧
    (∀ x, k.reqs.find? (fun x => x.id == id && x.op == 1) = some r → r.id = id → r.ident ≠ 0 → k.keptOf r.tenant r.ident = some x →
      Reaches s (.keygen id) (fun q => ends q x.code true x.res no ∧ q.tkc.keys = k.keys)) ∧
    (areaRam pa = true →
      (k.reqs.length < 32 → Reaches s (.tkcMboxSubmit pa) (fun q => q.mem = s.mem ∧ ∃ e, q.tkc.reqs = k.reqs ++ [e] ∧ e.id = s.fresh ∧
        e.block = pa ∧ e.ident = s.readN (pa + 8) 4 ∧ e.epoch = s.readN (pa + 12) 2 ∧
        e.args = [s.readN (pa + 16) 8, s.readN (pa + 24) 8, s.readN (pa + 32) 8])) ∧
      (32 ≤ k.reqs.length → Reaches s (.tkcMboxSubmit pa) (fun q => q = { s with tkc := { k with rejected := true } }))) ∧
    Reaches s .tkcRestart (fun q => q.tkc.epoch = (if k.epoch = 65535 then 1 else k.epoch + 1) ∧ q.tkc.kept = [] ∧
      q.tkc.keys = k.keys ∧ q.tkc.regions = k.regions ∧ q.tkc.binds = k.binds ∧ q.tkc.reqs = [])

/-! ## Power, boot and the ways in from outside (R7, R394, R395, R431 to R438) -/

/-- Power states (R408, R433 to R438): a command begins a transition, or is refused; a transition ends in its state, and PS4 and a loss of
power leave what flash holds; a cold boot stops at a step that fails, what the steps before it have done standing, or starts each image from
the slot that verifies, sets the sequencer from its mark, and stores the new one; the thermal trip. That PS0 boots the module from off, and that
a boot may stop freely, is log entry 26; what survives is log entry 27; what RAM reads as is log entry 1; the new mark is log entry 28; that a
trip is an event of the port is log entry 37. -/
def Obligations.PowerStates : Prop :=
  ∀ (s : State) (die : Nat) (temp : Half), let p := s.pwr
    let goes (i : Instr) (n : Nat) : Prop := Reaches s i (fun q => q = { s with pwr := { p with target := some n } })
    let refused (i : Instr) : Prop := Reaches s i (fun q => q = { s with pwr := { p with cmderr := true } })
    let off (q : State) : Prop := q.pwr = { Power.init with state := 4 } ∧ (∀ n, q.ctx n = Ctx.init) ∧ q.cohorts = [] ∧ q.teams = [] ∧
      q.tkc.keys = s.tkc.keys ∧ q.tkc.signed = s.tkc.signed ∧ q.boot.mark = s.boot.mark ∧ q.boot.images = s.boot.images ∧
      q.boot.active = s.boot.active ∧ (∀ b, areaOf b ≠ .flash → q.byte b = 0) ∧
      (∀ n x, Tab.find s.logs n = some x → (q.flog n).stop = x.durEnd ∧ (q.flog n).last = x.durable)
    let b := s.boot
    let goodSlot (c : CfgRec) (image n : Nat) : Prop := (b.imageAt image n).good = true ∧ Tab.get 0 c.least image ≤ (b.imageAt image n).version
    let up (q : State) : Prop := q.boot.stopped = none ∧ q.pwr = Power.init ∧ q.seq = (b.mark + 2 ^ 32) % 2 ^ 64 ∧
      q.boot.mark = (b.mark + 2 ^ 32) % 2 ^ 64 ∧ q.fmp.epoch = (s.fmp.epoch + 1) % 65536 ∧ q.clk = 0 ∧ q.timer = 0 ∧ q.mem = s.mem ∧
      ∃ c, b.config = some c ∧ ∀ image < 3, let first := Tab.get 0 b.active image
        let n := Tab.get 0 q.boot.slots image
        goodSlot c image n ∧ (n = first ∨ (n = 1 - first ∧ ¬goodSlot c image first))
    let halted (n : Nat) (q : State) : Prop := q.boot.stopped = some n ∧ q.pwr = p ∧ q.mem = s.mem ∧ q.seq = s.seq ∧ q.boot.mark = b.mark ∧
      q.fmp.epoch = (if 5 < n then (s.fmp.epoch + 1) % 65536 else s.fmp.epoch) ∧ (n ≤ 3 → q.boot.slots = b.slots)
    (p.state ≠ 4 → p.target = none → goes .ps0 0 ∧ goes .ps1 1 ∧ (s.anyActive = false → goes .ps2 2 ∧ goes .ps3 3) ∧
      (s.anyActive = true → refused .ps2 ∧ refused .ps3)) ∧
    (∀ n, p.target = some n → refused .ps0 ∧ refused .ps1 ∧ refused .ps2 ∧ refused .ps3) ∧
    goes .ps4 4 ∧
    (∀ n, p.target = some n → n ≠ 4 →
      Reaches s .powerTransitionEnd (fun q => q = { s with pwr := { p with state := n, target := none } })) ∧
    (p.target = some 4 → Reaches s .powerTransitionEnd (fun q => off q ∧ q.boot.session = b.session)) ∧
    (p.state = 3 → p.target = none → goes .pcieWake 0) ∧
    (p.state = 4 → Reaches s .coldBoot (fun q => up q ∨ ∃ n, 1 ≤ n ∧ n ≤ 7 ∧ halted n q) ∧
      (b.cfgA.good = false → b.cfgB.good = false → Reaches s .coldBoot (fun q => ∃ n, 1 ≤ n ∧ n ≤ 2 ∧ halted n q)) ∧
      (∀ c image, b.config = some c → image < 3 → (∀ n < 2, ¬goodSlot c image n) → Tab.get 0 b.active image < 2 →
        Reaches s .coldBoot (fun q => ∃ n, 1 ≤ n ∧ n ≤ (if image = 1 then 5 else 3) ∧ halted n q)) ∧
      (p.target = none → exec .ps0 s = exec .coldBoot s)) ∧
    Reaches s .sequencerMark (fun q => q = { s with boot := { b with mark := s.seq / 2 ^ 32 * 2 ^ 32 } }) ∧
    Reaches s .powerLoss (fun q => off q ∧ q.boot.session = false) ∧
    Reaches s (.thermalTrip die temp) (fun q => let hot : Prop := ∃ c, b.config = some c ∧ c.trip < temp.toNat
      (hot → off q ∧ q.boot.tripRec = some temp.toNat) ∧ (¬hot → q = { s with pwr := { p with therm := temp.toNat } }))

/-- Control registers (R7, R355, R358, R395, R418, R435, R443): a doubleword written to a register reads back as the fields that it has,
and memory is as it was; a bit that a write of 1 clears clears. The ports (R394, R395, R431, R434): the messages of the side-band port,
which need a session but for two; a request of the PCIe host that arrives intact under a key set that is accepted, to memory that it may
reach. A hart's pending interrupt is log entry 29; which writes PS4 takes is log entry 26; the key sets of the five streams, and what an
insecure stream does, are log entry 34; requests that change nothing are log entry 35; the slots of an image are log entry 36; how far the
port reaches on chip is log entry 80. -/
def Obligations.RegistersAndPorts : Prop :=
  (∀ (s : State) (v : DWord) (c d h : Nat), c < 64 → d < 4 → h < 96 →
     let holds (pa mask : Nat) : Prop := Reaches s (.registerWrite pa v) (fun q => q.readReg pa = v.toNat &&& mask ∧ q.mem = s.mem)
     let ctx := 0x3F0300000000 + 0x100 * c
     let die := 0x3F0200000000 + 0x100000 * d
     let fab := 0x3F0A00000000 + 0x100000 * d + 0x100 * c
     holds ctx (2 ^ 64 - 1) ∧ holds (ctx + 0x20) (2 ^ 32 - 1) ∧ holds (ctx + 0x28) (2 ^ 50 - 2 ^ 12) ∧ holds (ctx + 0x38) (2 ^ 50 - 2 ^ 12) ∧
     holds (ctx + 0x40) (2 ^ 57 - 2 ^ 12) ∧ holds (ctx + 0x58) (2 ^ 32 - 1) ∧ holds (ctx + 0x68) (2 ^ 64 - 1) ∧
     holds (ctx + 0x70) (2 ^ 32 - 1) ∧ holds (ctx + 0x78) (2 ^ 40 - 1) ∧ holds (ctx + 0x80) (2 ^ 57 - 2 ^ 6) ∧
     holds (ctx + 0x98) (2 ^ 32 - 1) ∧ holds (ctx + 0xA0) 1 ∧
     holds (die + 0x10) (2 ^ 57 - 2 ^ 12) ∧ holds (die + 0x18) (2 ^ 32 - 1) ∧
     holds fab (2 ^ 24 - 1) ∧ holds (fab + 0x08) (2 ^ 17 - 1) ∧ holds (fab + 0x10) (2 ^ 18 - 1) ∧ holds (fab + 0x18) (2 ^ 50 - 2 ^ 12) ∧
     holds (fab + 0x20) (2 ^ 57 - 2 ^ 6) ∧ holds (fab + 0x38) (2 ^ 32 - 1) ∧
     holds 0x3F0600000010 (2 ^ 64 - 1) ∧ holds 0x3F0600000018 (2 ^ 32 - 1) ∧ holds 0x3F0900000020 15 ∧
     holds 0x3F0900000030 (2 ^ 32 - 1) ∧ holds 0x3F0B00000000 (2 ^ 15 - 1) ∧
     Reaches s (.registerWrite (ctx + 0x18) v) (fun q =>
       q.ctx c = { s.ctx c with cmderr := (s.ctx c).cmderr && !bitAt v.toNat 3 } ∧ q.mem = s.mem) ∧
     Reaches s (.registerWrite (ctx + 0x08) v) (fun q => q.mem = s.mem ∧
       (q.ctx c).tenant = if (s.ctx c).state = .free then v.toNat % 16 else (s.ctx c).tenant) ∧
     Reaches s (.registerWrite (0x3F0C00000000 + 0x1000 * h) v) (fun q => (q.hart h).pend = true ∧ q.mem = s.mem)) ∧
  (∀ (s : State) (c pa n img st : Nat) (im : FwImage) (v : DWord) (bytes : List Byte) (nk intact : Bool), let b := s.boot
     let same (i : Instr) : Prop := Reaches s i (fun q => q = s)
     same (.sbmpMessage .versionDiscovery) ∧
     Reaches s (.sbmpMessage .openSession) (fun q => q = { s with boot := { b with session := true } }) ∧
     (b.session = false → same (.sbmpMessage (.regWrite pa v)) ∧ same (.sbmpMessage (.updateSlot img im))) ∧
     (b.session = true → (s.pwr.state ≠ 4 ∨ pa = 0x3F0900000000 → exec (.sbmpMessage (.regWrite pa v)) s = exec (.registerWrite pa v) s) ∧
       (s.pwr.state = 4 → pa ≠ 0x3F0900000000 → same (.sbmpMessage (.regWrite pa v))) ∧
       (img < 3 → let n := 1 - Tab.get 0 b.active img
         let held := Tab.put b.images (2 * img + n) im
         let fit : Prop := im.good = true ∧ ∃ c, b.config = some c ∧ Tab.get 0 c.least img ≤ im.version
         (fit → Reaches s (.sbmpMessage (.updateSlot img im)) (fun q => q.boot.images = held ∧ q.boot.active = Tab.put b.active img n ∧
           q.boot.slots = b.slots)) ∧
         (¬fit → Reaches s (.sbmpMessage (.updateSlot img im)) (fun q => q = { s with boot := { b with images := held } }))) ∧
       (3 ≤ img → same (.sbmpMessage (.updateSlot img im))) ∧
       (c < 64 → s.pwr.state ≠ 4 → exec (.sbmpMessage (.ctxCmd c 1)) s = exec (.preempt c) s ∧ exec (.sbmpMessage (.ctxCmd c 2)) s = exec (.stop c) s ∧
         exec (.sbmpMessage (.ctxCmd c 3)) s = exec (.resume c) s ∧ exec (.sbmpMessage (.ctxCmd c 4)) s = exec (.terminate c) s ∧
         exec (.sbmpMessage (.ctxCmd c 5)) s = exec (.release c) s ∧ exec (.sbmpMessage (.ctxCmd c 6)) s = exec (.continueC c) s)) ∧
     Reaches s .ideKeySwitch (fun q => ∃ k ≤ 4, q = s.setIde k { newKeys := true, secure := true } ∨ q = s.setIde k { s.ide k with newKeys := false }) ∧
     ((s.ide st).secure = false ∨ 4 < st →
       same (.pcieInboundRequest (.write st pa bytes nk intact)) ∧ same (.pcieInboundRequest (.read st pa n nk intact))) ∧
     ((s.ide st).secure = true → st ≤ 4 → (intact = false ∨ (nk = true ∧ (s.ide st).newKeys = false)) →
       let bad (q : State) : Prop := q.mem = s.mem ∧ q.boot.errors = b.errors + 1 ∧ (q.ide st).secure = false ∧ ∀ x, x ≠ st → q.ide x = s.ide x
       Reaches s (.pcieInboundRequest (.write st pa bytes nk intact)) bad ∧ Reaches s (.pcieInboundRequest (.read st pa n nk intact)) bad) ∧
     ((s.ide st).secure = true → st ≤ 4 → intact = true → (nk = true → (s.ide st).newKeys = true) →
       let seen (q : State) : Prop := q.boot = if nk then (s.setIde st { s.ide st with newKeys := false }).boot else b
       (areaOf pa = .control ∨ areaOf pa = .hole ∨ areaOf pa = .flash →
         Reaches s (.pcieInboundRequest (.write st pa bytes nk true)) (fun q => q.mem = s.mem ∧ seen q)) ∧
       ((∀ i < bytes.length, areaOf (pa + i) = .hbm ∨ areaOf (pa + i) = .lpddr ∨
           (areaOf (pa + i) = .onchip ∧ s.chipReach (pa + i) = true)) → bytes ≠ [] →
         areaOf pa = areaOf (pa + bytes.length - 1) →
         s.heldBy ((List.range bytes.length).map (fun i => pa + i)) true = none →
         Reaches s (.pcieInboundRequest (.write st pa bytes nk true)) (fun q => seen q ∧
           (∀ i < bytes.length, q.byte (pa + i) = bytes.getD i 0) ∧ ∀ x, (x < pa ∨ pa + bytes.length ≤ x) → q.byte x = s.byte x)) ∧
       (s.heldBy ((List.range n).map (fun i => pa + i)) false = none →
         Reaches s (.pcieInboundRequest (.read st pa n nk true)) (fun q => seen q ∧ q.mem = s.mem))))

/-! ## The machine as a whole -/

/-- A step first brings about what comes by itself (s.beat: what caches do, time, interrupts that harts take). Then it takes what the agenda
holds; else a hart whose turn it is runs the instruction that stands at its pc, or takes the trap of its fetch; else, while the burst of issue
that the model's own counter holds lasts (log entry 2), a core whose slot is held issues the instruction that the words at its cohort's place
decode to, when no interlock, scoreboard entry or fence keeps it from it and no mate stalls the pack, and then settles the slot (R42, R43,
R284, R290). A hart word outside the opcode table traps where it has the custom-0 opcode, and else stops the step (log entry 31). -/
def Obligations.StepRunsDecodedInstruction : Prop :=
  ∀ (s : State), let b := s.beat
    let after (o : Host.Outcome State Fault Refusal) (f : State → State) : Host.Outcome State Fault Refusal := match o with
      | .next t => .next (f t)
      | .fault r => .fault r
      | .refused r => .refused r
    (∀ e rest, b.agenda = e :: rest → step s = if b.allowed e then exec e { b with agenda := rest } else .next { b with agenda := rest }) ∧
    (∀ n, b.agenda = [] → b.turn = some n → (b.hart n).wait = none → b.pwr.state < 3 →
      (∀ w i, b.hartWord n = .ok w → decodeHart w = some i → step s = after (exec i b) (fun t => { t with turn := none })) ∧
      (∀ w, b.hartWord n = .ok w → decodeHart w = none → step s = if w % 128 = 0x0B then
        .next (({ b with turn := none } : State).hartTrap n 2 (b.hart n).pc) else .fault (.hartWord n)) ∧
      (∀ e, b.hartWord n = .error e → step s = .next (({ b with turn := none } : State).hartTrap n e.1 e.2))) ∧
    (∀ k n h hs w ls i, b.agenda = [] → b.turn = none → b.burst = k + 1 → b.nextCore = some n → (b.core n).holder = h :: hs →
      b.co.id = h → b.co.words.drop b.co.idx = w :: ls → decodeWord w (ls.take (literalCount w)) = .ok i → bitAt w 31 = false → b.co.pre = none →
      let t := { b with burst := k }
      packStall exec t = none → t.gate w i = none → step s = after (exec i t) (fun q => q.settle t.co.idx))

/-- Words that the spec gives for its examples decode to the instructions that they stand for. -/
def Obligations.DecodedWords : Prop :=
  decode [0x0F041888] = some (.bfxI32 false 2 3 4 8) ∧ decode [0x140A30E0] = some (.perm false 5 6 7) ∧
  decode [0x210420C4] = some (.ffma 1 2 3 4) ∧ decode [0x260C2808] = some (.fxp2 false 6 5 true) ∧
  decode [0x3C802000] = some (.brx true 4) ∧ decode [0x42000007] = some (.trap 7) ∧
  decode [0x48118608] = some (.ld false 8 48 48 .w none false) ∧ decode [0x540620C0, 0x28000010] = some (.aadd false 3 4 6
    { scope := .team, ord := .rel, w64 := false, sgn := false, off := 16 }) ∧
  decode [0x5D000280] = some (.fence .rel .pkg false) ∧ decode [0x72060000] = some (.routeq 3) ∧
  decode [0x74042000] = some (.launch false 2 4) ∧ decode [0x76042000] = some (.galloc 2 4) ∧
  decode [0x7A1020C1] = some (.appsync false 8 4 6)

/-- Every well-formed instruction is what its words decode to, with each operand at each value; and its words fit in 32 bits with bit 31
of the first, the chain bit, 0. -/
def Obligations.DecodeOfEncode : Prop :=
  ∀ i : Instr, i.wf = true → decode (encode i) = some i ∧ (∀ w ∈ encode i, w < 2 ^ 32) ∧ ∀ w ∈ (encode i).head?, w < 2 ^ 31

/-- Memory keeps its canonical form in every step. -/
def Obligations.MemoryStaysCanonical : Prop :=
  ∀ s t : State, Memory.wf s.mem = true → step s = .next t → Memory.wf t.mem = true

/-- Every instruction has an outcome in every state, and a step stops only for a hart word outside the opcode table: the model neither
faults nor refuses otherwise (R9, and the faults of R162 are states that the machine goes on from). That such a word is the one stop is log
entry 31. -/
def Obligations.EveryInstructionGoesOn : Prop :=
  (∀ (i : Instr) (s : State), ∃ t, exec i s = .next t) ∧
  ∀ s : State, (∃ t, step s = .next t) ∨ ∃ h, step s = .fault (.hartWord h)

/-- Reset leaves what the spec states: pools of 24, 16 and 8 granules (R215), contexts FREE with every register 0 (R358, R360), the first
launchid 1 (R373), no fence in progress (R355), epoch 1 of the Tenant Key Controller (R428), PS0 (R435), HBM under parity (R401), no job
on a fabric block (R443), and, as at the end of a boot, clk at 0 and the supervisor in S-mode (R438). That every hart is in S-mode, and that no
team or cohort is resident, is log entry 5; the canonical form of memory is log entry 1. -/
def Obligations.ResetLeaves : Prop :=
  let s := State.reset
  (∀ n, (s.core n).rf = 24 ∧ (s.core n).sp = 16 ∧ (s.core n).l1g = 8 ∧ (s.core n).claim = none ∧ (s.core n).l1 = []) ∧
  (∀ n, (s.ctx n).state = .free ∧ (s.ctx n).root = 0 ∧ (s.ctx n).tenant = 0 ∧ (s.ctx n).deadline = 0 ∧ (s.ctx n).nextLid = 1) ∧
  (∀ n, (s.die n).busy = false ∧ (s.die n).sfAddr = 0 ∧ (s.die n).sfLen = 0) ∧ s.tkc.epoch = 1 ∧ s.pwr.state = 0 ∧
  (∀ n, (s.stack n).parity = true ∧ (s.stack n).retired = 0) ∧ (∀ d c, (s.fab d c).job = 0 ∧ (s.fab d c).nranks = 0) ∧
  s.clk = 0 ∧ (∀ n, (s.hart n).mode = 1) ∧
  s.teams = [] ∧ s.cohorts = [] ∧ Memory.wf s.mem = true

/-- YIELD and NOP (R168): their encodings, with every field below bit 24 at 0; YIELD goes on at the next clause, scheduled as though its
header carried Y = 1; NOP has no effect and is no control-transfer instruction. -/
def Obligations.YieldAndNop : Prop :=
  decodeWord 0x41000000 [] = .ok .yieldI ∧ decodeWord 0x44000000 [] = .ok .nop ∧
  (∀ n ls, 0 < n → n < 2 ^ 24 → (∀ i, decodeWord (0x41000000 + n) ls ≠ .ok i) ∧ ∀ i, decodeWord (0x44000000 + n) ls ≠ .ok i) ∧
  isControl 0x44000000 = false ∧
  ∀ s : State, exec .nop s = .next { s with co := { s.co with idx := s.co.idx + 1 } } ∧
    Reaches s .yieldI (fun t => At t s.co.nextClause ∧ t.co.y = true ∧ t.mem = s.mem ∧ t.cohorts = s.cohorts ∧
      t.co.v.exec = s.co.v.exec ∧ ∀ key, 1024 ≤ key → Tab.get 0 t.co.v.regs key = Tab.get 0 s.co.v.regs key)

/-- IADD64 and ISUB64 (R79): opcode 0x03 in format RRR with fn 0 and 1, fn 2 to 31 unassigned, pairs in D, A and B, an odd code in one of
which no instruction is decoded from; the low 64 bits of the sum or difference go to D. -/
def Obligations.PairSums : Prop :=
  ∀ (u : Bool) (d a b : Reg) (fn : BitVec 5),
    let w := 0x03 * 2 ^ 24 + (if u then 2 ^ 23 else 0) + d.toNat * 2 ^ 17 + a.toNat * 2 ^ 11 + b.toNat * 2 ^ 5 + fn.toNat
    let pairs := d.even && a.even && b.even
    (pairs = true → (fn = 0 → decodeWord w [] = .ok (.iadd64 u d a b)) ∧ (fn = 1 → decodeWord w [] = .ok (.isub64 u d a b))) ∧
    (pairs = false → ∀ i, decodeWord w [] ≠ .ok i) ∧
    (2 ≤ fn.toNat → decodeWord w [] = .error 2) ∧
    ∀ s : State, Shape s.co → pairs = true →
      LanesPair s (.iadd64 u d a b) u d 1 (fun l => BitVec.ofInt 64 ((s.co.getPair a l).toInt + (s.co.getPair b l).toInt)) ∧
      LanesPair s (.isub64 u d a b) u d 1 (fun l => BitVec.ofInt 64 ((s.co.getPair a l).toInt - (s.co.getPair b l).toInt))

/-- Accesses that are not allowed (R171 to R175, R200, R201, R217, R347, R348): a page that is not U or lacks the permission, a page type 3, a
write to flash, a migrating page, an address that is not canonical, bytes beyond the share, an access across two windows, and a store into a
spill area are the faults that the rules name; a lane access that is one takes that fault in a cohort whose handler does not take it, and
accesses nothing. A fault of R351 that halts its team so makes an entry of its context's fault buffer on its die, merges into the entry of its
page, or is dropped and counted (R351, R352, R356). A reserved page type is log entry 64; what a straddle and an access beyond the share report
is log entry 84. -/
def Obligations.AccessFaults : Prop :=
  ∀ (s : State) (c : Cohort) (l : Leaf) (va n x site : Nat) (k : AccessKind),
    let why (e : Except WalkFail Unit) (cause sub : Nat) : Prop := ∃ p, e = .error ⟨cause, sub, p⟩
    let last := (va + (n - 1)) % 2 ^ 64
    (k = .read → (l.u && l.r) = false → why (permit l k) 0x07 2) ∧
    (k = .write → ((l.u && l.w) = false ∨ areaOf l.pa = .flash) → why (permit l k) 0x07 1) ∧
    (k = .fetch → (l.u && l.x) = false → why (permit l k) 0x07 7) ∧
    (k = .read → l.u = true → l.r = true → (l.pbmt = 3 → why (permit l k) 0x07 6) ∧
      (l.pbmt ≠ 3 → l.mig = true → why (permit l k) 0x09 1)) ∧
    (va / 2 ^ 56 ≠ 0 → va / 2 ^ 56 ≠ 255 → ∀ root, walkRoot s root va = .error ⟨0x06, 3, 0⟩) ∧
    (windowOf va = .loc x → c.shareSize < x + n → 1 ≤ n → windowOf last = .loc (x + (n - 1)) →
      resolve s c va n k site = (s, .error (fltAt 0x07 4 (va + (c.shareSize - x)) k))) ∧
    ((windowOf va).code ≠ (windowOf last).code → resolve s c va n k site = (s, .error (fltAt 0x05 0 va k))) ∧
    (windowOf va = .glob → windowOf last = .glob → ∀ b, s.spillByte c.ctx va n = some b →
      resolve s c va n .write site = (s, .error (fltAt 0x07 3 b .write))) ∧
    ∀ (t : State) (g : FaultInfo) (f : Bool) (d b y : Reg) (size : MSize) (off : Option Word) (sx : Bool),
      let lanes := s.co.active.map (fun l => (l, s.co.laneAddr b y off l))
      let taken (i : Instr) : Prop := t.co.landSfu.delivers g.cause = false → g.cause ≠ 0 → Reaches s i (fun q =>
        q.lastFault = some g ∧ q.co.halted = true ∧ q.co.fault = some g ∧ (toBuffer g = false → g.cause ≠ 9 → q.mem = t.mem) ∧
        (toBuffer g = true → let c := t.co
          let die := c.core / 512
          let buf (t : State) : FaultBuf := Tab.get FaultBuf.init (t.die die).fbufs c.ctx
          let page (x : FaultRec) : Bool := x.addr / 4096 == g.addr / 4096
          let entry : FaultRec :=
            { seq := t.seq, pc := c.wordAddr, addr := g.addr, paddr := g.paddr, ctx := c.ctx, tenant := c.tenant, cause := g.cause
              sub := g.sub, die := die, cluster := c.core / 16 % 32, core := c.core % 16, cohort := c.cohid, team := c.teamid
              lid := c.launchid.toNat, skid := if c.skid && c.asked then 1 else 0, flags := g.flags c.handler.isSome c.pair, waiters := 1 }
          let old (x : FaultRec) : Prop := some x ∈ (buf t).ents ∧ page x = true
          let signals : Prop := t.poison = [] → q.mem = (t.sendMsi (t.ctx c.ctx).msiAddr (t.ctx c.ctx).msiData).mem
          ((∃ x, old x) → q.mem = t.mem ∧ buf q = { buf t with ents := (buf t).ents.map (fun e => e.map (fun x =>
            if page x then { x with waiters := (x.waiters + 1) % 2 ^ 16, flags := x.flags ||| entry.flags % 8 } else x)) }) ∧
          ((¬∃ x, old x) →
            (∀ i, (buf t).ents[i]? = some none → (∀ j < i, (buf t).ents[j]? ≠ some none) →
              buf q = { buf t with ents := (buf t).ents.set i (some entry) } ∧ signals) ∧
            ((∀ x ∈ (buf t).ents, x ≠ none) → buf q = { buf t with drop := true, drops := min 65535 ((buf t).drops + 1) } ∧
              ((buf t).drop = false → signals) ∧ ((buf t).drop = true → q.mem = t.mem)))))
      (resolveLanes s.co .plain (sizeBytes size) .read false lanes s = (t, .error g) → taken (.ld f d b y size off sx)) ∧
      (resolveLanes s.co .plain (sizeBytes size) .write false lanes s = (t, .error g) → taken (.st f d b y size off))
end

