-- ==== Sys2Proof/Laws/Exec.lean ====
section
/-!
SUPPORT. The dispatch as equations: exec of each constructor is its meaning.
-/

namespace Sys2Proof.Machine

variable (s : State)

theorem exec_iadd (u : Bool) (d : Reg) (a : Reg) (b : Reg) :
    exec (.iadd u d a b) s = execIadd u d a b s := rfl
theorem exec_isub (u : Bool) (d : Reg) (a : Reg) (b : Reg) :
    exec (.isub u d a b) s = execIsub u d a b s := rfl
theorem exec_imul (u : Bool) (d : Reg) (a : Reg) (b : Reg) :
    exec (.imul u d a b) s = execImul u d a b s := rfl
theorem exec_imulhI32 (u : Bool) (d : Reg) (a : Reg) (b : Reg) :
    exec (.imulhI32 u d a b) s = execImulhI32 u d a b s := rfl
theorem exec_imulhN32 (u : Bool) (d : Reg) (a : Reg) (b : Reg) :
    exec (.imulhN32 u d a b) s = execImulhN32 u d a b s := rfl
theorem exec_iminI32 (u : Bool) (d : Reg) (a : Reg) (b : Reg) :
    exec (.iminI32 u d a b) s = execIminI32 u d a b s := rfl
theorem exec_iminN32 (u : Bool) (d : Reg) (a : Reg) (b : Reg) :
    exec (.iminN32 u d a b) s = execIminN32 u d a b s := rfl
theorem exec_imaxI32 (u : Bool) (d : Reg) (a : Reg) (b : Reg) :
    exec (.imaxI32 u d a b) s = execImaxI32 u d a b s := rfl
theorem exec_imaxN32 (u : Bool) (d : Reg) (a : Reg) (b : Reg) :
    exec (.imaxN32 u d a b) s = execImaxN32 u d a b s := rfl
theorem exec_iabs (u : Bool) (d : Reg) (a : Reg) :
    exec (.iabs u d a) s = execIabs u d a s := rfl
theorem exec_ineg (u : Bool) (d : Reg) (a : Reg) :
    exec (.ineg u d a) s = execIneg u d a s := rfl
theorem exec_imad (d : Reg) (a : Reg) (b : Reg) (c : Reg) :
    exec (.imad d a b c) s = execImad d a b c s := rfl
theorem exec_iadd64 (u : Bool) (d : Reg) (a : Reg) (b : Reg) :
    exec (.iadd64 u d a b) s = execIadd64 u d a b s := rfl
theorem exec_isub64 (u : Bool) (d : Reg) (a : Reg) (b : Reg) :
    exec (.isub64 u d a b) s = execIsub64 u d a b s := rfl
theorem exec_lea (u : Bool) (d : Reg) (a : Reg) (b : Reg) (s0 : BitVec 3) (sx : Bool) (off : Word) :
    exec (.lea u d a b s0 sx off) s = execLea u d a b s0 sx off s := rfl
theorem exec_iaddImm (u : Bool) (d : Reg) (a : Reg) (imm : BitVec 11) :
    exec (.iaddImm u d a imm) s = execIaddImm u d a imm s := rfl
theorem exec_andImm (u : Bool) (d : Reg) (a : Reg) (imm : BitVec 11) :
    exec (.andImm u d a imm) s = execAndImm u d a imm s := rfl
theorem exec_orImm (u : Bool) (d : Reg) (a : Reg) (imm : BitVec 11) :
    exec (.orImm u d a imm) s = execOrImm u d a imm s := rfl
theorem exec_xorImm (u : Bool) (d : Reg) (a : Reg) (imm : BitVec 11) :
    exec (.xorImm u d a imm) s = execXorImm u d a imm s := rfl
theorem exec_movi (u : Bool) (d : Reg) (lit : Word) :
    exec (.movi u d lit) s = execMovi u d lit s := rfl
theorem exec_andR (u : Bool) (d : Reg) (a : Reg) (b : Reg) :
    exec (.andR u d a b) s = execAndR u d a b s := rfl
theorem exec_orR (u : Bool) (d : Reg) (a : Reg) (b : Reg) :
    exec (.orR u d a b) s = execOrR u d a b s := rfl
theorem exec_xorR (u : Bool) (d : Reg) (a : Reg) (b : Reg) :
    exec (.xorR u d a b) s = execXorR u d a b s := rfl
theorem exec_andnR (u : Bool) (d : Reg) (a : Reg) (b : Reg) :
    exec (.andnR u d a b) s = execAndnR u d a b s := rfl
theorem exec_notR (u : Bool) (d : Reg) (a : Reg) :
    exec (.notR u d a) s = execNotR u d a s := rfl
theorem exec_mov (u : Bool) (d : Reg) (a : Reg) :
    exec (.mov u d a) s = execMov u d a s := rfl
theorem exec_shl (u : Bool) (d : Reg) (a : Reg) (b : Reg) :
    exec (.shl u d a b) s = execShl u d a b s := rfl
theorem exec_shr (u : Bool) (d : Reg) (a : Reg) (b : Reg) :
    exec (.shr u d a b) s = execShr u d a b s := rfl
theorem exec_sar (u : Bool) (d : Reg) (a : Reg) (b : Reg) :
    exec (.sar u d a b) s = execSar u d a b s := rfl
theorem exec_rot (u : Bool) (d : Reg) (a : Reg) (b : Reg) :
    exec (.rot u d a b) s = execRot u d a b s := rfl
theorem exec_shlImm (u : Bool) (d : Reg) (a : Reg) (n : BitVec 5) :
    exec (.shlImm u d a n) s = execShlImm u d a n s := rfl
theorem exec_shrImm (u : Bool) (d : Reg) (a : Reg) (n : BitVec 5) :
    exec (.shrImm u d a n) s = execShrImm u d a n s := rfl
theorem exec_sarImm (u : Bool) (d : Reg) (a : Reg) (n : BitVec 5) :
    exec (.sarImm u d a n) s = execSarImm u d a n s := rfl
theorem exec_rotImm (u : Bool) (d : Reg) (a : Reg) (n : BitVec 5) :
    exec (.rotImm u d a n) s = execRotImm u d a n s := rfl
theorem exec_popc (u : Bool) (d : Reg) (a : Reg) :
    exec (.popc u d a) s = execPopc u d a s := rfl
theorem exec_clz (u : Bool) (d : Reg) (a : Reg) :
    exec (.clz u d a) s = execClz u d a s := rfl
theorem exec_brev (u : Bool) (d : Reg) (a : Reg) :
    exec (.brev u d a) s = execBrev u d a s := rfl
theorem exec_bfxN32 (u : Bool) (d : Reg) (a : Reg) (len : BitVec 6) (pos : BitVec 5) :
    exec (.bfxN32 u d a len pos) s = execBfxN32 u d a len pos s := rfl
theorem exec_bfxI32 (u : Bool) (d : Reg) (a : Reg) (len : BitVec 6) (pos : BitVec 5) :
    exec (.bfxI32 u d a len pos) s = execBfxI32 u d a len pos s := rfl
theorem exec_bfi (u : Bool) (d : Reg) (a : Reg) (len : BitVec 6) (pos : BitVec 5) :
    exec (.bfi u d a len pos) s = execBfi u d a len pos s := rfl
theorem exec_sel (d : Reg) (a : Reg) (b : Reg) (m : Reg) :
    exec (.sel d a b m) s = execSel d a b m s := rfl
theorem exec_cmp (u : Bool) (d : Reg) (a : Reg) (b : Reg) (t : CmpType) (k : IntCond) :
    exec (.cmp u d a b t k) s = execCmp u d a b t k s := rfl
theorem exec_mpop (u : Bool) (d : Reg) (a : Reg) :
    exec (.mpop u d a) s = execMpop u d a s := rfl
theorem exec_mfirst (u : Bool) (d : Reg) (a : Reg) :
    exec (.mfirst u d a) s = execMfirst u d a s := rfl
theorem exec_perm (u : Bool) (d : Reg) (a : Reg) (b : Reg) :
    exec (.perm u d a b) s = execPerm u d a b s := rfl
theorem exec_shup (u : Bool) (d : Reg) (a : Reg) (b : Reg) :
    exec (.shup u d a b) s = execShup u d a b s := rfl
theorem exec_shdn (u : Bool) (d : Reg) (a : Reg) (b : Reg) :
    exec (.shdn u d a b) s = execShdn u d a b s := rfl
theorem exec_shxr (u : Bool) (d : Reg) (a : Reg) (b : Reg) :
    exec (.shxr u d a b) s = execShxr u d a b s := rfl
theorem exec_shupImm (u : Bool) (d : Reg) (a : Reg) (n : BitVec 6) :
    exec (.shupImm u d a n) s = execShupImm u d a n s := rfl
theorem exec_shdnImm (u : Bool) (d : Reg) (a : Reg) (n : BitVec 6) :
    exec (.shdnImm u d a n) s = execShdnImm u d a n s := rfl
theorem exec_shxrImm (u : Bool) (d : Reg) (a : Reg) (n : BitVec 6) :
    exec (.shxrImm u d a n) s = execShxrImm u d a n s := rfl
theorem exec_bcst (u : Bool) (d : Reg) (a : Reg) (b : Reg) :
    exec (.bcst u d a b) s = execBcst u d a b s := rfl
theorem exec_vred (u : Bool) (d : Reg) (a : Reg) (wide : Bool) (uns : Bool) (op : RedOp) :
    exec (.vred u d a wide uns op) s = execVred u d a wide uns op s := rfl
theorem exec_scan (u : Bool) (d : Reg) (a : Reg) (excl : Bool) (uns : Bool) (op : RedOp) :
    exec (.scan u d a excl uns op) s = execScan u d a excl uns op s := rfl
theorem exec_rds (u : Bool) (d : Reg) (idx : BitVec 6) :
    exec (.rds u d idx) s = execRds u d idx s := rfl
theorem exec_wrs (u : Bool) (a : Reg) (idx : BitVec 6) :
    exec (.wrs u a idx) s = execWrs u a idx s := rfl
theorem exec_fadd (u : Bool) (d : Reg) (a : Reg) (b : Reg) (t : FType) :
    exec (.fadd u d a b t) s = execFadd u d a b t s := rfl
theorem exec_fsub (u : Bool) (d : Reg) (a : Reg) (b : Reg) (t : FType) :
    exec (.fsub u d a b t) s = execFsub u d a b t s := rfl
theorem exec_fmul (u : Bool) (d : Reg) (a : Reg) (b : Reg) (t : FType) :
    exec (.fmul u d a b t) s = execFmul u d a b t s := rfl
theorem exec_fmin (u : Bool) (d : Reg) (a : Reg) (b : Reg) (t : FType) :
    exec (.fmin u d a b t) s = execFmin u d a b t s := rfl
theorem exec_fmax (u : Bool) (d : Reg) (a : Reg) (b : Reg) (t : FType) :
    exec (.fmax u d a b t) s = execFmax u d a b t s := rfl
theorem exec_ffma (d : Reg) (a : Reg) (b : Reg) (c : Reg) :
    exec (.ffma d a b c) s = execFfma d a b c s := rfl
theorem exec_fcmp (u : Bool) (d : Reg) (a : Reg) (b : Reg) (t : FType) (k : FloatCond) :
    exec (.fcmp u d a b t k) s = execFcmp u d a b t k s := rfl
theorem exec_fclass (u : Bool) (d : Reg) (a : Reg) (t : FType) :
    exec (.fclass u d a t) s = execFclass u d a t s := rfl
theorem exec_frint (u : Bool) (d : Reg) (a : Reg) (t : FType) (r : Rnd) :
    exec (.frint u d a t r) s = execFrint u d a t r s := rfl
theorem exec_fscale (u : Bool) (d : Reg) (a : Reg) (b : Reg) (t : FType) (r : Rnd) :
    exec (.fscale u d a b t r) s = execFscale u d a b t r s := rfl
theorem exec_fxp2 (u : Bool) (d : Reg) (a : Reg) (f : Bool) :
    exec (.fxp2 u d a f) s = execFxp2 u d a f s := rfl
theorem exec_flog2 (u : Bool) (d : Reg) (a : Reg) (f : Bool) :
    exec (.flog2 u d a f) s = execFlog2 u d a f s := rfl
theorem exec_frcp (u : Bool) (d : Reg) (a : Reg) (f : Bool) :
    exec (.frcp u d a f) s = execFrcp u d a f s := rfl
theorem exec_frsq (u : Bool) (d : Reg) (a : Reg) (f : Bool) :
    exec (.frsq u d a f) s = execFrsq u d a f s := rfl
theorem exec_fsqrt (u : Bool) (d : Reg) (a : Reg) (f : Bool) :
    exec (.fsqrt u d a f) s = execFsqrt u d a f s := rfl
theorem exec_fsinpi (u : Bool) (d : Reg) (a : Reg) (f : Bool) :
    exec (.fsinpi u d a f) s = execFsinpi u d a f s := rfl
theorem exec_fcospi (u : Bool) (d : Reg) (a : Reg) (f : Bool) :
    exec (.fcospi u d a f) s = execFcospi u d a f s := rfl
theorem exec_ftanh (u : Bool) (d : Reg) (a : Reg) (f : Bool) :
    exec (.ftanh u d a f) s = execFtanh u d a f s := rfl
theorem exec_hadd2 (u : Bool) (d : Reg) (a : Reg) (b : Reg) (bf : Bool) :
    exec (.hadd2 u d a b bf) s = execHadd2 u d a b bf s := rfl
theorem exec_hmul2 (u : Bool) (d : Reg) (a : Reg) (b : Reg) (bf : Bool) :
    exec (.hmul2 u d a b bf) s = execHmul2 u d a b bf s := rfl
theorem exec_hfma2F16 (d : Reg) (a : Reg) (b : Reg) (c : Reg) :
    exec (.hfma2F16 d a b c) s = execHfma2F16 d a b c s := rfl
theorem exec_hfma2B16 (d : Reg) (a : Reg) (b : Reg) (c : Reg) :
    exec (.hfma2B16 d a b c) s = execHfma2B16 d a b c s := rfl
theorem exec_cvt (u : Bool) (d : Reg) (a : Reg) (r : Rnd) (t : CvtType) (s0 : CvtType) :
    exec (.cvt u d a r t s0) s = execCvt u d a r t s0 s := rfl
theorem exec_cvtSat (u : Bool) (d : Reg) (a : Reg) (r : Rnd) (t : CvtType) (s0 : CvtType) :
    exec (.cvtSat u d a r t s0) s = execCvtSat u d a r t s0 s := rfl
theorem exec_qnt (d : Reg) (a : Reg) (r : Rnd) (k : BlkFmt) :
    exec (.qnt d a r k) s = execQnt d a r k s := rfl
theorem exec_dqt (u : Bool) (d : Reg) (a : Reg) (k : BlkFmt) :
    exec (.dqt u d a k) s = execDqt u d a k s := rfl
theorem exec_srnd (a : Reg) (b : Reg) :
    exec (.srnd a b) s = execSrnd a b s := rfl
theorem exec_bra (u : Bool) (m : Reg) (k : BrCond) (o : BitVec 15) :
    exec (.bra u m k o) s = execBra u m k o s := rfl
theorem exec_brc (u : Bool) (m : Reg) (k : BrCond) (o : BitVec 15) :
    exec (.brc u m k o) s = execBrc u m k o s := rfl
theorem exec_brd (u : Bool) (m : Reg) (k : BrCond) (o : BitVec 15) :
    exec (.brd u m k o) s = execBrd u m k o s := rfl
theorem exec_join  :
    exec (.join) s = execJoin s := rfl
theorem exec_brx (u : Bool) (a : Reg) :
    exec (.brx u a) s = execBrx u a s := rfl
theorem exec_call (u : Bool) (k : BitVec 6) (o : BitVec 15) :
    exec (.call u k o) s = execCall u k o s := rfl
theorem exec_callx (u : Bool) (a : Reg) (k : BitVec 5) :
    exec (.callx u a k) s = execCallx u a k s := rfl
theorem exec_ret  :
    exec (.ret) s = execRet s := rfl
theorem exec_exit  :
    exec (.exit) s = execExit s := rfl
theorem exec_yieldI  :
    exec (.yieldI) s = execYieldI s := rfl
theorem exec_trap (code : Byte) :
    exec (.trap code) s = execTrap code s := rfl
theorem exec_eret  :
    exec (.eret) s = execEret s := rfl
theorem exec_nop  :
    exec (.nop) s = execNop s := rfl
theorem exec_wdepth (d : Reg) :
    exec (.wdepth d) s = execWdepth d s := rfl
theorem exec_ld (f : Bool) (d : Reg) (b : Reg) (x : Reg) (s0 : MSize) (off : Option Word) (sx : Bool) :
    exec (.ld f d b x s0 off sx) s = execLd f d b x s0 off sx s := rfl
theorem exec_ldRo (f : Bool) (d : Reg) (b : Reg) (x : Reg) (s0 : MSize) (off : Option Word) (sx : Bool) :
    exec (.ldRo f d b x s0 off sx) s = execLdRo f d b x s0 off sx s := rfl
theorem exec_ldC (f : Bool) (d : Reg) (b : Reg) (x : Reg) (s0 : MSize) (off : Option Word) (sx : Bool) :
    exec (.ldC f d b x s0 off sx) s = execLdC f d b x s0 off sx s := rfl
theorem exec_ldNt (f : Bool) (d : Reg) (b : Reg) (x : Reg) (s0 : MSize) (off : Option Word) (sx : Bool) :
    exec (.ldNt f d b x s0 off sx) s = execLdNt f d b x s0 off sx s := rfl
theorem exec_ldU (f : Bool) (d : Reg) (b : Reg) (x : Reg) (s0 : MSize) (off : Option Word) (sx : Bool) :
    exec (.ldU f d b x s0 off sx) s = execLdU f d b x s0 off sx s := rfl
theorem exec_st (f : Bool) (d : Reg) (b : Reg) (x : Reg) (s0 : MSize) (off : Option Word) :
    exec (.st f d b x s0 off) s = execSt f d b x s0 off s := rfl
theorem exec_stNt (f : Bool) (d : Reg) (b : Reg) (x : Reg) (s0 : MSize) (off : Option Word) :
    exec (.stNt f d b x s0 off) s = execStNt f d b x s0 off s := rfl
theorem exec_lds (f : Bool) (d : Reg) (b : Reg) (x : Reg) (s0 : MSize) (off : Option Word) (sx : Bool) :
    exec (.lds f d b x s0 off sx) s = execLds f d b x s0 off sx s := rfl
theorem exec_sts (f : Bool) (d : Reg) (b : Reg) (x : Reg) (s0 : MSize) (off : Option Word) :
    exec (.sts f d b x s0 off) s = execSts f d b x s0 off s := rfl
theorem exec_ldf (f : Bool) (d : Reg) (b : Reg) (x : Reg) (off : Option Word) :
    exec (.ldf f d b x off) s = execLdf f d b x off s := rfl
theorem exec_stf (f : Bool) (d : Reg) (b : Reg) (x : Reg) (off : Option Word) :
    exec (.stf f d b x off) s = execStf f d b x off s := rfl
theorem exec_pref (f : Bool) (b : Reg) (x : Reg) (l : CacheLevel) (off : Option Word) :
    exec (.pref f b x l off) s = execPref f b x l off s := rfl
theorem exec_aadd (f : Bool) (d : Reg) (b : Reg) (v : Reg) (q : AtomQual) :
    exec (.aadd f d b v q) s = execAadd f d b v q s := rfl
theorem exec_amin (f : Bool) (d : Reg) (b : Reg) (v : Reg) (q : AtomQual) :
    exec (.amin f d b v q) s = execAmin f d b v q s := rfl
theorem exec_amax (f : Bool) (d : Reg) (b : Reg) (v : Reg) (q : AtomQual) :
    exec (.amax f d b v q) s = execAmax f d b v q s := rfl
theorem exec_aand (f : Bool) (d : Reg) (b : Reg) (v : Reg) (q : AtomQual) :
    exec (.aand f d b v q) s = execAand f d b v q s := rfl
theorem exec_aor (f : Bool) (d : Reg) (b : Reg) (v : Reg) (q : AtomQual) :
    exec (.aor f d b v q) s = execAor f d b v q s := rfl
theorem exec_axor (f : Bool) (d : Reg) (b : Reg) (v : Reg) (q : AtomQual) :
    exec (.axor f d b v q) s = execAxor f d b v q s := rfl
theorem exec_axch (f : Bool) (d : Reg) (b : Reg) (v : Reg) (q : AtomQual) :
    exec (.axch f d b v q) s = execAxch f d b v q s := rfl
theorem exec_acas (f : Bool) (d : Reg) (b : Reg) (v : Reg) (q : AtomQual) :
    exec (.acas f d b v q) s = execAcas f d b v q s := rfl
theorem exec_afadd (f : Bool) (d : Reg) (b : Reg) (v : Reg) (q : AtomQual) :
    exec (.afadd f d b v q) s = execAfadd f d b v q s := rfl
theorem exec_fence (o : MOrd) (sc : Scope) (ro : Bool) :
    exec (.fence o sc ro) s = execFence o sc ro s := rfl
theorem exec_waita (d : Reg) (a : Reg) (b : Reg) (w64 : Bool) (k : WaitCond) :
    exec (.waita d a b w64 k) s = execWaita d a b w64 k s := rfl
theorem exec_wakea (a : Reg) :
    exec (.wakea a) s = execWakea a s := rfl
theorem exec_cinv (f : Bool) (a : Reg) (b : Reg) :
    exec (.cinv f a b) s = execCinv f a b s := rfl
theorem exec_cwb (f : Bool) (a : Reg) (b : Reg) :
    exec (.cwb f a b) s = execCwb f a b s := rfl
theorem exec_tlbq (f : Bool) (d : Reg) (a : Reg) :
    exec (.tlbq f d a) s = execTlbq f d a s := rfl
theorem exec_clkrd (d : Reg) :
    exec (.clkrd d) s = execClkrd d s := rfl
theorem exec_sysc (f : Bool) (d : Reg) (a : Reg) :
    exec (.sysc f d a) s = execSysc f d a s := rfl
theorem exec_bkpt  :
    exec (.bkpt) s = execBkpt s := rfl
theorem exec_cpy (f : Bool) (d : Reg) (a : Reg) (b : Reg) :
    exec (.cpy f d a b) s = execCpy f d a b s := rfl
theorem exec_cpy2d (f : Bool) (d : Reg) (a : Reg) (p : PBlock) :
    exec (.cpy2d f d a p) s = execCpy2d f d a p s := rfl
theorem exec_cpyg (f : Bool) (d : Reg) (a : Reg) (b : Reg) (p : PBlock) :
    exec (.cpyg f d a b p) s = execCpyg f d a b p s := rfl
theorem exec_cpyo (f : Bool) (d : Reg) (a : Reg) (b : Reg) :
    exec (.cpyo f d a b) s = execCpyo f d a b s := rfl
theorem exec_plnx (f : Bool) (d : Reg) (a : Reg) (b : Reg) (p : PBlock) :
    exec (.plnx f d a b p) s = execPlnx f d a b p s := rfl
theorem exec_sbq (d : Reg) (a : Reg) :
    exec (.sbq d a) s = execSbq d a s := rfl
theorem exec_resa (d : Reg) (a : Reg) :
    exec (.resa d a) s = execResa d a s := rfl
theorem exec_respin (a : Reg) :
    exec (.respin a) s = execRespin a s := rfl
theorem exec_respinUnpin (a : Reg) :
    exec (.respinUnpin a) s = execRespinUnpin a s := rfl
theorem exec_resrel (a : Reg) :
    exec (.resrel a) s = execResrel a s := rfl
theorem exec_resq (d : Reg) (a : Reg) :
    exec (.resq d a) s = execResq d a s := rfl
theorem exec_resl (f : Bool) (a : Reg) (b : Reg) (p : PBlock) :
    exec (.resl f a b p) s = execResl f a b p s := rfl
theorem exec_mma (f : Bool) (d : Reg) (a : Reg) (b : Reg) (p : PBlock) :
    exec (.mma f d a b p) s = execMma f d a b p s := rfl
theorem exec_mma1 (f : Bool) (d : Reg) (a : Reg) (b : Reg) (p : PBlock) :
    exec (.mma1 f d a b p) s = execMma1 f d a b p s := rfl
theorem exec_accz (f : Bool) (a : Reg) :
    exec (.accz f a) s = execAccz f a s := rfl
theorem exec_accrd (f : Bool) (a : Reg) (b : Reg) :
    exec (.accrd f a b) s = execAccrd f a b s := rfl
theorem exec_accwr (f : Bool) (a : Reg) (b : Reg) :
    exec (.accwr f a b) s = execAccwr f a b s := rfl
theorem exec_scld (f : Bool) (a : Reg) (p : PBlock) :
    exec (.scld f a p) s = execScld f a p s := rfl
theorem exec_barinit (t : Reg) (n : Reg) (b : Reg) (cl : Bool) :
    exec (.barinit t n b cl) s = execBarinit t n b cl s := rfl
theorem exec_bararr (d : Reg) (b : Reg) (cl : Bool) :
    exec (.bararr d b cl) s = execBararr d b cl s := rfl
theorem exec_barwait (k : Reg) (b : Reg) (cl : Bool) :
    exec (.barwait k b cl) s = execBarwait k b cl s := rfl
theorem exec_barsync (b : Reg) (cl : Bool) :
    exec (.barsync b cl) s = execBarsync b cl s := rfl
theorem exec_barq (d : Reg) (b : Reg) (cl : Bool) :
    exec (.barq d b cl) s = execBarq d b cl s := rfl
theorem exec_route (f : Bool) (d : Reg) (a : Reg) (b : Reg) (p : PBlock) :
    exec (.route f d a b p) s = execRoute f d a b p s := rfl
theorem exec_routeq (d : Reg) :
    exec (.routeq d) s = execRouteq d s := rfl
theorem exec_launch (f : Bool) (d : Reg) (a : Reg) :
    exec (.launch f d a) s = execLaunch f d a s := rfl
theorem exec_evsig (f : Bool) (a : Reg) (b : Reg) :
    exec (.evsig f a b) s = execEvsig f a b s := rfl
theorem exec_evwait (d : Reg) (a : Reg) (b : Reg) :
    exec (.evwait d a b) s = execEvwait d a b s := rfl
theorem exec_galloc (d : Reg) (a : Reg) :
    exec (.galloc d a) s = execGalloc d a s := rfl
theorem exec_gfree (d : Reg) (a : Reg) :
    exec (.gfree d a) s = execGfree d a s := rfl
theorem exec_gadv  :
    exec (.gadv) s = execGadv s := rfl
theorem exec_gqry (d : Reg) :
    exec (.gqry d) s = execGqry d s := rfl
theorem exec_nput (f : Bool) (d : Reg) (a : Reg) (b : Reg) (p : PBlock) :
    exec (.nput f d a b p) s = execNput f d a b p s := rfl
theorem exec_nget (f : Bool) (d : Reg) (a : Reg) (b : Reg) (p : PBlock) :
    exec (.nget f d a b p) s = execNget f d a b p s := rfl
theorem exec_ncoll (f : Bool) (d : Reg) (a : Reg) (b : Reg) (p : PBlock) :
    exec (.ncoll f d a b p) s = execNcoll f d a b p s := rfl
theorem exec_na2a (f : Bool) (d : Reg) (a : Reg) (b : Reg) (p : PBlock) :
    exec (.na2a f d a b p) s = execNa2a f d a b p s := rfl
theorem exec_nred (f : Bool) (d : Reg) (a : Reg) (b : Reg) (p : PBlock) :
    exec (.nred f d a b p) s = execNred f d a b p s := rfl
theorem exec_trigarm (f : Bool) (d : Reg) (a : Reg) :
    exec (.trigarm f d a) s = execTrigarm f d a s := rfl
theorem exec_ctrset (f : Bool) (a : Reg) (b : Reg) :
    exec (.ctrset f a b) s = execCtrset f a b s := rfl
theorem exec_ctradd (f : Bool) (a : Reg) (b : Reg) :
    exec (.ctradd f a b) s = execCtradd f a b s := rfl
theorem exec_ctrrd (d : Reg) (b : Reg) :
    exec (.ctrrd d b) s = execCtrrd d b s := rfl
theorem exec_app (f : Bool) (d : Reg) (a : Reg) (b : Reg) :
    exec (.app f d a b) s = execApp f d a b s := rfl
theorem exec_appsync (f : Bool) (d : Reg) (a : Reg) (b : Reg) :
    exec (.appsync f d a b) s = execAppsync f d a b s := rfl
theorem exec_appseal (f : Bool) (d : Reg) (b : Reg) :
    exec (.appseal f d b) s = execAppseal f d b s := rfl
theorem exec_fmpreq (f : Bool) (d : Reg) (a : Reg) (b : Reg) :
    exec (.fmpreq f d a b) s = execFmpreq f d a b s := rfl
theorem exec_glaunch (rd : BitVec 5) (rs1 : BitVec 5) (rs2 : BitVec 5) :
    exec (.glaunch rd rs1 rs2) s = execGlaunch rd rs1 rs2 s := rfl
theorem exec_gevsig (rd : BitVec 5) (rs1 : BitVec 5) (rs2 : BitVec 5) :
    exec (.gevsig rd rs1 rs2) s = execGevsig rd rs1 rs2 s := rfl
theorem exec_gevwait (rd : BitVec 5) (rs1 : BitVec 5) (rs2 : BitVec 5) :
    exec (.gevwait rd rs1 rs2) s = execGevwait rd rs1 rs2 s := rfl
theorem exec_gctx (rd : BitVec 5) (rs1 : BitVec 5) (rs2 : BitVec 5) :
    exec (.gctx rd rs1 rs2) s = execGctx rd rs1 rs2 s := rfl
theorem exec_selectClause (core : Nat) :
    exec (.selectClause core) s = execSelectClause core s := rfl
theorem exec_sfuResult (co : Nat) (op : Nat) :
    exec (.sfuResult co op) s = execSfuResult co op s := rfl
theorem exec_cohortEnd (co : Nat) :
    exec (.cohortEnd co) s = execCohortEnd co s := rfl
theorem exec_trapEntry (cause : Byte) (sub : Byte) :
    exec (.trapEntry cause sub) s = execTrapEntry cause sub s := rfl
theorem exec_loadComplete (co : Nat) (op : Nat) :
    exec (.loadComplete co op) s = execLoadComplete co op s := rfl
theorem exec_storeComplete (co : Nat) (op : Nat) :
    exec (.storeComplete co op) s = execStoreComplete co op s := rfl
theorem exec_atomicComplete (co : Nat) (op : Nat) :
    exec (.atomicComplete co op) s = execAtomicComplete co op s := rfl
theorem exec_prefComplete (co : Nat) (op : Nat) :
    exec (.prefComplete co op) s = execPrefComplete co op s := rfl
theorem exec_fenceComplete (co : Nat) :
    exec (.fenceComplete co) s = execFenceComplete co s := rfl
theorem exec_waitaWake (co : Nat) :
    exec (.waitaWake co) s = execWaitaWake co s := rfl
theorem exec_waitaTimeout (co : Nat) :
    exec (.waitaTimeout co) s = execWaitaTimeout co s := rfl
theorem exec_cacheMaintComplete (co : Nat) (op : Nat) :
    exec (.cacheMaintComplete co op) s = execCacheMaintComplete co op s := rfl
theorem exec_syscAnswer (co : Nat) :
    exec (.syscAnswer co) s = execSyscAnswer co s := rfl
theorem exec_sysTailWrite (ctx : Nat) (v : Word) :
    exec (.sysTailWrite ctx v) s = execSysTailWrite ctx v s := rfl
theorem exec_copyRetire (core : Nat) (cmd : Nat) :
    exec (.copyRetire core cmd) s = execCopyRetire core cmd s := rfl
theorem exec_matrixCommandStart (core : Nat) :
    exec (.matrixCommandStart core) s = execMatrixCommandStart core s := rfl
theorem exec_matrixCommandRetire (core : Nat) :
    exec (.matrixCommandRetire core) s = execMatrixCommandRetire core s := rfl
theorem exec_accRetire (core : Nat) (cmd : Nat) :
    exec (.accRetire core cmd) s = execAccRetire core cmd s := rfl
theorem exec_scldRetire (core : Nat) (cmd : Nat) :
    exec (.scldRetire core cmd) s = execScldRetire core cmd s := rfl
theorem exec_barrierTimeout (cl : Bool) (team : Nat) (b : Nat) :
    exec (.barrierTimeout cl team b) s = execBarrierTimeout cl team b s := rfl
theorem exec_siblingStop (co : Nat) :
    exec (.siblingStop co) s = execSiblingStop co s := rfl
theorem exec_teamHalt (team : Nat) :
    exec (.teamHalt team) s = execTeamHalt team s := rfl
theorem exec_routeRetire (cluster : Nat) :
    exec (.routeRetire cluster) s = execRouteRetire cluster s := rfl
theorem exec_evwaitWake (co : Nat) :
    exec (.evwaitWake co) s = execEvwaitWake co s := rfl
theorem exec_evwaitTimeout (co : Nat) :
    exec (.evwaitTimeout co) s = execEvwaitTimeout co s := rfl
theorem exec_gevwaitWake (hart : Nat) :
    exec (.gevwaitWake hart) s = execGevwaitWake hart s := rfl
theorem exec_hartMemoryOperation (hart : Nat) (op : HartOp) :
    exec (.hartMemoryOperation hart op) s = execHartMemoryOperation hart op s := rfl
theorem exec_pcieInboundRequest (r : PcieReq) :
    exec (.pcieInboundRequest r) s = execPcieInboundRequest r s := rfl
theorem exec_dependenceTest (ctx : Nat) (q : Nat) :
    exec (.dependenceTest ctx q) s = execDependenceTest ctx q s := rfl
theorem exec_teamPlace (ctx : Nat) (q : Nat) (index : Nat) (slot : Nat) (granule : Nat) :
    exec (.teamPlace ctx q index slot granule) s = execTeamPlace ctx q index slot granule s := rfl
theorem exec_launchComplete (ctx : Nat) (lid : Nat) :
    exec (.launchComplete ctx lid) s = execLaunchComplete ctx lid s := rfl
theorem exec_fabricCommandComplete (cmd : Nat) (status : Byte) (hop : Bool) (bytes : List Byte) :
    exec (.fabricCommandComplete cmd status hop bytes) s = execFabricCommandComplete cmd status hop bytes s := rfl
theorem exec_fabricPacketReceive (m : NetMsg) :
    exec (.fabricPacketReceive m) s = execFabricPacketReceive m s := rfl
theorem exec_keepalive (module : Nat) :
    exec (.keepalive module) s = execKeepalive module s := rfl
theorem exec_peerLost (module : Nat) :
    exec (.peerLost module) s = execPeerLost module s := rfl
theorem exec_retransmission (cmd : Nat) :
    exec (.retransmission cmd) s = execRetransmission cmd s := rfl
theorem exec_appComplete (req : Nat) :
    exec (.appComplete req) s = execAppComplete req s := rfl
theorem exec_durabilityAdvance (log : Nat) (n : Nat) :
    exec (.durabilityAdvance log n) s = execDurabilityAdvance log n s := rfl
theorem exec_logquery (req : Nat) :
    exec (.logquery req) s = execLogquery req s := rfl
theorem exec_logtrim (req : Nat) :
    exec (.logtrim req) s = execLogtrim req s := rfl
theorem exec_fmpResult (req : Nat) :
    exec (.fmpResult req) s = execFmpResult req s := rfl
theorem exec_logcreate (req : Nat) :
    exec (.logcreate req) s = execLogcreate req s := rfl
theorem exec_logmap (req : Nat) :
    exec (.logmap req) s = execLogmap req s := rfl
theorem exec_logunmap (req : Nat) :
    exec (.logunmap req) s = execLogunmap req s := rfl
theorem exec_logdelete (req : Nat) :
    exec (.logdelete req) s = execLogdelete req s := rfl
theorem exec_appendS (req : Nat) :
    exec (.appendS req) s = execAppendS req s := rfl
theorem exec_syncS (req : Nat) :
    exec (.syncS req) s = execSyncS req s := rfl
theorem exec_sealS (req : Nat) :
    exec (.sealS req) s = execSealS req s := rfl
theorem exec_fmpMboxSubmit (pa : Nat) :
    exec (.fmpMboxSubmit pa) s = execFmpMboxSubmit pa s := rfl
theorem exec_flashRelocation (granule : Nat) (frame : Nat) :
    exec (.flashRelocation granule frame) s = execFlashRelocation granule frame s := rfl
theorem exec_relocationCopyEnd (granule : Nat) :
    exec (.relocationCopyEnd granule) s = execRelocationCopyEnd granule s := rfl
theorem exec_granuleClear (granule : Nat) :
    exec (.granuleClear granule) s = execGranuleClear granule s := rfl
theorem exec_fmpRestart  :
    exec (.fmpRestart) s = execFmpRestart s := rfl
theorem exec_shootdownComplete (die : Nat) :
    exec (.shootdownComplete die) s = execShootdownComplete die s := rfl
theorem exec_preemptDrained (ctx : Nat) :
    exec (.preemptDrained ctx) s = execPreemptDrained ctx s := rfl
theorem exec_stopDrainEnd (ctx : Nat) :
    exec (.stopDrainEnd ctx) s = execStopDrainEnd ctx s := rfl
theorem exec_contextTermination (ctx : Nat) :
    exec (.contextTermination ctx) s = execContextTermination ctx s := rfl
theorem exec_preemptDeadline (ctx : Nat) :
    exec (.preemptDeadline ctx) s = execPreemptDeadline ctx s := rfl
theorem exec_wcFlush (core : Nat) :
    exec (.wcFlush core) s = execWcFlush core s := rfl
theorem exec_hbmRebuildEnd (stack : Nat) :
    exec (.hbmRebuildEnd stack) s = execHbmRebuildEnd stack s := rfl
theorem exec_keygen (req : Nat) :
    exec (.keygen req) s = execKeygen req s := rfl
theorem exec_region (req : Nat) :
    exec (.region req) s = execRegion req s := rfl
theorem exec_fabbind (req : Nat) :
    exec (.fabbind req) s = execFabbind req s := rfl
theorem exec_revoke (req : Nat) :
    exec (.revoke req) s = execRevoke req s := rfl
theorem exec_tkcResult (req : Nat) :
    exec (.tkcResult req) s = execTkcResult req s := rfl
theorem exec_attest (req : Nat) :
    exec (.attest req) s = execAttest req s := rfl
theorem exec_pageWalkComplete (cluster : Nat) (ctx : Nat) (va : Nat) (kind : AccessKind) (waiters : List Nat) :
    exec (.pageWalkComplete cluster ctx va kind waiters) s = execPageWalkComplete cluster ctx va kind waiters s := rfl
theorem exec_replayAll (die : Nat) (ctx : Nat) :
    exec (.replayAll die ctx) s = execReplayAll die ctx s := rfl
theorem exec_shootdownGo (die : Nat) :
    exec (.shootdownGo die) s = execShootdownGo die s := rfl
theorem exec_preempt (ctx : Nat) :
    exec (.preempt ctx) s = execPreempt ctx s := rfl
theorem exec_stop (ctx : Nat) :
    exec (.stop ctx) s = execStop ctx s := rfl
theorem exec_resume (ctx : Nat) :
    exec (.resume ctx) s = execResume ctx s := rfl
theorem exec_terminate (ctx : Nat) :
    exec (.terminate ctx) s = execTerminate ctx s := rfl
theorem exec_release (ctx : Nat) :
    exec (.release ctx) s = execRelease ctx s := rfl
theorem exec_continueC (ctx : Nat) :
    exec (.continueC ctx) s = execContinueC ctx s := rfl
theorem exec_uncorrectableError (pa : Nat) :
    exec (.uncorrectableError pa) s = execUncorrectableError pa s := rfl
theorem exec_hartPoisonTrap (hart : Nat) (pa : Nat) :
    exec (.hartPoisonTrap hart pa) s = execHartPoisonTrap hart pa s := rfl
theorem exec_refreshRetry (stack : Nat) :
    exec (.refreshRetry stack) s = execRefreshRetry stack s := rfl
theorem exec_channelRetirement (stack : Nat) (channel : Nat) :
    exec (.channelRetirement stack channel) s = execChannelRetirement stack channel s := rfl
theorem exec_shadowSwitch (stack : Nat) :
    exec (.shadowSwitch stack) s = execShadowSwitch stack s := rfl
theorem exec_patrolScrub (pa : Nat) :
    exec (.patrolScrub pa) s = execPatrolScrub pa s := rfl
theorem exec_tkcMboxSubmit (pa : Nat) :
    exec (.tkcMboxSubmit pa) s = execTkcMboxSubmit pa s := rfl
theorem exec_sbmpMessage (m : SbmpMsg) :
    exec (.sbmpMessage m) s = execSbmpMessage m s := rfl
theorem exec_thermalTrip (die : Nat) (temp : Half) :
    exec (.thermalTrip die temp) s = execThermalTrip die temp s := rfl
theorem exec_registerWrite (pa : Nat) (v : DWord) :
    exec (.registerWrite pa v) s = execRegisterWrite pa v s := rfl
theorem exec_tkcRestart  :
    exec (.tkcRestart) s = execTkcRestart s := rfl
theorem exec_ideKeySwitch  :
    exec (.ideKeySwitch) s = execIdeKeySwitch s := rfl
theorem exec_ps0  :
    exec (.ps0) s = execPs0 s := rfl
theorem exec_ps1  :
    exec (.ps1) s = execPs1 s := rfl
theorem exec_ps2  :
    exec (.ps2) s = execPs2 s := rfl
theorem exec_ps3  :
    exec (.ps3) s = execPs3 s := rfl
theorem exec_ps4  :
    exec (.ps4) s = execPs4 s := rfl
theorem exec_powerTransitionEnd  :
    exec (.powerTransitionEnd) s = execPowerTransitionEnd s := rfl
theorem exec_pcieWake  :
    exec (.pcieWake) s = execPcieWake s := rfl
theorem exec_coldBoot  :
    exec (.coldBoot) s = execColdBoot s := rfl
theorem exec_sequencerMark  :
    exec (.sequencerMark) s = execSequencerMark s := rfl
theorem exec_powerLoss  :
    exec (.powerLoss) s = execPowerLoss s := rfl

end Sys2Proof.Machine
end

