-- ==== Sys2Proof/Laws/Faults.lean ====
section
/-!
SUPPORT. What a fault that no handler takes does: it stops the cohort with the fault recorded (R162, R298).
-/

namespace Sys2Proof.Machine

/-- A team fault that goes to no buffer and no context status stops the cohort. -/
theorem State.teamFault_co (s : State) (f : FaultInfo) (pc : Nat) (hb : toBuffer f = false) (hl : f.cause ≠ 9) :
    (s.teamFault f pc).co = { s.co.landSfu with
      halted := true, asked := false, skid := s.co.landSfu.skid && s.co.landSfu.asked
      fault := some f, faultAt := pc, pre := none } := by
  have hl' : f.cause ≠ causeLongLatency := hl
  unfold State.teamFault
  simp only [hb, if_neg hl', Bool.false_eq_true, if_false]
  generalize State.team? _ _ = q
  cases q with
  | none => rfl
  | some t =>
    cases h : t.status <;> simp only [h] <;> rfl

/-- A fault whose cause no handler takes is recorded, and the cohort stops with it. A fault of cause 0 is none: the cohort waits. -/
theorem State.raise_stops (s : State) (f : FaultInfo) (h0 : f.cause ≠ 0) (hb : toBuffer f = false) (hl : f.cause ≠ 9)
    (hd : s.co.landSfu.delivers f.cause = false) :
    (s.raise f).lastFault = some f ∧ (s.raise f).co.halted = true ∧ (s.raise f).co.fault = some f := by
  have h : s.raise f = { ({ s with co := s.co.landSfu } : State).teamFault f s.co.wordAddr with lastFault := some f } := by
    simp [State.raise, State.takeFault, h0, hd]
  rw [h]
  refine ⟨rfl, ?_, ?_⟩ <;> dsimp only <;> rw [State.teamFault_co _ f _ hb hl]

end Sys2Proof.Machine
end

