-- ==== Sys2Proof/Laws/Tab.lean ====
section
/-!
SUPPORT. What the operations on sparse maps do: reading after erasing, putting and setting, and the canonical form, which every
one of them keeps.
-/

namespace Sys2Proof.Machine

variable {α : Type}

theorem Tab.get_erase (d : α) (t : Tab α) (n m : Nat) : Tab.get d (t.erase n) m = if m = n then d else Tab.get d t m := by
  induction t with
  | nil => simp [Tab.erase, Tab.get]
  | cons e t ih =>
    obtain ⟨k, v⟩ := e
    by_cases hk : k = n
    · subst hk
      by_cases hm : m = k
      · subst hm; simp [Tab.erase, ih]
      · simp [Tab.erase, Tab.get, ih, hm, Ne.symm hm]
    · by_cases hm : m = n
      · subst hm; simp [Tab.erase, Tab.get, hk, ih]
      · by_cases hkm : k = m <;> simp [Tab.erase, Tab.get, hk, ih, hm, hkm]

theorem Tab.get_put (d : α) (t : Tab α) (n : Nat) (x : α) (m : Nat) :
    Tab.get d (t.put n x) m = if m = n then x else Tab.get d t m := by
  induction t with
  | nil => simp [Tab.put, Tab.get, eq_comm]
  | cons e t ih =>
    obtain ⟨k, v⟩ := e
    by_cases hlt : k < n
    · by_cases hkm : k = m
      · subst hkm
        simp [Tab.put, Tab.get, hlt, Nat.ne_of_lt hlt]
      · simp [Tab.put, Tab.get, hlt, hkm, ih]
    · by_cases hk : k = n
      · subst hk
        by_cases hm : m = k
        · subst hm; simp [Tab.put, Tab.get]
        · simp [Tab.put, Tab.get, hm, Ne.symm hm]
      · by_cases hm : m = n
        · subst hm; simp [Tab.put, Tab.get, hlt, hk]
        · simp [Tab.put, Tab.get, hlt, hk, hm, Ne.symm hm]

/-- Reading after a write: the value written, or what stood there. -/
theorem Tab.get_set [DecidableEq α] (d : α) (t : Tab α) (n : Nat) (x : α) (m : Nat) :
    Tab.get d (Tab.set d t n x) m = if m = n then x else Tab.get d t m := by
  unfold Tab.set
  split
  · next h => rw [Tab.get_erase]; simp [h]
  · exact Tab.get_put d t n x m

theorem Tab.find_put (t : Tab α) (n : Nat) (x : α) (m : Nat) :
    Tab.find (t.put n x) m = if m = n then some x else Tab.find t m := by
  induction t with
  | nil => simp [Tab.put, Tab.find, eq_comm]
  | cons e t ih =>
    obtain ⟨k, v⟩ := e
    by_cases hlt : k < n
    · by_cases hkm : k = m
      · subst hkm
        simp [Tab.put, Tab.find, hlt, Nat.ne_of_lt hlt]
      · simp [Tab.put, Tab.find, hlt, hkm, ih]
    · by_cases hk : k = n
      · subst hk
        by_cases hm : m = k
        · subst hm; simp [Tab.put, Tab.find]
        · simp [Tab.put, Tab.find, hm, Ne.symm hm]
      · by_cases hm : m = n
        · subst hm; simp [Tab.put, Tab.find, hlt, hk]
        · simp [Tab.put, Tab.find, hlt, hk, hm, Ne.symm hm]

theorem Tab.okAbove_mono [DecidableEq α] (d : α) {m n : Nat} (h : m ≤ n) (t : Tab α) (ht : Tab.okAbove d n t = true) :
    Tab.okAbove d m t = true := by
  cases t with
  | nil => rfl
  | cons e t =>
    obtain ⟨k, v⟩ := e
    simp only [Tab.okAbove, Bool.and_eq_true, decide_eq_true_eq] at ht ⊢
    exact ⟨⟨by omega, ht.1.2⟩, ht.2⟩

theorem Tab.okAbove_erase [DecidableEq α] (d : α) (n : Nat) (t : Tab α) (b : Nat) (ht : Tab.okAbove d b t = true) :
    Tab.okAbove d b (t.erase n) = true := by
  induction t generalizing b with
  | nil => rfl
  | cons e t ih =>
    obtain ⟨k, v⟩ := e
    simp only [Tab.okAbove, Bool.and_eq_true, decide_eq_true_eq] at ht
    by_cases hk : k = n
    · simp only [Tab.erase, hk, if_true]
      exact Tab.okAbove_mono d (by omega) _ (ih _ ht.2)
    · simp only [Tab.erase, hk, if_false, Tab.okAbove, Bool.and_eq_true, decide_eq_true_eq]
      exact ⟨ht.1, ih _ ht.2⟩

theorem Tab.okAbove_put [DecidableEq α] (d : α) (n : Nat) (x : α) (hx : x ≠ d) (t : Tab α) (b : Nat) (hb : b ≤ n)
    (ht : Tab.okAbove d b t = true) : Tab.okAbove d b (t.put n x) = true := by
  induction t generalizing b with
  | nil => simp [Tab.put, Tab.okAbove, hx, hb]
  | cons e t ih =>
    obtain ⟨k, v⟩ := e
    simp only [Tab.okAbove, Bool.and_eq_true, decide_eq_true_eq] at ht
    by_cases hlt : k < n
    · simp only [Tab.put, hlt, if_true, Tab.okAbove, Bool.and_eq_true, decide_eq_true_eq]
      exact ⟨ht.1, ih _ (by omega) ht.2⟩
    · by_cases hk : k = n
      · subst hk
        simp only [Tab.put, Nat.lt_irrefl, if_false, if_true, Tab.okAbove, Bool.and_eq_true, decide_eq_true_eq]
        exact ⟨⟨hb, hx⟩, ht.2⟩
      · simp only [Tab.put, hlt, hk, if_false, Tab.okAbove, Bool.and_eq_true, decide_eq_true_eq]
        exact ⟨⟨hb, hx⟩, ⟨by omega, ht.1.2⟩, ht.2⟩

/-- A write keeps the canonical form. -/
theorem Tab.ok_set [DecidableEq α] (d : α) (t : Tab α) (n : Nat) (x : α) (ht : Tab.ok d t = true) :
    Tab.ok d (Tab.set d t n x) = true := by
  unfold Tab.ok at *
  unfold Tab.set
  split
  · exact Tab.okAbove_erase d n t 0 ht
  · next h => exact Tab.okAbove_put d n x h t 0 (Nat.zero_le _) ht

theorem Tab.okAbove_filter [DecidableEq α] (d : α) (p : Nat × α → Bool) (t : Tab α) (b : Nat)
    (ht : Tab.okAbove d b t = true) : Tab.okAbove d b (t.filter p) = true := by
  induction t generalizing b with
  | nil => rfl
  | cons e t ih =>
    obtain ⟨k, v⟩ := e
    simp only [Tab.okAbove, Bool.and_eq_true, decide_eq_true_eq] at ht
    by_cases hp : p (k, v) = true
    · simp only [List.filter, hp, Tab.okAbove, Bool.and_eq_true, decide_eq_true_eq]
      exact ⟨ht.1, ih _ ht.2⟩
    · simp only [List.filter, hp]
      exact Tab.okAbove_mono d (by omega) _ (ih _ ht.2)

/-- Dropping entries keeps the canonical form. -/
theorem Tab.ok_filter [DecidableEq α] (d : α) (p : Nat × α → Bool) (t : Tab α) (ht : Tab.ok d t = true) :
    Tab.ok d (t.filter p) = true := Tab.okAbove_filter d p t 0 ht

end Sys2Proof.Machine
end

