-- ==== Sys2Proof/Laws/State.lean ====
section
/-!
SUPPORT. One lemma for each field of State and each basic update of it, and what each part reads as after an update.
-/

namespace Sys2Proof.Machine

variable (s : State)

/-! State.setByte -/

@[simp] theorem State.setByte_mem (a : Nat) (b : Byte) : (s.setByte a b).mem = Tab.set memDefault s.mem a b := rfl
@[simp] theorem State.setByte_poison (a : Nat) (b : Byte) : (s.setByte a b).poison = s.poison := rfl
@[simp] theorem State.setByte_co (a : Nat) (b : Byte) : (s.setByte a b).co = s.co := rfl
@[simp] theorem State.setByte_cohorts (a : Nat) (b : Byte) : (s.setByte a b).cohorts = s.cohorts := rfl
@[simp] theorem State.setByte_teams (a : Nat) (b : Byte) : (s.setByte a b).teams = s.teams := rfl
@[simp] theorem State.setByte_cores (a : Nat) (b : Byte) : (s.setByte a b).cores = s.cores := rfl
@[simp] theorem State.setByte_clusters (a : Nat) (b : Byte) : (s.setByte a b).clusters = s.clusters := rfl
@[simp] theorem State.setByte_dies (a : Nat) (b : Byte) : (s.setByte a b).dies = s.dies := rfl
@[simp] theorem State.setByte_ctxs (a : Nat) (b : Byte) : (s.setByte a b).ctxs = s.ctxs := rfl
@[simp] theorem State.setByte_tenants (a : Nat) (b : Byte) : (s.setByte a b).tenants = s.tenants := rfl
@[simp] theorem State.setByte_harts (a : Nat) (b : Byte) : (s.setByte a b).harts = s.harts := rfl
@[simp] theorem State.setByte_stalls (a : Nat) (b : Byte) : (s.setByte a b).stalls = s.stalls := rfl
@[simp] theorem State.setByte_seq (a : Nat) (b : Byte) : (s.setByte a b).seq = s.seq := rfl
@[simp] theorem State.setByte_clk (a : Nat) (b : Byte) : (s.setByte a b).clk = s.clk := rfl
@[simp] theorem State.setByte_timer (a : Nat) (b : Byte) : (s.setByte a b).timer = s.timer := rfl
@[simp] theorem State.setByte_fresh (a : Nat) (b : Byte) : (s.setByte a b).fresh = s.fresh := rfl
@[simp] theorem State.setByte_agenda (a : Nat) (b : Byte) : (s.setByte a b).agenda = s.agenda := rfl
@[simp] theorem State.setByte_tick (a : Nat) (b : Byte) : (s.setByte a b).tick = s.tick := rfl
@[simp] theorem State.setByte_burst (a : Nat) (b : Byte) : (s.setByte a b).burst = s.burst := rfl
@[simp] theorem State.setByte_turn (a : Nat) (b : Byte) : (s.setByte a b).turn = s.turn := rfl
@[simp] theorem State.setByte_lastFault (a : Nat) (b : Byte) : (s.setByte a b).lastFault = s.lastFault := rfl
@[simp] theorem State.setByte_fabs (a : Nat) (b : Byte) : (s.setByte a b).fabs = s.fabs := rfl
@[simp] theorem State.setByte_fcmds (a : Nat) (b : Byte) : (s.setByte a b).fcmds = s.fcmds := rfl
@[simp] theorem State.setByte_fabMod (a : Nat) (b : Byte) : (s.setByte a b).fabMod = s.fabMod := rfl
@[simp] theorem State.setByte_heard (a : Nat) (b : Byte) : (s.setByte a b).heard = s.heard := rfl
@[simp] theorem State.setByte_logs (a : Nat) (b : Byte) : (s.setByte a b).logs = s.logs := rfl
@[simp] theorem State.setByte_freqs (a : Nat) (b : Byte) : (s.setByte a b).freqs = s.freqs := rfl
@[simp] theorem State.setByte_kept (a : Nat) (b : Byte) : (s.setByte a b).kept = s.kept := rfl
@[simp] theorem State.setByte_fmp (a : Nat) (b : Byte) : (s.setByte a b).fmp = s.fmp := rfl
@[simp] theorem State.setByte_relocs (a : Nat) (b : Byte) : (s.setByte a b).relocs = s.relocs := rfl
@[simp] theorem State.setByte_tkc (a : Nat) (b : Byte) : (s.setByte a b).tkc = s.tkc := rfl
@[simp] theorem State.setByte_pwr (a : Nat) (b : Byte) : (s.setByte a b).pwr = s.pwr := rfl
@[simp] theorem State.setByte_hbm (a : Nat) (b : Byte) : (s.setByte a b).hbm = s.hbm := rfl
@[simp] theorem State.setByte_lp (a : Nat) (b : Byte) : (s.setByte a b).lp = s.lp := rfl
@[simp] theorem State.setByte_boot (a : Nat) (b : Byte) : (s.setByte a b).boot = s.boot := rfl

/-! State.setCore -/

@[simp] theorem State.setCore_mem (n : Nat) (c : Core) : (s.setCore n c).mem = s.mem := rfl
@[simp] theorem State.setCore_poison (n : Nat) (c : Core) : (s.setCore n c).poison = s.poison := rfl
@[simp] theorem State.setCore_co (n : Nat) (c : Core) : (s.setCore n c).co = s.co := rfl
@[simp] theorem State.setCore_cohorts (n : Nat) (c : Core) : (s.setCore n c).cohorts = s.cohorts := rfl
@[simp] theorem State.setCore_teams (n : Nat) (c : Core) : (s.setCore n c).teams = s.teams := rfl
@[simp] theorem State.setCore_cores (n : Nat) (c : Core) : (s.setCore n c).cores = Tab.put s.cores n c := rfl
@[simp] theorem State.setCore_clusters (n : Nat) (c : Core) : (s.setCore n c).clusters = s.clusters := rfl
@[simp] theorem State.setCore_dies (n : Nat) (c : Core) : (s.setCore n c).dies = s.dies := rfl
@[simp] theorem State.setCore_ctxs (n : Nat) (c : Core) : (s.setCore n c).ctxs = s.ctxs := rfl
@[simp] theorem State.setCore_tenants (n : Nat) (c : Core) : (s.setCore n c).tenants = s.tenants := rfl
@[simp] theorem State.setCore_harts (n : Nat) (c : Core) : (s.setCore n c).harts = s.harts := rfl
@[simp] theorem State.setCore_stalls (n : Nat) (c : Core) : (s.setCore n c).stalls = s.stalls := rfl
@[simp] theorem State.setCore_seq (n : Nat) (c : Core) : (s.setCore n c).seq = s.seq := rfl
@[simp] theorem State.setCore_clk (n : Nat) (c : Core) : (s.setCore n c).clk = s.clk := rfl
@[simp] theorem State.setCore_timer (n : Nat) (c : Core) : (s.setCore n c).timer = s.timer := rfl
@[simp] theorem State.setCore_fresh (n : Nat) (c : Core) : (s.setCore n c).fresh = s.fresh := rfl
@[simp] theorem State.setCore_agenda (n : Nat) (c : Core) : (s.setCore n c).agenda = s.agenda := rfl
@[simp] theorem State.setCore_tick (n : Nat) (c : Core) : (s.setCore n c).tick = s.tick := rfl
@[simp] theorem State.setCore_burst (n : Nat) (c : Core) : (s.setCore n c).burst = s.burst := rfl
@[simp] theorem State.setCore_turn (n : Nat) (c : Core) : (s.setCore n c).turn = s.turn := rfl
@[simp] theorem State.setCore_lastFault (n : Nat) (c : Core) : (s.setCore n c).lastFault = s.lastFault := rfl
@[simp] theorem State.setCore_fabs (n : Nat) (c : Core) : (s.setCore n c).fabs = s.fabs := rfl
@[simp] theorem State.setCore_fcmds (n : Nat) (c : Core) : (s.setCore n c).fcmds = s.fcmds := rfl
@[simp] theorem State.setCore_fabMod (n : Nat) (c : Core) : (s.setCore n c).fabMod = s.fabMod := rfl
@[simp] theorem State.setCore_heard (n : Nat) (c : Core) : (s.setCore n c).heard = s.heard := rfl
@[simp] theorem State.setCore_logs (n : Nat) (c : Core) : (s.setCore n c).logs = s.logs := rfl
@[simp] theorem State.setCore_freqs (n : Nat) (c : Core) : (s.setCore n c).freqs = s.freqs := rfl
@[simp] theorem State.setCore_kept (n : Nat) (c : Core) : (s.setCore n c).kept = s.kept := rfl
@[simp] theorem State.setCore_fmp (n : Nat) (c : Core) : (s.setCore n c).fmp = s.fmp := rfl
@[simp] theorem State.setCore_relocs (n : Nat) (c : Core) : (s.setCore n c).relocs = s.relocs := rfl
@[simp] theorem State.setCore_tkc (n : Nat) (c : Core) : (s.setCore n c).tkc = s.tkc := rfl
@[simp] theorem State.setCore_pwr (n : Nat) (c : Core) : (s.setCore n c).pwr = s.pwr := rfl
@[simp] theorem State.setCore_hbm (n : Nat) (c : Core) : (s.setCore n c).hbm = s.hbm := rfl
@[simp] theorem State.setCore_lp (n : Nat) (c : Core) : (s.setCore n c).lp = s.lp := rfl
@[simp] theorem State.setCore_boot (n : Nat) (c : Core) : (s.setCore n c).boot = s.boot := rfl

/-! State.modCore -/

@[simp] theorem State.modCore_mem (n : Nat) (f : Core → Core) : (s.modCore n f).mem = s.mem := rfl
@[simp] theorem State.modCore_poison (n : Nat) (f : Core → Core) : (s.modCore n f).poison = s.poison := rfl
@[simp] theorem State.modCore_co (n : Nat) (f : Core → Core) : (s.modCore n f).co = s.co := rfl
@[simp] theorem State.modCore_cohorts (n : Nat) (f : Core → Core) : (s.modCore n f).cohorts = s.cohorts := rfl
@[simp] theorem State.modCore_teams (n : Nat) (f : Core → Core) : (s.modCore n f).teams = s.teams := rfl
@[simp] theorem State.modCore_cores (n : Nat) (f : Core → Core) : (s.modCore n f).cores = Tab.put s.cores n (f (s.core n)) := rfl
@[simp] theorem State.modCore_clusters (n : Nat) (f : Core → Core) : (s.modCore n f).clusters = s.clusters := rfl
@[simp] theorem State.modCore_dies (n : Nat) (f : Core → Core) : (s.modCore n f).dies = s.dies := rfl
@[simp] theorem State.modCore_ctxs (n : Nat) (f : Core → Core) : (s.modCore n f).ctxs = s.ctxs := rfl
@[simp] theorem State.modCore_tenants (n : Nat) (f : Core → Core) : (s.modCore n f).tenants = s.tenants := rfl
@[simp] theorem State.modCore_harts (n : Nat) (f : Core → Core) : (s.modCore n f).harts = s.harts := rfl
@[simp] theorem State.modCore_stalls (n : Nat) (f : Core → Core) : (s.modCore n f).stalls = s.stalls := rfl
@[simp] theorem State.modCore_seq (n : Nat) (f : Core → Core) : (s.modCore n f).seq = s.seq := rfl
@[simp] theorem State.modCore_clk (n : Nat) (f : Core → Core) : (s.modCore n f).clk = s.clk := rfl
@[simp] theorem State.modCore_timer (n : Nat) (f : Core → Core) : (s.modCore n f).timer = s.timer := rfl
@[simp] theorem State.modCore_fresh (n : Nat) (f : Core → Core) : (s.modCore n f).fresh = s.fresh := rfl
@[simp] theorem State.modCore_agenda (n : Nat) (f : Core → Core) : (s.modCore n f).agenda = s.agenda := rfl
@[simp] theorem State.modCore_tick (n : Nat) (f : Core → Core) : (s.modCore n f).tick = s.tick := rfl
@[simp] theorem State.modCore_burst (n : Nat) (f : Core → Core) : (s.modCore n f).burst = s.burst := rfl
@[simp] theorem State.modCore_turn (n : Nat) (f : Core → Core) : (s.modCore n f).turn = s.turn := rfl
@[simp] theorem State.modCore_lastFault (n : Nat) (f : Core → Core) : (s.modCore n f).lastFault = s.lastFault := rfl
@[simp] theorem State.modCore_fabs (n : Nat) (f : Core → Core) : (s.modCore n f).fabs = s.fabs := rfl
@[simp] theorem State.modCore_fcmds (n : Nat) (f : Core → Core) : (s.modCore n f).fcmds = s.fcmds := rfl
@[simp] theorem State.modCore_fabMod (n : Nat) (f : Core → Core) : (s.modCore n f).fabMod = s.fabMod := rfl
@[simp] theorem State.modCore_heard (n : Nat) (f : Core → Core) : (s.modCore n f).heard = s.heard := rfl
@[simp] theorem State.modCore_logs (n : Nat) (f : Core → Core) : (s.modCore n f).logs = s.logs := rfl
@[simp] theorem State.modCore_freqs (n : Nat) (f : Core → Core) : (s.modCore n f).freqs = s.freqs := rfl
@[simp] theorem State.modCore_kept (n : Nat) (f : Core → Core) : (s.modCore n f).kept = s.kept := rfl
@[simp] theorem State.modCore_fmp (n : Nat) (f : Core → Core) : (s.modCore n f).fmp = s.fmp := rfl
@[simp] theorem State.modCore_relocs (n : Nat) (f : Core → Core) : (s.modCore n f).relocs = s.relocs := rfl
@[simp] theorem State.modCore_tkc (n : Nat) (f : Core → Core) : (s.modCore n f).tkc = s.tkc := rfl
@[simp] theorem State.modCore_pwr (n : Nat) (f : Core → Core) : (s.modCore n f).pwr = s.pwr := rfl
@[simp] theorem State.modCore_hbm (n : Nat) (f : Core → Core) : (s.modCore n f).hbm = s.hbm := rfl
@[simp] theorem State.modCore_lp (n : Nat) (f : Core → Core) : (s.modCore n f).lp = s.lp := rfl
@[simp] theorem State.modCore_boot (n : Nat) (f : Core → Core) : (s.modCore n f).boot = s.boot := rfl

/-! State.setCluster -/

@[simp] theorem State.setCluster_mem (n : Nat) (c : Cluster) : (s.setCluster n c).mem = s.mem := rfl
@[simp] theorem State.setCluster_poison (n : Nat) (c : Cluster) : (s.setCluster n c).poison = s.poison := rfl
@[simp] theorem State.setCluster_co (n : Nat) (c : Cluster) : (s.setCluster n c).co = s.co := rfl
@[simp] theorem State.setCluster_cohorts (n : Nat) (c : Cluster) : (s.setCluster n c).cohorts = s.cohorts := rfl
@[simp] theorem State.setCluster_teams (n : Nat) (c : Cluster) : (s.setCluster n c).teams = s.teams := rfl
@[simp] theorem State.setCluster_cores (n : Nat) (c : Cluster) : (s.setCluster n c).cores = s.cores := rfl
@[simp] theorem State.setCluster_clusters (n : Nat) (c : Cluster) : (s.setCluster n c).clusters = Tab.put s.clusters n c := rfl
@[simp] theorem State.setCluster_dies (n : Nat) (c : Cluster) : (s.setCluster n c).dies = s.dies := rfl
@[simp] theorem State.setCluster_ctxs (n : Nat) (c : Cluster) : (s.setCluster n c).ctxs = s.ctxs := rfl
@[simp] theorem State.setCluster_tenants (n : Nat) (c : Cluster) : (s.setCluster n c).tenants = s.tenants := rfl
@[simp] theorem State.setCluster_harts (n : Nat) (c : Cluster) : (s.setCluster n c).harts = s.harts := rfl
@[simp] theorem State.setCluster_stalls (n : Nat) (c : Cluster) : (s.setCluster n c).stalls = s.stalls := rfl
@[simp] theorem State.setCluster_seq (n : Nat) (c : Cluster) : (s.setCluster n c).seq = s.seq := rfl
@[simp] theorem State.setCluster_clk (n : Nat) (c : Cluster) : (s.setCluster n c).clk = s.clk := rfl
@[simp] theorem State.setCluster_timer (n : Nat) (c : Cluster) : (s.setCluster n c).timer = s.timer := rfl
@[simp] theorem State.setCluster_fresh (n : Nat) (c : Cluster) : (s.setCluster n c).fresh = s.fresh := rfl
@[simp] theorem State.setCluster_agenda (n : Nat) (c : Cluster) : (s.setCluster n c).agenda = s.agenda := rfl
@[simp] theorem State.setCluster_tick (n : Nat) (c : Cluster) : (s.setCluster n c).tick = s.tick := rfl
@[simp] theorem State.setCluster_burst (n : Nat) (c : Cluster) : (s.setCluster n c).burst = s.burst := rfl
@[simp] theorem State.setCluster_turn (n : Nat) (c : Cluster) : (s.setCluster n c).turn = s.turn := rfl
@[simp] theorem State.setCluster_lastFault (n : Nat) (c : Cluster) : (s.setCluster n c).lastFault = s.lastFault := rfl
@[simp] theorem State.setCluster_fabs (n : Nat) (c : Cluster) : (s.setCluster n c).fabs = s.fabs := rfl
@[simp] theorem State.setCluster_fcmds (n : Nat) (c : Cluster) : (s.setCluster n c).fcmds = s.fcmds := rfl
@[simp] theorem State.setCluster_fabMod (n : Nat) (c : Cluster) : (s.setCluster n c).fabMod = s.fabMod := rfl
@[simp] theorem State.setCluster_heard (n : Nat) (c : Cluster) : (s.setCluster n c).heard = s.heard := rfl
@[simp] theorem State.setCluster_logs (n : Nat) (c : Cluster) : (s.setCluster n c).logs = s.logs := rfl
@[simp] theorem State.setCluster_freqs (n : Nat) (c : Cluster) : (s.setCluster n c).freqs = s.freqs := rfl
@[simp] theorem State.setCluster_kept (n : Nat) (c : Cluster) : (s.setCluster n c).kept = s.kept := rfl
@[simp] theorem State.setCluster_fmp (n : Nat) (c : Cluster) : (s.setCluster n c).fmp = s.fmp := rfl
@[simp] theorem State.setCluster_relocs (n : Nat) (c : Cluster) : (s.setCluster n c).relocs = s.relocs := rfl
@[simp] theorem State.setCluster_tkc (n : Nat) (c : Cluster) : (s.setCluster n c).tkc = s.tkc := rfl
@[simp] theorem State.setCluster_pwr (n : Nat) (c : Cluster) : (s.setCluster n c).pwr = s.pwr := rfl
@[simp] theorem State.setCluster_hbm (n : Nat) (c : Cluster) : (s.setCluster n c).hbm = s.hbm := rfl
@[simp] theorem State.setCluster_lp (n : Nat) (c : Cluster) : (s.setCluster n c).lp = s.lp := rfl
@[simp] theorem State.setCluster_boot (n : Nat) (c : Cluster) : (s.setCluster n c).boot = s.boot := rfl

/-! State.modCluster -/

@[simp] theorem State.modCluster_mem (n : Nat) (f : Cluster → Cluster) : (s.modCluster n f).mem = s.mem := rfl
@[simp] theorem State.modCluster_poison (n : Nat) (f : Cluster → Cluster) : (s.modCluster n f).poison = s.poison := rfl
@[simp] theorem State.modCluster_co (n : Nat) (f : Cluster → Cluster) : (s.modCluster n f).co = s.co := rfl
@[simp] theorem State.modCluster_cohorts (n : Nat) (f : Cluster → Cluster) : (s.modCluster n f).cohorts = s.cohorts := rfl
@[simp] theorem State.modCluster_teams (n : Nat) (f : Cluster → Cluster) : (s.modCluster n f).teams = s.teams := rfl
@[simp] theorem State.modCluster_cores (n : Nat) (f : Cluster → Cluster) : (s.modCluster n f).cores = s.cores := rfl
@[simp] theorem State.modCluster_clusters (n : Nat) (f : Cluster → Cluster) : (s.modCluster n f).clusters = Tab.put s.clusters n (f (s.cluster n)) := rfl
@[simp] theorem State.modCluster_dies (n : Nat) (f : Cluster → Cluster) : (s.modCluster n f).dies = s.dies := rfl
@[simp] theorem State.modCluster_ctxs (n : Nat) (f : Cluster → Cluster) : (s.modCluster n f).ctxs = s.ctxs := rfl
@[simp] theorem State.modCluster_tenants (n : Nat) (f : Cluster → Cluster) : (s.modCluster n f).tenants = s.tenants := rfl
@[simp] theorem State.modCluster_harts (n : Nat) (f : Cluster → Cluster) : (s.modCluster n f).harts = s.harts := rfl
@[simp] theorem State.modCluster_stalls (n : Nat) (f : Cluster → Cluster) : (s.modCluster n f).stalls = s.stalls := rfl
@[simp] theorem State.modCluster_seq (n : Nat) (f : Cluster → Cluster) : (s.modCluster n f).seq = s.seq := rfl
@[simp] theorem State.modCluster_clk (n : Nat) (f : Cluster → Cluster) : (s.modCluster n f).clk = s.clk := rfl
@[simp] theorem State.modCluster_timer (n : Nat) (f : Cluster → Cluster) : (s.modCluster n f).timer = s.timer := rfl
@[simp] theorem State.modCluster_fresh (n : Nat) (f : Cluster → Cluster) : (s.modCluster n f).fresh = s.fresh := rfl
@[simp] theorem State.modCluster_agenda (n : Nat) (f : Cluster → Cluster) : (s.modCluster n f).agenda = s.agenda := rfl
@[simp] theorem State.modCluster_tick (n : Nat) (f : Cluster → Cluster) : (s.modCluster n f).tick = s.tick := rfl
@[simp] theorem State.modCluster_burst (n : Nat) (f : Cluster → Cluster) : (s.modCluster n f).burst = s.burst := rfl
@[simp] theorem State.modCluster_turn (n : Nat) (f : Cluster → Cluster) : (s.modCluster n f).turn = s.turn := rfl
@[simp] theorem State.modCluster_lastFault (n : Nat) (f : Cluster → Cluster) : (s.modCluster n f).lastFault = s.lastFault := rfl
@[simp] theorem State.modCluster_fabs (n : Nat) (f : Cluster → Cluster) : (s.modCluster n f).fabs = s.fabs := rfl
@[simp] theorem State.modCluster_fcmds (n : Nat) (f : Cluster → Cluster) : (s.modCluster n f).fcmds = s.fcmds := rfl
@[simp] theorem State.modCluster_fabMod (n : Nat) (f : Cluster → Cluster) : (s.modCluster n f).fabMod = s.fabMod := rfl
@[simp] theorem State.modCluster_heard (n : Nat) (f : Cluster → Cluster) : (s.modCluster n f).heard = s.heard := rfl
@[simp] theorem State.modCluster_logs (n : Nat) (f : Cluster → Cluster) : (s.modCluster n f).logs = s.logs := rfl
@[simp] theorem State.modCluster_freqs (n : Nat) (f : Cluster → Cluster) : (s.modCluster n f).freqs = s.freqs := rfl
@[simp] theorem State.modCluster_kept (n : Nat) (f : Cluster → Cluster) : (s.modCluster n f).kept = s.kept := rfl
@[simp] theorem State.modCluster_fmp (n : Nat) (f : Cluster → Cluster) : (s.modCluster n f).fmp = s.fmp := rfl
@[simp] theorem State.modCluster_relocs (n : Nat) (f : Cluster → Cluster) : (s.modCluster n f).relocs = s.relocs := rfl
@[simp] theorem State.modCluster_tkc (n : Nat) (f : Cluster → Cluster) : (s.modCluster n f).tkc = s.tkc := rfl
@[simp] theorem State.modCluster_pwr (n : Nat) (f : Cluster → Cluster) : (s.modCluster n f).pwr = s.pwr := rfl
@[simp] theorem State.modCluster_hbm (n : Nat) (f : Cluster → Cluster) : (s.modCluster n f).hbm = s.hbm := rfl
@[simp] theorem State.modCluster_lp (n : Nat) (f : Cluster → Cluster) : (s.modCluster n f).lp = s.lp := rfl
@[simp] theorem State.modCluster_boot (n : Nat) (f : Cluster → Cluster) : (s.modCluster n f).boot = s.boot := rfl

/-! State.setDie -/

@[simp] theorem State.setDie_mem (n : Nat) (d : Die) : (s.setDie n d).mem = s.mem := rfl
@[simp] theorem State.setDie_poison (n : Nat) (d : Die) : (s.setDie n d).poison = s.poison := rfl
@[simp] theorem State.setDie_co (n : Nat) (d : Die) : (s.setDie n d).co = s.co := rfl
@[simp] theorem State.setDie_cohorts (n : Nat) (d : Die) : (s.setDie n d).cohorts = s.cohorts := rfl
@[simp] theorem State.setDie_teams (n : Nat) (d : Die) : (s.setDie n d).teams = s.teams := rfl
@[simp] theorem State.setDie_cores (n : Nat) (d : Die) : (s.setDie n d).cores = s.cores := rfl
@[simp] theorem State.setDie_clusters (n : Nat) (d : Die) : (s.setDie n d).clusters = s.clusters := rfl
@[simp] theorem State.setDie_dies (n : Nat) (d : Die) : (s.setDie n d).dies = Tab.put s.dies n d := rfl
@[simp] theorem State.setDie_ctxs (n : Nat) (d : Die) : (s.setDie n d).ctxs = s.ctxs := rfl
@[simp] theorem State.setDie_tenants (n : Nat) (d : Die) : (s.setDie n d).tenants = s.tenants := rfl
@[simp] theorem State.setDie_harts (n : Nat) (d : Die) : (s.setDie n d).harts = s.harts := rfl
@[simp] theorem State.setDie_stalls (n : Nat) (d : Die) : (s.setDie n d).stalls = s.stalls := rfl
@[simp] theorem State.setDie_seq (n : Nat) (d : Die) : (s.setDie n d).seq = s.seq := rfl
@[simp] theorem State.setDie_clk (n : Nat) (d : Die) : (s.setDie n d).clk = s.clk := rfl
@[simp] theorem State.setDie_timer (n : Nat) (d : Die) : (s.setDie n d).timer = s.timer := rfl
@[simp] theorem State.setDie_fresh (n : Nat) (d : Die) : (s.setDie n d).fresh = s.fresh := rfl
@[simp] theorem State.setDie_agenda (n : Nat) (d : Die) : (s.setDie n d).agenda = s.agenda := rfl
@[simp] theorem State.setDie_tick (n : Nat) (d : Die) : (s.setDie n d).tick = s.tick := rfl
@[simp] theorem State.setDie_burst (n : Nat) (d : Die) : (s.setDie n d).burst = s.burst := rfl
@[simp] theorem State.setDie_turn (n : Nat) (d : Die) : (s.setDie n d).turn = s.turn := rfl
@[simp] theorem State.setDie_lastFault (n : Nat) (d : Die) : (s.setDie n d).lastFault = s.lastFault := rfl
@[simp] theorem State.setDie_fabs (n : Nat) (d : Die) : (s.setDie n d).fabs = s.fabs := rfl
@[simp] theorem State.setDie_fcmds (n : Nat) (d : Die) : (s.setDie n d).fcmds = s.fcmds := rfl
@[simp] theorem State.setDie_fabMod (n : Nat) (d : Die) : (s.setDie n d).fabMod = s.fabMod := rfl
@[simp] theorem State.setDie_heard (n : Nat) (d : Die) : (s.setDie n d).heard = s.heard := rfl
@[simp] theorem State.setDie_logs (n : Nat) (d : Die) : (s.setDie n d).logs = s.logs := rfl
@[simp] theorem State.setDie_freqs (n : Nat) (d : Die) : (s.setDie n d).freqs = s.freqs := rfl
@[simp] theorem State.setDie_kept (n : Nat) (d : Die) : (s.setDie n d).kept = s.kept := rfl
@[simp] theorem State.setDie_fmp (n : Nat) (d : Die) : (s.setDie n d).fmp = s.fmp := rfl
@[simp] theorem State.setDie_relocs (n : Nat) (d : Die) : (s.setDie n d).relocs = s.relocs := rfl
@[simp] theorem State.setDie_tkc (n : Nat) (d : Die) : (s.setDie n d).tkc = s.tkc := rfl
@[simp] theorem State.setDie_pwr (n : Nat) (d : Die) : (s.setDie n d).pwr = s.pwr := rfl
@[simp] theorem State.setDie_hbm (n : Nat) (d : Die) : (s.setDie n d).hbm = s.hbm := rfl
@[simp] theorem State.setDie_lp (n : Nat) (d : Die) : (s.setDie n d).lp = s.lp := rfl
@[simp] theorem State.setDie_boot (n : Nat) (d : Die) : (s.setDie n d).boot = s.boot := rfl

/-! State.modDie -/

@[simp] theorem State.modDie_mem (n : Nat) (f : Die → Die) : (s.modDie n f).mem = s.mem := rfl
@[simp] theorem State.modDie_poison (n : Nat) (f : Die → Die) : (s.modDie n f).poison = s.poison := rfl
@[simp] theorem State.modDie_co (n : Nat) (f : Die → Die) : (s.modDie n f).co = s.co := rfl
@[simp] theorem State.modDie_cohorts (n : Nat) (f : Die → Die) : (s.modDie n f).cohorts = s.cohorts := rfl
@[simp] theorem State.modDie_teams (n : Nat) (f : Die → Die) : (s.modDie n f).teams = s.teams := rfl
@[simp] theorem State.modDie_cores (n : Nat) (f : Die → Die) : (s.modDie n f).cores = s.cores := rfl
@[simp] theorem State.modDie_clusters (n : Nat) (f : Die → Die) : (s.modDie n f).clusters = s.clusters := rfl
@[simp] theorem State.modDie_dies (n : Nat) (f : Die → Die) : (s.modDie n f).dies = Tab.put s.dies n (f (s.die n)) := rfl
@[simp] theorem State.modDie_ctxs (n : Nat) (f : Die → Die) : (s.modDie n f).ctxs = s.ctxs := rfl
@[simp] theorem State.modDie_tenants (n : Nat) (f : Die → Die) : (s.modDie n f).tenants = s.tenants := rfl
@[simp] theorem State.modDie_harts (n : Nat) (f : Die → Die) : (s.modDie n f).harts = s.harts := rfl
@[simp] theorem State.modDie_stalls (n : Nat) (f : Die → Die) : (s.modDie n f).stalls = s.stalls := rfl
@[simp] theorem State.modDie_seq (n : Nat) (f : Die → Die) : (s.modDie n f).seq = s.seq := rfl
@[simp] theorem State.modDie_clk (n : Nat) (f : Die → Die) : (s.modDie n f).clk = s.clk := rfl
@[simp] theorem State.modDie_timer (n : Nat) (f : Die → Die) : (s.modDie n f).timer = s.timer := rfl
@[simp] theorem State.modDie_fresh (n : Nat) (f : Die → Die) : (s.modDie n f).fresh = s.fresh := rfl
@[simp] theorem State.modDie_agenda (n : Nat) (f : Die → Die) : (s.modDie n f).agenda = s.agenda := rfl
@[simp] theorem State.modDie_tick (n : Nat) (f : Die → Die) : (s.modDie n f).tick = s.tick := rfl
@[simp] theorem State.modDie_burst (n : Nat) (f : Die → Die) : (s.modDie n f).burst = s.burst := rfl
@[simp] theorem State.modDie_turn (n : Nat) (f : Die → Die) : (s.modDie n f).turn = s.turn := rfl
@[simp] theorem State.modDie_lastFault (n : Nat) (f : Die → Die) : (s.modDie n f).lastFault = s.lastFault := rfl
@[simp] theorem State.modDie_fabs (n : Nat) (f : Die → Die) : (s.modDie n f).fabs = s.fabs := rfl
@[simp] theorem State.modDie_fcmds (n : Nat) (f : Die → Die) : (s.modDie n f).fcmds = s.fcmds := rfl
@[simp] theorem State.modDie_fabMod (n : Nat) (f : Die → Die) : (s.modDie n f).fabMod = s.fabMod := rfl
@[simp] theorem State.modDie_heard (n : Nat) (f : Die → Die) : (s.modDie n f).heard = s.heard := rfl
@[simp] theorem State.modDie_logs (n : Nat) (f : Die → Die) : (s.modDie n f).logs = s.logs := rfl
@[simp] theorem State.modDie_freqs (n : Nat) (f : Die → Die) : (s.modDie n f).freqs = s.freqs := rfl
@[simp] theorem State.modDie_kept (n : Nat) (f : Die → Die) : (s.modDie n f).kept = s.kept := rfl
@[simp] theorem State.modDie_fmp (n : Nat) (f : Die → Die) : (s.modDie n f).fmp = s.fmp := rfl
@[simp] theorem State.modDie_relocs (n : Nat) (f : Die → Die) : (s.modDie n f).relocs = s.relocs := rfl
@[simp] theorem State.modDie_tkc (n : Nat) (f : Die → Die) : (s.modDie n f).tkc = s.tkc := rfl
@[simp] theorem State.modDie_pwr (n : Nat) (f : Die → Die) : (s.modDie n f).pwr = s.pwr := rfl
@[simp] theorem State.modDie_hbm (n : Nat) (f : Die → Die) : (s.modDie n f).hbm = s.hbm := rfl
@[simp] theorem State.modDie_lp (n : Nat) (f : Die → Die) : (s.modDie n f).lp = s.lp := rfl
@[simp] theorem State.modDie_boot (n : Nat) (f : Die → Die) : (s.modDie n f).boot = s.boot := rfl

/-! State.setCtx -/

@[simp] theorem State.setCtx_mem (n : Nat) (c : Ctx) : (s.setCtx n c).mem = s.mem := rfl
@[simp] theorem State.setCtx_poison (n : Nat) (c : Ctx) : (s.setCtx n c).poison = s.poison := rfl
@[simp] theorem State.setCtx_co (n : Nat) (c : Ctx) : (s.setCtx n c).co = s.co := rfl
@[simp] theorem State.setCtx_cohorts (n : Nat) (c : Ctx) : (s.setCtx n c).cohorts = s.cohorts := rfl
@[simp] theorem State.setCtx_teams (n : Nat) (c : Ctx) : (s.setCtx n c).teams = s.teams := rfl
@[simp] theorem State.setCtx_cores (n : Nat) (c : Ctx) : (s.setCtx n c).cores = s.cores := rfl
@[simp] theorem State.setCtx_clusters (n : Nat) (c : Ctx) : (s.setCtx n c).clusters = s.clusters := rfl
@[simp] theorem State.setCtx_dies (n : Nat) (c : Ctx) : (s.setCtx n c).dies = s.dies := rfl
@[simp] theorem State.setCtx_ctxs (n : Nat) (c : Ctx) : (s.setCtx n c).ctxs = Tab.put s.ctxs n c := rfl
@[simp] theorem State.setCtx_tenants (n : Nat) (c : Ctx) : (s.setCtx n c).tenants = s.tenants := rfl
@[simp] theorem State.setCtx_harts (n : Nat) (c : Ctx) : (s.setCtx n c).harts = s.harts := rfl
@[simp] theorem State.setCtx_stalls (n : Nat) (c : Ctx) : (s.setCtx n c).stalls = s.stalls := rfl
@[simp] theorem State.setCtx_seq (n : Nat) (c : Ctx) : (s.setCtx n c).seq = s.seq := rfl
@[simp] theorem State.setCtx_clk (n : Nat) (c : Ctx) : (s.setCtx n c).clk = s.clk := rfl
@[simp] theorem State.setCtx_timer (n : Nat) (c : Ctx) : (s.setCtx n c).timer = s.timer := rfl
@[simp] theorem State.setCtx_fresh (n : Nat) (c : Ctx) : (s.setCtx n c).fresh = s.fresh := rfl
@[simp] theorem State.setCtx_agenda (n : Nat) (c : Ctx) : (s.setCtx n c).agenda = s.agenda := rfl
@[simp] theorem State.setCtx_tick (n : Nat) (c : Ctx) : (s.setCtx n c).tick = s.tick := rfl
@[simp] theorem State.setCtx_burst (n : Nat) (c : Ctx) : (s.setCtx n c).burst = s.burst := rfl
@[simp] theorem State.setCtx_turn (n : Nat) (c : Ctx) : (s.setCtx n c).turn = s.turn := rfl
@[simp] theorem State.setCtx_lastFault (n : Nat) (c : Ctx) : (s.setCtx n c).lastFault = s.lastFault := rfl
@[simp] theorem State.setCtx_fabs (n : Nat) (c : Ctx) : (s.setCtx n c).fabs = s.fabs := rfl
@[simp] theorem State.setCtx_fcmds (n : Nat) (c : Ctx) : (s.setCtx n c).fcmds = s.fcmds := rfl
@[simp] theorem State.setCtx_fabMod (n : Nat) (c : Ctx) : (s.setCtx n c).fabMod = s.fabMod := rfl
@[simp] theorem State.setCtx_heard (n : Nat) (c : Ctx) : (s.setCtx n c).heard = s.heard := rfl
@[simp] theorem State.setCtx_logs (n : Nat) (c : Ctx) : (s.setCtx n c).logs = s.logs := rfl
@[simp] theorem State.setCtx_freqs (n : Nat) (c : Ctx) : (s.setCtx n c).freqs = s.freqs := rfl
@[simp] theorem State.setCtx_kept (n : Nat) (c : Ctx) : (s.setCtx n c).kept = s.kept := rfl
@[simp] theorem State.setCtx_fmp (n : Nat) (c : Ctx) : (s.setCtx n c).fmp = s.fmp := rfl
@[simp] theorem State.setCtx_relocs (n : Nat) (c : Ctx) : (s.setCtx n c).relocs = s.relocs := rfl
@[simp] theorem State.setCtx_tkc (n : Nat) (c : Ctx) : (s.setCtx n c).tkc = s.tkc := rfl
@[simp] theorem State.setCtx_pwr (n : Nat) (c : Ctx) : (s.setCtx n c).pwr = s.pwr := rfl
@[simp] theorem State.setCtx_hbm (n : Nat) (c : Ctx) : (s.setCtx n c).hbm = s.hbm := rfl
@[simp] theorem State.setCtx_lp (n : Nat) (c : Ctx) : (s.setCtx n c).lp = s.lp := rfl
@[simp] theorem State.setCtx_boot (n : Nat) (c : Ctx) : (s.setCtx n c).boot = s.boot := rfl

/-! State.modCtx -/

@[simp] theorem State.modCtx_mem (n : Nat) (f : Ctx → Ctx) : (s.modCtx n f).mem = s.mem := rfl
@[simp] theorem State.modCtx_poison (n : Nat) (f : Ctx → Ctx) : (s.modCtx n f).poison = s.poison := rfl
@[simp] theorem State.modCtx_co (n : Nat) (f : Ctx → Ctx) : (s.modCtx n f).co = s.co := rfl
@[simp] theorem State.modCtx_cohorts (n : Nat) (f : Ctx → Ctx) : (s.modCtx n f).cohorts = s.cohorts := rfl
@[simp] theorem State.modCtx_teams (n : Nat) (f : Ctx → Ctx) : (s.modCtx n f).teams = s.teams := rfl
@[simp] theorem State.modCtx_cores (n : Nat) (f : Ctx → Ctx) : (s.modCtx n f).cores = s.cores := rfl
@[simp] theorem State.modCtx_clusters (n : Nat) (f : Ctx → Ctx) : (s.modCtx n f).clusters = s.clusters := rfl
@[simp] theorem State.modCtx_dies (n : Nat) (f : Ctx → Ctx) : (s.modCtx n f).dies = s.dies := rfl
@[simp] theorem State.modCtx_ctxs (n : Nat) (f : Ctx → Ctx) : (s.modCtx n f).ctxs = Tab.put s.ctxs n (f (s.ctx n)) := rfl
@[simp] theorem State.modCtx_tenants (n : Nat) (f : Ctx → Ctx) : (s.modCtx n f).tenants = s.tenants := rfl
@[simp] theorem State.modCtx_harts (n : Nat) (f : Ctx → Ctx) : (s.modCtx n f).harts = s.harts := rfl
@[simp] theorem State.modCtx_stalls (n : Nat) (f : Ctx → Ctx) : (s.modCtx n f).stalls = s.stalls := rfl
@[simp] theorem State.modCtx_seq (n : Nat) (f : Ctx → Ctx) : (s.modCtx n f).seq = s.seq := rfl
@[simp] theorem State.modCtx_clk (n : Nat) (f : Ctx → Ctx) : (s.modCtx n f).clk = s.clk := rfl
@[simp] theorem State.modCtx_timer (n : Nat) (f : Ctx → Ctx) : (s.modCtx n f).timer = s.timer := rfl
@[simp] theorem State.modCtx_fresh (n : Nat) (f : Ctx → Ctx) : (s.modCtx n f).fresh = s.fresh := rfl
@[simp] theorem State.modCtx_agenda (n : Nat) (f : Ctx → Ctx) : (s.modCtx n f).agenda = s.agenda := rfl
@[simp] theorem State.modCtx_tick (n : Nat) (f : Ctx → Ctx) : (s.modCtx n f).tick = s.tick := rfl
@[simp] theorem State.modCtx_burst (n : Nat) (f : Ctx → Ctx) : (s.modCtx n f).burst = s.burst := rfl
@[simp] theorem State.modCtx_turn (n : Nat) (f : Ctx → Ctx) : (s.modCtx n f).turn = s.turn := rfl
@[simp] theorem State.modCtx_lastFault (n : Nat) (f : Ctx → Ctx) : (s.modCtx n f).lastFault = s.lastFault := rfl
@[simp] theorem State.modCtx_fabs (n : Nat) (f : Ctx → Ctx) : (s.modCtx n f).fabs = s.fabs := rfl
@[simp] theorem State.modCtx_fcmds (n : Nat) (f : Ctx → Ctx) : (s.modCtx n f).fcmds = s.fcmds := rfl
@[simp] theorem State.modCtx_fabMod (n : Nat) (f : Ctx → Ctx) : (s.modCtx n f).fabMod = s.fabMod := rfl
@[simp] theorem State.modCtx_heard (n : Nat) (f : Ctx → Ctx) : (s.modCtx n f).heard = s.heard := rfl
@[simp] theorem State.modCtx_logs (n : Nat) (f : Ctx → Ctx) : (s.modCtx n f).logs = s.logs := rfl
@[simp] theorem State.modCtx_freqs (n : Nat) (f : Ctx → Ctx) : (s.modCtx n f).freqs = s.freqs := rfl
@[simp] theorem State.modCtx_kept (n : Nat) (f : Ctx → Ctx) : (s.modCtx n f).kept = s.kept := rfl
@[simp] theorem State.modCtx_fmp (n : Nat) (f : Ctx → Ctx) : (s.modCtx n f).fmp = s.fmp := rfl
@[simp] theorem State.modCtx_relocs (n : Nat) (f : Ctx → Ctx) : (s.modCtx n f).relocs = s.relocs := rfl
@[simp] theorem State.modCtx_tkc (n : Nat) (f : Ctx → Ctx) : (s.modCtx n f).tkc = s.tkc := rfl
@[simp] theorem State.modCtx_pwr (n : Nat) (f : Ctx → Ctx) : (s.modCtx n f).pwr = s.pwr := rfl
@[simp] theorem State.modCtx_hbm (n : Nat) (f : Ctx → Ctx) : (s.modCtx n f).hbm = s.hbm := rfl
@[simp] theorem State.modCtx_lp (n : Nat) (f : Ctx → Ctx) : (s.modCtx n f).lp = s.lp := rfl
@[simp] theorem State.modCtx_boot (n : Nat) (f : Ctx → Ctx) : (s.modCtx n f).boot = s.boot := rfl

/-! State.setTen -/

@[simp] theorem State.setTen_mem (n : Nat) (t : Tenant) : (s.setTen n t).mem = s.mem := rfl
@[simp] theorem State.setTen_poison (n : Nat) (t : Tenant) : (s.setTen n t).poison = s.poison := rfl
@[simp] theorem State.setTen_co (n : Nat) (t : Tenant) : (s.setTen n t).co = s.co := rfl
@[simp] theorem State.setTen_cohorts (n : Nat) (t : Tenant) : (s.setTen n t).cohorts = s.cohorts := rfl
@[simp] theorem State.setTen_teams (n : Nat) (t : Tenant) : (s.setTen n t).teams = s.teams := rfl
@[simp] theorem State.setTen_cores (n : Nat) (t : Tenant) : (s.setTen n t).cores = s.cores := rfl
@[simp] theorem State.setTen_clusters (n : Nat) (t : Tenant) : (s.setTen n t).clusters = s.clusters := rfl
@[simp] theorem State.setTen_dies (n : Nat) (t : Tenant) : (s.setTen n t).dies = s.dies := rfl
@[simp] theorem State.setTen_ctxs (n : Nat) (t : Tenant) : (s.setTen n t).ctxs = s.ctxs := rfl
@[simp] theorem State.setTen_tenants (n : Nat) (t : Tenant) : (s.setTen n t).tenants = Tab.put s.tenants n t := rfl
@[simp] theorem State.setTen_harts (n : Nat) (t : Tenant) : (s.setTen n t).harts = s.harts := rfl
@[simp] theorem State.setTen_stalls (n : Nat) (t : Tenant) : (s.setTen n t).stalls = s.stalls := rfl
@[simp] theorem State.setTen_seq (n : Nat) (t : Tenant) : (s.setTen n t).seq = s.seq := rfl
@[simp] theorem State.setTen_clk (n : Nat) (t : Tenant) : (s.setTen n t).clk = s.clk := rfl
@[simp] theorem State.setTen_timer (n : Nat) (t : Tenant) : (s.setTen n t).timer = s.timer := rfl
@[simp] theorem State.setTen_fresh (n : Nat) (t : Tenant) : (s.setTen n t).fresh = s.fresh := rfl
@[simp] theorem State.setTen_agenda (n : Nat) (t : Tenant) : (s.setTen n t).agenda = s.agenda := rfl
@[simp] theorem State.setTen_tick (n : Nat) (t : Tenant) : (s.setTen n t).tick = s.tick := rfl
@[simp] theorem State.setTen_burst (n : Nat) (t : Tenant) : (s.setTen n t).burst = s.burst := rfl
@[simp] theorem State.setTen_turn (n : Nat) (t : Tenant) : (s.setTen n t).turn = s.turn := rfl
@[simp] theorem State.setTen_lastFault (n : Nat) (t : Tenant) : (s.setTen n t).lastFault = s.lastFault := rfl
@[simp] theorem State.setTen_fabs (n : Nat) (t : Tenant) : (s.setTen n t).fabs = s.fabs := rfl
@[simp] theorem State.setTen_fcmds (n : Nat) (t : Tenant) : (s.setTen n t).fcmds = s.fcmds := rfl
@[simp] theorem State.setTen_fabMod (n : Nat) (t : Tenant) : (s.setTen n t).fabMod = s.fabMod := rfl
@[simp] theorem State.setTen_heard (n : Nat) (t : Tenant) : (s.setTen n t).heard = s.heard := rfl
@[simp] theorem State.setTen_logs (n : Nat) (t : Tenant) : (s.setTen n t).logs = s.logs := rfl
@[simp] theorem State.setTen_freqs (n : Nat) (t : Tenant) : (s.setTen n t).freqs = s.freqs := rfl
@[simp] theorem State.setTen_kept (n : Nat) (t : Tenant) : (s.setTen n t).kept = s.kept := rfl
@[simp] theorem State.setTen_fmp (n : Nat) (t : Tenant) : (s.setTen n t).fmp = s.fmp := rfl
@[simp] theorem State.setTen_relocs (n : Nat) (t : Tenant) : (s.setTen n t).relocs = s.relocs := rfl
@[simp] theorem State.setTen_tkc (n : Nat) (t : Tenant) : (s.setTen n t).tkc = s.tkc := rfl
@[simp] theorem State.setTen_pwr (n : Nat) (t : Tenant) : (s.setTen n t).pwr = s.pwr := rfl
@[simp] theorem State.setTen_hbm (n : Nat) (t : Tenant) : (s.setTen n t).hbm = s.hbm := rfl
@[simp] theorem State.setTen_lp (n : Nat) (t : Tenant) : (s.setTen n t).lp = s.lp := rfl
@[simp] theorem State.setTen_boot (n : Nat) (t : Tenant) : (s.setTen n t).boot = s.boot := rfl

/-! State.setHart -/

@[simp] theorem State.setHart_mem (n : Nat) (h : Hart) : (s.setHart n h).mem = s.mem := rfl
@[simp] theorem State.setHart_poison (n : Nat) (h : Hart) : (s.setHart n h).poison = s.poison := rfl
@[simp] theorem State.setHart_co (n : Nat) (h : Hart) : (s.setHart n h).co = s.co := rfl
@[simp] theorem State.setHart_cohorts (n : Nat) (h : Hart) : (s.setHart n h).cohorts = s.cohorts := rfl
@[simp] theorem State.setHart_teams (n : Nat) (h : Hart) : (s.setHart n h).teams = s.teams := rfl
@[simp] theorem State.setHart_cores (n : Nat) (h : Hart) : (s.setHart n h).cores = s.cores := rfl
@[simp] theorem State.setHart_clusters (n : Nat) (h : Hart) : (s.setHart n h).clusters = s.clusters := rfl
@[simp] theorem State.setHart_dies (n : Nat) (h : Hart) : (s.setHart n h).dies = s.dies := rfl
@[simp] theorem State.setHart_ctxs (n : Nat) (h : Hart) : (s.setHart n h).ctxs = s.ctxs := rfl
@[simp] theorem State.setHart_tenants (n : Nat) (h : Hart) : (s.setHart n h).tenants = s.tenants := rfl
@[simp] theorem State.setHart_harts (n : Nat) (h : Hart) : (s.setHart n h).harts = Tab.put s.harts n h := rfl
@[simp] theorem State.setHart_stalls (n : Nat) (h : Hart) : (s.setHart n h).stalls = s.stalls := rfl
@[simp] theorem State.setHart_seq (n : Nat) (h : Hart) : (s.setHart n h).seq = s.seq := rfl
@[simp] theorem State.setHart_clk (n : Nat) (h : Hart) : (s.setHart n h).clk = s.clk := rfl
@[simp] theorem State.setHart_timer (n : Nat) (h : Hart) : (s.setHart n h).timer = s.timer := rfl
@[simp] theorem State.setHart_fresh (n : Nat) (h : Hart) : (s.setHart n h).fresh = s.fresh := rfl
@[simp] theorem State.setHart_agenda (n : Nat) (h : Hart) : (s.setHart n h).agenda = s.agenda := rfl
@[simp] theorem State.setHart_tick (n : Nat) (h : Hart) : (s.setHart n h).tick = s.tick := rfl
@[simp] theorem State.setHart_burst (n : Nat) (h : Hart) : (s.setHart n h).burst = s.burst := rfl
@[simp] theorem State.setHart_turn (n : Nat) (h : Hart) : (s.setHart n h).turn = s.turn := rfl
@[simp] theorem State.setHart_lastFault (n : Nat) (h : Hart) : (s.setHart n h).lastFault = s.lastFault := rfl
@[simp] theorem State.setHart_fabs (n : Nat) (h : Hart) : (s.setHart n h).fabs = s.fabs := rfl
@[simp] theorem State.setHart_fcmds (n : Nat) (h : Hart) : (s.setHart n h).fcmds = s.fcmds := rfl
@[simp] theorem State.setHart_fabMod (n : Nat) (h : Hart) : (s.setHart n h).fabMod = s.fabMod := rfl
@[simp] theorem State.setHart_heard (n : Nat) (h : Hart) : (s.setHart n h).heard = s.heard := rfl
@[simp] theorem State.setHart_logs (n : Nat) (h : Hart) : (s.setHart n h).logs = s.logs := rfl
@[simp] theorem State.setHart_freqs (n : Nat) (h : Hart) : (s.setHart n h).freqs = s.freqs := rfl
@[simp] theorem State.setHart_kept (n : Nat) (h : Hart) : (s.setHart n h).kept = s.kept := rfl
@[simp] theorem State.setHart_fmp (n : Nat) (h : Hart) : (s.setHart n h).fmp = s.fmp := rfl
@[simp] theorem State.setHart_relocs (n : Nat) (h : Hart) : (s.setHart n h).relocs = s.relocs := rfl
@[simp] theorem State.setHart_tkc (n : Nat) (h : Hart) : (s.setHart n h).tkc = s.tkc := rfl
@[simp] theorem State.setHart_pwr (n : Nat) (h : Hart) : (s.setHart n h).pwr = s.pwr := rfl
@[simp] theorem State.setHart_hbm (n : Nat) (h : Hart) : (s.setHart n h).hbm = s.hbm := rfl
@[simp] theorem State.setHart_lp (n : Nat) (h : Hart) : (s.setHart n h).lp = s.lp := rfl
@[simp] theorem State.setHart_boot (n : Nat) (h : Hart) : (s.setHart n h).boot = s.boot := rfl

/-! State.setTeam -/

@[simp] theorem State.setTeam_mem (t : Team) : (s.setTeam t).mem = s.mem := rfl
@[simp] theorem State.setTeam_poison (t : Team) : (s.setTeam t).poison = s.poison := rfl
@[simp] theorem State.setTeam_co (t : Team) : (s.setTeam t).co = s.co := rfl
@[simp] theorem State.setTeam_cohorts (t : Team) : (s.setTeam t).cohorts = s.cohorts := rfl
@[simp] theorem State.setTeam_teams (t : Team) : (s.setTeam t).teams = Tab.put s.teams t.key t := rfl
@[simp] theorem State.setTeam_cores (t : Team) : (s.setTeam t).cores = s.cores := rfl
@[simp] theorem State.setTeam_clusters (t : Team) : (s.setTeam t).clusters = s.clusters := rfl
@[simp] theorem State.setTeam_dies (t : Team) : (s.setTeam t).dies = s.dies := rfl
@[simp] theorem State.setTeam_ctxs (t : Team) : (s.setTeam t).ctxs = s.ctxs := rfl
@[simp] theorem State.setTeam_tenants (t : Team) : (s.setTeam t).tenants = s.tenants := rfl
@[simp] theorem State.setTeam_harts (t : Team) : (s.setTeam t).harts = s.harts := rfl
@[simp] theorem State.setTeam_stalls (t : Team) : (s.setTeam t).stalls = s.stalls := rfl
@[simp] theorem State.setTeam_seq (t : Team) : (s.setTeam t).seq = s.seq := rfl
@[simp] theorem State.setTeam_clk (t : Team) : (s.setTeam t).clk = s.clk := rfl
@[simp] theorem State.setTeam_timer (t : Team) : (s.setTeam t).timer = s.timer := rfl
@[simp] theorem State.setTeam_fresh (t : Team) : (s.setTeam t).fresh = s.fresh := rfl
@[simp] theorem State.setTeam_agenda (t : Team) : (s.setTeam t).agenda = s.agenda := rfl
@[simp] theorem State.setTeam_tick (t : Team) : (s.setTeam t).tick = s.tick := rfl
@[simp] theorem State.setTeam_burst (t : Team) : (s.setTeam t).burst = s.burst := rfl
@[simp] theorem State.setTeam_turn (t : Team) : (s.setTeam t).turn = s.turn := rfl
@[simp] theorem State.setTeam_lastFault (t : Team) : (s.setTeam t).lastFault = s.lastFault := rfl
@[simp] theorem State.setTeam_fabs (t : Team) : (s.setTeam t).fabs = s.fabs := rfl
@[simp] theorem State.setTeam_fcmds (t : Team) : (s.setTeam t).fcmds = s.fcmds := rfl
@[simp] theorem State.setTeam_fabMod (t : Team) : (s.setTeam t).fabMod = s.fabMod := rfl
@[simp] theorem State.setTeam_heard (t : Team) : (s.setTeam t).heard = s.heard := rfl
@[simp] theorem State.setTeam_logs (t : Team) : (s.setTeam t).logs = s.logs := rfl
@[simp] theorem State.setTeam_freqs (t : Team) : (s.setTeam t).freqs = s.freqs := rfl
@[simp] theorem State.setTeam_kept (t : Team) : (s.setTeam t).kept = s.kept := rfl
@[simp] theorem State.setTeam_fmp (t : Team) : (s.setTeam t).fmp = s.fmp := rfl
@[simp] theorem State.setTeam_relocs (t : Team) : (s.setTeam t).relocs = s.relocs := rfl
@[simp] theorem State.setTeam_tkc (t : Team) : (s.setTeam t).tkc = s.tkc := rfl
@[simp] theorem State.setTeam_pwr (t : Team) : (s.setTeam t).pwr = s.pwr := rfl
@[simp] theorem State.setTeam_hbm (t : Team) : (s.setTeam t).hbm = s.hbm := rfl
@[simp] theorem State.setTeam_lp (t : Team) : (s.setTeam t).lp = s.lp := rfl
@[simp] theorem State.setTeam_boot (t : Team) : (s.setTeam t).boot = s.boot := rfl

/-! State.modTeam -/

@[simp] theorem State.modTeam_mem (k : Nat) (f : Team → Team) : (s.modTeam k f).mem = s.mem := rfl
@[simp] theorem State.modTeam_poison (k : Nat) (f : Team → Team) : (s.modTeam k f).poison = s.poison := rfl
@[simp] theorem State.modTeam_co (k : Nat) (f : Team → Team) : (s.modTeam k f).co = s.co := rfl
@[simp] theorem State.modTeam_cohorts (k : Nat) (f : Team → Team) : (s.modTeam k f).cohorts = s.cohorts := rfl
@[simp] theorem State.modTeam_teams (k : Nat) (f : Team → Team) : (s.modTeam k f).teams = Tab.modify s.teams k f := rfl
@[simp] theorem State.modTeam_cores (k : Nat) (f : Team → Team) : (s.modTeam k f).cores = s.cores := rfl
@[simp] theorem State.modTeam_clusters (k : Nat) (f : Team → Team) : (s.modTeam k f).clusters = s.clusters := rfl
@[simp] theorem State.modTeam_dies (k : Nat) (f : Team → Team) : (s.modTeam k f).dies = s.dies := rfl
@[simp] theorem State.modTeam_ctxs (k : Nat) (f : Team → Team) : (s.modTeam k f).ctxs = s.ctxs := rfl
@[simp] theorem State.modTeam_tenants (k : Nat) (f : Team → Team) : (s.modTeam k f).tenants = s.tenants := rfl
@[simp] theorem State.modTeam_harts (k : Nat) (f : Team → Team) : (s.modTeam k f).harts = s.harts := rfl
@[simp] theorem State.modTeam_stalls (k : Nat) (f : Team → Team) : (s.modTeam k f).stalls = s.stalls := rfl
@[simp] theorem State.modTeam_seq (k : Nat) (f : Team → Team) : (s.modTeam k f).seq = s.seq := rfl
@[simp] theorem State.modTeam_clk (k : Nat) (f : Team → Team) : (s.modTeam k f).clk = s.clk := rfl
@[simp] theorem State.modTeam_timer (k : Nat) (f : Team → Team) : (s.modTeam k f).timer = s.timer := rfl
@[simp] theorem State.modTeam_fresh (k : Nat) (f : Team → Team) : (s.modTeam k f).fresh = s.fresh := rfl
@[simp] theorem State.modTeam_agenda (k : Nat) (f : Team → Team) : (s.modTeam k f).agenda = s.agenda := rfl
@[simp] theorem State.modTeam_tick (k : Nat) (f : Team → Team) : (s.modTeam k f).tick = s.tick := rfl
@[simp] theorem State.modTeam_burst (k : Nat) (f : Team → Team) : (s.modTeam k f).burst = s.burst := rfl
@[simp] theorem State.modTeam_turn (k : Nat) (f : Team → Team) : (s.modTeam k f).turn = s.turn := rfl
@[simp] theorem State.modTeam_lastFault (k : Nat) (f : Team → Team) : (s.modTeam k f).lastFault = s.lastFault := rfl
@[simp] theorem State.modTeam_fabs (k : Nat) (f : Team → Team) : (s.modTeam k f).fabs = s.fabs := rfl
@[simp] theorem State.modTeam_fcmds (k : Nat) (f : Team → Team) : (s.modTeam k f).fcmds = s.fcmds := rfl
@[simp] theorem State.modTeam_fabMod (k : Nat) (f : Team → Team) : (s.modTeam k f).fabMod = s.fabMod := rfl
@[simp] theorem State.modTeam_heard (k : Nat) (f : Team → Team) : (s.modTeam k f).heard = s.heard := rfl
@[simp] theorem State.modTeam_logs (k : Nat) (f : Team → Team) : (s.modTeam k f).logs = s.logs := rfl
@[simp] theorem State.modTeam_freqs (k : Nat) (f : Team → Team) : (s.modTeam k f).freqs = s.freqs := rfl
@[simp] theorem State.modTeam_kept (k : Nat) (f : Team → Team) : (s.modTeam k f).kept = s.kept := rfl
@[simp] theorem State.modTeam_fmp (k : Nat) (f : Team → Team) : (s.modTeam k f).fmp = s.fmp := rfl
@[simp] theorem State.modTeam_relocs (k : Nat) (f : Team → Team) : (s.modTeam k f).relocs = s.relocs := rfl
@[simp] theorem State.modTeam_tkc (k : Nat) (f : Team → Team) : (s.modTeam k f).tkc = s.tkc := rfl
@[simp] theorem State.modTeam_pwr (k : Nat) (f : Team → Team) : (s.modTeam k f).pwr = s.pwr := rfl
@[simp] theorem State.modTeam_hbm (k : Nat) (f : Team → Team) : (s.modTeam k f).hbm = s.hbm := rfl
@[simp] theorem State.modTeam_lp (k : Nat) (f : Team → Team) : (s.modTeam k f).lp = s.lp := rfl
@[simp] theorem State.modTeam_boot (k : Nat) (f : Team → Team) : (s.modTeam k f).boot = s.boot := rfl

/-! State.dropTeam -/

@[simp] theorem State.dropTeam_mem (k : Nat) : (s.dropTeam k).mem = s.mem := rfl
@[simp] theorem State.dropTeam_poison (k : Nat) : (s.dropTeam k).poison = s.poison := rfl
@[simp] theorem State.dropTeam_co (k : Nat) : (s.dropTeam k).co = s.co := rfl
@[simp] theorem State.dropTeam_cohorts (k : Nat) : (s.dropTeam k).cohorts = s.cohorts := rfl
@[simp] theorem State.dropTeam_teams (k : Nat) : (s.dropTeam k).teams = Tab.erase s.teams k := rfl
@[simp] theorem State.dropTeam_cores (k : Nat) : (s.dropTeam k).cores = s.cores := rfl
@[simp] theorem State.dropTeam_clusters (k : Nat) : (s.dropTeam k).clusters = s.clusters := rfl
@[simp] theorem State.dropTeam_dies (k : Nat) : (s.dropTeam k).dies = s.dies := rfl
@[simp] theorem State.dropTeam_ctxs (k : Nat) : (s.dropTeam k).ctxs = s.ctxs := rfl
@[simp] theorem State.dropTeam_tenants (k : Nat) : (s.dropTeam k).tenants = s.tenants := rfl
@[simp] theorem State.dropTeam_harts (k : Nat) : (s.dropTeam k).harts = s.harts := rfl
@[simp] theorem State.dropTeam_stalls (k : Nat) : (s.dropTeam k).stalls = s.stalls := rfl
@[simp] theorem State.dropTeam_seq (k : Nat) : (s.dropTeam k).seq = s.seq := rfl
@[simp] theorem State.dropTeam_clk (k : Nat) : (s.dropTeam k).clk = s.clk := rfl
@[simp] theorem State.dropTeam_timer (k : Nat) : (s.dropTeam k).timer = s.timer := rfl
@[simp] theorem State.dropTeam_fresh (k : Nat) : (s.dropTeam k).fresh = s.fresh := rfl
@[simp] theorem State.dropTeam_agenda (k : Nat) : (s.dropTeam k).agenda = s.agenda := rfl
@[simp] theorem State.dropTeam_tick (k : Nat) : (s.dropTeam k).tick = s.tick := rfl
@[simp] theorem State.dropTeam_burst (k : Nat) : (s.dropTeam k).burst = s.burst := rfl
@[simp] theorem State.dropTeam_turn (k : Nat) : (s.dropTeam k).turn = s.turn := rfl
@[simp] theorem State.dropTeam_lastFault (k : Nat) : (s.dropTeam k).lastFault = s.lastFault := rfl
@[simp] theorem State.dropTeam_fabs (k : Nat) : (s.dropTeam k).fabs = s.fabs := rfl
@[simp] theorem State.dropTeam_fcmds (k : Nat) : (s.dropTeam k).fcmds = s.fcmds := rfl
@[simp] theorem State.dropTeam_fabMod (k : Nat) : (s.dropTeam k).fabMod = s.fabMod := rfl
@[simp] theorem State.dropTeam_heard (k : Nat) : (s.dropTeam k).heard = s.heard := rfl
@[simp] theorem State.dropTeam_logs (k : Nat) : (s.dropTeam k).logs = s.logs := rfl
@[simp] theorem State.dropTeam_freqs (k : Nat) : (s.dropTeam k).freqs = s.freqs := rfl
@[simp] theorem State.dropTeam_kept (k : Nat) : (s.dropTeam k).kept = s.kept := rfl
@[simp] theorem State.dropTeam_fmp (k : Nat) : (s.dropTeam k).fmp = s.fmp := rfl
@[simp] theorem State.dropTeam_relocs (k : Nat) : (s.dropTeam k).relocs = s.relocs := rfl
@[simp] theorem State.dropTeam_tkc (k : Nat) : (s.dropTeam k).tkc = s.tkc := rfl
@[simp] theorem State.dropTeam_pwr (k : Nat) : (s.dropTeam k).pwr = s.pwr := rfl
@[simp] theorem State.dropTeam_hbm (k : Nat) : (s.dropTeam k).hbm = s.hbm := rfl
@[simp] theorem State.dropTeam_lp (k : Nat) : (s.dropTeam k).lp = s.lp := rfl
@[simp] theorem State.dropTeam_boot (k : Nat) : (s.dropTeam k).boot = s.boot := rfl

/-! State.soon -/

@[simp] theorem State.soon_mem (i : Instr) : (s.soon i).mem = s.mem := rfl
@[simp] theorem State.soon_poison (i : Instr) : (s.soon i).poison = s.poison := rfl
@[simp] theorem State.soon_co (i : Instr) : (s.soon i).co = s.co := rfl
@[simp] theorem State.soon_cohorts (i : Instr) : (s.soon i).cohorts = s.cohorts := rfl
@[simp] theorem State.soon_teams (i : Instr) : (s.soon i).teams = s.teams := rfl
@[simp] theorem State.soon_cores (i : Instr) : (s.soon i).cores = s.cores := rfl
@[simp] theorem State.soon_clusters (i : Instr) : (s.soon i).clusters = s.clusters := rfl
@[simp] theorem State.soon_dies (i : Instr) : (s.soon i).dies = s.dies := rfl
@[simp] theorem State.soon_ctxs (i : Instr) : (s.soon i).ctxs = s.ctxs := rfl
@[simp] theorem State.soon_tenants (i : Instr) : (s.soon i).tenants = s.tenants := rfl
@[simp] theorem State.soon_harts (i : Instr) : (s.soon i).harts = s.harts := rfl
@[simp] theorem State.soon_stalls (i : Instr) : (s.soon i).stalls = s.stalls := rfl
@[simp] theorem State.soon_seq (i : Instr) : (s.soon i).seq = s.seq := rfl
@[simp] theorem State.soon_clk (i : Instr) : (s.soon i).clk = s.clk := rfl
@[simp] theorem State.soon_timer (i : Instr) : (s.soon i).timer = s.timer := rfl
@[simp] theorem State.soon_fresh (i : Instr) : (s.soon i).fresh = s.fresh := rfl
@[simp] theorem State.soon_agenda (i : Instr) : (s.soon i).agenda = i :: s.agenda := rfl
@[simp] theorem State.soon_tick (i : Instr) : (s.soon i).tick = s.tick := rfl
@[simp] theorem State.soon_burst (i : Instr) : (s.soon i).burst = s.burst := rfl
@[simp] theorem State.soon_turn (i : Instr) : (s.soon i).turn = s.turn := rfl
@[simp] theorem State.soon_lastFault (i : Instr) : (s.soon i).lastFault = s.lastFault := rfl
@[simp] theorem State.soon_fabs (i : Instr) : (s.soon i).fabs = s.fabs := rfl
@[simp] theorem State.soon_fcmds (i : Instr) : (s.soon i).fcmds = s.fcmds := rfl
@[simp] theorem State.soon_fabMod (i : Instr) : (s.soon i).fabMod = s.fabMod := rfl
@[simp] theorem State.soon_heard (i : Instr) : (s.soon i).heard = s.heard := rfl
@[simp] theorem State.soon_logs (i : Instr) : (s.soon i).logs = s.logs := rfl
@[simp] theorem State.soon_freqs (i : Instr) : (s.soon i).freqs = s.freqs := rfl
@[simp] theorem State.soon_kept (i : Instr) : (s.soon i).kept = s.kept := rfl
@[simp] theorem State.soon_fmp (i : Instr) : (s.soon i).fmp = s.fmp := rfl
@[simp] theorem State.soon_relocs (i : Instr) : (s.soon i).relocs = s.relocs := rfl
@[simp] theorem State.soon_tkc (i : Instr) : (s.soon i).tkc = s.tkc := rfl
@[simp] theorem State.soon_pwr (i : Instr) : (s.soon i).pwr = s.pwr := rfl
@[simp] theorem State.soon_hbm (i : Instr) : (s.soon i).hbm = s.hbm := rfl
@[simp] theorem State.soon_lp (i : Instr) : (s.soon i).lp = s.lp := rfl
@[simp] theorem State.soon_boot (i : Instr) : (s.soon i).boot = s.boot := rfl

/-! State.lane -/

@[simp] theorem State.lane_mem (f : Cohort → Cohort) (n : Nat) : (s.lane f n).mem = s.mem := rfl
@[simp] theorem State.lane_poison (f : Cohort → Cohort) (n : Nat) : (s.lane f n).poison = s.poison := rfl
@[simp] theorem State.lane_co (f : Cohort → Cohort) (n : Nat) : (s.lane f n).co = (f s.co).past n := rfl
@[simp] theorem State.lane_cohorts (f : Cohort → Cohort) (n : Nat) : (s.lane f n).cohorts = s.cohorts := rfl
@[simp] theorem State.lane_teams (f : Cohort → Cohort) (n : Nat) : (s.lane f n).teams = s.teams := rfl
@[simp] theorem State.lane_cores (f : Cohort → Cohort) (n : Nat) : (s.lane f n).cores = s.cores := rfl
@[simp] theorem State.lane_clusters (f : Cohort → Cohort) (n : Nat) : (s.lane f n).clusters = s.clusters := rfl
@[simp] theorem State.lane_dies (f : Cohort → Cohort) (n : Nat) : (s.lane f n).dies = s.dies := rfl
@[simp] theorem State.lane_ctxs (f : Cohort → Cohort) (n : Nat) : (s.lane f n).ctxs = s.ctxs := rfl
@[simp] theorem State.lane_tenants (f : Cohort → Cohort) (n : Nat) : (s.lane f n).tenants = s.tenants := rfl
@[simp] theorem State.lane_harts (f : Cohort → Cohort) (n : Nat) : (s.lane f n).harts = s.harts := rfl
@[simp] theorem State.lane_stalls (f : Cohort → Cohort) (n : Nat) : (s.lane f n).stalls = s.stalls := rfl
@[simp] theorem State.lane_seq (f : Cohort → Cohort) (n : Nat) : (s.lane f n).seq = s.seq := rfl
@[simp] theorem State.lane_clk (f : Cohort → Cohort) (n : Nat) : (s.lane f n).clk = s.clk := rfl
@[simp] theorem State.lane_timer (f : Cohort → Cohort) (n : Nat) : (s.lane f n).timer = s.timer := rfl
@[simp] theorem State.lane_fresh (f : Cohort → Cohort) (n : Nat) : (s.lane f n).fresh = s.fresh := rfl
@[simp] theorem State.lane_agenda (f : Cohort → Cohort) (n : Nat) : (s.lane f n).agenda = s.agenda := rfl
@[simp] theorem State.lane_tick (f : Cohort → Cohort) (n : Nat) : (s.lane f n).tick = s.tick := rfl
@[simp] theorem State.lane_burst (f : Cohort → Cohort) (n : Nat) : (s.lane f n).burst = s.burst := rfl
@[simp] theorem State.lane_turn (f : Cohort → Cohort) (n : Nat) : (s.lane f n).turn = s.turn := rfl
@[simp] theorem State.lane_lastFault (f : Cohort → Cohort) (n : Nat) : (s.lane f n).lastFault = s.lastFault := rfl
@[simp] theorem State.lane_fabs (f : Cohort → Cohort) (n : Nat) : (s.lane f n).fabs = s.fabs := rfl
@[simp] theorem State.lane_fcmds (f : Cohort → Cohort) (n : Nat) : (s.lane f n).fcmds = s.fcmds := rfl
@[simp] theorem State.lane_fabMod (f : Cohort → Cohort) (n : Nat) : (s.lane f n).fabMod = s.fabMod := rfl
@[simp] theorem State.lane_heard (f : Cohort → Cohort) (n : Nat) : (s.lane f n).heard = s.heard := rfl
@[simp] theorem State.lane_logs (f : Cohort → Cohort) (n : Nat) : (s.lane f n).logs = s.logs := rfl
@[simp] theorem State.lane_freqs (f : Cohort → Cohort) (n : Nat) : (s.lane f n).freqs = s.freqs := rfl
@[simp] theorem State.lane_kept (f : Cohort → Cohort) (n : Nat) : (s.lane f n).kept = s.kept := rfl
@[simp] theorem State.lane_fmp (f : Cohort → Cohort) (n : Nat) : (s.lane f n).fmp = s.fmp := rfl
@[simp] theorem State.lane_relocs (f : Cohort → Cohort) (n : Nat) : (s.lane f n).relocs = s.relocs := rfl
@[simp] theorem State.lane_tkc (f : Cohort → Cohort) (n : Nat) : (s.lane f n).tkc = s.tkc := rfl
@[simp] theorem State.lane_pwr (f : Cohort → Cohort) (n : Nat) : (s.lane f n).pwr = s.pwr := rfl
@[simp] theorem State.lane_hbm (f : Cohort → Cohort) (n : Nat) : (s.lane f n).hbm = s.hbm := rfl
@[simp] theorem State.lane_lp (f : Cohort → Cohort) (n : Nat) : (s.lane f n).lp = s.lp := rfl
@[simp] theorem State.lane_boot (f : Cohort → Cohort) (n : Nat) : (s.lane f n).boot = s.boot := rfl

/-! Reading a part after an update -/

@[simp] theorem State.core_setCore (n : Nat) (x : Core) (m : Nat) : (s.setCore n x).core m = if m = n then x else s.core m :=
  Tab.get_put _ _ _ _ _
@[simp] theorem State.core_modCore (n : Nat) (f : Core → Core) (m : Nat) :
    (s.modCore n f).core m = if m = n then f (s.core n) else s.core m :=
  Tab.get_put _ _ _ _ _
@[simp] theorem State.cluster_setCluster (n : Nat) (x : Cluster) (m : Nat) : (s.setCluster n x).cluster m = if m = n then x else s.cluster m :=
  Tab.get_put _ _ _ _ _
@[simp] theorem State.cluster_modCluster (n : Nat) (f : Cluster → Cluster) (m : Nat) :
    (s.modCluster n f).cluster m = if m = n then f (s.cluster n) else s.cluster m :=
  Tab.get_put _ _ _ _ _
@[simp] theorem State.die_setDie (n : Nat) (x : Die) (m : Nat) : (s.setDie n x).die m = if m = n then x else s.die m :=
  Tab.get_put _ _ _ _ _
@[simp] theorem State.die_modDie (n : Nat) (f : Die → Die) (m : Nat) :
    (s.modDie n f).die m = if m = n then f (s.die n) else s.die m :=
  Tab.get_put _ _ _ _ _
@[simp] theorem State.ctx_setCtx (n : Nat) (x : Ctx) (m : Nat) : (s.setCtx n x).ctx m = if m = n then x else s.ctx m :=
  Tab.get_put _ _ _ _ _
@[simp] theorem State.ctx_modCtx (n : Nat) (f : Ctx → Ctx) (m : Nat) :
    (s.modCtx n f).ctx m = if m = n then f (s.ctx n) else s.ctx m :=
  Tab.get_put _ _ _ _ _
@[simp] theorem State.ten_setTen (n : Nat) (x : Tenant) (m : Nat) : (s.setTen n x).ten m = if m = n then x else s.ten m :=
  Tab.get_put _ _ _ _ _
@[simp] theorem State.hart_setHart (n : Nat) (x : Hart) (m : Nat) : (s.setHart n x).hart m = if m = n then x else s.hart m :=
  Tab.get_put _ _ _ _ _
@[simp] theorem State.team?_setTeam (t : Team) (k : Nat) : (s.setTeam t).team? k = if k = t.key then some t else s.team? k :=
  Tab.find_put _ _ _ _
@[simp] theorem State.byte_setByte (a : Nat) (b : Byte) (m : Nat) : (s.setByte a b).byte m = if m = a then b else s.byte m :=
  Tab.get_set _ _ _ _ _

end Sys2Proof.Machine
end

