-- ==== Sys2Proof/Laws/Registers.lean ====
section
/-!
SUPPORT. What writing registers does: exactly the named register in exactly the named lanes changes, and nothing else of the
cohort; and what the lane operations of the integer family come to.
-/

namespace Sys2Proof.Machine

/-- The registers of a cohort after a register has been written in some lanes. -/
def putLanes (key : Nat → Nat) (f : Nat → Word) (t : Tab Word) : List Nat → Tab Word
  | [] => t
  | l :: ls => putLanes key f (Tab.set 0 t (key l) (f l)) ls

theorem Cohort.setLanes_eq (c : Cohort) (r : Reg) (f : Nat → Word) (ls : List Nat) :
    c.setLanes r f ls = { c with v := { c.v with regs := putLanes (regKey c.v.wdepth c.S r) f c.v.regs ls } } := by
  induction ls generalizing c with
  | nil => rfl
  | cons l ls ih => simp only [Cohort.setLanes, putLanes, ih]; rfl

/-- What a key reads after the write: the value of its lane, or what stood there. -/
theorem putLanes_get (key : Nat → Nat) (f : Nat → Word) (hk : ∀ a b, key a = key b → a = b) (ls : List Nat) (t : Tab Word) (k : Nat) :
    Tab.get 0 (putLanes key f t ls) k =
      match ls.find? (fun l => key l == k) with
      | some l => f l
      | none => Tab.get 0 t k := by
  induction ls generalizing t with
  | nil => rfl
  | cons l ls ih =>
    simp only [putLanes, ih]
    by_cases h : key l = k
    · subst h
      simp only [List.find?, beq_self_eq_true]
      cases hf : ls.find? (fun x => key x == key l) with
      | none => simp [Tab.get_set]
      | some x =>
        have := List.find?_some hf
        simp only [beq_iff_eq] at this
        simp [hk _ _ this]
    · have h' : (key l == k) = false := by simp [h]
      simp only [List.find?, h']
      cases ls.find? (fun x => key x == k) with
      | none => simp [Tab.get_set, Ne.symm h]
      | some x => rfl

theorem regKey_inj (w S : Nat) (r : Reg) (a b : Nat) (h : regKey w S r a = regKey w S r b) : a = b := by
  unfold regKey at h; omega

/-- A register key names its slot and its lane. -/
theorem regKey_eq (w S : Nat) (r q : Reg) (a b : Nat) (ha : a < 64) (hb : b < 64) :
    regKey w S r a = regKey w S q b ↔ regSlot w S r = regSlot w S q ∧ a = b := by
  unfold regKey; omega

/-- A register written in some lanes, read at a key. -/
theorem Cohort.setLanes_get (c : Cohort) (r : Reg) (f : Nat → Word) (ls : List Nat) (k : Nat) :
    Tab.get 0 (c.setLanes r f ls).v.regs k =
      match ls.find? (fun l => regKey c.v.wdepth c.S r l == k) with
      | some l => f l
      | none => Tab.get 0 c.v.regs k := by
  rw [Cohort.setLanes_eq]
  exact putLanes_get _ _ (regKey_inj _ _ _) _ _ _

/-- A register written in some lanes, read in one of them. -/
theorem Cohort.setLanes_in (c : Cohort) (r : Reg) (f : Nat → Word) (ls : List Nat) (l : Nat) (h : l ∈ ls) :
    Tab.get 0 (c.setLanes r f ls).v.regs (regKey c.v.wdepth c.S r l) = f l := by
  rw [Cohort.setLanes_get]
  cases hf : ls.find? (fun x => regKey c.v.wdepth c.S r x == regKey c.v.wdepth c.S r l) with
  | none => exact absurd (List.find?_eq_none.mp hf l h) (by simp)
  | some x =>
    have := List.find?_some hf
    simp only [beq_iff_eq] at this
    simp [regKey_inj _ _ _ _ _ this]

/-- A register written in some lanes leaves every other key. -/
theorem Cohort.setLanes_out (c : Cohort) (r : Reg) (f : Nat → Word) (ls : List Nat) (k : Nat)
    (h : ∀ l ∈ ls, k ≠ regKey c.v.wdepth c.S r l) : Tab.get 0 (c.setLanes r f ls).v.regs k = Tab.get 0 c.v.regs k := by
  rw [Cohort.setLanes_get]
  cases hf : ls.find? (fun x => regKey c.v.wdepth c.S r x == k) with
  | none => rfl
  | some x =>
    have h1 := List.find?_some hf
    have h2 := List.mem_of_find?_eq_some hf
    simp only [beq_iff_eq] at h1
    exact absurd h1.symm (h x h2)

/-- Writing lanes changes only the registers. -/
theorem Cohort.setLanes_frame (c : Cohort) (r : Reg) (f : Nat → Word) (ls : List Nat) :
    c.setLanes r f ls = { c with v := { c.v with regs := (c.setLanes r f ls).v.regs } } := by
  rw [Cohort.setLanes_eq]

/-- The lanes of a mask lie below the width. -/
theorem mem_lanesIn (m : Mask) (W l : Nat) : l ∈ lanesIn m W ↔ l < W ∧ m.getLsbD l = true := by
  simp [lanesIn]

theorem Cohort.target_lt (c : Cohort) (u : Bool) (l : Nat) (h : l ∈ c.targets u) : l < c.W := by
  cases u
  · exact ((mem_lanesIn _ _ _).mp h).1
  · exact ((mem_lanesIn _ _ _).mp h).1

end Sys2Proof.Machine
end

