-- ==== Sys2Proof/Laws/Lanes.lean ====
section
/-!
SUPPORT. A lane operation completes: what its next state holds, in the words of the statements.
-/

namespace Sys2Proof.Claims

open Sys2Proof.Machine

theorem regOf_past (c : Cohort) (n : Nat) (r : Reg) (l : Nat) : regOf (c.past n) r l = regOf c r l := rfl

/-- An instruction whose next state writes one register per lane completes so. -/
theorem lanes_of_eq {s : State} {i : Instr} {u : Bool} {d : Reg} {n : Nat} {f val : Nat → Word}
    (h : exec i s = .next { s with co := (s.co.lanes u d f).past n }) (hf : ∀ l, f l = val l) : Lanes s i u d n val := by
  refine ⟨_, h, ?_, ?_, ?_⟩
  · refine ⟨(s.co.lanes u d f).v.regs, ?_⟩
    exact congrArg (fun c : Cohort => { s with co := c.past n }) (Cohort.setLanes_frame s.co d _ _)
  · intro l hl
    have h1 : regOf (s.co.lanes u d f) d l = f (s.co.source u l) := by
      unfold regOf Cohort.lanes
      have := Cohort.setLanes_in s.co d (fun l => f (s.co.source u l)) _ l hl
      rw [Cohort.setLanes_eq] at this ⊢
      exact this
    rw [← hf]; exact h1
  · intro k hk
    exact Cohort.setLanes_out _ _ _ _ _ hk

/-- An instruction whose next state writes one value in every active and inactive lane completes so. -/
theorem uniform_of_eq {s : State} {i : Instr} {d : Reg} {n : Nat} {w val : Word}
    (h : exec i s = .next { s with co := (s.co.uniform d w).past n }) (hw : w = val) : Uniform s i d n val := by
  subst hw
  refine ⟨_, h, ?_, ?_, ?_⟩
  · refine ⟨(s.co.uniform d w).v.regs, ?_⟩
    exact congrArg (fun c : Cohort => { s with co := c.past n }) (Cohort.setLanes_frame s.co d _ _)
  · intro l hl
    show regOf (s.co.uniform d w) d l = w
    unfold regOf Cohort.uniform
    have := Cohort.setLanes_in s.co d (fun _ => w) _ l hl
    rw [Cohort.setLanes_eq] at this ⊢
    exact this
  · intro k hk
    exact Cohort.setLanes_out _ _ _ _ _ hk

/-- The halves of a doubleword make it up again. -/
theorem pairOf_halves (x : DWord) : pairOf (loOf x) (hiOf x) = x := by
  apply BitVec.eq_of_getLsbD_eq
  intro i hi
  simp only [pairOf, loOf, hiOf, BitVec.getLsbD_append, BitVec.getLsbD_setWidth, BitVec.getLsbD_ushiftRight]
  by_cases h : i < 32
  · simp [h]
  · have h2 : i - 32 < 32 := by omega
    have h3 : 32 + (i - 32) = i := by omega
    simp [h, h2, h3]

/-- The two registers of a pair have different keys in every lane. -/
theorem pair_keys (c : Cohort) (d : Reg) (hS : Shape c) (hd : d.even = true) (a b : Nat) (ha : a < 64) (hb : b < 64) :
    regKey c.v.wdepth c.S d a ≠ regKey c.v.wdepth c.S (d + 1) b := by
  intro h
  have h1 := ((regKey_eq _ _ _ _ _ _ ha hb).mp h).1
  unfold regSlot at h1
  have hd' : d.toNat % 2 = 0 := by simpa [Reg.even] using hd
  have hlt : d.toNat < 64 := d.isLt
  have h2 : (d + 1).toNat = d.toNat + 1 := by
    rw [BitVec.toNat_add]; simp; omega
  rw [h2] at h1
  have h48 := hS.1
  split at h1
  · have h47 : d.toNat + 1 < 48 := by omega
    simp only [h47, if_true] at h1
    have h3 : (c.v.wdepth + d.toNat) % c.S = (c.v.wdepth + (d.toNat + 1)) % c.S := by omega
    have h4 := Nat.div_add_mod (c.v.wdepth + d.toNat) c.S
    have h5 := Nat.div_add_mod (c.v.wdepth + (d.toNat + 1)) c.S
    have h6 : c.S * ((c.v.wdepth + (d.toNat + 1)) / c.S) = c.S * ((c.v.wdepth + d.toNat) / c.S) + 1 := by omega
    have h7 : (c.S * ((c.v.wdepth + (d.toNat + 1)) / c.S)) % c.S = (c.S * ((c.v.wdepth + d.toNat) / c.S) + 1) % c.S := by rw [h6]
    rw [Nat.mul_mod_right, Nat.mul_add_mod, Nat.mod_eq_of_lt (by omega)] at h7
    omega
  · split at h1 <;> omega

/-- Writing a pair in some lanes, read back. -/
theorem pair_written (c : Cohort) (d : Reg) (f : Nat → DWord) (ls : List Nat) (hS : Shape c) (hd : d.even = true)
    (hl : ∀ l ∈ ls, l < c.W) :
    let e := (c.setLanes d (fun l => loOf (f l)) ls).setLanes (d + 1) (fun l => hiOf (f l)) ls
    (∃ regs, e = { c with v := { c.v with regs := regs } }) ∧
    (∀ l ∈ ls, pairOf (regOf e d l) (regOf e (d + 1) l) = f l) ∧
    (∀ k, (∀ l ∈ ls, k ≠ regKey c.v.wdepth c.S d l ∧ k ≠ regKey c.v.wdepth c.S (d + 1) l) → Tab.get 0 e.v.regs k = Tab.get 0 c.v.regs k) := by
  intro e
  have he : ∃ regs, e = { c with v := { c.v with regs := regs } } := by
    refine ⟨e.v.regs, ?_⟩
    show Cohort.setLanes _ _ _ _ = _
    simp only [e, Cohort.setLanes_eq]
  have h1 : (c.setLanes d (fun l => loOf (f l)) ls).v.wdepth = c.v.wdepth ∧ (c.setLanes d (fun l => loOf (f l)) ls).S = c.S := by
    rw [Cohort.setLanes_eq]; exact ⟨rfl, rfl⟩
  have hew : e.v.wdepth = c.v.wdepth ∧ e.S = c.S := by
    obtain ⟨r, hr⟩ := he; rw [hr]; exact ⟨rfl, rfl⟩
  refine ⟨he, ?_, ?_⟩
  · intro l hl'
    have hl64 : ∀ x ∈ ls, x < 64 := fun x hx => Nat.lt_of_lt_of_le (hl x hx) hS.2
    have hi : regOf e (d + 1) l = hiOf (f l) := by
      unfold regOf
      rw [hew.1, hew.2]
      have := Cohort.setLanes_in (c.setLanes d (fun l => loOf (f l)) ls) (d + 1) (fun l => hiOf (f l)) ls l hl'
      rw [h1.1, h1.2] at this
      exact this
    have lo : regOf e d l = loOf (f l) := by
      unfold regOf
      rw [hew.1, hew.2]
      have h2 := Cohort.setLanes_out (c.setLanes d (fun l => loOf (f l)) ls) (d + 1) (fun l => hiOf (f l)) ls
        (regKey c.v.wdepth c.S d l) (fun x hx => by
          rw [h1.1, h1.2]; exact pair_keys c d hS hd l x (hl64 l hl') (hl64 x hx))
      have h3 := Cohort.setLanes_in c d (fun l => loOf (f l)) ls l hl'
      exact h2.trans h3
    rw [hi, lo]
    exact pairOf_halves _
  · intro k hk
    have h2 := Cohort.setLanes_out (c.setLanes d (fun l => loOf (f l)) ls) (d + 1) (fun l => hiOf (f l)) ls k
      (fun x hx => by rw [h1.1, h1.2]; exact (hk x hx).2)
    exact h2.trans (Cohort.setLanes_out c d _ ls k (fun x hx => (hk x hx).1))

/-- The lanes of a cohort do not depend on what its registers hold. -/
theorem lanes_of_regs (c : Cohort) (r : Tab Word) :
    ({ c with v := { c.v with regs := r } } : Cohort).active = c.active ∧
    ({ c with v := { c.v with regs := r } } : Cohort).livel = c.livel := by
  unfold Cohort.active Cohort.livel Cohort.rd
  dsimp only
  cases c.pre <;> exact ⟨rfl, rfl⟩

theorem source_lanes (c : Cohort) (u : Bool) (d : Reg) (f : Nat → Word) (l : Nat) :
    (c.lanes u d f).source u l = c.source u l ∧ (c.lanes u d f).targets u = c.targets u := by
  unfold Cohort.lanes
  rw [Cohort.setLanes_eq]
  generalize putLanes (regKey c.v.wdepth c.S d) (fun l => f (c.source u l)) c.v.regs (c.targets u) = r
  have h := lanes_of_regs c r
  cases u
  · exact ⟨rfl, h.1⟩
  · exact ⟨congrArg (fun x : List Nat => x.head?.getD 0) h.1, h.2⟩

/-- An instruction whose next state writes a pair per lane completes so. -/
theorem lanesPair_of_eq {s : State} {i : Instr} {u : Bool} {d : Reg} {n : Nat} {f val : Nat → DWord} (hS : Shape s.co)
    (hd : d.even = true) (h : exec i s = .next { s with co := (s.co.lanesPair u d f).past n }) (hf : ∀ l, f l = val l) :
    LanesPair s i u d n val := by
  have hp : s.co.lanesPair u d f = (s.co.setLanes d (fun l => loOf (f (s.co.source u l))) (s.co.targets u)).setLanes (d + 1)
      (fun l => hiOf (f (s.co.source u l))) (s.co.targets u) := by
    show (s.co.lanes u d (fun l => loOf (f l))).setLanes (d + 1) (fun l => hiOf (f ((s.co.lanes u d (fun l => loOf (f l))).source u l)))
      ((s.co.lanes u d (fun l => loOf (f l))).targets u) = _
    rw [show (fun l => hiOf (f ((s.co.lanes u d (fun l => loOf (f l))).source u l))) = fun l => hiOf (f (s.co.source u l)) from
      funext (fun l => by rw [(source_lanes s.co u d _ l).1]), (source_lanes s.co u d _ 0).2]
    rfl
  obtain ⟨⟨regs, hr⟩, hin, hout⟩ := pair_written s.co d (fun l => f (s.co.source u l)) (s.co.targets u) hS hd
    (fun l hl => Cohort.target_lt _ _ _ hl)
  rw [hp] at h
  refine ⟨_, h, ⟨regs, ?_⟩, ?_, ?_⟩
  · exact congrArg (fun c : Cohort => { s with co := c.past n }) hr
  · intro l hl
    rw [← hf]
    exact hin l hl
  · exact hout

/-- An instruction whose next state writes a pair in every active and inactive lane completes so. -/
theorem uniformPair_of_eq {s : State} {i : Instr} {d : Reg} {n : Nat} {w : DWord} (hS : Shape s.co)
    (hd : d.even = true) (h : exec i s = .next { s with co := (s.co.uniformPair d w).past n }) : UniformPair s i d n w := by
  have hl : (s.co.uniform d (loOf w)).livel = s.co.livel := by
    unfold Cohort.uniform
    rw [Cohort.setLanes_eq]
    unfold Cohort.livel Cohort.rd
    dsimp only
    cases s.co.pre <;> rfl
  have hp : s.co.uniformPair d w = (s.co.setLanes d (fun _ => loOf w) s.co.livel).setLanes (d + 1) (fun _ => hiOf w) s.co.livel := by
    show (s.co.uniform d (loOf w)).setLanes (d + 1) (fun _ => hiOf w) (s.co.uniform d (loOf w)).livel = _
    rw [hl]
    rfl
  obtain ⟨⟨regs, hr⟩, hin, hout⟩ := pair_written s.co d (fun _ => w) s.co.livel hS hd
    (fun l hl => ((mem_lanesIn _ _ _).mp hl).1)
  rw [hp] at h
  exact ⟨_, h, ⟨regs, congrArg (fun c : Cohort => { s with co := c.past n }) hr⟩, hin, hout⟩

end Sys2Proof.Claims
end

