-- ==== Sys2Proof/Laws/Memory.lean ====
section
/-!
SUPPORT. What the operations on memory do: which byte a write changes, and that every one of them keeps the canonical form.
-/

namespace Sys2Proof.Machine

theorem Memory.wf_setByte (s : State) (a : Nat) (b : Byte) (h : Memory.wf s.mem = true) : Memory.wf (s.setByte a b).mem = true :=
  Tab.ok_set _ _ _ _ h

theorem Memory.wf_pokes (l : List (Nat × Byte)) (s : State) (h : Memory.wf s.mem = true) : Memory.wf (s.pokes l).mem = true := by
  induction l generalizing s with
  | nil => exact h
  | cons e l ih => exact ih _ (Memory.wf_setByte s e.1 e.2 h)

theorem Memory.wf_pokeN (s : State) (a n v : Nat) (h : Memory.wf s.mem = true) : Memory.wf (s.pokeN a n v).mem = true :=
  Memory.wf_pokes _ _ h

/-- The memory after a write is the memory after its bytes are put down. -/
theorem State.write_mem (s : State) (cells : List (Nat × Byte)) : (s.write cells).mem = (s.pokes cells).mem := by
  have aux (l : List (Nat × Byte)) (s t : State) (h : s.mem = t.mem) : (s.pokes l).mem = (t.pokes l).mem := by
    induction l generalizing s t with
    | nil => exact h
    | cons e l ih => exact ih _ _ (by simp [State.setByte, h])
  cases cells with
  | nil => rfl
  | cons e l =>
    unfold State.write
    exact aux _ _ _ (by split <;> rfl)

theorem Memory.wf_write (s : State) (cells : List (Nat × Byte)) (h : Memory.wf s.mem = true) :
    Memory.wf (s.write cells).mem = true := by
  rw [State.write_mem]; exact Memory.wf_pokes _ _ h

theorem Memory.wf_writeN (s : State) (a n v : Nat) (h : Memory.wf s.mem = true) : Memory.wf (s.writeN a n v).mem = true :=
  Memory.wf_write _ _ h

theorem Memory.wf_filter (m : List Host.Cell) (p : Host.Cell → Bool) (h : Memory.wf m = true) : Memory.wf (m.filter p) = true :=
  Tab.ok_filter _ _ _ h

theorem Memory.wf_reset : Memory.wf State.reset.mem = true := rfl

/-- A byte that is not among the cells written keeps its value. -/
theorem State.byte_pokes_out (l : List (Nat × Byte)) (s : State) (a : Nat) (h : ∀ e ∈ l, e.1 ≠ a) : (s.pokes l).byte a = s.byte a := by
  induction l generalizing s with
  | nil => rfl
  | cons e l ih =>
    have h1 := h e (by simp)
    rw [State.pokes, ih _ (fun x hx => h x (by simp [hx])), State.byte_setByte, if_neg (Ne.symm h1)]

/-- The last cell of an address is what it holds after the write. -/
theorem State.byte_pokes_in (l : List (Nat × Byte)) (s : State) (a : Nat) (b : Byte) (h : (a, b) ∈ l)
    (hu : ∀ e ∈ l, e.1 = a → e.2 = b) : (s.pokes l).byte a = b := by
  induction l generalizing s with
  | nil => simp at h
  | cons e l ih =>
    by_cases hl : ∃ x ∈ l, x.1 = a
    · obtain ⟨x, hx, hxa⟩ := hl
      have : x = (a, b) := by
        have := hu x (by simp [hx]) hxa
        cases x; simp_all
      exact ih _ (this ▸ hx) (fun y hy => hu y (by simp [hy]))
    · have h1 : e = (a, b) := by
        rcases List.mem_cons.mp h with h | h
        · exact h.symm
        · exact absurd ⟨_, h, rfl⟩ hl
      rw [State.pokes, State.byte_pokes_out _ _ _ (fun x hx hxa => hl ⟨x, hx, hxa⟩), h1]
      simp

theorem State.byte_write (s : State) (cells : List (Nat × Byte)) (a : Nat) :
    (s.write cells).byte a = (s.pokes cells).byte a := by
  unfold State.byte; rw [State.write_mem]

/-- Bytes outside a write keep their values. -/
theorem State.byte_write_out (s : State) (cells : List (Nat × Byte)) (a : Nat) (h : ∀ e ∈ cells, e.1 ≠ a) :
    (s.write cells).byte a = s.byte a := by
  rw [State.byte_write]; exact State.byte_pokes_out _ _ _ h

theorem mem_cellsFrom (a : Nat) (bs : List Byte) (e : Nat × Byte) (h : e ∈ cellsFrom a bs) : a ≤ e.1 ∧ e.1 < a + bs.length := by
  induction bs generalizing a with
  | nil => simp [cellsFrom] at h
  | cons b bs ih =>
    rcases List.mem_cons.mp h with h | h
    · subst h; simp
    · have := ih _ h; simp only [List.length_cons]; omega

theorem length_natLe (n v : Nat) : (natLe n v).length = n := by
  induction n generalizing v with
  | zero => rfl
  | succ n ih => simp [natLe, ih]

/-- Bytes outside an n-byte write keep their values. -/
theorem State.byte_writeN_out (s : State) (a n v x : Nat) (h : x < a ∨ a + n ≤ x) : (s.writeN a n v).byte x = s.byte x := by
  refine State.byte_write_out _ _ _ (fun e he => ?_)
  have := mem_cellsFrom _ _ _ he
  rw [length_natLe] at this
  omega

/-- A write leaves the focused cohort. -/
theorem State.pokes_co (l : List (Nat × Byte)) (s : State) : (s.pokes l).co = s.co := by
  induction l generalizing s with
  | nil => rfl
  | cons e l ih => rw [State.pokes, ih]; rfl

theorem State.write_co (s : State) (cells : List (Nat × Byte)) : (s.write cells).co = s.co := by
  cases cells with
  | nil => rfl
  | cons e l =>
    unfold State.write State.writeBy
    dsimp only
    rw [State.pokes_co]
    split <;> rfl

/-- Clearing a range keeps the canonical form. -/
theorem Memory.wf_clearRange (s : State) (lo hi : Nat) (h : Memory.wf s.mem = true) : Memory.wf (s.clearRange lo hi).mem = true := by
  unfold State.clearRange
  exact Memory.wf_filter _ _ h

end Sys2Proof.Machine
end

