-- ==== Sys2Proof/Tests/Slice0.lean ====
section
/-!
SUPPORT. The author's tests: ill-formed instructions, words of the spec's encodings, single instructions on small states,
and a witness for each statement with hypotheses.
-/

open Sys2Proof Sys2Proof.Machine Sys2Proof.Claims

-- One theorem after another: side by side, the threads that wait for the kernel take too much memory.
set_option Elab.async false

namespace Sys2Proof.Tests

/-! ## Ill-formed instructions, one for each check of WellFormed -/

/-- A parameter block of zeros. -/
def block0 : PBlock := ⟨0, 0, 0, 0, 0, 0, 0, 0⟩
/-- A marker whose bits [11:6] are not 0 (R53). -/
def badMarker : Half := 0xF040
def qual : AtomQual := { scope := .team, ord := .rlx, w64 := false, sgn := false, off := 0 }

/-- None of a list of instructions is well formed. -/
def refused (l : List Instr) : Bool := l.all (fun i => !i.wf)

theorem test_wf_integer : refused [.iadd64 false 1 2 4, .iadd64 false 2 1 4, .iadd64 false 2 4 1, .isub64 false 3 2 4,
    .lea false 2 1 3 0 false 0, .lea false 1 2 3 0 false 0, .lea false 2 4 3 5 false 0, .bfxN32 false 1 2 0 3, .bfxI32 false 1 2 33 3,
    .bfi false 1 2 0 3, .cmp false 1 3 2 .i64 .eq, .cmp false 1 2 3 .n64 .eq] = true := by decide
theorem test_wf_lanes : refused [.vred false 1 2 true false .add, .vred false 2 3 true false .add, .vred false 1 2 false true .add,
    .scan false 1 2 false false .xor, .scan false 1 2 false true .add, .rds false 1 18, .rds false 1 13, .rds false 1 16, .wrs false 2 1,
    .wrs false 3 13, .wrs false 3 15] = true := by decide
theorem test_wf_float : refused [.cvt false 1 2 .rn .i64 .f32, .cvt false 2 1 .rn .f32 .n64, .cvtSat false 1 2 .rn .n64 .f32,
    .qnt 1 2 .rn .e2m1s, .dqt false 1 3 .e2m1s, .srnd 3 2] = true := by decide
theorem test_wf_control : refused [.bra false 1 .always 0, .brc false 0 .always 0, .brd false 0 .always 0, .brx false 1, .call false 0 0,
    .call false 12 0, .callx false 3 1, .callx false 2 0, .callx false 2 12] = true := by decide
theorem test_wf_memory : refused [.ld false 1 3 2 .w none false, .ld false 1 2 2 .d none false, .ldRo false 2 2 2 .q none false,
    .ldC false 1 2 2 .w none true, .ldNt false 4 2 2 .q none true, .ldU false 2 2 2 .d none true, .lds false 1 3 2 .b none true,
    .st false 1 2 2 .d none, .stNt false 2 2 2 .q none, .sts false 1 3 2 .b none, .ldf false 1 3 2 none, .stf false 1 3 2 none,
    .pref false 3 2 .l1 none] = true := by decide
theorem test_wf_atomics : refused [.aadd false 2 3 4 qual, .aadd false 2 4 6 { qual with sgn := true },
    .amin false 3 4 6 { qual with w64 := true }, .axch false 2 4 5 { qual with w64 := true }, .afadd false 2 4 6 { qual with w64 := true },
    .acas false 3 4 6 { qual with w64 := true }, .aand false 2 1 6 qual, .aor false 2 1 6 qual, .axor false 2 1 6 qual,
    .amax false 2 1 6 qual] = true := by decide
theorem test_wf_waits : refused [.fence .rlx .pkg false, .fence .acq .cohort true, .waita 1 3 2 false .eq, .waita 1 2 3 true .eq, .wakea 3,
    .cinv false 3 2, .cwb false 3 2, .tlbq false 1 2, .tlbq false 2 1, .clkrd 1, .sysc false 1 2, .sysc false 2 1] = true := by decide
theorem test_wf_engines : refused [.cpy false 1 2 3, .cpy false 2 1 3, .cpy2d false 1 2 block0, .cpy2d false 2 4 { block0 with h0 := badMarker },
    .cpy2d false 2 4 { block0 with h1 := badMarker }, .cpyg false 1 2 3 block0, .cpyg false 2 4 3 { block0 with h1 := badMarker },
    .cpyo false 1 3 2, .plnx false 1 2 3 { block0 with h0 := badMarker }, .plnx false 1 2 3 { block0 with h1 := badMarker },
    .resq 2 1, .resl false 1 3 block0, .resl false 1 2 { block0 with h1 := badMarker }, .resl false 1 2 { block0 with h2 := badMarker }]
    = true := by decide
theorem test_wf_matrix : refused [.mma false 1 2 3 { block0 with h0 := badMarker }, .mma false 1 2 3 { block0 with h7 := badMarker },
    .mma1 false 1 2 3 { block0 with h2 := badMarker }, .scld false 1 block0, .scld false 2 { block0 with h3 := badMarker }]
    = true := by decide
theorem test_wf_barriers : refused [.barinit 1 2 48 false, .bararr 1 48 false, .barwait 1 48 false, .barsync 48 false, .barq 1 48 false] = true := by decide
theorem test_wf_launch : refused [.route false 1 2 3 { block0 with h0 := badMarker }, .launch false 1 2, .launch false 2 1, .evsig false 1 2,
    .evwait 1 3 2, .evwait 1 2 3, .galloc 1 2, .gfree 1 3, .gqry 1] = true := by decide
theorem test_wf_fabric : refused [.nput false 1 2 3 block0, .nget false 2 1 3 block0, .ncoll false 2 4 3 { block0 with h3 := badMarker },
    .na2a false 2 4 3 { block0 with h6 := badMarker }, .nred false 2 4 3 { block0 with h4 := badMarker }, .trigarm false 1 3]
    = true := by decide
theorem test_wf_flash : refused [.app false 2 2 4, .app false 4 1 2, .app false 4 2 1, .appsync false 2 2 4, .appsync false 4 1 2,
    .appseal false 2 1, .fmpreq false 2 2 1, .fmpreq false 4 1 2] = true := by decide
/-- A step without an encoding has no word. -/
theorem test_wf_event : refused [.selectClause 0, .ps0, .coldBoot] = true := by decide
/-- At width 64 a mask operand is a pair (R76). -/
theorem test_wf_width : (([.sel 1 2 3 5, .cmp false 1 2 3 .i32 .eq, .mpop false 1 3, .rds false 1 0, .wrs false 3 0, .bra false 3 .any 0] : List Instr).all
    (fun i => i.wf && i.widthOk 32 && !i.widthOk 64)) = true := by decide

/-! ## Words that the spec gives for its examples -/

theorem test_decode_bfx : decode [0x0F041888] = some (.bfxI32 false 2 3 4 8) := by decide
theorem test_decode_perm : decode [0x140A30E0] = some (.perm false 5 6 7) := by decide
theorem test_decode_shup : decode [0x150A3201] = some (.shupImm false 5 6 1) := by decide
theorem test_decode_ffma : decode [0x210420C4] = some (.ffma 1 2 3 4) := by decide
theorem test_decode_fxp2 : decode [0x260C2808] = some (.fxp2 false 6 5 true) := by decide
theorem test_decode_qnt : decode [0x2C101050] = some (.qnt 8 2 .rn .e2m1s) := by decide
theorem test_decode_brx : decode [0x3C802000] = some (.brx true 4) := by decide
theorem test_decode_call : decode [0x3D04001E] = some (.call false 2 30) := by decide
theorem test_decode_callx : decode [0x3E005002] = some (.callx false 10 2) := by decide
theorem test_decode_trap : decode [0x42000007] = some (.trap 7) := by decide
theorem test_decode_wdepth : decode [0x45120000] = some (.wdepth 9) := by decide
theorem test_decode_ld : decode [0x48118608] = some (.ld false 8 48 48 .w none false) := by decide
theorem test_decode_ldf : decode [0x511420E8] = some (.ldf false 10 4 7 none) := by decide
theorem test_decode_aadd : decode [0x540620C0, 0x28000010] =
    some (.aadd false 3 4 6 { scope := .team, ord := .rel, w64 := false, sgn := false, off := 16 }) := by decide
theorem test_decode_fence : decode [0x5D000130] = some (.fence .acq .team true) ∧ decode [0x5D000280] = some (.fence .rel .pkg false) := by
  decide
theorem test_decode_cpyo : decode [0x63125180] = some (.cpyo false 9 10 12) := by decide
theorem test_decode_resl : decode [0x69003080, 0, 0, 0, 0] = some (.resl false 6 4 block0) := by decide
theorem test_decode_routeq : decode [0x72060000] = some (.routeq 3) := by decide
theorem test_decode_launch : decode [0x74042000] = some (.launch false 2 4) := by decide
theorem test_decode_events : decode [0x750020C0] = some (.evsig false 4 6) ∧ decode [0x750420C1] = some (.evwait 2 4 6) := by decide
theorem test_decode_generations : decode [0x76042000] = some (.galloc 2 4) ∧ decode [0x76042001] = some (.gfree 2 4) ∧
    decode [0x76000002] = some .gadv ∧ decode [0x76040003] = some (.gqry 2) := by decide
theorem test_decode_nput : decode [0x780420C0, 0, 0, 0, 0] = some (.nput false 2 4 6 block0) ∧
    decode [0x780420C1, 0, 0, 0, 0] = some (.nget false 2 4 6 block0) := by decide
theorem test_decode_counters : decode [0x79042000] = some (.trigarm false 2 4) ∧ decode [0x790038C1] = some (.ctrset false 7 6) ∧
    decode [0x790038C2] = some (.ctradd false 7 6) ∧ decode [0x791000C3] = some (.ctrrd 8 6) := by decide
theorem test_decode_append : decode [0x7A1020C0] = some (.app false 8 4 6) ∧ decode [0x7A1020C1] = some (.appsync false 8 4 6) ∧
    decode [0x7A1000C2] = some (.appseal false 8 6) ∧ decode [0x7B1020C0] = some (.fmpreq false 8 4 6) := by decide
theorem test_decode_hart : decodeHart 0x0005850B = some (.glaunch 10 11 0) := by decide
/-- An unassigned opcode, a set bit of a field that must be 0, and a function code without an instruction are no instruction. -/
theorem test_decode_reserved : decode [0x00000000] = none ∧ decode [0x44000001] = none ∧ decode [0x76000004] = none := by decide

/-! ## Single instructions

The machine is the one that State.withFetchWord makes: an 8-lane cohort of context 0 with all lanes active, whose virtual addresses
are physical ones. Each expected value is computed by hand from the rule named. -/

/-- The state of an outcome. -/
def stateOf (o : Host.Outcome State Fault Refusal) : Option State :=
  match o with
  | .next t => some t
  | .fault _ | .refused _ => none

def base : State := State.reset.withFetchWord 32 0x44000000

/-- A register in one lane of the focused cohort. -/
def put (r : Reg) (l : Nat) (v : Word) (s : State) : State := { s with co := s.co.setLane r l v }

/-- What f reads after an instruction. -/
def after {α : Type} (i : Instr) (s : State) (f : State → α) : Option α := (stateOf (exec i s)).map f
/-- A register in a lane after an instruction. -/
def regAfter (i : Instr) (s : State) (r : Reg) (l : Nat) : Option Word := after i s (fun t => t.co.get r l)

def two (x y : Word) : State := put 2 3 y (put 1 3 x base)
def one (x : Word) : State := put 1 3 x base

theorem test_iadd : regAfter (.iadd false 4 1 2) (two 0xFFFFFFFF 2) 4 3 = some 1 := by decide +kernel
theorem test_isub : regAfter (.isub false 4 1 2) (two 1 2) 4 3 = some 0xFFFFFFFF := by decide +kernel
theorem test_imulh : regAfter (.imulhN32 false 4 1 2) (two 0xFFFFFFFF 0xFFFFFFFF) 4 3 = some 0xFFFFFFFE ∧
    regAfter (.imulhI32 false 4 1 2) (two 0xFFFFFFFF 0xFFFFFFFF) 4 3 = some 0 := by decide +kernel
theorem test_imin : regAfter (.iminI32 false 4 1 2) (two 0xFFFFFFFF 2) 4 3 = some 0xFFFFFFFF ∧
    regAfter (.iminN32 false 4 1 2) (two 0xFFFFFFFF 2) 4 3 = some 2 := by decide +kernel
/-- The absolute value of the least integer keeps its bits (R81). -/
theorem test_iabs : regAfter (.iabs false 4 1) (one 0x80000000) 4 3 = some 0x80000000 := by decide +kernel
theorem test_shl : regAfter (.shl false 4 1 2) (two 1 32) 4 3 = some 0 ∧ regAfter (.shl false 4 1 2) (two 1 31) 4 3 = some 0x80000000 := by
  decide +kernel
theorem test_sar : regAfter (.sar false 4 1 2) (two 0x80000000 100) 4 3 = some 0xFFFFFFFF := by decide +kernel
theorem test_rot : regAfter (.rotImm false 4 1 4) (one 0x80000001) 4 3 = some 0x18 := by decide +kernel
theorem test_bfx : regAfter (.bfxI32 false 4 1 4 8) (one 0xF00) 4 3 = some 0xFFFFFFFF ∧
    regAfter (.bfxN32 false 4 1 4 8) (one 0xF00) 4 3 = some 15 := by decide +kernel
theorem test_bfi : regAfter (.bfi false 4 1 8 28) (put 4 3 0x0000000F (one 0xFF)) 4 3 = some 0xF000000F := by decide +kernel
theorem test_clz : regAfter (.clz false 4 1) (one 0) 4 3 = some 32 ∧ regAfter (.clz false 4 1) (one 1) 4 3 = some 31 := by decide +kernel
/-- A compare writes the mask to every lane (R87). -/
theorem test_cmp : regAfter (.cmp false 4 1 2 .i32 .gt) (two 1 0xFFFFFFFF) 4 0 = some 8 ∧
    regAfter (.cmp false 4 1 2 .n32 .gt) (two 1 0xFFFFFFFF) 4 0 = some 0 := by decide +kernel
/-- A lane outside the cohort gives the lane's own value (R91). -/
theorem test_shup : regAfter (.shupImm false 4 1 1) (put 1 0 5 (one 7)) 4 4 = some 7 ∧
    regAfter (.shupImm false 4 1 1) (put 1 0 5 (one 7)) 4 0 = some 5 := by decide +kernel
theorem test_vred : regAfter (.vred false 4 1 false false .add) (put 1 0 5 (one 7)) 4 6 = some 12 := by decide +kernel
theorem test_scan : regAfter (.scan false 4 1 true false .add) (put 1 0 5 (one 7)) 4 3 = some 5 ∧
    regAfter (.scan false 4 1 false false .add) (put 1 0 5 (one 7)) 4 3 = some 12 := by decide +kernel
/-- With U = 1 the value of the lowest active lane goes to every active and inactive lane (R24). -/
theorem test_uniform : regAfter (.iadd true 4 1 2) (put 1 0 5 (two 9 9)) 4 6 = some 5 := by decide +kernel
theorem test_rds : regAfter (.rds false 4 1) base 4 6 = some 6 ∧ regAfter (.rds false 4 2) base 4 6 = some 8 := by decide +kernel
theorem test_fadd : regAfter (.fadd false 4 1 2 .f32) (two 0x3F800000 0x40000000) 4 3 = some 0x40400000 := by decide +kernel
/-- 1 + 2^-24 ties to even; a fused multiply-add of (1 + 2^-12)^2 - (1 + 2^-11) keeps 2^-24. -/
theorem test_ffma : regAfter (.fadd false 4 1 2 .f32) (two 0x3F800000 0x33800000) 4 3 = some 0x3F800000 ∧
    regAfter (.ffma 4 1 1 2) (two 0x3F800800 0xBF801000) 4 3 = some 0x33800000 := by decide +kernel
theorem test_cvt : regAfter (.cvt false 4 1 .rz .i32 .f32) (one 0xC0200000) 4 3 = some 0xFFFFFFFE ∧
    regAfter (.cvt false 4 1 .rn .f16 .f32) (one 0x3F800000) 4 3 = some 0x3C00 := by decide +kernel
/-- A special function's result is outstanding (R43, R133). -/
theorem test_frcp : after (.frcp false 4 1 false) (one 0x40000000) (fun t => (t.co.v.ops.map Op.kind, t.co.v.ops.flatMap (fun o =>
    (o.writes.filter (fun w => w.1 % 64 == 3)).map Prod.snd))) = some ([OpKind.sfu], [0x3F000000]) := by decide +kernel
/-- The example of R136: 2^-140.5, and the tie of 2^-150. -/
theorem test_exp2_example : regAfter (.fscale false 4 1 2 .f32 .rn) (two 0x3F3504F3 0xFFFFFF74) 4 3 = some 0x16A ∧
    regAfter (.fscale false 4 1 2 .f32 .rn) (two 0x3F800000 0xFFFFFF6A) 4 3 = some 0 ∧
    regAfter (.fmin false 4 1 2 .f32) (two 0x7F800001 0x43480000) 4 3 = some 0x7FC00001 := by decide +kernel
theorem test_bra : after (.bra false 0 .always 12) base (fun t => t.co.hdr) = some 0x10030 := by decide +kernel
theorem test_join_faults : after .join base (fun t => t.lastFault.map (fun f => (f.cause, f.sub))) = some (some (2, 2)) := by decide +kernel
theorem test_trap : after (.trap 7) base (fun t => (t.co.halted, t.lastFault.map (fun f => (f.cause, f.sub)))) = some (true, some (3, 7)) := by
  decide +kernel
/-- A call shifts the window: the callee's v0 is the caller's v8 (R159). -/
theorem test_call : regAfter (.call false 2 30) (put 8 3 77 base) 0 3 = some 77 := by decide +kernel
theorem test_exit : after .exit base (fun t => (t.co.v.live, t.co.exited)) = some (0, true) := by decide +kernel

/-- Lane 3 alone is active, with the address of a byte of memory in v2:v3. -/
def lane3 : State :=
  let s := put 4 3 0x11223344 (put 2 3 0x30001 base)
  { s with co := { s.co with v := { s.co.v with exec := 8 } } }

theorem test_st : after (.st false 4 2 0 .h (some 3)) lane3 (fun t => t.nearBytes 0 0x30003 4) = some [0, 0x44, 0x33, 0] := by decide +kernel
/-- An atomic at an address that is not a multiple of its size raises MISALIGNED (R174). -/
theorem test_aadd_misaligned : after (.aadd false 5 2 4 qual) lane3 (fun t => t.lastFault.map FaultInfo.cause) = some (some 4) := by
  decide +kernel
theorem test_ld : after (.ld false 5 2 0 .b none true) (lane3.pokeN 0x30001 1 0x80)
    (fun t => t.co.v.ops.flatMap (fun o => o.writes.map Prod.snd)) = some [0xFFFFFF80] := by decide +kernel
/-- The old value is returned, and memory holds the sum (R187). -/
theorem test_aadd : after (.aadd false 5 2 4 { qual with off := 3 }) (lane3.pokeN 0x30004 4 0xFFFFFFFF)
    (fun t => (t.readN 0x30004 4, t.co.v.ops.flatMap (fun o => o.writes.map Prod.snd))) = some (0x11223343, [0xFFFFFFFF]) := by decide +kernel
theorem test_waita_zero : after (.waita 5 6 7 false .eq) base (fun t => (t.co.wait.isSome, t.co.get 5 0)) = some (false, 0) := by decide +kernel
theorem test_fence : after (.fence .sc .pkg false) base (fun t => (t.co.fence, t.seq)) = some (true, 1) := by decide +kernel

/-! Contexts, power and the host's instructions -/

theorem test_preempt : after (.preempt 0) base (fun t => (t.ctx 0).state) = some .preempting := by decide +kernel
theorem test_resume_refused : after (.resume 0) { base with ctxs := Tab.put base.ctxs 0 { base.ctx 0 with state := .terminated } }
    (fun t => (t.ctx 0).cmderr) = some true := by decide +kernel
theorem test_nop_steps : (stateOf (step base)).map (fun t => t.co.idx) = some 2 := by decide +kernel
theorem test_hart_word : (stateOf (step (State.reset.withFetchWord 32 0x0000350B))).map (fun t => (t.hart 0).pc) = some 4 := by decide +kernel

/-! ## Witnesses

For each statement with hypotheses, states and operands that meet the hypotheses of each of its clauses together. -/

/-- A computation that comes to an answer of which P holds. -/
def metBy {ε α : Type} (r : State × Except ε α) (P : State → α → Prop) [∀ t x, Decidable (P t x)] : Bool :=
  match r with
  | (t, .ok x) => decide (P t x)
  | (_, .error _) => false
theorem meets {ε α : Type} {r : State × Except ε α} {P : State → α → Prop} [∀ t x, Decidable (P t x)] (h : metBy r P = true) :
    ∃ t x, r = (t, .ok x) ∧ P t x := by
  obtain ⟨t, e | x⟩ := r
  · cases h
  · exact ⟨t, x, rfl, of_decide_eq_true h⟩

/-- A computation without a fault that leaves a state of which P holds. -/
def goodBy {α : Type} (r : State × Option α) (P : State → Prop) [∀ t, Decidable (P t)] : Bool :=
  match r with
  | (t, none) => decide (P t)
  | (_, some _) => false
theorem good {α : Type} {r : State × Option α} {P : State → Prop} [∀ t, Decidable (P t)] (h : goodBy r P = true) :
    ∃ t, r = (t, none) ∧ P t := by
  obtain ⟨t, _ | x⟩ := r
  · exact ⟨t, rfl, of_decide_eq_true h⟩
  · cases h
theorem next_of {o : Host.Outcome State Fault Refusal} {P : State → Prop} [∀ t, Decidable (P t)]
    (h : (stateOf o).any (fun t => decide (P t)) = true) : ∃ t, o = .next t ∧ P t := by
  cases o with
  | next t => exact ⟨t, rfl, of_decide_eq_true h⟩
  | fault _ => cases h
  | refused _ => cases h

/-- The machine after an instruction. -/
def run (i : Instr) (s : State) : State := (stateOf (exec i s)).getD s
/-- base without the clause in memory, which only a fetch reads. -/
def bare : State := { base with mem := base.mem.filter (fun e => decide (e.1 < placeCode)) }
/-- A machine with another focused cohort. -/
def withCo (f : Cohort → Cohort) (s : State) : State := { s with co := f s.co }
/-- A cohort of 64 lanes, all active. -/
def wide : State := withCo (fun c => { c with W := 64, launched := -1, v := { c.v with exec := -1, live := -1 } }) base
/-- A register in every lane of the cohort. -/
def putAll (r : Reg) (v : Word) (s : State) : State := (List.range s.co.W).foldl (fun s l => put r l v s) s
/-- The cohort with n special functions outstanding. -/
def sfus (n : Nat) : State := withCo (fun c => { c with v := { c.v with ops := (List.range n).map (fun i =>
  { id := i, kind := .sfu, flag := none, clause := 0, keys := [], writes := [] }) } }) base
/-- A cohort with a trap handler at 0x40000, in g10:g11. -/
def trapping : State := putAll 58 0x40000 base
/-- Lanes 0 to 3 on one side of a branch, lanes 4 to 7 on the other. -/
def mixed : State := putAll 6 0x0F base
def diverged : State := run (.brd false 6 .any 12) mixed
/-- One lane of the cohort was launched. -/
def solo : State := withCo (fun c => { c with launched := 1, v := { c.v with live := 1, exec := 1 } }) bare
def called : State := run (.call false 2 30) solo

theorem witness_IntegerArithmetic : Shape base.co ∧ (62 : Reg).even = true ∧ Shape wide.co := by decide +kernel
theorem witness_LogicShiftsAndFields :
    (1 ≤ (1 : BitVec 6).toNat ∧ (1 : BitVec 6).toNat ≤ 32) ∧ 1 ≤ (32 : BitVec 6).toNat ∧ (32 : BitVec 6).toNat ≤ 32 := by decide
theorem witness_ComparesAndMaskCounts : Shape base.co ∧ (base.co.W = 64 → (1 : Reg).even = true) ∧ base.co.W ≤ 32 ∧
    Shape wide.co ∧ (wide.co.W = 64 → (2 : Reg).even = true) ∧ wide.co.W = 64 := by decide +kernel
theorem witness_CrossLaneMoves : 0 < base.co.W := by decide +kernel
theorem witness_ReductionsAndScans : Shape base.co ∧ 0 < base.co.W ∧ (2 : Reg).even = true ∧ base.co.active ≠ [] ∧
    (withCo (fun c => { c with v := { c.v with exec := 0 } }) base).co.active = [] := by decide +kernel
theorem witness_SpecialRegisters : (Shape base.co ∧ base.co.W ≠ 64 ∧ (2 : Reg).even = true) ∧ Shape wide.co ∧ wide.co.W = 64 := by
  decide +kernel
theorem witness_RoundingAndConversion : Shape base.co ∧ (2 : Reg).even = true := by decide +kernel
theorem witness_BlockConversions : (Shape wide.co ∧ (2 : Reg).even = true ∧ (wide.co.W = 32 ∨ wide.co.W = 64) ∧ 0 < wide.co.W / 32) ∧
    Shape base.co ∧ base.co.W < 32 ∧ base.co.landSfu.delivers 0x08 = false := by decide +kernel
theorem witness_SpecialFunctionsBegin : (base.sfuQueue base.co.core).length = 0 ∧ ((sfus 15).sfuQueue (sfus 15).co.core).length = 15 := by
  decide +kernel
theorem witness_BranchesAndExit : base.co.mask 6 &&& base.co.rd.exec = 0 ∧
    (let c := (putAll 6 0xFF base).co; c.mask 6 &&& c.rd.exec = c.rd.exec ∧ c.rd.exec ≠ 0) ∧
    (let c := trapping.co; (c.ugetPair 58).toNat % 4 = 0 ∧ ∀ l ∈ c.active, c.getPair 58 l = c.ugetPair 58) := by decide +kernel
/-- The same with a join record whose target is no multiple of 4. -/
def crooked : State := withCo (fun c => c.posSet (c.v.wdepth - 4) 4 0x10032) diverged
theorem witness_DivergenceAndJoin :
    (let c := mixed.co; c.mask 6 &&& c.rd.exec = 0x0F ∧ c.v.wdepth + 4 ≤ c.lim ∧ c.jd < 65535 ∧ 52 ≤ c.S) ∧
    (∃ s1, mixed.openWindow 4 = (s1, none) ∧ (∀ e ∈ s1.co.v.regs, e.1 < (16 + s1.co.S) * 64) ∧
      Tab.ok 0 s1.co.v.regs = true ∧ 52 ≤ s1.co.S ∧ s1.co.jd = 0) ∧
    (∃ t, exec (.brd false 6 .any 12) mixed = .next t ∧ t.co.jd = 1) ∧
    diverged.co.jd ≠ 0 ∧ (∃ s1, diverged.refillTo (diverged.co.v.wdepth - 4) = (s1, none) ∧ s1.co.topRecord.joined = false ∧ s1.co.topRecord.target % 4 = 0) ∧
    ((run .join diverged).co.jd ≠ 0 ∧ ∃ s1, (run .join diverged).refillTo ((run .join diverged).co.v.wdepth - 4) = (s1, none) ∧
      s1.co.topRecord.joined = true) ∧
    crooked.co.jd ≠ 0 ∧ ∃ s1, crooked.refillTo (crooked.co.v.wdepth - 4) = (s1, none) ∧ s1.co.topRecord.joined = false ∧
      s1.co.topRecord.target % 4 ≠ 0 ∧ s1.co.landSfu.delivers 0x04 = false :=
  ⟨by decide +kernel, good (by decide +kernel), next_of (by decide +kernel), by decide +kernel, good (by decide +kernel),
    ⟨by decide +kernel, good (by decide +kernel)⟩, by decide +kernel, good (by decide +kernel)⟩
/-- A call whose link group names a return address that is no multiple of 4. -/
def skewed : State := withCo (fun c => c.posSet (c.v.wdepth - 4) 0 0x10002) called
theorem witness_CallsAndReturns :
    (base.co.v.wdepth + 44 ≤ base.co.lim ∧ ∃ s1, base.openWindow 44 = (s1, none) ∧ 52 ≤ s1.co.S ∧ s1.co.W ≤ 64) ∧
    (called.co.jd = 0 ∧ called.co.calld ≠ 0 ∧ ∃ s2, called.refillLink = (s2, none) ∧
      (s2.co.posGet (s2.co.v.wdepth - 4) s2.co.lowestLive).toNat % 4 = 0) ∧
    skewed.co.jd = 0 ∧ skewed.co.calld ≠ 0 ∧ ∃ s2, skewed.refillLink = (s2, none) ∧
      (s2.co.posGet (s2.co.v.wdepth - 4) s2.co.lowestLive).toNat % 4 ≠ 0 ∧ s2.co.landSfu.delivers 0x04 = false :=
  ⟨⟨by decide +kernel, good (by decide +kernel)⟩, ⟨by decide +kernel, by decide +kernel, good (by decide +kernel)⟩,
    by decide +kernel, by decide +kernel, good (by decide +kernel)⟩
def savedPoint : Saved :=
  { hdr := 0x10000, mid := false, words := [], idx := 0, clause := 0, temps := [], sw := 0, k := 0, jd := 3, calld := 5, trappc := 0x10008 }
def trapped : State := withCo (fun c => { c with handler := some savedPoint, v := { c.v with wdepth := 48, trappc := 0x10008 } }) base
/-- The same with a point within a clause, t0 of lane 1 saved; and a handler that has chosen another clause. -/
def savedMid : Saved := { savedPoint with mid := true, words := base.co.words, idx := 1, temps := [(769, 5)] }
def trappedMid : State := withCo (fun c => { c with handler := some savedMid }) trapped
def elsewhere : State := withCo (fun c => { c with v := { c.v with trappc := 0x10010 } }) trapped
theorem witness_TrapsAndReturns :
    (trapping.co.landSfu.delivers 0x03 = true ∧ trapping.co.landSfu.delivers 0x02 = true ∧
      ({ trapping with co := trapping.co.landSfu } : State).regEntries = [] ∧
      ∃ s1, ({ trapping with co := trapping.co.landSfu } : State).openWindow 48 = (s1, none) ∧ 48 ≤ s1.co.S) ∧
    (trapped.co.handler = some savedPoint ∧ trapped.co.v.trappc = savedPoint.trappc ∧ trapped.co.calld = 0 ∧ trapped.co.jd = 0) ∧
    (∃ s1, trapped.refillTo (trapped.co.v.wdepth - 48) = (s1, none) ∧ s1.co.v.trappc = trapped.co.v.trappc) ∧
    (trappedMid.co.handler = some savedMid ∧ savedMid.mid = true ∧ Tab.ok 0 savedMid.temps = true ∧
      ∃ s1, trappedMid.refillTo (trappedMid.co.v.wdepth - 48) = (s1, none) ∧ Tab.ok 0 s1.co.v.regs = true) ∧
    (elsewhere.co.v.trappc ≠ savedPoint.trappc ∧ elsewhere.co.v.trappc.toNat % 4 = 0 ∧
      ∃ s1, elsewhere.refillTo (elsewhere.co.v.wdepth - 48) = (s1, none) ∧ s1.co.v.trappc = elsewhere.co.v.trappc) :=
  ⟨⟨by decide +kernel, by decide +kernel, by decide +kernel, good (by decide +kernel)⟩, by decide +kernel, good (by decide +kernel),
    ⟨by decide +kernel, by decide +kernel, by decide +kernel, good (by decide +kernel)⟩,
    ⟨by decide +kernel, by decide +kernel, good (by decide +kernel)⟩⟩
theorem witness_ControlFaults : base.co.landSfu.delivers 0x02 = false ∧ base.co.landSfu.delivers 0x0A = false ∧ base.co.landSfu.delivers 0x04 = false ∧
    (let x := mixed.co.mask 6 &&& mixed.co.rd.exec; x ≠ 0 ∧ x ≠ mixed.co.rd.exec) ∧
    (let c := (withCo (fun c => { c with wlimit := 51, v := { c.v with wdepth := 48 } }) base).co; c.lim < c.v.wdepth + 4) ∧
    base.co.jd = 0 ∧ diverged.co.jd ≠ 0 ∧ base.co.calld = 0 ∧ base.co.handler = none ∧ diverged.co.delivers 0x02 = false := by decide +kernel

theorem core_idle (s : State) (h : s.cores.all (fun k => k.2.sb.isEmpty && k.2.cmds.isEmpty) = true) (n : Nat) : (s.core n).sb = [] := by
  show (Tab.get Core.init s.cores n).sb = []
  generalize s.cores = cs at h
  induction cs with
  | nil => rfl
  | cons e cs ih =>
    obtain ⟨k, v⟩ := e
    simp only [List.all_cons, Bool.and_eq_true, List.isEmpty_iff] at h
    simp only [Tab.get]
    split
    · exact h.1.1
    · exact ih h.2
/-- With no command under way, no access waits for one. -/
theorem idle_held {s : State} (h : s.cores.all (fun k => k.2.sb.isEmpty && k.2.cmds.isEmpty) = true) (hf : s.fcmds = []) (wr : Bool) :
    ∀ pas, s.heldBy pas wr = none := by
  intro pas
  have hc : ∀ l, s.engOwner l = none := by
    intro l
    simp only [State.engOwner, List.findSome?_eq_none_iff]
    intro e he
    have := List.all_eq_true.mp h e he
    simp only [Bool.and_eq_true, List.isEmpty_iff] at this
    simp [this.2]
  simp only [State.heldBy, List.findSome?_eq_none_iff]
  intro pa _
  cases onchipOf pa with
  | none => simp [State.ownerOf, hc, State.fabOwner, hf]
  | some p => simp [State.blockerOf, core_idle s h]
def shareOk (share : Bool) (c : Cohort) (va n x : Nat) : Bool :=
  decide (x + n ≤ 16384 * c.shareN) && (if share then va == x else windowOf va == .loc x && match windowOf ((va + (n - 1)) % 2 ^ 64) with
    | .loc _ => true
    | .glob | .onchip _ => false)
theorem inShare {share : Bool} {c : Cohort} {va n x : Nat} (h : shareOk share c va n x = true) : InShare share c va n x := by
  simp only [shareOk, Bool.and_eq_true, decide_eq_true_eq] at h
  refine ⟨h.1, ?_⟩
  cases share with
  | true => simpa using h.2
  | false =>
    simp only [Bool.false_eq_true, if_false, Bool.and_eq_true, beq_iff_eq] at h ⊢
    refine ⟨h.2.1, ?_⟩
    revert h
    cases windowOf ((va + (n - 1)) % 2 ^ 64) <;> simp
theorem inShares {share : Bool} {c : Cohort} {ls : List Nat} {va : Nat → Nat} {n : Nat} {x : Nat → Nat}
    (h : ls.all (fun l => shareOk share c (va l) n (x l)) = true) : ∀ l ∈ ls, InShare share c (va l) n (x l) :=
  fun l hl => inShare (List.all_eq_true.mp h l hl)
/-- v2:v3 of every lane at 16 bytes a lane from 0x30000 up. -/
def lanes16 : State := (List.range 8).foldl (fun s l => put 2 l (BitVec.ofNat 32 (0x30000 + 16 * l)) s) bare
/-- v2:v3 of every lane an address of the scratchpad window. -/
def inSp : State := putAll 3 0x00F00000 bare

theorem witness_LoadsBegin :
    (∃ t rs, resolveLanes lanes16.co .plain 16 .read false (lanes16.co.active.map (fun l => (l, lanes16.co.laneAddr 2 0 none l))) lanes16 =
      (t, .ok rs) ∧ rs.length = 8 ∧ Agrees t ∧ ∀ e ∈ rs, Plain e.2.2) ∧
    (∃ t rs, resolveLanes bare.co .plain 4 .read true (bare.co.active.map (fun l => (l, bare.co.laneAddr 2 0 (some 0x3FFC) l))) bare =
      (t, .ok rs) ∧ rs.length = 8 ∧ Agrees t ∧ ∀ e ∈ rs, Plain e.2.2) ∧
    (∃ t rs, resolveLanes lanes16.co .plain 1 .read false ([lanes16.co.lowest].map (fun l => (l, lanes16.co.laneAddr 2 0 none l))) lanes16 =
      (t, .ok rs) ∧ rs.length = 1 ∧ Agrees t ∧ ∀ e ∈ rs, Plain e.2.2) ∧
    ((∀ l ∈ inSp.co.active, InShare false inSp.co (inSp.co.laneAddr 2 0 none l) 16 0) ∧
      (∀ l ∈ [inSp.co.lowest], InShare false inSp.co (inSp.co.laneAddr 2 0 (some 0x3FFF) l) 1 0x3FFF) ∧
      (∀ l ∈ bare.co.active, InShare true bare.co (bare.co.laneAddr 2 0 (some 0x3FF0) l) 16 0x3FF0) ∧
      inSp.unmarked = true ∧ bare.unmarked = true ∧ (inSp.core inSp.co.core).wc = [] ∧ (bare.core bare.co.core).wc = [] ∧
      (∀ pas, inSp.heldBy pas false = none) ∧ ∀ pas, bare.heldBy pas false = none) :=
  ⟨meets (by decide +kernel), meets (by decide +kernel), meets (by decide +kernel),
    inShares (x := fun _ => 0) (by decide +kernel), inShares (x := fun _ => 0x3FFF) (by decide +kernel),
    inShares (x := fun _ => 0x3FF0) (by decide +kernel), by decide +kernel, by decide +kernel, by decide +kernel, by decide +kernel,
    idle_held (by decide +kernel) (by decide +kernel) false, idle_held (by decide +kernel) (by decide +kernel) false⟩
theorem witness_StoresPerform :
    (∃ t rs, resolveLanes lanes16.co .plain 16 .write false (lanes16.co.active.map (fun l => (l, lanes16.co.laneAddr 2 0 none l))) lanes16 =
      (t, .ok rs) ∧ rs.length = 8 ∧ Quiet t ∧ ∀ e ∈ rs, ∀ p ∈ e.2.2.parts, p.1.any (fun l => l.normal && areaOf l.pa != .control) = true) ∧
    (∃ t rs, resolveLanes bare.co .plain 2 .write true (bare.co.active.map (fun l => (l, bare.co.laneAddr 2 0 none l))) bare =
      (t, .ok rs) ∧ rs.length = 8 ∧ Quiet t ∧ ∀ e ∈ rs, e.2.2.leaf = none ∧ e.2.2.next = none) ∧
    (∀ l ∈ inSp.co.active, InShare false inSp.co (inSp.co.laneAddr 2 0 none l) 16 0) ∧
    (∀ l ∈ bare.co.active, InShare true bare.co (bare.co.laneAddr 2 0 (some 0x3FF0) l) 16 0x3FF0) ∧
    (inSp.unmarked = true ∧ bare.unmarked = true ∧ (inSp.core inSp.co.core).wc = [] ∧ (bare.core bare.co.core).wc = []) ∧
    (∀ pas, inSp.heldBy pas true = none) ∧ ∀ pas, bare.heldBy pas true = none :=
  ⟨meets (by decide +kernel), meets (by decide +kernel), inShares (x := fun _ => 0) (by decide +kernel),
    inShares (x := fun _ => 0x3FF0) (by decide +kernel), by decide +kernel, idle_held (by decide +kernel) (by decide +kernel) true,
    idle_held (by decide +kernel) (by decide +kernel) true⟩
theorem witness_AtomicsPerform :
    (∃ t rs, resolveAtomics lanes16.co 8 (lanes16.co.active.map (fun l => (l, (lanes16.co.getPair 2 l + qual.off.signExtend 64).toNat)))
      lanes16 = (t, .ok rs) ∧ rs.length = 8 ∧ Quiet t) ∧
    (∃ t rs, resolveAtomics inSp.co 8 [(inSp.co.lowest, (inSp.co.ugetPair 2).toNat)] inSp = (t, .ok rs) ∧ rs.length = 1 ∧ Quiet t ∧
      ∀ e ∈ rs, Plain e.2.2 ∧ e.2.2.pas.length = 8 ∧ e.2.2.pas.Nodup) ∧
    ((∀ e ∈ inSp.co.active.map (fun l => (l, (inSp.co.getPair 2 l + qual.off.signExtend 64).toNat)),
        e.2 % 8 = 0 ∧ InShare false inSp.co e.2 8 0) ∧
      inSp.unmarked = true ∧ (∀ pas, inSp.heldBy pas true = none) ∧ Quiet inSp) :=
  ⟨meets (by decide +kernel), meets (by decide +kernel),
    ⟨fun e he => ⟨(by decide +kernel : ∀ e ∈ inSp.co.active.map (fun l => (l, (inSp.co.getPair 2 l + qual.off.signExtend 64).toNat)),
        e.2 % 8 = 0) e he, inShare ((by decide +kernel : ∀ e ∈ inSp.co.active.map (fun l =>
          (l, (inSp.co.getPair 2 l + qual.off.signExtend 64).toNat)), shareOk false inSp.co e.2 8 0 = true) e he)⟩,
      by decide +kernel, idle_held (by decide +kernel) (by decide +kernel) true, by decide +kernel⟩⟩
theorem witness_CachesAndFences :
    (let r := State.prefLines lanes16.co (lanes16.co.active.map (fun l => lanes16.co.laneAddr 2 0 none l)) lanes16
     r.1.heldBy (r.2.map (fun l => 64 * l)) false = none ∧ r.2 ≠ []) ∧
    (let c := lanes16.co; let va := (c.ugetPair 2).toNat
     windowOf (va / 64 * 64) = .glob ∧ (lanes16.quietPage c (va / 64 * 64)).2.isSome = true) ∧
    (let c := (putAll 4 64 lanes16).co; 1 ≤ (c.uget 4).toNat ∧ (c.ugetPair 2).toNat % 64 + (c.uget 4).toNat ≤ 64) ∧
    bare.co.uget 4 = 0 ∧ (putAll 4 64 lanes16).co.uget 4 ≠ 0 ∧
    (withCo (fun c => { c with v := { c.v with exec := 0 } }) bare).co.active = [] ∧ Quiet bare ∧
    ((bare.cluster (bare.co.core / 16)).cc.map Prod.fst).Pairwise (· < ·) := by decide +kernel
/-- The cohort waits with WAITA, or with EVWAIT, on the line at 0x30000, which holds 5. -/
def word5 : State := putAll 2 0x30000 (bare.pokeN 0x30000 8 5)
def waiting (b : DWord) : State :=
  { withCo (fun c => { c with wait := some (.waita 0x30000 0x30000 false .eq b 5 (some (0, 100))) }) word5 with clk := 100 }
def evWaiting (b : DWord) : State :=
  { withCo (fun c => { c with wait := some (.evwait 0x30000 0x30000 b 5 (some (0, 100))) }) word5 with clk := 100 }
/-- A second cohort of the context waits on the same line. -/
def mate5 : State :=
  { word5 with cohorts := [(word5.co.id + 1, { word5.co with id := word5.co.id + 1, wait := some (.waita 0x30008 0x30008 true .ne 5 7 none) })] }
theorem witness_WaitsAndWakes :
    (∃ t r, resolveOne word5 word5.co (word5.co.ugetPair 2).toNat 4 .read = (t, .ok r) ∧ t.heldBy r.pas false = none ∧
      t.poisonRead t.co.core .plain true (word5.co.ugetPair 2).toNat r = none ∧ Plain r ∧ areaOf (r.pas.headD 0) ≠ .control ∧ Quiet t ∧
      leNat (r.pas.map t.byte) = 5) ∧
    (∃ t r, resolveOne word5 word5.co (word5.co.ugetPair 2).toNat 8 .read = (t, .ok r) ∧ t.heldBy r.pas false = none ∧
      t.poisonRead t.co.core .plain true (word5.co.ugetPair 2).toNat r = none ∧ Plain r ∧ areaOf (r.pas.headD 0) ≠ .control ∧ Quiet t ∧
      leNat (r.pas.map t.byte) = 5) ∧
    (Quiet (waiting 5) ∧ Quiet (waiting 6) ∧ Quiet (evWaiting 5) ∧ Quiet (evWaiting 6) ∧
      wordHolds .eq false (BitVec.ofNat 64 (leNat ((waiting 5).bytes 0x30000 4))) 5 = true ∧
      wordHolds .eq false (BitVec.ofNat 64 (leNat ((waiting 6).bytes 0x30000 4))) 6 = false ∧
      (waiting 6).poisonRead 0 .plain true 0x30000 (wordAt 0x30000 4) = none ∧ areaOf 0x30000 ≠ .control ∧
      (waiting 6).heldBy (wordAt 0x30000 4).pas false = none ∧ (evWaiting 6).heldBy (wordAt 0x30000 8).pas false = none ∧
      (evWaiting 6).poisonRead 0 .plain true 0x30000 (wordAt 0x30000 8) = none ∧
      100 ≤ ((waiting 6).clk + 2 ^ 64 - 0) % 2 ^ 64 ∧
      (5 : DWord).toNat ≤ leNat ((evWaiting 5).bytes 0x30000 8) ∧ ¬(6 : DWord).toNat ≤ leNat ((evWaiting 6).bytes 0x30000 8)) ∧
    (∃ t r, resolve mate5 mate5.co (mate5.co.ugetPair 2).toNat 1 .read 970 = (t, .ok r) ∧ AllQuiet t ∧ t.co.wait = none ∧
      (t.cohorts.map Prod.fst).Pairwise (· < ·) ∧ (∀ e ∈ t.cohorts, e.2.id = e.1 ∧ e.1 ≠ t.co.id) ∧ t.unmarked = true ∧
      t.cohorts.length = 1 ∧ r.pas.headD 0 / 64 = 0x30008 / 64 ∧ areaOf (r.pas.headD 0) ≠ .control ∧
      (t.cores.all (fun k => k.2.sb.isEmpty && k.2.cmds.isEmpty)) = true ∧ t.fcmds = []) ∧
    ∀ s : State, (s.cores.all (fun k => k.2.sb.isEmpty && k.2.cmds.isEmpty)) = true → s.fcmds = [] → ∀ pas, s.heldBy pas false = none :=
  ⟨meets (by decide +kernel), meets (by decide +kernel), by decide +kernel, meets (by decide +kernel), fun _ h hf => idle_held h hf false⟩
theorem witness_TranslationQueries : Shape bare.co ∧ (2 : Reg).even = true ∧
    (let c := inSp.co; windowOf (c.ugetPair 2).toNat = .loc 0) ∧
    (let c := (putAll 3 0x00F10000 bare).co; windowOf (c.ugetPair 2).toNat = .onchip 0) ∧
    (let s := word5; let c := s.co; windowOf (c.ugetPair 2).toNat = .glob ∧
      s.tlbHeld c.core c.ctx ((c.ugetPair 2).toNat / 4096) = none ∧
      (walkRoot s (s.ctx c.ctx).root (c.ugetPair 2).toNat).toOption.isSome = true) ∧
    (let s := putAll 3 0x00800000 word5; let c := s.co; windowOf (c.ugetPair 2).toNat = .glob ∧
      s.tlbHeld c.core c.ctx ((c.ugetPair 2).toNat / 4096) = none ∧
      (match walkRoot s (s.ctx c.ctx).root (c.ugetPair 2).toNat with
        | .error e => e.cause == 0x06
        | .ok _ => false) = true) := by decide +kernel

/-- The page at 0 maps FP32 elements; v2:v3 points at a view at 0x30000 of elements at 0x50000. -/
def viewed : State := ((putAll 2 0x30000 bare).pokeN 0x2000 8 0x02000000000000DF).pokeN 0x30000 4 0x50000
theorem witness_FormatAccesses : (withCo (fun c => { c with v := { c.v with exec := 0 } }) bare).co.active = [] ∧ viewed.co.active ≠ [] ∧
    (∃ t x, viewed.elems viewed.co 2 2 (some 4) .read = (t, .ok x) ∧ x.2.length = 8 ∧ Agrees t ∧
      (x.2.all (fun e => decide (Plain e.el) && decide (Plain e.sc))) = true) ∧
    ∃ t x, viewed.elems viewed.co 2 2 (some 4) .write = (t, .ok x) ∧ x.2.length = 8 ∧ Agrees t ∧
      (x.2.all (fun e => e.el.parts.all (fun p => p.1.any (fun l => l.normal && areaOf l.pa != .control)) && decide (Plain e.sc))) = true :=
  ⟨by decide +kernel, by decide +kernel, meets (by decide +kernel), meets (by decide +kernel)⟩
/-- A call block at 0x30000, with a ring of 4 entries on a page of the supervisor, at 0x60000. -/
def ringed (head : Nat) : State := ((putAll 2 0x30000 bare).pokeN 0x2008 8 0xCF).modCtx 0 (fun x => { x with sysBase := 0x8000060000, sysSize := 2, sysHead := head })
def answered (x : Nat) : State := withCo (fun c => { c with wait := some (.sysAnswer 0x30000 0x30000 4 9) }) (bare.pokeN 0x30000 8 x)
/-- The same with a ring at another address, which a walk through poison reaches, or none. -/
def ringElse (marks : List Nat) : State :=
  { ringed 3 with poison := marks }.modCtx 0 (fun x => { x with sysBase := 0x10000060000 })
/-- Where SYSC's entry goes once its block has passed: the state of the walk for its slot. -/
def posting (s t : State) (blk : Resolved) : State :=
  let c := s.co
  let r := t.release c .pkg
  ((r.startOp .sysc (r.co.flagOf false) (r.co.keysOf 4 r.co.livel ++ r.co.keysOf 5 r.co.livel) []).2.past c.core [blk.pas.headD 0 / 64]).writeN
    (blk.pas.headD 0) 8 0
def postable (s t : State) (blk : Resolved) : Bool :=
  let c := s.co
  let r := t.release c .pkg
  let x := r.ctx c.ctx
  c.mark.isNone && r.co.mark.isNone && x.sysSize != 0 && (x.sysHead + 2 ^ 32 - x.sysTail) % 2 ^ 32 != 2 ^ x.sysSize &&
  ((r.startOp .sysc (r.co.flagOf false) (r.co.keysOf 4 r.co.livel ++ r.co.keysOf 5 r.co.livel) []).2.accessBad c.core .plain .write
    (c.ugetPair 2).toNat blk).isNone
theorem witness_CallsAndBreakpoints :
    (∃ t blk, (putAll 2 0x30000 bare).syscBlock (putAll 2 0x30000 bare).co 0x30000 = (t, .ok blk) ∧
      (t.release (putAll 2 0x30000 bare).co .pkg).co.mark = none ∧
      ((t.release (putAll 2 0x30000 bare).co .pkg).ctx 0).sysSize = 0 ∧ bare.co.mark = none) ∧
    (∃ t blk, (ringed 4).syscBlock (ringed 4).co ((ringed 4).co.ugetPair 2).toNat = (t, .ok blk) ∧
      (let r := t.release (ringed 4).co .pkg; let x := r.ctx 0
       r.co.mark = none ∧ x.sysSize ≠ 0 ∧ (x.sysHead + 2 ^ 32 - x.sysTail) % 2 ^ 32 = 2 ^ x.sysSize)) ∧
    (∃ t blk, (ringed 3).syscBlock (ringed 3).co ((ringed 3).co.ugetPair 2).toNat = (t, .ok blk) ∧
      postable (ringed 3) t blk = true ∧ ((t.release (ringed 3).co .pkg).ctx 0).msiAddr = 0 ∧
      ((posting (ringed 3) t blk).slotAt 0 0x80000600C0).map Prod.snd = some 0x600C0) ∧
    (∃ t blk, (ringElse []).syscBlock (ringElse []).co ((ringElse []).co.ugetPair 2).toNat = (t, .ok blk) ∧
      postable (ringElse []) t blk = true ∧ (posting (ringElse []) t blk).slotAt 0 0x100000600C0 = none ∧
      (posting (ringElse []) t blk).slotPoison 0 [0x100000600C0] = none) ∧
    (∃ t blk, (ringElse [0x201]).syscBlock (ringElse [0x201]).co ((ringElse [0x201]).co.ugetPair 2).toNat = (t, .ok blk) ∧
      postable (ringElse [0x201]) t blk = true ∧ (posting (ringElse [0x201]) t blk).slotAt 0 0x100000600C0 = none ∧
      (posting (ringElse [0x201]) t blk).slotPoison 0 [0x100000600C0] = some 0x2010 ∧ t.co.landSfu.delivers 0x10 = false) ∧
    (∃ t blk, (withCo (fun c => { c with mark := some (.sysPosted 0x30000 4 9) }) (ringed 3)).syscBlock (ringed 3).co 0x30000 = (t, .ok blk) ∧
      t.co.mark = some (.sysPosted 0x30000 4 9)) ∧
    ((answered 7).co.wait = some (.sysAnswer 0x30000 0x30000 4 9) ∧ Quiet (answered 7) ∧ areaOf 0x30000 ≠ .control ∧
      (answered 7).heldBy (wordAt 0x30000 8).pas false = none ∧ (answered 7).poisonRead 0 .plain true 0x30000 (wordAt 0x30000 8) = none ∧
      leNat ((answered 7).bytes 0x30000 8) ≠ 0 ∧ leNat ((answered 0).bytes 0x30000 8) = 0) ∧
    (bare.ctx bare.co.ctx).bkpt = false ∧
    (let s := bare.modCtx 0 (fun x => { x with bkpt := true }); (s.ctx s.co.ctx).bkpt = true ∧ (s.ctx s.co.ctx).logBase = 0 ∧ s.co.v.ops = []) ∧
    (withCo (fun c => { c with wait := some .sysRoom }) bare).co.wait = some .sysRoom :=
  ⟨meets (by decide +kernel), meets (by decide +kernel), meets (by decide +kernel), meets (by decide +kernel), meets (by decide +kernel),
    meets (by decide +kernel), by decide +kernel, by decide +kernel, by decide +kernel, by decide +kernel⟩

/-! Engines -/

/-- v2:v3 an address of the scratchpad window, v4:v5 = 0x30000. -/
def copying : State := putAll 4 0x30000 (putAll 3 0x00F00000 bare)
def half (n : Nat) : Half := BitVec.ofNat 16 n
/-- A view at 0x30000 of elements at 0x50000, on pages of FP32. -/
def withView (s : State) : State := (((putAll 4 0x30000 (putAll 3 0x00F00000 s)).pokeN 0x2000 8 0x02000000000000DF).pokeN 0x30000 4 0x50000)
/-- The premises of CPY2D in mode 1 for one row of 4 elements. -/
def decoded (s : State) : Bool :=
  let c := s.co
  let view : Rg := { grp := 2, share := false, va := 0x30000, len := 32, wr := false }
  let out : List Rg := [{ grp := 1, share := false, va := 0x00F0000000000000, len := 16, wr := true }]
  (rangesBad s c Own.plain (out ++ [view])).isNone &&
  metBy (piecesOf s c view) (fun t vp => t.heldBy (piecePas vp) false = none ∧ t.piecePoison c.core vp = none ∧ (t.viewOf vp).rsv = 0 ∧
    metBy (t.viewLeaf c (t.viewOf vp) .read) (fun t2 lf => ekind (leafAttr lf).1 = some (.f32) ∧
      attrBad (leafAttr lf).1 (leafAttr lf).2 = none ∧
      rangesBad t2 c Own.plain (out ++ [elemRg (t.viewOf vp) (.f32) 3 0 4]) = none ∧
      metBy (allPieces c (out ++ [elemRg (t.viewOf vp) (.f32) 3 0 4]) t2) (fun _ qs => orderedOf (vp :: qs) = none ∧
        attrsOf (leafAttr lf).1 (leafAttr lf).2 (qs.drop 1).flatten = []) = true) = true)
/-- A copy of 64 bytes from 0x30000 to the scratchpad; nothing is left to move. -/
theorem witness_CopiesAreAccepted :
    (let c := copying.co; (c.uget 6).toNat = 0 ∧ (c.ugetPair 4).toNat % 16 = 0 ∧ (c.ugetPair 2).toNat % 16 = 0) ∧
    (∃ t ps, checkRanges copying copying.co Own.plain
        [{ grp := 0, share := false, va := 0x30000, len := 64, wr := false },
         { grp := 1, share := false, va := 0x00F0000000000000, len := 64, wr := true }] = (t, .ok ps) ∧
      t.owned (ps.getD 0 [] ++ ps.getD 1 []) = none ∧
      copying.holdup (claimsOf copying.co [{ grp := 0, share := false, va := 0x30000, len := 64, wr := false },
         { grp := 1, share := false, va := 0x00F0000000000000, len := 64, wr := true }]) = none ∧
      (((t.ready t.co (ps.getD 0 [] ++ ps.getD 1 [])).startOp .engine none [] []).2.takeSb t.fresh
        (claimsOf copying.co [{ grp := 0, share := false, va := 0x30000, len := 64, wr := false },
         { grp := 1, share := false, va := 0x00F0000000000000, len := 64, wr := true }])).isSome = true) ∧
    (let c := copying.co; (inLocal (c.ugetPair 4).toNat || inLocal (c.ugetPair 2).toNat) = true) ∧
    (let p : PBlock := { block0 with h1 := half 16, h2 := half 16, h4 := half 16 }; let c := copying.co
     16 ≤ c.sub p.h1 ∧ c.sub p.h1 ≤ 61440 ∧ c.sub p.h1 % 16 = 0 ∧ (∀ l ∈ c.active, ((c.ugetPair 4).toNat + (c.get 6 l).toNat * 16) % 2 ^ 64 % 16 = 0) ∧
     c.active.getLast? = some 7 ∧ inLocal (c.ugetPair 2).toNat = true) ∧
    (∃ t ps, checkRanges copying copying.co Own.plain
        (copying.co.active.map (fun _ => { grp := 0, share := false, va := 0x30000, len := 16, wr := false }) ++
         [{ grp := 1, share := false, va := 0x00F0000000000000, len := 7 * 16 + 16, wr := true }]) = (t, .ok ps) ∧ t.owned ps.flatten = none) ∧
    (let p : PBlock := { block0 with h0 := half 4096, h1 := half 0xF008 }; let c := (putAll 8 61440 copying).co
     1 ≤ c.sub p.h0 ∧ c.sub p.h0 ≤ 4096 ∧ 16 ≤ c.sub p.h1 ∧ c.sub p.h1 ≤ 61440 ∧ c.sub p.h1 % 16 = 0) ∧
    (∃ t ps, checkRanges copying copying.co Own.plain
        ((List.range 2).map (fun r => { grp := 0, share := false, va := 0x30000 + r * 32, len := 16, wr := false }) ++
         (List.range 2).map (fun r => { grp := 1, share := false, va := 0x00F0000000000000 + r * 16, len := 16, wr := true })) = (t, .ok ps) ∧
      t.owned ps.flatten = none) ∧
    decoded (withView bare) = true :=
  ⟨by decide +kernel, meets (by decide +kernel), by decide +kernel, by decide +kernel, meets (by decide +kernel), by decide +kernel,
    meets (by decide +kernel), by decide +kernel⟩

/-- The share declares registers 0 to 63 of cohort 0 receivable (R219). -/
def declared : State := ((putAll 7 0xFFFF (putAll 6 1 (putAll 4 0x30000 bare))).pokeN (slotAddr 0 0x100000) 8 0x4000000001)
theorem witness_RemoteAndPlanesAccepted :
    ((declared.co.ugetPair 4).toNat % 4 = 0 ∧ (declared.co.uget 6).toNat = 1 ∧ (declared.co.uget 7).toNat < 2 ^ 30 ∧
      (declared.cpyoTarget declared.co (declared.co.uget 7).toNat 1).toOption = some declared.co ∧
      declared.heldBy declared.co.declPas false = none ∧ windowOf (declared.co.ugetPair 4).toNat = .glob ∧
      ∃ t ps, checkRanges declared declared.co Own.plain [{ grp := 0, share := false, va := 0x30000, len := 4 * 1 * declared.co.W, wr := false }] =
        (t, .ok ps) ∧ t.owned ps.flatten = none ∧ (t.gather t.co ps.flatten []).poisonOf declared.co.declPas = none) ∧
    (let p : PBlock := { block0 with h0 := half 1, h1 := half 16, h2 := half 0x10, h3 := half 16, h5 := half 4, h4 := half 64 }; let c := bare.co
     mfmt (p.h2.toNat % 16) = some (.blk .e4m3) ∧ bitsOf p.h2.toNat 4 2 ≠ 0 ∧ p.h2.toNat / 64 = 0 ∧ 16 ≤ c.sub p.h1 ∧ c.sub p.h1 ≤ 4096 ∧
     c.sub p.h1 % 16 = 0 ∧ 16 * EKind.nibs (.blk .e4m3) / 2 ≤ p.h3.toNat ∧ 2 * (16 / 16) ≤ p.h5.toNat) ∧
    ∃ t ps, checkRanges bare bare.co Own.plain [{ grp := 0, share := true, va := 0, len := 16, wr := false },
      { grp := 1, share := true, va := 64, len := 10 * 16 / 8 + 1, wr := true }, { grp := 2, share := true, va := 1024, len := 2, wr := false }] =
        (t, .ok ps) ∧ ps.length = 3 :=
  ⟨⟨by decide +kernel, by decide +kernel, by decide +kernel, by decide +kernel, by decide +kernel, by decide +kernel, meets (by decide +kernel)⟩,
    by decide +kernel, meets (by decide +kernel)⟩
/-- An operation of the cohort is outstanding on a register. -/
def opened8 : State := withCo (fun c => { c with v := { c.v with ops :=
  [{ id := 8, kind := .engine, flag := some 0, clause := c.clause, keys := [regKey 0 64 8 0], writes := [] }] } }) bare
/-- The machine with a command of an engine under way on core 0. -/
def engaged (k : EngKind) : State := bare.modCore 0 (fun c => { c with
  cmds := [{ id := 9, kind := k, co := 1, op := 8, ctx := 0, writes := [], regs := [], dest := [], dst := [], reads := [], poison := none, pages := [], status := 0, pc := 0 }]
  sb := [{ slot := 15, cmd := 9, wr := true, lo := 0x100000, hi := 0x100010, co := none }] })
/-- The same with words for a register of the cohort, or with a result that the command's operation is to write. -/
def remoted : State := (engaged .copy).modCore 0 (fun c => { c with cmds := c.cmds.map (fun e => { e with regs := [(1, regKey 0 64 8 0, 5)] }) })
def resulted : State :=
  { opened8 with cores := ((engaged .copy).modCore 0 (fun c => { c with cmds := c.cmds.map (fun e => { e with dest := [(regKey 0 64 8 0, 5)] }) })).cores }
theorem witness_CommandsRetireAndQuery :
    (∀ k : EngKind, (((engaged k).core 0).cmds.find? (fun e => e.id == 9 && e.kind = k)).any (fun e => e.poison == none &&
      (engaged k).poisonMerge e.writes == none && decide (Clean (engaged k) (linesOf e.writes))) = true) ∧
    ((remoted.core 0).cmds.find? (fun e => e.id == 9 && e.kind = .copy)).any (fun e => e.dest.isEmpty && (remoted.cohort? 1).isSome &&
      e.regs.any (fun r => r.1 == 1 && (remoted.co.v.live.getLsbD (r.2.1 % 64)))) = true ∧
    ((resulted.core 0).cmds.find? (fun e => e.id == 9 && e.kind = .copy)).any (fun e => e.regs.isEmpty && e.co == 1 &&
      (resulted.cohort? 1).any (fun c => (c.op? e.op).any (fun o => o.keys.Nodup && o.keys.length == e.dest.length))) = true ∧
    ∀ e ∈ ((engaged .copy).core (engaged .copy).co.core).sb, e.slot < 16 := by
  refine ⟨fun k => ?_, by decide +kernel, by decide +kernel, by decide +kernel⟩
  cases k <;> decide +kernel
/-- A descriptor allocated by RESA, its handle in v5. -/
def withRes : State := run (.resa 5 4) (bare.setTen 0 { quota := 2, used := 0 })
def held : Nat := (withRes.co.uget 5).toNat % 65536
theorem witness_Residencies :
    (let c := bare.co; c.follows = false ∧ (c.uget 4).toNat < 1024 ∧ bare.slotFree c.lead { Residency.init with state := .empty } = true ∧
      (Tab.get Residency.init (bare.core c.lead).res 0).state = .free) ∧
    (held / 16 ≠ 0 ∧ (withRes.named withRes.co.lead withRes.co.ctx held).isSome = true ∧ withRes.co.follows = false ∧
      (withRes.named withRes.co.lead withRes.co.ctx held).any (fun x => x.2.pinned == false && (withRes.ten 0).used + x.2.units == (withRes.ten 0).quota) = true ∧
      (withRes.core withRes.co.lead).mq = []) ∧
    (let s := run (.respin 5) withRes; (s.named s.co.lead s.co.ctx held).any (fun x => x.2.pinned) = true) ∧
    (bare.co.uget 4).toNat % 65536 / 16 = 0 ∧ (bare.core bare.co.core).claim ≠ some bare.co.ctx ∧
    ((bare.takeClaim 0 0).core 0).claim = some 0 ∧ bare.named 0 0 16 = none := by decide +kernel
/-- A descriptor 0 of BF16, valid. -/
def tiled (r : Residency) : State :=
  bare.modCore 0 (fun k => { k with res := [(0, { r with state := .valid, serial := 1, fmt := 8, bl := 8 })] })
theorem witness_AccumulatorCommandsAccepted :
    bare.claimed bare.co.core bare.co.ctx = false ∧
    (let c := (putAll 4 128 bare).co; let w := (c.uget 4).toNat; w < 2 ^ 15 ∧ 1 ≤ w % 256 ∧ w / 256 % 128 + w % 256 ≤ 128) ∧
    (let c := (withCo (fun c => { c with shareN := 8 }) bare).co; 0 % 16 = 0 ∧ 0 + 1024 * 128 ≤ 16384 * c.shareN) ∧
    (∃ t ps, checkReads lanes16 lanes16.co [{ grp := 0, share := false, va := 0x30000, len := 16, wr := false }] = (t, .ok ps) ∧
      t.heldBy (piecePas ps.flatten) false = none ∧ t.claimed 0 0 = false ∧ t.piecePoison lanes16.co.core ps.flatten = none ∧
      leNat ((((t.orderedReads lanes16.co ps.flatten).gather lanes16.co ps.flatten []).pieceBytes ps.flatten).take 8) % 2 = 0) ∧
    ∃ t ps, checkReads lanes16 lanes16.co [{ grp := 1, share := false, va := 0, len := 2 * 64, wr := false }] = (t, .ok ps) ∧
      t.owned ps.flatten = none :=
  ⟨by decide +kernel, by decide +kernel, by decide +kernel, meets (by decide +kernel), meets (by decide +kernel)⟩
def mtx (kind : MtxKind) (started : Bool) : MtxCmd :=
  { id := 9, co := 1, op := 8, ctx := 0, tenant := 0, pair := false, kind := kind, hold := false, started := started, pages := [], poison := none
    accs := [], status := 0, pc := 0, srcs := [] }
def queued (m : MtxCmd) : State := bare.modCore 0 (fun k => { k with mq := [m], res := [(0, { Residency.init with state := .loading, serial := 1, fmt := 8 })] })
/-- The same with a descriptor of a block format. -/
def queuedBlock (m : MtxCmd) : State := (queued m).modCore 0 (fun k => { k with res := [(0, { Residency.init with state := .loading, serial := 1 })] })
def fromSrc (m : MtxCmd) : MtxCmd := { m with srcs := [{ idx := 0, near := [], so := false, cols := [[(0x50000, 512, 0x50000)]], recs := [] }] }
theorem witness_ArrayCommandsRun :
    (let m := fromSrc (mtx (.resl 0 0 0 0 0 0 0 0 8) false); ((queued m).core 0).mq = [m] ∧ (queued m).canStart 0 m = true ∧ AllQuiet (queued m) ∧
      m.srcs.length = 1 ∧ m.poison = none ∧ m.hold = false ∧
      ((mfmt (Tab.get Residency.init ((queued m).core 0).res 0).fmt).getD .b16).block = false) ∧
    (let m := fromSrc (mtx (.resl 0 0 0 0 0 0 0 0 16) false); ((queuedBlock m).core 0).mq = [m] ∧ (queuedBlock m).canStart 0 m = true ∧
      AllQuiet (queuedBlock m) ∧ ((mfmt (Tab.get Residency.init ((queuedBlock m).core 0).res 0).fmt).getD .b16).block = true ∧
      0 < (Tab.get Residency.init ((queuedBlock m).core 0).res 0).cols) ∧
    (let m := mtx (.mma 8 16 1 0 0 0 0 [(0, 1)]) false; ((queued m).core 0).mq = [m] ∧ (queued m).canStart 0 m = true ∧
      ∀ g ∈ [(0, 1)], g.2 ≠ 0 → (Tab.get Residency.init ((queued m).core 0).res g.1).state ≠ .evicted ∧
        (Tab.get Residency.init ((queued m).core 0).res g.1).gsrc = (Tab.get Residency.init ((queued m).core 0).res g.1).gload) ∧
    (let m := mtx (.resl 0 0 0 0 0 0 0 0 8) true; ((queued m).core 0).mq = [m] ∧
      (Tab.get Residency.init ((queued m).core 0).res 0).state = .loading) ∧
    (let m := { mtx (.resl 0 0 0 0 0 0 0 0 8) false with hold := true, poison := some (0, 0) }
     ((queued m).core 0).mq = [m] ∧ ((queued m).modCore 1 (fun k => { k with mq := [mtx (.resl 0 0 0 0 0 0 0 0 8) true] })).canStart 0 { m with pair := true } = false) := by decide +kernel

/-! Barriers, launches and harts -/

/-- The machine with barrier 3 of the focused team bound, as a name or a cluster barrier. -/
def barred (cl : Bool) (x : Barrier) : State :=
  if cl then { bare with clusters := Tab.put bare.clusters 0 { bare.cluster 0 with bars := [(1 * 64 + 3, x)] } }
  else match bare.team? bare.co.team with
    | some t => bare.setTeam { t with bars := [(3, x)] }
    | none => bare
def barE (arr : Word) : Barrier := { E := 2, T := 2 ^ 32, arr := arr, phase := 0, pcs := [], left := [], wd := none }
theorem witness_Barriers :
    (bare.team? bare.co.team).any (fun t => t.key == bare.co.team && t.rank < 32) = true ∧ bare.co.wait = none ∧ bare.co.mark = none ∧
    (let s := putAll 5 32 bare; 1 ≤ (s.co.uget 5).toNat ∧ (s.co.uget 5).toNat ≤ 32) ∧ 1 ≤ ((putAll 5 1 bare).co.uget 5).toNat ∧
    (bare.team? bare.co.team).any (fun t => (bare.barOf t false 3).isNone && bare.barFree t false && (bare.barOf t true 3).isNone &&
      bare.barFree t true) = true ∧
    (∀ cl : Bool, let s := barred cl (barE 0)
      (s.team? s.co.team).any (fun t => (s.barOf t cl 3 == some (barE 0)) && (s.barPeers t cl).all (fun p => !p.2.onBar cl 3)) = true) ∧
    (∀ cl : Bool, let s := barred cl (barE 1); (s.team? s.co.team).any (fun t => s.barOf t cl 3 == some (barE 1)) = true) ∧
    (barE 0).arr.getLsbD 0 = false ∧ (barE 1).arr.getLsbD 0 = true ∧ (barE 0).T = 2 ^ 32 ∧ (bare.co.uget 5) = 0 ∧
    2 ^ 31 ≤ ((-1 : Word) - (barE 0).phase).toNat ∧ ((0 : Word) - (barE 0).phase).toNat < 2 ^ 31 := by decide +kernel
/-- A command of the Turnstile under way. -/
def routing : State := { bare with clusters := Tab.put bare.clusters 0 { bare.cluster 0 with
  route := [(0, { id := 9, kind := .route, co := 1, op := 8, ctx := 0, writes := [], regs := [], dest := [], dst := [], reads := [], poison := none, pages := [], status := 0, pc := 0 })] } }
theorem witness_Routing :
    (let p : PBlock := { block0 with h0 := half 1, h1 := half 8, h2 := half 256, h4 := half 64, h6 := half (2 + 4 * 256), h7 := half 512 }
     let c := bare.co
     1 ≤ c.sub p.h0 ∧ 1 ≤ p.h1.toNat ∧ p.h1.toNat ≤ 8 ∧ c.sub p.h2 = 256 ∧ c.sub p.h3 ≤ 4096 ∧ p.h6.toNat / 2048 = 0 ∧
     p.h6.toNat / 2 % 2 = 1 ∧ p.h6.toNat / 4 % 512 = 256 ∧ c.sub p.h2 % (p.h6.toNat / 4 % 512) = 0 ∧ (bare.cluster 0).route.length < 8) ∧
    (let rs : List Rg := [{ grp := 0, share := true, va := 0, len := 2 * 8, wr := false }, { grp := 1, share := true, va := 512, len := 32, wr := true },
        { grp := 2, share := true, va := 1024, len := 4 * 256, wr := true }, { grp := 4, share := true, va := 8192, len := 4, wr := true }]
     ∃ t ps, checkRanges bare bare.co Own.plain rs = (t, .ok ps) ∧ bare.holdup (claimsOf bare.co rs) = none ∧
      ((t.startOp .engine none (bare.co.keysOf 3 bare.co.livel) []).2.takeSb t.fresh (claimsOf bare.co rs)).isSome = true) ∧
    ((routing.cluster 0).route.head?.any (fun e => e.2.poison == none && routing.poisonMerge e.2.writes == none &&
      decide (Clean routing (linesOf e.2.writes)))) = true :=
  ⟨by decide +kernel, meets (by decide +kernel), by decide +kernel⟩
/-- A generation region of 4,096 bytes with one allocation at its start. -/
def heaped : State := bare.modCtx 0 (fun x => { x with genBase := 0x70000, genSize := 4096, allocs := [{ base := 0x70000, size := 256, gen := 0 }] })
/-- A launch record at 0x30000: one team of 8 lanes with a share of 1 granule, entry 0x10000. -/
def recorded : State := ((((putAll 2 0x30000 bare).pokeN 0x30000 8 0x0040000800080000).pokeN 0x30008 8 0x0000004000081018).pokeN 0x30010 8
  0x0100000100000000).pokeN 0x30020 8 0x10000
/-- The same with a dependence, whose entry is poisoned. -/
def tainted : State := { ((recorded.pokeN 0x30008 8 0x0000004001081018).pokeN 0x30030 8 0x60000) with poison := [0x6000] }
def poisoned (r : State × Submitted) : Bool := match r with
  | (u, .poisoned p) => !u.co.landSfu.delivers p.cause && p.cause == 0x10
  | (_, .refused _) | (_, .accepted _) | (_, .waits _) => false
theorem tainted_stops : ∃ t l, translate (tainted.release tainted.co .pkg) (some 0) 0 0x30000 .read 4001 = (t, .ok l) ∧ l.inMemory = true ∧
    t.heldBy ((List.range 64).map (fun i => l.pa + 0 + i)) false = none ∧ t.poisonOf ((List.range 64).map (fun i => l.pa + 0 + i)) = none ∧
    poisoned (t.submit (some 0) (t.bytes (l.pa + 0x30000 % 4096) 64)) = true := meets (by decide +kernel)
theorem witness_LaunchAndGenerations :
    (∃ t l, translate (tainted.release tainted.co .pkg) (some 0) 0 0x30000 .read 4001 = (t, .ok l) ∧ l.inMemory = true ∧
      t.heldBy ((List.range 64).map (fun i => l.pa + 0 + i)) false = none ∧ t.poisonOf ((List.range 64).map (fun i => l.pa + 0 + i)) = none ∧
      poisoned (t.submit (some 0) (t.bytes (l.pa + 0x30000 % 4096) 64)) = true) ∧
    (putAll 2 0x30001 bare).co.ugetPair 2 = 0x30001 ∧ windowOf (inSp.co.ugetPair 2).toNat ≠ .glob ∧ (inSp.co.ugetPair 2).toNat % 64 = 0 ∧
    (let s := putAll 3 0x00800000 bare
     goodBy (match translate (s.release s.co .pkg) (some 0) 0 (s.co.ugetPair 2).toNat .read 4001 with
       | (t, .error _) => (t, none)
       | (t, .ok l) => (t, some l)) (fun _ => True) = true) ∧
    (∃ t l, translate (recorded.release recorded.co .pkg) (some 0) 0 0x30000 .read 4001 = (t, .ok l) ∧ l.inMemory = true ∧
      t.heldBy ((List.range 64).map (fun i => l.pa + 0 + i)) false = none ∧ t.poisonIn (l.pa + 0x30000 % 4096) 64 = none ∧
      (t.submit (some 0) (t.bytes (l.pa + 0x30000 % 4096) 64)).2 = .accepted 2) ∧
    (∃ t l, translate (word5.release word5.co .pkg) (some 0) 0 0x30000 .read 4001 = (t, .ok l) ∧ l.inMemory = true ∧
      t.heldBy ((List.range 64).map (fun i => l.pa + 0 + i)) false = none ∧ t.poisonIn (l.pa + 0x30000 % 4096) 64 = none ∧
      (t.submit (some 0) (t.bytes (l.pa + 0x30000 % 4096) 64)).2 = .refused 4) ∧
    (let s := (putAll 2 0x30000 bare).pokeN 0x2000 8 0x20000000000000DF
     ∃ t l, translate (s.release s.co .pkg) (some 0) 0 0x30000 .read 4001 = (t, .ok l) ∧ l.inMemory = false) ∧
    (bare.ctx 0).genSize = 0 ∧ (let x := heaped.ctx 0; x.genSize = 4096 ∧ x.allocs = [{ base := 0x70000, size := 256, gen := 0 }]) ∧
    ((putAll 2 3841 heaped).co.uget 2).toNat = 3841 ∧
    (bare.team? bare.co.team).any (fun t => t.gen == 0) = true ∧
    (∀ p, (heaped.ctx 0).genBase ≤ p ∧ p + 256 ≤ (heaped.ctx 0).genBase + (heaped.ctx 0).genSize ∧
      (∀ e ∈ (heaped.ctx 0).allocs, e.base + e.size ≤ p ∨ p + 256 ≤ e.base) → 0x70100 ≤ p) ∧
    ∀ p, ¬((heaped.ctx 0).genBase ≤ p ∧ p + 4096 ≤ (heaped.ctx 0).genBase + (heaped.ctx 0).genSize ∧
      ∀ e ∈ (heaped.ctx 0).allocs, e.base + e.size ≤ p ∨ p + 4096 ≤ e.base) := by
  have h1 : (heaped.ctx 0).genBase = 0x70000 := by decide +kernel
  have h2 : (heaped.ctx 0).genSize = 4096 := by decide +kernel
  have h3 : (heaped.ctx 0).allocs = [{ base := 0x70000, size := 256, gen := 0 }] := by decide +kernel
  refine ⟨tainted_stops, by decide +kernel, by decide +kernel, by decide +kernel, by decide +kernel, meets (by decide +kernel),
    meets (by decide +kernel), meets (by decide +kernel), by decide +kernel, by decide +kernel, by decide +kernel, by decide +kernel, ?_, ?_⟩
  · rw [h1, h2, h3]; intro p h; have := h.2.2 _ (List.mem_singleton.mpr rfl); dsimp only at this; omega
  · rw [h1, h2, h3]; intro p h; have := h.2.2 _ (List.mem_singleton.mpr rfl); dsimp only at this; omega
/-- The launch of that record, accepted. -/
def launched : State := run (.launch false 8 2) recorded
def launch2 (f : Launch → Launch) : State := launched.modCtx 0 (fun x => { x with launches := x.launches.map f })
theorem witness_Ringmasters :
    (let s := launch2 (fun l => { l with deps := [(0x30000, 5)] })
     (s.headOf 0 0).any (fun l => l.ctx == 0 && !l.stuck && l.deps.drop l.held == [(0x30000, 5)]) = true ∧ (s.ctx 0).state.tests = true ∧
     ∃ t pas, s.devBytes 0 0x30000 8 .read = (t, .ok pas) ∧ t.heldBy pas false = none ∧ t.poisonOf pas = none) ∧
    (launched.headOf 0 0).any (fun l => launched.mayStart l && l.teams == 1 && l.started.isEmpty && l.mayUse 2047 &&
      launched.fitsAt l 2047 false 15 && !launched.outranked l 2047 && l.S == 64 && l.W == 8 && !l.pair) = true ∧
    (let s := launch2 (fun l => { l with queued := false, ended := 1, started := [0], event := 0x30000 })
     ((s.ctx 0).launches.find? (fun x => x.lid == 2 && x.over)).isSome = true ∧
     (s.ctx 0).state ≠ .free ∧ (s.ctx 0).state ≠ .terminated ∧ (s.ctx 0).state ≠ .stopped ∧
     ∃ t pas, s.devBytes 0 0x30000 8 .write = (t, .ok pas) ∧ t.heldBy pas true = none ∧ t.poisonOf pas = none) ∧
    (let s := launch2 (fun l => { l with queued := false, ended := 1, started := [0] })
     ((s.ctx 0).launches.find? (fun x => x.lid == 2 && x.over)).any (fun l => l.event == 0) = true ∧
     ((s.modCtx 0 (fun x => { x with state := .stopped })).ctx 0).state = .stopped) :=
  ⟨⟨by decide +kernel, by decide +kernel, meets (by decide +kernel)⟩, by decide +kernel,
    ⟨by decide +kernel, by decide +kernel, by decide +kernel, by decide +kernel, meets (by decide +kernel)⟩, by decide +kernel⟩
def hart0 (f : Hart → Hart) : State := { bare with harts := [(0, f Hart.init)], turn := some 0 }
theorem witness_Harts :
    (hart0 id).turn = some 0 ∧ ((hart0 id).hart 0).mode ≠ 0 ∧ ((hart0 (fun h => { h with mode := 0 })).hart 0).mode = 0 ∧
    (let s := hart0 (fun h => { h with regs := [(1, 0x30000)] })
     ((s.hartAddr (s.hart 0) ((s.hart 0).x 1).toNat 8 true).toOption = some 0x30000 ∧
      (s.hartAddr (s.hart 0) ((s.hart 0).x 1).toNat 64 false).toOption = some 0x30000) ∧ areaOf 0x30000 ≠ .control ∧
     s.heldBy ((List.range 64).map (fun i => 0x30000 + i)) true = none ∧ s.heldBy ((List.range 64).map (fun i => 0x30000 + i)) false = none ∧
     s.poisonIn 0x30000 64 = none ∧ s.poison = [] ∧ ((s.hart 0).x 1).toNat % 64 = 0 ∧ s.hartNormal (s.hart 0) 0x30000 = true ∧
     (s.submit (s.hart 0).bind (s.bytes 0x30000 64)).2 = .refused 4) ∧
    ((hart0 (fun h => { h with wait := some (5, 0x30000, 7) })).hart 0).wait = some (5, 0x30000, 7) ∧ ((hart0 id).hart 0).wait = none ∧
    ((hart0 (fun h => { h with resv := some (0x30000 / 64) })).hart 0).resv = some (0x30000 / 64) := by decide +kernel

/-! The fabric and flash -/

/-- Core 0's context is rank 0 of a job of two ranks on this module, with a bound key; v2:v3 = 0x40000, v4:v5 = 0x30000. -/
def netted : State :=
  let s := ((putAll 4 0x30000 (putAll 2 0x40000 bare)).pokeN 0x70000 8 0x8000000000000000).pokeN 0x70008 8 0x8000000000000000
  { s.modFab 0 0 (fun b => { b with job := 7, nranks := 2, ranktab := 0x70000 }) with
    tkc := { s.tkc with binds := [(0, 1)], keys := [{ handle := 1, fabric := true, ident := 0, secret := 7 }] } }
def neverOwn : Own := { Own.plain with never := true }
def lateOwn : Own := { Own.plain with late := true }
def src64 (n : Nat) (wr : Bool) : List Rg := [{ grp := 0, share := false, va := 0x30000, len := n, wr := wr }]
theorem witness_PutsGetsReductions :
    (netted.co.ugetPair 4).toNat = 0x30000 ∧ (netted.co.ugetPair 2).toNat = 0x40000 ∧ netted.rankFault 0 0 [1] = none ∧
    netted.co.sub (half 4096) ≤ 4096 ∧ (putAll 8 65535 bare).co.sub 0xF008 < 65536 ∧ (putAll 8 (2 ^ 26) bare).co.sub 0xF008 ≤ 2 ^ 26 ∧
    (∃ t ps, checkRanges netted netted.co neverOwn (src64 16 false) = (t, .ok ps) ∧
      (t.rankOf (t.fab 0 0) 1).toOption = some { no := 1, module := 0, die := 0, ctx := 0 } ∧ t.owned ps.flatten = none ∧
      netted.holdup (claimsOf netted.co (src64 16 false)) = none ∧ (t.redOut 0 0 5 1).length < 64 ∧
      ((((t.release netted.co .pkg).ready netted.co ps.flatten).startOp .engine none [] []).2.takeSb
        ((t.release netted.co .pkg).ready netted.co ps.flatten).fresh (claimsOf netted.co (src64 16 false))).isSome = true) ∧
    (∃ t ps, checkRanges netted netted.co neverOwn (src64 16 true) = (t, .ok ps) ∧
      (t.rankOf (t.fab 0 0) 1).toOption = some { no := 1, module := 0, die := 0, ctx := 0 }) ∧
    (4 * redSize (BitVec.ofNat 2 0)) % 16 = 0 :=
  ⟨by decide +kernel, by decide +kernel, by decide +kernel, by decide +kernel, by decide +kernel, by decide +kernel, meets (by decide +kernel),
    meets (by decide +kernel), by decide +kernel⟩
theorem witness_Collectives :
    ((putAll 8 512 netted).co.sub 0xF008 = 512 ∧ ∀ l ∈ netted.co.active, (netted.co.getPair 4 l).toNat % 16 = 0 ∧ (netted.co.getPair 2 l).toNat % 16 = 0) ∧
    netted.rankFault 0 0 (netted.co.active.map (fun l => (netted.co.get 6 l).toNat)) = none ∧
    (∃ t ps, checkRanges netted netted.co neverOwn (netted.co.active.map (fun _ => { grp := 0, share := false, va := 0x30000, len := 16, wr := false })) =
        (t, .ok ps) ∧ (t.ranksOf (t.fab 0 0) (netted.co.active.map (fun l => (netted.co.get 6 l).toNat))).toOption.isSome = true) ∧
    (let s := netted.pokeN (netted.co.shareAddr 0) 8 0x100000001; let tpas := (List.range 8).map (fun i => s.co.shareAddr (0 + i))
     s.heldBy tpas false = none ∧ s.poisonOf tpas = none ∧ 0 + 4 * 2 ≤ 16384 * s.co.shareN ∧ s.unbound 0 0 = none ∧
     ((List.range 2).map (fun i => leNat (((tpas.map s.byte).drop (4 * i)).take 4))) = [1, 1] ∧
     (s.ranksOf (s.fab 0 0) [0, 1]).toOption.isSome = true ∧ (s.fab 0 0).rank = 0 ∧ netted.co.active ≠ [] ∧
     (withCo (fun c => { c with v := { c.v with exec := 0 } }) netted).co.active = [] ∧
     metBy (checkRanges netted netted.co neverOwn []) (fun t _ => (t.ranksOf (t.fab 0 0) []).toOption.isSome = true) = true ∧
     metBy (checkRanges s s.co neverOwn [{ grp := 0, share := false, va := 0x30000, len := 16 * 2, wr := false },
       { grp := 1, share := true, va := 0, len := 8, wr := false }]) (fun t _ => (t.ranksOf (s.fab 0 0) [0, 1]).toOption.isSome = true) = true) :=
  ⟨by decide +kernel, by decide +kernel, meets (by decide +kernel), by decide +kernel⟩
/-- A trigger record at 0x30000: a counter update of counter 0 of rank 1, at a threshold. -/
def armed (thr ctr : Nat) (n : Nat) : State :=
  let s := ((putAll 2 0x30000 netted).pokeN 0x30000 8 (2 + thr * 2 ^ 32)).pokeN 0x30008 8 1
  (s.pokeN 0x30010 4 (4096 * 65536)).modFab 0 0 (fun b => { b with ctrs := [(0, BitVec.ofNat 32 ctr)], trigs := List.replicate n { op := 2, ord := false, recd := false, ctr := 1, thr := 5, rank := 0, len16 := 0, rctr := 0, lctr := 4096, tag := 0, loc := 0, rem := 0, lid := 1 } })
def trigOf (s : State) : TrigRec := TrigRec.of (s.bytes 0x30000 64) s.co.launchid.toNat
theorem witness_CountersAndTriggers :
    ((putAll 6 4095 bare).co.uget 6).toNat < 4096 ∧ NoneDue ((armed 5 4 2).fab 0 0) 1 4 ∧ NoneDue ((armed 5 4 2).fab 0 0) 4095 0xFFFFFFFF ∧
    (∃ t x, resolve (armed 5 4 1023) (armed 5 4 1023).co 0x30000 64 .read 4200 = (t, .ok x) ∧ t.heldBy x.pas false = none ∧
      t.poisonOf x.pas = none ∧ (t.fetchBytes (armed 5 4 1023).co .plain x 4201).2 = t.bytes 0x30000 64 ∧
      (t.fetchBytes (armed 5 4 1023).co .plain x 4201).1.armFault 0 0 (trigOf (armed 5 4 1023)) = none) ∧
    (trigOf (armed 5 4 0)).t.thr.toNat = 5 ∧ (Tab.get 0 ((armed 5 4 1023).fab 0 0).ctrs 0).toNat = 4 ∧ ((armed 5 4 1023).fab 0 0).trigs.length = 1023 ∧
    ((armed 5 4 1024).fab 0 0).trigs.length = 1024 ∧ (Tab.get 0 ((armed 5 5 0).fab 0 0).ctrs 0).toNat = 5 ∧
    (armed 5 5 0).firing 0 = true :=
  ⟨by decide +kernel, by decide +kernel, by decide +kernel, meets (by decide +kernel), by decide +kernel, by decide +kernel, by decide +kernel,
    by decide +kernel, by decide +kernel, by decide +kernel⟩
/-- A packet of another module, or of this one to itself. -/
def packet (op : NetOp) (rctr : Nat) : NetMsg :=
  { srcModule := 5, srcRank := 1, die := 0, ctx := 0, job := 7, key := 7, kind := .rud, cmd := 0, stream := 1, number := 0, rctr := rctr
    rctrAdd := 1, op := op }
def inner (op : NetOp) (rctr : Nat) : NetMsg := { packet op rctr with srcModule := 0, stream := 0 }
def sending (m : NetMsg) (done : Bool) : FabCmd :=
  { id := 9, die := 0, ctx := 0, core := 0, co := 1, opId := 8, code := 0, tag := 0, rank := 1, lctr := 4096, recd := false, trig := false, ord := false
    lid := 1, bytes := 16, order := 0, lpas := [], pages := [], reads := [], poison := none, pc := 0
    msgs := [{ module := 0, rank := 1, msg := m, done := done, status := 0, hop := false, held := false, reply := [], lines := [] }] }
def put16 : NetOp := .put 0x30000 (List.replicate 16 7)
def slice16 : NetOp := .slice 0x30000 (List.replicate 16 7) 0x50000 5
def sum16 : NetOp := .reduce 0x30000 0 0 false 3 [(1, 0)] true false (List.replicate 16 7)
def ops16 : List NetOp := [put16, slice16, .get 0x30000 16, sum16, .counterAdd 1]
/-- A message of another module, or of this one to itself, may be performed. -/
def comes (op : NetOp) : Bool :=
  let m := packet op 4095
  let b := netted.fab 0 0
  decide (m.srcModule ≠ netted.fabMod ∨ m.stream ≠ 0) && !netted.discards m && (b.stream m).admits 0 &&
  m.job.toNat == b.job && (netted.ctx 0).state == .running && decide (NoneDue b 4095 (Tab.get 0 b.ctrs 4095 + BitVec.ofNat 32 1)) &&
  (let s := { netted with fcmds := [sending (inner op 4095) false] }
   (inner op 4095).srcModule == s.fabMod && (inner op 4095).stream == 0 && s.outOf (inner op 4095) == some (sending (inner op 4095) false, 0))
/-- A block with a completion queue. -/
def queuing (base head : Nat) : State := netted.modFab 0 0 (fun b => { b with cqBase := base, cqSize := 2, cqHead := head })
def slotIs (s : State) (va : Nat) (p : Except (Option Nat) (State × Nat) → Bool) : Bool := p (s.cqSlot 0 va)
theorem get_all {α : Type} (P : α → Prop) (d : α) (h : P d) : ∀ l : Tab α, (∀ e ∈ l, P e.2) → ∀ n, P (Tab.get d l n)
  | [], _, _ => h
  | (k, v) :: l, hl, n => by
    simp only [Tab.get]
    split
    · exact hl _ (List.mem_cons_self ..)
    · exact get_all P d h l (fun e he => hl e (List.mem_cons_of_mem _ he)) n
theorem witness_FabricEvents :
    (let s := { netted with fcmds := [sending (inner put16 4096) true] }; let f := sending (inner put16 4096) true
     (s.fcmds.find? (fun f => f.id == 9)) = some f ∧ f.poison = none ∧ (∀ e ∈ s.fabs, e.2.waiting = []) ∧ f.lctr = 4096 ∧
     NoneDue (s.fab 0 0) 5 (Tab.get 0 (s.fab 0 0).ctrs 5 + 1) ∧ NoneDue (s.fab 0 0) 4096 (Tab.get 0 (s.fab 0 0).ctrs 4096) ∧
     Clean s (linesOf (f.lpas.zip (f.msgs.flatMap OutMsg.reply)) ++ f.msgs.flatMap OutMsg.lines) ∧
     ∀ x ∈ f.msgs, x.module = s.fabMod ∧ x.done = true ∧ x.status = 0 ∧ x.hop = false) ∧
    ((netted.fab 0 0).cqSize = 0 ∧ 2 ^ 2 ≤ (((queuing 0x60000 4).fab 0 0).cqHead + 2 ^ 32 - ((queuing 0x60000 4).fab 0 0).cqTail) % 2 ^ 32 ∧
     slotIs (queuing 0x10000060000 3) (0x10000060000 + 32 * 3) (fun x => match x with
       | .error none => true
       | .error (some _) | .ok _ => false) = true ∧
     slotIs (queuing 0x60000 3) (0x60000 + 32 * 3) (fun x => match x with
       | .ok (_, pa) => areaOf pa != .control
       | .error _ => false) = true ∧ (((queuing 0x60000 3).fab 0 0).cqHead + 2 ^ 32 - ((queuing 0x60000 3).fab 0 0).cqTail) % 2 ^ 32 < 2 ^ 2) ∧
    (netted.discards { packet put16 0 with kind := .uud } = true ∧ netted.discards { packet put16 0 with key := 6 } = true ∧
     (let s := netted.modFab 0 0 (fun b => { b with rx := [{ module := 5, rank := 1, stream := 1, ord := false, next := 1, done := [], held := [] }] })
      s.discards (packet put16 0) = false ∧ ((s.fab 0 0).stream (packet put16 0)).admits 0 = false)) ∧
    (∀ op ∈ ops16, comes op = true) ∧
    (∃ t ps, netPieces 0 .write (pageCount 0x30000 16) 0x30000 16 (netted.hear 5) = (t, .ok ps) ∧ orderedOf [ps] = none ∧
      (netted.hear 5).spillHit 0 0x30000 16 = false ∧ t.owned ps = none ∧ t.netMark ps = none ∧
      t.poisonMerge ((piecePas ps).zip (List.replicate 16 7)) = none ∧
      t.poisonMerge ((piecePas ps).zip (redBytes 0 0 false (t.pieceBytes ps) (List.replicate 16 7)).1) = none ∧
      t.spillHit 0 0x50000 4 = false ∧
      metBy (netPieces 0 .write (pageCount 0x50000 4) 0x50000 4 t) (fun u qs => orderedOf [qs] = none ∧ u.owned qs = none ∧
        u.poisonMerge ((piecePas (ps ++ qs)).zip (List.replicate 16 7 ++ natLe 4 5)) = none) = true) ∧
    (∃ t ps, netPieces 0 .read (pageCount 0x30000 16) 0x30000 16 (netted.hear 5) = (t, .ok ps) ∧ orderedOf [ps] = none ∧ t.owned ps = none ∧
      t.netMark ps = none) ∧
    ((netted.fab 0 0).seen 3 (1, 0) = false ∧ (let s := netted.modFab 0 0 (fun b => { b with wins := [{ coll := 3, src := 1, low := 1, added := [] }] })
      (s.fab 0 0).seen 3 (1, 0) = true ∧ s.discards (packet sum16 4095) = false)) ∧
    (let s := { netted with timer := 10000000 }
     5 ≠ s.fabMod ∧ Tab.get 0 s.heard 5 + 10000000 ≤ s.timer ∧ (∀ n, (s.ctx n).msiAddr = 0) ∧ s.fcmds = [] ∧
       (netted.pokeN 0x70008 8 0x8000000000000005).ranksOn ((netted.pokeN 0x70008 8 0x8000000000000005).fab 0 0) 5 ≠ []) ∧
    ((sending (inner put16 4096) false).msgs.find? (fun m => !m.done && !m.held && m.module == netted.fabMod)).isSome = true := by
  refine ⟨by decide +kernel, by decide +kernel, by decide +kernel, by decide +kernel, meets (by decide +kernel), meets (by decide +kernel),
    by decide +kernel, ⟨by decide +kernel, by decide +kernel, ?_, by decide +kernel, by decide +kernel⟩, by decide +kernel⟩
  exact fun n => get_all (fun x => x.msiAddr = 0) Ctx.init (by decide) _ (by decide +kernel) n
theorem witness_AppendCommandsAccepted :
    (let s := putAll 6 (127 * 4096 + 4095) netted; (s.co.ugetPair 4).toNat % 64 = 0 ∧ (s.co.uget 6).toNat < 2 ^ 19) ∧
    ((putAll 6 4095 netted).co.uget 6).toNat < 2 ^ 12 ∧
    (∃ t ps, checkRanges netted netted.co lateOwn (src64 64 false) = (t, .ok ps) ∧ t.owned ps.flatten = none ∧
      netted.holdup (claimsOf netted.co (src64 64 false)) = none ∧
      (((t.ready netted.co ps.flatten).startOp .engine none ((List.range 4).flatMap (fun i => netted.co.keysOf (8 + BitVec.ofNat 6 i) netted.co.livel)) []).2.takeSb
        (t.ready netted.co ps.flatten).fresh (claimsOf netted.co (src64 64 false))).isSome = true) ∧
    ∃ t ps, checkRanges netted netted.co lateOwn (src64 64 true ++ src64 64 false) = (t, .ok ps) ∧ t.owned (ps.getD 0 []) = none :=
  ⟨by decide +kernel, by decide +kernel, meets (by decide +kernel), meets (by decide +kernel)⟩
/-- Log 3 with a window of 2 MiB in context 0 and its first granule mapped; one line of it is left. -/
def win0 : LogWin := { ctx := 0, tenant := 0, base := 0x200000, size := 0x200000, attr := 0, table := 0x80000 }
def log3 : FLog := { FLog.init with
  wins := [(0, win0)], stop := 65472, last := 1, lastSeq := 1, granules := [(0, flashGranule)]
  recs := [{ off := 0, lines := 1, count := 1, epoch := 0, ident := 77 }] }
def logged (r : FmpReq) : State := { bare with logs := [(3, log3)], freqs := [r] }
def req (op : Nat) (src : ReqSrc) (ident : Nat) (args : List Nat) : FmpReq :=
  { id := 9, src := src, op := op, log := 3, bad := false, lines := 1, ident := ident, goal := .upTo 1, args := args
    data := List.replicate 64 1, block := 0x50000, va := 0x50000, reads := [], poison := none, pages := [], pc := 0 }
def appReq (ident : Nat) : FmpReq := req 0 (.cohort 0 1 8 0 0) ident []
theorem witness_AppendsAndDurability :
    (let r := appReq 5; let s := logged r; let l := s.flog 3; let off := l.place r.lines
     s.freqs.find? (fun x => x.id == 9 && x.op == 0) = some r ∧ s.isFirst r = true ∧ s.mayUse r true = true ∧
     l.wins.find? (fun w => w.1 == 0) = some (0, win0) ∧ (∀ x ∈ l.recs, r.ident = 0 ∨ x.ident ≠ r.ident) ∧
     AllQuiet (s.append r.log r.lines r.ident r.data).1 ∧ r.data.length = 64 * r.lines ∧ r.poison = none ∧
     off + 64 * r.lines ≤ win0.size ∧ off / 65536 = (off + 64 * r.lines - 1) / 65536 ∧ (Tab.find l.granules (off / 65536)).isSome = true) ∧
    (let r := { appReq 5 with src := .cohort 0 1 8 1 0 }; (logged r).mayUse r true = false) ∧
    (∀ x ∈ log3.recs, (appReq 77).ident ≠ 0 ∧ x.ident = (appReq 77).ident) ∧
    win0.size < { log3 with stop := 0x200000 }.place 1 + 64 * 1 ∧ FLog.init.wins.find? (fun w => w.1 == 0) = none ∧
    (let s := { logged (appReq 5) with freqs := [] }; (Tab.find s.logs 3).isSome = true ∧ s.freqs = []) ∧
    (let r := req 1 (.cohort 0 1 8 0 0) 0 []; (logged r).freqs = [r] ∧ (logged r).mayUse r false = true ∧
     (Tab.find (logged r).logs 3).isSome = true) ∧
    (let r := req 48 .mbox 0 [0x60000, 128, 5, 0]; (logged r).isFirst r = true ∧ r.arg 0 % 64 = 0 ∧ 1 ≤ r.arg 1 ∧ r.arg 1 ≤ 128 ∧ r.arg 2 < 2 ^ 32 ∧ r.restZero 3 = true) ∧
    (let r := req 48 (.cohort 0 1 8 0 0) 0 [0x60000, 128, 5, 0]; (logged r).poison = [] ∧ Clean (logged r) [r.block / 64]) ∧
    (let r := req 49 .mbox 0 [0, 0, 0, 0]; r.restZero 1 = true ∧ r.goal = .upTo 1 ∧ 1 ≤ ({ log3 with durable := 1, durSeq := 1 } : FLog).durable) ∧
    (let r := req 50 .mbox 0 [0, 0, 0, 0]; (logged r).isFirst r = true ∧ r.restZero 0 = true ∧ ∃ x ∈ log3.recs, x.off / 2 ^ 24 = log3.stop / 2 ^ 24) := by
  decide +kernel
def moving (fresh : Bool) : Reloc :=
  { log := 3, index := 0, old := flashGranule, new := flashGranule + 1, fresh := fresh, dies := if fresh then [] else [2] }
def relocating (fresh : Bool) : State :=
  { logged (appReq 5) with relocs := [moving fresh], logs := [(3, { log3 with stop := 65536 })], freqs := [] }
theorem witness_LogRequestsAndRelocation :
    (let r := req 17 .mbox 0 [0, 0, 0, 0]; r.restZero 0 = true ∧ (logged r).mayUse r false = true) ∧
    (let r := req 18 .mbox 5 [2 ^ 24, 0, 0, 0]; let s := logged r
     r.restZero 1 = true ∧ s.keptOf (r.tenant log3) 5 = none ∧ s.mayUse r true = true ∧ (∀ x ∈ log3.sealedS, r.arg 0 / segSize ≤ x) ∧
     (∃ x ∈ ({ log3 with sealedS := [0] } : FLog).sealedS, x < r.arg 0 / segSize) ∧
     s.canUnmap 3 (log3.wins.map Prod.snd) [] = true ∧ ({ s with kept := [{ tenant := 0, ident := 5, code := 0, res := [] }] }.keptOf 0 5).isSome = true) ∧
    (let r := req 19 .mbox 0 [77, 0, 0, 0]; r.restZero 1 = true ∧ r.arg 0 < 2 ^ 32 ∧ (logged r).mayUse r false = true) ∧
    ((req 32 .mbox 0 [0x200000, 0x200000, 0x80000, 0]).window = some win0) ∧ Tab.find bare.logs 3 = none ∧
    (Tab.find (logged (appReq 5)).logs 3 = some log3 ∧ Tab.find log3.wins 1 = none) ∧
    (let r := req 34 .mbox 0 [0, 0, 0, 0]; r.restZero 1 = true ∧ Tab.find log3.wins (r.arg 0) = some win0 ∧ (logged r).canUnmap 3 [win0] [0] = true) ∧
    (let r := req 35 .mbox 0 [0, 0, 0, 0]; r.restZero 0 = true ∧ (logged r).canUnmap 3 [win0] [0] = true) ∧ areaRam 0x50000 = true ∧
    ((List.replicate 64 (req 17 .mbox 0 [])).filter (fun r => r.src == .mbox)).length = 64 ∧
    (let s := { relocating false with relocs := [] }
     s.granuleOf flashGranule = some (3, 0) ∧ 65536 * (0 + 1) ≤ (s.flog 3).stop ∧ flashGranule + 1 ∉ s.framesUsed ∧
     flashGranule + 1 < flashGranule + flashGranules) ∧
    ((relocating false).relocs.find? (fun x => x.old == flashGranule && !x.fresh) = some (moving false) ∧
     Memory.wf (relocating false).mem = true ∧ (moving false).old ≠ (moving false).new) ∧
    (∃ x ∈ (relocating true).relocs, x.old = flashGranule ∧ x.fresh = true ∧ x.dies = []) ∧
    (∃ x ∈ (relocating false).relocs, x.old = flashGranule) ∧
    (∀ x ∈ (relocating false).relocs, x.old = flashGranule → x.fresh = false ∨ x.dies ≠ []) ∧
    ((relocating true).freqs = [] ∧ (relocating true).pwr.rasBase = 0 ∧ ((relocating true).teams.map Prod.fst).Nodup ∧
      ∀ e ∈ (relocating true).teams, e.2.key = e.1) ∧
    ∀ r ∈ [req 17 .mbox 0 [], appReq 5], let s := logged r
      s.freqs = [r] ∧ s.relocs = [] ∧ s.stalls = [] ∧ (∀ e ∈ s.teams, e.2.status = .running) ∧ s.pwr.rasBase = 0 ∧ s.poison = [] ∧
        Clean s [r.block / 64] := by decide +kernel

/-! Completions, halts, contexts and the package -/

def opened (k : OpKind) : State := withCo (fun c => { c with v := { c.v with ops :=
  [{ id := 8, kind := k, flag := some 0, clause := c.clause, keys := [regKey 0 64 8 0], writes := [(regKey 0 64 8 0, 5)] }] } }) base
/-- The cohort stands between two clauses, with no holder of the slot. -/
def between : State := (withCo (fun c => { c with mid := false, words := [], idx := 0 }) base).modCore 0 (fun k => { k with holder := [] })
def leaving : State := withCo (fun c => { c with exited := true, v := { c.v with live := 0, exec := 0 } }) base
theorem witness_CompletionsAndClauses :
    (∀ k : OpKind, ((opened k).cohort? 1).any (fun c => c.id == 1 && (c.op? 8).any (fun o => o.kind == k && (o.writes.map Prod.fst).Nodup &&
      o.writes.all (fun x => !isTemp x.1 && c.v.live.getLsbD (x.1 % 64)))) = true) ∧
    (base.core 0).holder = [1] ∧
    ((between.core 0).holder = [] ∧ (chooseCohort (between.core 0) (between.readyOn 0)).any (fun x => !x.mid && between.cohort? x.id == some x) = true ∧
      ∃ t pas, (between.focus 1).fetchPlan between.co = (t, .ok pas) ∧ t.fetchHeld between.co pas = none ∧
        (decodeClause 8 (State.codeWords between.co 0 pas t).2).toOption.isSome = true) ∧
    ((leaving.cohort? 1).any (fun c => c.exited && !c.ended && c.v.ops.isEmpty && (leaving.team? c.team).any (fun t => t.key == c.team)) = true ∧
      (∀ y ∈ leaving.cohortsOf 2, y.id = 1) ∧ leaving.cohorts = []) ∧
    (let s := { leaving with cohorts := [(7, { base.co with id := 7, cohid := 1 })] }; ∃ y ∈ s.cohortsOf 2, y.id ≠ 1) := by
  refine ⟨fun k => ?_, by decide +kernel, ⟨by decide +kernel, by decide +kernel, meets (by decide +kernel)⟩, by decide +kernel, by decide +kernel⟩
  cases k <;> decide +kernel
/-- The cohort waits at barrier 3 of its team, whose watchdog has counted T. -/
def overdue : State := { withCo (fun c => { c with wait := some (.barrier false 3 0) }) (barred false { barE 1 with T := 5, wd := some 0, pcs := [(0, 0x10004)] }) with clk := 5 }
def halting (k : HaltKind) : State :=
  let s := withCo (fun c => { c with halted := true, mid := false }) between
  match s.team? 2 with
  | some t => s.setTeam { t with status := .halting k }
  | none => s
/-- The cohort stands within its clause at a CPY, and its context is stopping. -/
def atCopy : State := (withCo (fun c => { c with asked := true, words := c.words.take 1 ++ encode (.cpy false 2 4 6) }) base).modCtx 0
  (fun x => { x with state := .stopping })
/-- Nobody is left of the team that arrived. -/
def departed : State := { barred false { barE 1 with T := 5, wd := some 0, pcs := [(7, 0x10004)], left := [(7, FaultRec.blank 0 0 0x0F 1)] } with clk := 5 }
theorem witness_TeamsHalt :
    ((overdue.team? 2).any (fun t => (overdue.barOf t false 3).any (fun x => x.wd == some 0 && overdue.expired 0 x.T &&
      (match overdue.barVictim t false 3 x with
        | some (.inl v) => v.1.status == .running && overdue.team? v.2.1.team == some v.1 && v.1.key == v.2.1.team &&
            overdue.cohort? v.2.1.id == some v.2.1 && (overdue.ctx v.1.ctx).state == .running
        | some (.inr _) | none => false))) = true) ∧
    ((departed.team? 2).any (fun t => (departed.barOf t false 3).any (fun x => x.wd == some 0 && departed.expired 0 x.T &&
      (match departed.barVictim t false 3 x with
        | some (.inr r) => r.ctx == t.ctx && (departed.ctx t.ctx).state == .running
        | some (.inl _) | none => false))) = true) ∧
    (let s := withCo (fun c => { c with asked := true }) between; (s.cohort? 1).any (fun c => c.asked && !c.ended && !c.mid) = true ∧
      1 ∉ (s.core s.co.core).holder) ∧
    ((atCopy.cohort? 1).any (fun c => c.asked && !c.ended && c.mid && c.wait.isNone) = true ∧ atCopy.noCommands 0 = true ∧
      (atCopy.focus 1).atCommand = true) ∧
    (∀ k ∈ [HaltKind.bkpt 1, .stop, .fault 1 0 (flt 7 1), .fault 1 0 (flt 9 1), .fault 1 0 (flt 4 0)],
      ((halting k).team? 2).any (fun t => t.key == 2 && (halting k).teamQuiet 2 && t.status == .halting k && t.diag.isEmpty) = true) ∧
    toBuffer (flt 6 1) = true ∧ toBuffer (flt 9 1) = false ∧ toBuffer (flt 4 0) = false ∧ (base.ctx 0).ending = false ∧ base.poison = [] ∧
    (∀ y ∈ (halting .stop).cohortsOf 2, y.fault = none) ∧
    (∀ k ∈ [HaltKind.bkpt 1, .stop, .fault 1 0 (flt 6 1)], let s := withCo (fun c => { c with fault := some (flt 4 0) }) (halting k)
     (∃ y ∈ s.cohortsOf 2, y.fault = some (flt 4 0)) ∧ s.teamQuiet 2 = true) ∧
    ((halting (.fault 1 0 (flt 4 0))).cohort? 1).any (fun y => y.ctx == 0) = true ∧
    (base.ctx 0).state ≠ .free ∧ (base.ctx 0).state ≠ .terminated ∧ (base.ctx 0).causeSet = false := by decide +kernel
def inState (x : CtxState) : State := between.modCtx 0 (fun c => { c with state := x })
def emptyCapture : Capture :=
  { teams := [], claims := [], res := [], bars := [], ranks := [], launches := [], fabs := [], marks := [], major := Config.firmwareMajor, size := 0
    image := [] }
/-- A stopped context with an empty capture and a core map of 0xFFFF. -/
def ffs (a n : Nat) : List Host.Cell := (List.range' a n).map (fun k => (k, 0xFF))
def stoppedHere : State := { State.reset with
  mem := ffs 0x90000 4096, ctxs := [(0, { Ctx.init with state := .stopped, capture := some emptyCapture, map := 0x90000 })] }
theorem get_ffs (d : Byte) : ∀ n a x, a ≤ x → x < a + n → Tab.get d (ffs a n) x = 0xFF
  | 0, _, _, h, k => by omega
  | n + 1, a, x, h, k => by
    rw [ffs, List.range'_succ, List.map_cons, Tab.get]
    split
    · rfl
    · rename_i hx
      have hx : ¬a = x := by simpa using hx
      exact get_ffs d n (a + 1) x (by omega) (by omega)
theorem mapped_ffs (n : Nat) (h : n < 2048) : stoppedHere.mapped 0x90000 n = 0xFFFF := by
  have g (x : Nat) (h1 : 0x90000 ≤ x) (h2 : x < 0x90000 + 4096) : stoppedHere.byte x = 0xFF := get_ffs _ _ _ _ h1 h2
  show leNat ((List.range 2).map (fun i => stoppedHere.byte (0x90000 + 2 * n + i))) = 0xFFFF
  have h2 : List.range 2 = [0, 1] := by decide
  rw [h2, List.map_cons, List.map_cons, List.map_nil, g _ (by omega) (by omega), g _ (by omega) (by omega)]
  decide
theorem distinct_ffs (seen : Nat) : ∀ l : List Nat, (∀ t ∈ l, t = 0xFFFF) → distinctTargets l seen = true
  | [], _ => rfl
  | t :: l, h => by
    simp only [distinctTargets, h t (List.mem_cons_self ..), if_true]
    exact distinct_ffs seen l (fun x hx => h x (List.mem_cons_of_mem _ hx))
theorem restores : stoppedHere.mayRestore emptyCapture 0x90000 = true := by
  have h : distinctTargets ((List.range 2048).map (stoppedHere.mapped 0x90000)) 0 = true := distinct_ffs 0 _ (fun t ht => by
    obtain ⟨n, hn, rfl⟩ := List.mem_map.mp ht
    exact mapped_ffs n (List.mem_range.mp hn))
  simp only [State.mayRestore, h, emptyCapture, Capture.sources, Capture.leaders]
  simp
theorem restores_not : base.mayRestore { emptyCapture with claims := [(3, 0, [])] } 0 = false := by
  have h : base.mapped 0 3 = 0 := by decide +kernel
  have k : base.teamsOnCore 0 ≠ [] := by decide +kernel
  simp [State.mayRestore, emptyCapture, Capture.sources, Capture.leaders, h, k]
theorem witness_ContextCommands :
    (∀ x : CtxState, ((inState x).ctx 0).state = x) ∧ (∀ die < 4, (base.fab die 0).trigs = [] ∧ (base.fab die 0).waiting = []) ∧ base.poison = [] ∧
    ((base.teams.map Prod.fst).Nodup ∧ ∀ e ∈ base.teams, e.2.key = e.1 ∧ e.2.ctx = 0 ∧ e.2.status = .running) ∧
    (let s := (inState .stopping).modCtx 0 (fun c => { c with short := true, save := 0x90000, savelim := 0x1000, savesz := 0x1000 })
     (s.ctx 0).short = true ∧ (s.ctx 0).saveOk = true) ∧ (((inState .stopping).ctx 0).short && ((inState .stopping).ctx 0).saveOk) = false ∧
    ((stoppedHere.ctx 0).state = .stopped ∧ (stoppedHere.ctx 0).capture = some emptyCapture ∧ (stoppedHere.ctx 0).map = 0x90000 ∧
      stoppedHere.mayRestore emptyCapture 0x90000 = true ∧ (emptyCapture.teams.map (fun e => e.team.key)).Nodup ∧
      stoppedHere.poisonIn 0 0 = none ∧ stoppedHere.poisonIn 0x90000 4096 = none ∧ emptyCapture.teams = [] ∧ emptyCapture.marks = []) ∧ 2 ≤ ({ base.pwr with state := 2 } : Power).state ∧
    base.mayRestore { emptyCapture with claims := [(3, 0, [])] } 0 = false ∧
    ((((inState .stopped).modCtx 0 (fun c => { c with savesz := 64, save := 0x90000 })).ctx 0).causeSet = false ∧
      ({ base with poison := [0x9000] }.poisonIn 0x90000 64).isSome = true) ∧
    (State.reset.bytes 0 0 = emptyCapture.image ∧ emptyCapture.fabs = []) ∧ ((inState .terminated).ctx 0).ending = false ∧ (((inState .terminated).modCtx 0 (fun c => { c with ending := true })).ctx 0).ending = true := by
  refine ⟨fun x => ?_, by decide +kernel, by decide +kernel, by decide +kernel, by decide +kernel, by decide +kernel, ⟨by decide, rfl, by decide, restores, by decide, by decide, by decide, by decide, by decide⟩,
    by decide, restores_not, by decide +kernel, by decide +kernel, by decide +kernel, by decide +kernel⟩
  cases x <;> decide +kernel
/-- A context that has nothing under way, with an evictable residency. -/
def drained (x : CtxState) : State :=
  { (inState x) with teams := [], cores := [(0, { Core.init with res := [(0, { Residency.init with state := .valid, serial := 1 })] })] }
def recording (base head : Nat) : State := drained .running |>.modCtx 0 (fun x => { x with logBase := base, logSize := 2, logHead := head })
theorem witness_ContextsDrain :
    (State.unmarked (drained .preempting) = true ∧ (drained .stopping).unmarked = true) ∧
    (((drained .running).ctx 0).logSize = 0 ∧ 2 ^ 2 ≤ ((((recording 0x8000060000 4).ctx 0).logHead + 2 ^ 32 - ((recording 0x8000060000 4).ctx 0).logTail) % 2 ^ 32) ∧
      (recording 0x8000060000 3).slotAt 0 0x80000600C0 = none ∧
      (let s := (recording 0x8000060000 3).pokeN 0x2008 8 0xCF; (s.slotAt 0 0x80000600C0).isSome = true ∧ (s.ctx 0).msiAddr = 0 ∧ s.poison = []) ∧
      ((((recording 0x8000060000 3).ctx 0).logHead + 2 ^ 32 - ((recording 0x8000060000 3).ctx 0).logTail) % 2 ^ 32) < 2 ^ 2) ∧
    (let s := drained .preempting; (s.ctx 0).state = .preempting ∧ s.teamsOf 0 = [] ∧ s.ctxBusy 0 = false ∧ s.fcmds = [] ∧
      (Tab.find (s.core 0).res 0).any (fun r => r.ctx == 0 && !r.pinned && r.state == .valid) = true) ∧
    (let s := drained .stopping; (s.ctx 0).state = .stopping ∧ (s.ctx 0).drained = false ∧ s.teamsOf 0 = [] ∧ s.ctxBusy 0 = false) ∧
    (let s := { (inState .preempting).modCtx 0 (fun c => { c with deadline := 7 }) with clk := 7 }
     (s.ctx 0).deadline = 7 ∧ (s.ctx 0).causeSet = false ∧ (s.ctx 0).deadline ≤ (s.clk + 2 ^ 64 - (s.ctx 0).since) % 2 ^ 64 ∧
     ∀ t ∈ s.teamsOf 0, ∀ c ∈ s.cohortsOf t.key, c.ctx = 0) ∧
    (let s := (halting .terminate).modCtx 0 (fun c => { c with state := .terminated, ending := true })
     (s.ctx 0).state = .terminated ∧ (s.ctx 0).ending = true ∧ s.ctxBusy 0 = false ∧ (∀ e ∈ s.teams, e.2.key = e.1) ∧
     ∀ t ∈ s.teamsOf 0, t.status = .halting .terminate ∧ s.teamQuiet t.key = true) := by decide +kernel
/-- A walk under way. -/
def waiting4 : Walk := { ctx := 0, vpn := 0x30, fail := { cause := 0x06, sub := 1, pa := 0 }, reqs := [0], ended := false, shut := false }
theorem witness_WalksReplaysFences :
    (walkRoot base (base.ctx 0).root 0x30000).toOption.any (fun w => (permit w.leaf .write).toOption.isSome) = true ∧
    (base.cluster 0).walks = [] ∧ (∀ h ∈ base.harts, h.2.late = []) ∧ State.reset.firing 0 = false ∧ ((base.fab 0 0).waiting = [] ∧ base.firing 0 = true) ∧
    (let s := { base with clusters := Tab.put base.clusters 0 { base.cluster 0 with walks := [waiting4] } }
     (s.cluster 0).walks.find? (fun y => y.ctx == 0 && y.vpn == 0x30 && !y.ended) = some waiting4) ∧
    (let s := { base with dies := [(0, { Die.init with busy := true })] }; (s.die 0).busy = true ∧ s.fenceHeld 0 = false ∧ s.relocs = [] ∧
      (∀ e ∈ s.clusters, e.2.walks = []) ∧ AllQuiet s) ∧
    (let s := { (engaged .copy) with dies := [(0, { Die.init with busy := true, sfLen := 0x1000000000000 })] }
     (s.modCore 0 (fun c => { c with cmds := c.cmds.map (fun e => { e with pages := [0x30] }) })).fenceHeld 0 = true) ∧
    (let s := { State.reset with dies := [(0, { Die.init with fbufs := [(0, FaultBuf.init)] })] }; (Tab.find (s.die 0).fbufs 0).isSome = true) := by
  decide +kernel
theorem witness_MemoryTiers : areaOf 0 = .hbm ∧ areaOf 0x7FFFFFFFFF = .hbm ∧ areaOf 0x10000000000 = .lpddr ∧ areaOf 0x100000000000 = .flash ∧
    areaOf 0x300000000000 = .onchip ∧ areaOf 0x3F0000000000 = .control ∧ areaOf 0x8000000000 = .hole ∧ base.pwr.rasBase = 0 ∧
    (base.stack 7).retired.getLsbD 31 = false ∧
    (let s := { base with hbm := [(7, { Stack.init with retired := 1, rebuild := true, shadow := true })], poison := [3] }
     (s.stack 7).retired ≠ 0 ∧ (s.stack 7).rebuild = true ∧ (s.stack 7).shadow = true ∧ (s.stack 7).retired.getLsbD 1 = false ∧ s.poisonIn 48 1 ≠ none) ∧
    (base.stack 7).shadow = false ∧
    (let s := base.modCore 0 (fun k => { k with l1 := [(0x30000 / 64, { L1Line.init with valid := 15 })] })
     s.copiesOf 0x30000 = [.l1 0] ∧ (Tab.find (s.core 0).l1 (0x30000 / 64)).isSome = true) := by decide +kernel
def tkcReq (op ident : Nat) (args : List Nat) : TkcReq :=
  { id := 9, block := 0x50000, tenant := 2, ident := ident, epoch := 1, op := op, args := args, bad := false }
def keyed (r : TkcReq) : State := { base with tkc := { base.tkc with
  reqs := [r], keys := [{ handle := 0x20010005, fabric := false, ident := 7, secret := 0 }, { handle := 0x20020006, fabric := true, ident := 8, secret := 0 }] } }
theorem free_index : ∃ i, base.freeKeyIndex = some i := by
  have h : base.tkc.keys = [] := by decide +kernel
  simp [State.freeKeyIndex, h]
theorem witness_TenantKeys :
    (∃ i, base.freeKeyIndex = some i) ∧
    (∀ op ∈ [1, 2, 3, 4, 5, 6], let r := tkcReq op 0 []; (keyed r).tkc.reqs.find? (fun x => x.id == 9 && x.op == op) = some r ∧ r.bad = false) ∧
    (let r := tkcReq 1 3 []; (keyed r).tkc.keptOf 2 3 = none ∧ r.epoch = (keyed r).tkc.epoch) ∧
    (0x200000 % 2 ^ 21 = 0 ∧ oneTier 0x200000 0x200000 = true ∧ ((keyed (tkcReq 2 0 [])).keyOf 2 0x20010005).any (fun k => !k.fabric) = true ∧
      (keyed (tkcReq 2 0 [])).tkc.regions = []) ∧
    (let s := { keyed (tkcReq 2 0 []) with tkc := { (keyed (tkcReq 2 0 [])).tkc with regions := [(0x200000, 0x200000, 0x20010005)] } }
     (s.tkc.regions.find? (fun e => e.1 == 0x200000 && e.2.1 == 0x200000 && handleTenant e.2.2 == 2)).isSome = true ∧ AllQuiet s) ∧
    (((keyed (tkcReq 3 0 [])).keyOf 2 0x20020006).any (fun k => k.fabric) = true ∧ ((base.modCtx 63 (fun c => { c with tenant := 2 })).ctx 63).tenant = 2) ∧
    ((keyed (tkcReq 2 0 [])).keySecret 0x20010005 = some 0 ∧ (base.boot.config).isSome = true) ∧
    ((keyed (tkcReq 4 0 [])).tkc.binds = [] ∧ ((keyed (tkcReq 4 0 [])).keyOf 2 0x20010005).isSome = true) ∧
    (areaRam 0x60000 = true ∧ areaRam (0x60000 + 63) = true ∧ areaRam (0x70000 + 4095) = true ∧ base.poisonIn 0x60000 64 = none ∧ base.tkc.signed < 2 ^ 30) ∧
    (({ base.tkc with kept := [{ tenant := 2, ident := 3, code := 0, res := [] }] }.keptOf 2 3).isSome = true) ∧
    (List.replicate 32 (tkcReq 1 0 [])).length = 32 :=
  ⟨free_index, by decide +kernel⟩
theorem witness_PowerStates :
    (base.pwr.state ≠ 4 ∧ base.pwr.target = none ∧ base.anyActive = true ∧ State.reset.anyActive = false) ∧
    (∀ n ∈ [0, 1, 2, 3, 4], ({ base.pwr with target := some n } : Power).target = some n) ∧
    (({ base.pwr with state := 3 } : Power).state = 3) ∧ ({ base.pwr with state := 4 } : Power).target = none ∧
    (let b : Boot := { base.boot with cfgA := { base.boot.cfgA with good := false }, cfgB := { base.boot.cfgB with good := false } }
     b.cfgA.good = false ∧ b.cfgB.good = false ∧ b.config = none) ∧
    (let b : Boot := { base.boot with images := [(0, { version := 0, digest := 0, good := false }), (1, { version := 0, digest := 0, good := false })] }
     b.config.isSome = true ∧ (∀ n < 2, (b.imageAt 0 n).good = false) ∧ Tab.get 0 b.active 0 < 2) ∧
    base.boot.config.any (fun c => c.trip == 840) = true := by decide +kernel
theorem witness_RegistersAndPorts :
    (63 < 64 ∧ 3 < 4 ∧ 95 < 96) ∧ base.boot.session = false ∧ (run (.sbmpMessage .openSession) base).boot.session = true ∧
    (base.boot.config.any (fun c => Tab.get 0 c.least 2 ≤ (FwImage.mk 5 0 true).version) = true ∧ (FwImage.mk 5 0 false).good = false) ∧
    base.pwr.state ≠ 4 ∧ (base.ide 4).secure = true ∧ (base.ide 4).newKeys = false ∧ ((base.keySwitch 4 false).ide 4).newKeys = true ∧
    ((run (.pcieInboundRequest (.write 2 0 [1] true true)) base).ide 2).secure = false ∧
    (areaOf 0x3F0000000000 = .control ∧ (∀ i < 4, areaOf (0x30000 + i) = .hbm) ∧ areaOf 0x30000 = areaOf (0x30000 + 4 - 1) ∧
      base.chipReach (slotAddr 0 spOffset) = true ∧ base.chipReach (slotAddr 0 (spOffset + 16384 * 16 - 1)) = true ∧ base.heldBy ((List.range 4).map (fun i => 0x30000 + i)) true = none ∧
      base.heldBy ((List.range 4).map (fun i => 0x30000 + i)) false = none) := by decide +kernel
/-- An event on the agenda; a hart word at the pc of a hart; NOP at the cohort's place. -/
theorem witness_StepRunsDecodedInstruction :
    (let b := ({ base with agenda := [.preempt 0] } : State).beat; b.agenda = [.preempt 0] ∧ b.allowed (.preempt 0) = true) ∧
    (let b := ({ base with agenda := [.hbmRebuildEnd 0], pwr := { base.pwr with state := 4 } } : State).beat; b.agenda = [.hbmRebuildEnd 0] ∧ b.allowed (.hbmRebuildEnd 0) = false) ∧
    (let s := State.reset.withFetchWord 32 0x0000350B
     s.agenda = [] ∧ s.turn = some 0 ∧ (s.hart 0).wait = none ∧ s.pwr.state < 3 ∧ (s.beat.hartWord 0).toOption.any (fun w => (decodeHart w).isSome) = true) ∧
    (let s := hart0 (fun h => { h with pc := 0x8000000000 }); let b := s.beat
     b.agenda = [] ∧ b.turn = some 0 ∧ (b.hart 0).wait = none ∧ b.pwr.state < 3 ∧ (b.hartWord 0).toOption = none) ∧
    (∀ w ∈ [0x0000700B, 0x00000013], let b := ((hart0 (fun h => { h with pc := 0x60000 })).pokeN 0x60000 4 w).beat
     b.agenda = [] ∧ b.turn = some 0 ∧ (b.hartWord 0).toOption = some w ∧ decodeHart w = none) ∧
    (let b := base.beat
     b.agenda = [] ∧ b.turn = none ∧ b.burst = 1 ∧ b.nextCore = some 0 ∧ (b.core 0).holder = [1] ∧ b.co.id = 1 ∧
     (b.co.words.drop b.co.idx).head? = some 0x44000000 ∧ (decodeWord 0x44000000 []).toOption = some .nop ∧ bitAt 0x44000000 31 = false ∧
     b.co.pre = none ∧ packStall exec { b with burst := 0 } = none ∧ ({ b with burst := 0 } : State).gate 0x44000000 .nop = none) := by decide +kernel
theorem witness_DecodeOfEncode : (Instr.iadd64 true 62 2 4).wf = true ∧ (Instr.fence .sc .pkg true).wf = true := by decide
theorem witness_MemoryStaysCanonical : Memory.wf base.mem = true ∧ (stateOf (step base)).isSome = true := by decide +kernel
theorem witness_YieldAndNop : 0 < 1 ∧ 2 ^ 24 - 1 < 2 ^ 24 := by decide
theorem witness_PairSums : (62 : Reg).even = true ∧ (0 : Reg).even = true ∧ (63 : Reg).even = false ∧ Shape base.co ∧ 2 ≤ (2 : BitVec 5).toNat ∧ (31 : BitVec 5).toNat = 31 := by
  decide +kernel
def page (f : Leaf → Leaf) : Leaf :=
  f { pa := 0x30000, r := true, w := true, x := true, u := true, pbmt := 0, so := false, efmt := 0, bgeo := 0, size := 0, mig := false, dirty := true }
/-- A computation that comes to a fault of which P holds. -/
def failBy {α : Type} (r : State × Except FaultInfo α) (P : State → FaultInfo → Prop) [∀ t x, Decidable (P t x)] : Bool :=
  match r with
  | (_, .ok _) => false
  | (t, .error e) => decide (P t e)
theorem fails {α : Type} {r : State × Except FaultInfo α} {P : State → FaultInfo → Prop} [∀ t x, Decidable (P t x)] (h : failBy r P = true) :
    ∃ t x, r = (t, .error x) ∧ P t x := by
  obtain ⟨t, e | x⟩ := r
  · exact ⟨t, e, rfl, of_decide_eq_true h⟩
  · cases h
/-- The ONCHIP window at a slot whose scratchpad is not the team's. -/
def astray : State := putAll 2 0x00D00000 (putAll 3 0x00F10000 base)
/-- Pages that may not be written, and a fault buffer that is empty, holds the page, or is full. -/
def readOnly (b : FaultBuf) : State := { lanes16.pokeN 0x2000 8 0xDB with dies := [(0, { Die.init with fbufs := [(0, b)] })] }
def pageRec (a : Nat) : FaultRec := { FaultRec.blank 0 0 7 1 with addr := a }
theorem witness_AccessFaults :
    (∀ b ∈ [FaultBuf.init, { FaultBuf.init with ents := [some (pageRec 0x30000)] },
        { FaultBuf.init with ents := List.replicate 8 (some (pageRec 0x50000)) }],
      failBy (resolveLanes (readOnly b).co .plain 4 .write false ((readOnly b).co.active.map (fun l => (l, (readOnly b).co.laneAddr 2 0 none l)))
        (readOnly b)) (fun t g => t.co.landSfu.delivers g.cause = false ∧ g.cause = 7 ∧ g.addr / 4096 = 0x30 ∧ toBuffer g = true ∧ t.poison = [] ∧
          Tab.get FaultBuf.init (t.die 0).fbufs 0 = b) = true) ∧
    (((page (fun l => { l with r := false })).u && (page (fun l => { l with r := false })).r) = false ∧ (page (fun l => { l with pbmt := 3 })).pbmt = 3 ∧
    (page (fun l => { l with mig := true })).mig = true ∧ areaOf (page (fun l => { l with pa := 0x100000000000 })).pa = .flash ∧
    (1 : Nat) * 2 ^ 56 / 2 ^ 56 ≠ 0 ∧ 2 ^ 56 / 2 ^ 56 ≠ 255 ∧
    (windowOf 0x00F0000000003FFD = .loc 0x3FFD ∧ base.co.shareSize < 0x3FFD + 4 ∧ windowOf ((0x00F0000000003FFD + (4 - 1)) % 2 ^ 64) = .loc (0x3FFD + 3)) ∧
    (windowOf 0x00EFFFFFFFFFFFFF).code ≠ (windowOf ((0x00EFFFFFFFFFFFFF + (2 - 1)) % 2 ^ 64)).code) ∧
    (∃ t g, resolveLanes astray.co .plain 4 .read false (astray.co.active.map (fun l => (l, astray.co.laneAddr 2 0 none l))) astray = (t, .error g) ∧
      t.co.landSfu.delivers g.cause = false ∧ g.cause ≠ 0 ∧ toBuffer g = false ∧ g.cause ≠ 9) ∧
    ∃ t g, resolveLanes astray.co .plain 4 .write false (astray.co.active.map (fun l => (l, astray.co.laneAddr 2 0 none l))) astray = (t, .error g) ∧
      t.co.landSfu.delivers g.cause = false ∧ g.cause ≠ 0 ∧ toBuffer g = false ∧ g.cause ≠ 9 :=
  ⟨by decide +kernel, by decide +kernel, fails (by decide +kernel), fails (by decide +kernel)⟩
theorem walkFrom_page (s : State) (cpu : Bool) {va va' : Nat} (h : va / 4096 = va' / 4096) :
    ∀ level table, walkFrom s cpu va level table = walkFrom s cpu va' level table := by
  have hd : ∀ n, va / 2 ^ (12 + n) = va' / 2 ^ (12 + n) := by
    intro n
    rw [Nat.pow_add, ← Nat.div_div_eq_div_mul, ← Nat.div_div_eq_div_mul]
    have : (2 : Nat) ^ 12 = 4096 := rfl
    rw [this, h]
  have hl : ∀ at_ pte level, leafOf cpu va at_ pte level = leafOf cpu va' at_ pte level := by
    intro at_ pte level
    simp only [leafOf, h]
  intro level
  induction level with
  | zero => intro table; simp only [walkFrom, hd, hl]
  | succ n ih => intro table; simp only [walkFrom, hd, hl, ih]
theorem walkRoot_page (s : State) (root : DWord) {va va' : Nat} (h : va / 4096 = va' / 4096) : walkRoot s root va = walkRoot s root va' := by
  have hc : canonical va = canonical va' := by
    have e : ∀ x, x / 2 ^ 56 = x / 4096 / 2 ^ 44 := fun x => by rw [Nat.div_div_eq_div_mul]; rfl
    simp only [canonical, e, h]
  simp only [walkRoot, walkOf, hc, walkFrom_page s false h]
/-- A state that holds a page's translation, which agrees with its leaf: an access of the page changes nothing. -/
structure Warm (s : State) (c : Cohort) (va : Nat) (w : Walked) : Prop where
  walks : (s.cluster (clusterOf c.core)).walks = []
  young : s.harts.all (fun h => h.2.late.isEmpty) = true
  walk : walkRoot s (s.ctx c.ctx).root va = .ok w
  ok : permit w.leaf .read = .ok ()
  same : setAD s w .read = s
  held : s.tlbHeld c.core c.ctx (va / 4096) = some w.leaf
  full : s.tlbFill c.core c.ctx (va / 4096) w.leaf = s
  ram : w.leaf.pa + 4096 ≤ 0x8000000000
  calm : s.stalls = []
theorem Warm.lookup {s : State} {c : Cohort} {va : Nat} {w : Walked} (h : Warm s c va w) (site : Nat) {x : Nat} (e : x / 4096 = va / 4096) :
    s.lookup c x .read site = (s, .ok w.leaf) := by
  have hw := walkRoot_page s (s.ctx c.ctx).root e
  rw [h.walk] at hw
  simp [State.lookup, Cluster.walkFor, h.walks, Sys2Proof.Machine.translate, walkSeen, h.young, hw, e, h.held, h.ok, h.same, h.full]
theorem globWindow {x : Nat} (h : x < 2 ^ 40) : windowOf x = .glob := by
  unfold windowOf
  rw [if_neg (by omega), if_neg (by omega)]
theorem hbmArea {x : Nat} (h : x < 0x8000000000) : areaOf x = .hbm := by simp [areaOf, h]
theorem Warm.pieces {s : State} {c : Cohort} {va : Nat} {w : Walked} (h : Warm s c va w) (hv : va < 2 ^ 40) (r : Rg) (hs : r.share = false)
    (hk : r.wr = false) (hl : 0 < r.len) (e : r.va / 4096 = va / 4096) (hn : r.va % 4096 + r.len ≤ 4096) :
    piecesOf s c r = (s, .ok [{ va := r.va, pa := w.leaf.pa + r.va % 4096, len := r.len, leaf := some w.leaf }]) := by
  have hr : r.va < 2 ^ 40 := by omega
  have hp : r.place = .glob := by simp [Rg.place, hs, globWindow hr]
  have h1 : (r.va % 4096 + r.len + 4095) / 4096 = 1 := by omega
  have hm : min r.len (4096 - r.va % 4096) = r.len := by omega
  have hb : s.pageBad c.ctx r.va ((List.range r.len).map (fun i => w.leaf.pa + r.va % 4096 + i)) .read = none := by
    simp only [State.pageBad, Option.map_eq_none_iff, List.find?_eq_none, List.length_map, List.length_range, List.mem_range]
    intro i hi
    have ha : w.leaf.pa + r.va % 4096 + i < 0x8000000000 := by have := h.ram; omega
    simp [List.getD_eq_getElem?_getD, List.getElem?_map, List.getElem?_range hi, hbmArea ha]
  have hc : s.stallOf c.core none ((List.range r.len).map (fun i => w.leaf.pa + r.va % 4096 + i)) = none := by simp [State.stallOf, h.calm]
  have hz : ¬r.len = 0 := by omega
  simp only [piecesOf, hz, if_false, hp, hk, Bool.false_eq_true, h1, Rg.kind]
  simp [globPieces, hz, h.lookup _ e, hm, hb, hc]
theorem Warm.all {s : State} {c : Cohort} {va : Nat} {w : Walked} (h : Warm s c va w) (hv : va < 2 ^ 40) :
    ∀ rs : List Rg, (∀ r ∈ rs, r.share = false ∧ r.wr = false ∧ 0 < r.len ∧ r.va / 4096 = va / 4096 ∧ r.va % 4096 + r.len ≤ 4096) →
      allPieces c rs s = (s, .ok (rs.map (fun r => [{ va := r.va, pa := w.leaf.pa + r.va % 4096, len := r.len, leaf := some w.leaf }])))
  | [], _ => rfl
  | r :: rs, hr => by
    obtain ⟨h1, h2, h3, h4, h5⟩ := hr r (List.mem_cons_self ..)
    simp [allPieces, h.pieces hv r h1 h2 h3 h4 h5, h.all hv rs (fun r hm => hr r (List.mem_cons_of_mem _ hm))]
theorem Warm.reads {s : State} {c : Cohort} {va : Nat} {w : Walked} (h : Warm s c va w) (hv : va < 2 ^ 40)
    (rs : List Rg) (hr : ∀ r ∈ rs, r.share = false ∧ r.wr = false ∧ 0 < r.len ∧ r.va / 4096 = va / 4096 ∧ r.va % 4096 + r.len ≤ 4096) :
    checkReads s c rs = (s, .ok (rs.map (fun r => [{ va := r.va, pa := w.leaf.pa + r.va % 4096, len := r.len, leaf := some w.leaf }]))) := by
  have hw : ∀ r ∈ rs, windowOf r.va = .glob ∧ windowOf ((r.va + r.len - 1) % 2 ^ 64) = .glob ∧ r.place = .glob := by
    intro r hm
    obtain ⟨h1, h2, h3, h4, h5⟩ := hr r hm
    have a : r.va < 2 ^ 40 := by omega
    have b : (r.va + r.len - 1) % 2 ^ 64 < 2 ^ 40 := by omega
    exact ⟨globWindow a, globWindow b, by simp [Rg.place, h1, globWindow a]⟩
  have h1 : straddleOf rs = none := by
    simp only [straddleOf, List.findSome?_eq_none_iff]
    intro r hm
    rw [(hw r hm).1, (hw r hm).2.1]; simp
  have h2 : beyondOf s c rs = none := by
    simp only [beyondOf, List.findSome?_eq_none_iff]
    intro r hm
    simp [(hw r hm).2.2]
  have h3 : remoteOf s c false rs = none := by
    simp only [remoteOf, List.findSome?_eq_none_iff]
    intro r hm
    simp [(hw r hm).2.2]
  simp [checkReads, h1, h2, h3, firstOf, h.all hv rs hr]
theorem Warm.source {s : State} {c : Cohort} {va : Nat} {w : Walked} (h : Warm s c va w) (hv : va < 2 ^ 40) (v : FView) (r : Residency)
    (idx : Nat) (hf : r.fmt = 8) (hp : r.pair = false) (hr : v.rsv = 0) (he : v.ebase / 4096 = va / 4096) (hn : v.ebase % 4096 + 1024 ≤ 4096)
    (ho : v.rowlen = 1) (h2 : w.leaf.efmt = 2) (h0 : w.leaf.bgeo = 0) : ∃ q, s.readSource c idx r v 0 0 = (s, .ok q) ∧ q.bl = blOf 0 := by
  have hg : windowOf v.ebase = .glob := globWindow (by omega)
  have hva : s.viewAttr c v .read = (s, .ok (2, 0)) := by
    simp [State.viewAttr, State.viewLeaf, hg, h.lookup 902 he, leafAttr, h2, h0]
  have hc := h.reads hv (((List.range r.cols).map (tileJ v 0 0)).map (fun j => elemRg v .b16 1 j 256)) (by
    intro x hx
    simp only [List.map_map, List.mem_map, List.mem_range, Residency.cols, hp, Bool.false_eq_true, if_false, Function.comp] at hx
    obtain ⟨n, hl, rfl⟩ := hx
    have e : elemAddr v .b16 (tileJ v 0 0 n) = v.ebase + 2 * n := by
      have ht : tileJ v 0 0 n = n := by simp [tileJ, ho]
      rw [ht]
      simp only [elemAddr, EKind.nibs]
      omega
    refine ⟨rfl, rfl, ?_, ?_, ?_⟩
    · simp only [elemRg, EKind.nibs]; omega
    · show elemAddr v .b16 (tileJ v 0 0 n) / 4096 = _; rw [e]; omega
    · show elemAddr v .b16 (tileJ v 0 0 n) % 4096 + (elemRg v .b16 1 (tileJ v 0 0 n) 256).len ≤ 4096
      rw [e]; simp only [elemRg, EKind.nibs]; omega)
  have hm : mfmt r.fmt = some .b16 := by rw [hf]; decide
  have hw : ∀ l : List Piece, (∀ p ∈ l, p.leaf = some w.leaf) → attrsOf 2 0 l = [] := by
    intro l hl
    simp only [attrsOf, List.flatMap_eq_nil_iff]
    intro p hq
    simp [hl p hq, h2, h0, attrBad]
  have ht : ∃ q, s.transSource c idx r v 0 0 = (s, .ok (q, none)) ∧ q.bl = blOf 0 := by
    simp only [State.transSource, hm, Option.getD_some, EKind.block, Bool.false_and, Bool.false_eq_true, if_false, hg, hva,
      List.append_nil, hc, hr]
    rw [hw _ (by
      intro p hq
      simp only [List.mem_flatten] at hq
      obtain ⟨l, hl, hq⟩ := hq
      have := List.mem_of_mem_take hl
      simp only [List.mem_map] at this
      obtain ⟨a, -, rfl⟩ := this
      rw [List.mem_singleton.mp hq])]
    simp [firstOf, attrBad, leastOf, fmtAccepts, hf]
  obtain ⟨q, hq, hb⟩ := ht
  exact ⟨q, by simp [State.readSource, hq], hb⟩
/-- A pinned BF16 descriptor whose source is read by RESL: the view at 0x30000, and its elements from 0x30400 on, one a row. -/
def bf16 : State :=
  (((putAll 2 0x30000 (run (.resa 5 4) (putAll 4 8 bare))).pokeN 0x2000 8 0x04000000000000DF).pokeN 0x30000 4 0x30400).pokeN 0x30010 4 1
def viewRg : List Rg := [{ grp := 0, share := false, va := 0x30000, len := 32, wr := false }]
def bfRead : State := (checkReads bf16 bf16.co viewRg).1
def bfWalk : Walked := ((walkRoot bfRead (bfRead.ctx 0).root 0x30000).toOption).getD { leaf := page id, at_ := 0, pte := 0 }
def bfView : FView := { ebase := 0x30400, sbase := 0, rowlen := 1, spitch := 0, rsv := 0 }
theorem warm : Warm bfRead bf16.co 0x30000 bfWalk where
  walks := by decide +kernel
  young := by decide +kernel
  walk := by decide +kernel
  ok := by decide +kernel
  same := by decide +kernel
  held := by decide +kernel
  full := by decide +kernel
  ram := by decide +kernel
  calm := by decide +kernel
theorem bf_view : ∃ ps, checkReads bf16 bf16.co viewRg = (bfRead, .ok ps) ∧ bfRead.heldBy (piecePas ps.flatten) false = none ∧
    bfRead.piecePoison bf16.co.core ps.flatten = none ∧ bfRead.orderedReads bf16.co ps.flatten = bfRead ∧ bfRead.viewOf ps.flatten = bfView := by
  obtain ⟨t, ps, h, p⟩ := meets (r := checkReads bf16 bf16.co viewRg) (P := fun t ps => t.heldBy (piecePas ps.flatten) false = none ∧
    t.piecePoison bf16.co.core ps.flatten = none ∧ t.orderedReads bf16.co ps.flatten = t ∧ t.viewOf ps.flatten = bfView) (by decide +kernel)
  have ht : bfRead = t := by simp only [bfRead, h]
  rw [ht]
  exact ⟨ps, h, p⟩
theorem bf_pages : bfWalk.leaf.efmt = 2 ∧ bfWalk.leaf.bgeo = 0 := by decide +kernel
theorem witness_ArrayCommandsQueued :
    (bf16.co.follows = false ∧ (bf16.co.ugetPair 2).toNat = 0x30000 ∧
      (bf16.named bf16.co.lead bf16.co.ctx ((bf16.co.uget 5).toNat % 65536)).any (fun x => x.1 == 0 && x.2.fmt == 8 && !x.2.pair) = true ∧
      bf16.claimed 0 0 = false ∧ bf16.holdup [] = none ∧ (bf16.core 0).mq.length < 4) ∧
    (∃ ps, checkReads bf16 bf16.co viewRg = (bfRead, .ok ps) ∧ bfRead.heldBy (piecePas ps.flatten) false = none ∧
      bfRead.piecePoison bf16.co.core ps.flatten = none ∧ bfRead.orderedReads bf16.co ps.flatten = bfRead ∧
      bfRead.viewOf ps.flatten = bfView ∧
      ∀ r : Residency, r.fmt = 8 → r.pair = false → ∃ q, bfRead.readSource bf16.co 0 r bfView 0 0 = (bfRead, .ok q) ∧ q.bl = blOf 0) ∧
    (let s := tiled Residency.init; let c := s.co
     mfmt 8 = some .b16 ∧ bitsOf 0x18 4 2 ≠ 0 ∧ c.outside 0 (1 * (32 * 16 + 16)) = false ∧ countsBad 0 0 128 [128] = false ∧
     (MmaTab.given [1]).outside c 4 = false ∧ s.heldBy [] false = none ∧ s.poisonOf [] = none ∧ (s.core 0).mq = [] ∧
     (s.checkGroups c .b16 16 none [(16, 1)]).toOption.any (fun l => l.all (fun x => x.2.state == .valid && !x.2.policy)) = true ∧
     (State.readSources c [(0, { Residency.init with state := .valid })] s).2.toOption.isSome = true) := by
  refine ⟨by decide +kernel, ?_, by decide +kernel⟩
  obtain ⟨ps, h, a, b, o, e⟩ := bf_view
  refine ⟨ps, h, a, b, o, e, fun r hf hp => ?_⟩
  exact warm.source (by decide) bfView r 0 hf hp rfl (by decide) (by decide) rfl bf_pages.1 bf_pages.2

end Sys2Proof.Tests
end

/-!
Every instruction goes on (O56): each meaning answers with a next state on each of its branches. The operations that several instructions
share come first, one lemma for each; then the meanings that branch before they come to one of these; then the dispatch, and the step.
-/

namespace Sys2Proof.Machine

/-- An outcome that is a next state. -/
def GoesOn (o : Out) : Prop := ∃ t, o = .next t

theorem goesOn_next (t : State) : GoesOn (.next t) := ⟨t, rfl⟩

/-! ## Operations that several instructions share -/

section Shared

variable (s t : State)

theorem State.sfu_goesOn (u : Bool) (d a : Reg) (f : Bool) (g : Nat → Nat) : GoesOn (s.sfu u d a f g) := by
  unfold State.sfu
  dsimp only
  split <;> exact goesOn_next _

theorem State.branch_goesOn (u : Bool) (m : Reg) (k : BrCond) (o : BitVec 15) : GoesOn (s.branch u m k o) := by
  unfold State.branch
  dsimp only
  repeat' split
  all_goals exact goesOn_next _

theorem State.callTo_goesOn (k target : Nat) : GoesOn (s.callTo k target) := by
  unfold State.callTo
  repeat' split
  all_goals exact goesOn_next _

theorem State.loadOp_goesOn (p : Path) (share f : Bool) (d : Reg) (size : MSize) (sx : Bool) (words : Nat) (lanes : List (Nat × Nat))
    (takes : Nat → List Nat) : GoesOn (s.loadOp p share f d size sx words lanes takes) := by
  unfold State.loadOp
  dsimp only
  split <;> exact goesOn_next _

theorem State.storeM_goesOn (share f wide : Bool) (d b x : Reg) (size : MSize) (off : Option Word) :
    GoesOn (s.storeM share f wide d b x size off) := by
  unfold State.storeM
  dsimp only
  split <;> exact goesOn_next _

theorem State.atomOp_goesOn (f : Bool) (d : Option Reg) (n : Nat) (o : MOrd) (sc : Scope) (words : Nat) (lanes : List (Nat × Nat))
    (g : Nat → Nat → Nat) : GoesOn (s.atomOp f d n o sc words lanes g) := by
  unfold State.atomOp
  dsimp only
  split <;> exact goesOn_next _

/-- A wait that reads its word goes on where what it does with the word does. -/
theorem State.waitRead_goesOn (a n : Nat) {k : Resolved → DWord → State → Out} (hk : ∀ r w t, GoesOn (k r w t)) :
    GoesOn (s.waitRead a n k) := by
  unfold State.waitRead
  dsimp only
  repeat' split
  any_goals exact hk ..
  all_goals exact goesOn_next _

theorem State.accept_goesOn (kind : EngKind) (f : Bool) (ks : List Claim) (keys : List Nat) (words : Nat) (mk : EngCmd → EngCmd) :
    GoesOn (s.accept t kind f ks keys words mk) := by
  unfold State.accept
  dsimp only
  repeat' split
  all_goals exact goesOn_next _

theorem State.copyGo_goesOn (f : Bool) (rs : List Rg) (words : Nat) (src dst : List Piece) (writes : State → List (Nat × Byte)) :
    GoesOn (s.copyGo t f rs words src dst writes) := by
  unfold State.copyGo
  split
  · exact goesOn_next _
  · exact State.accept_goesOn ..

theorem State.cpy2dRaw_goesOn (f : Bool) (dst src rows rowlen spitch dpitch : Nat) (bad05 : Bool) :
    GoesOn (s.cpy2dRaw f dst src rows rowlen spitch dpitch bad05) := by
  unfold State.cpy2dRaw
  dsimp only
  repeat' split
  any_goals exact State.copyGo_goesOn ..
  all_goals exact goesOn_next _

theorem State.cpy2dDecode_goesOn (f : Bool) (dst va rows rowlen spitch dpitch : Nat) (bad05 : Bool) :
    GoesOn (s.cpy2dDecode f dst va rows rowlen spitch dpitch bad05) := by
  unfold State.cpy2dDecode
  dsimp only
  repeat' split
  any_goals exact State.copyGo_goesOn ..
  all_goals exact goesOn_next _

theorem State.acceptMtx_goesOn (f pair hold : Bool) (ks : List Claim) (kind : MtxKind) (pages : List Nat) (srcs : List MtxSrc)
    (poison : Option (Nat × Nat)) : GoesOn (s.acceptMtx t f pair hold ks kind pages srcs poison) := by
  unfold State.acceptMtx
  dsimp only
  repeat' split
  all_goals exact goesOn_next _

theorem State.mma_goesOn (f : Bool) (rowword A : Nat) (h1 : Half) (G mp asoff : Nat) (bad05 : Bool) (counts handles : MmaTab)
    (mis : List (Nat × AccessKind)) : GoesOn (s.mma f rowword A h1 G mp asoff bad05 counts handles mis) := by
  unfold State.mma
  dsimp only
  repeat' split
  any_goals exact State.acceptMtx_goesOn ..
  all_goals exact goesOn_next _

theorem State.accOp_goesOn (f : Bool) (a : Reg) (b : Option Reg) (dir : Nat) : GoesOn (s.accOp f a b dir) := by
  unfold State.accOp
  dsimp only
  repeat' split
  any_goals exact State.accept_goesOn ..
  all_goals exact goesOn_next _

/-- A barrier instruction goes on where what it does with its barrier does. -/
theorem State.barHere_goesOn (cl : Bool) (b : Nat) {k : Team → Barrier → Out} (hk : ∀ t x, GoesOn (k t x)) :
    GoesOn (s.barHere cl b k) := by
  unfold State.barHere
  repeat' split
  any_goals exact hk ..
  all_goals exact goesOn_next _

theorem State.acceptFab_goesOn (f : Bool) (ks : List Claim) (ps : List Piece) (mk : State → FabCmd → FabCmd) :
    GoesOn (s.acceptFab t f ks ps mk) := by
  unfold State.acceptFab
  dsimp only
  repeat' split
  all_goals exact goesOn_next _

theorem State.putGet_goesOn (f : Bool) (d a b : Reg) (p : PBlock) (get : Bool) : GoesOn (s.putGet f d a b p get) := by
  unfold State.putGet
  dsimp only
  repeat' split
  any_goals exact State.acceptFab_goesOn ..
  all_goals exact goesOn_next _

theorem State.ctrHere_goesOn (b : Reg) {k : Nat → Out} (hk : ∀ n, GoesOn (k n)) : GoesOn (s.ctrHere b k) := by
  unfold State.ctrHere
  dsimp only
  split
  · exact goesOn_next _
  · exact hk _

theorem State.ctrWrite_goesOn (f : Bool) (a b : Reg) (add : Bool) : GoesOn (s.ctrWrite f a b add) :=
  s.ctrHere_goesOn b fun _ => goesOn_next _

theorem State.acceptReq_goesOn (f : Bool) (d : Reg) (ks : List Claim) (ps : List Piece) (mk : State → FmpReq → FmpReq) :
    GoesOn (s.acceptReq t f d ks ps mk) := by
  unfold State.acceptReq
  dsimp only
  repeat' split
  all_goals exact goesOn_next _

theorem State.controlWord_goesOn (b : Reg) {k : Nat → Out} (hk : ∀ w, GoesOn (k w)) : GoesOn (s.controlWord b k) := by
  unfold State.controlWord
  dsimp only
  split
  · exact goesOn_next _
  · exact hk _

/-- A request of the Flash Management Processor goes on where what is done with it does. -/
theorem State.reqOf_goesOn (id op : Nat) {k : FmpReq → Out} (hk : ∀ r, GoesOn (k r)) : GoesOn (s.reqOf id op k) := by
  unfold State.reqOf
  split
  · exact goesOn_next _
  · exact hk _

theorem State.refuseReq_goesOn (r : FmpReq) : GoesOn (s.refuseReq r) := goesOn_next _

theorem State.answerReq_goesOn (r : FmpReq) (code : Nat) (rep : Bool) (res : List Nat) : GoesOn (s.answerReq r code rep res) :=
  goesOn_next _

theorem State.tkcOp_goesOn (id op : Nat) (k : State → TkcReq → State × TkcDone) : GoesOn (s.tkcOp id op k) := by
  unfold State.tkcOp
  dsimp only
  repeat' split
  all_goals exact goesOn_next _

theorem execColdBoot_goesOn : GoesOn (execColdBoot s) := by
  unfold execColdBoot
  split <;> exact goesOn_next _

theorem State.powerCommand_goesOn (n : Nat) : GoesOn (s.powerCommand n) := by
  unfold State.powerCommand
  split
  · exact execColdBoot_goesOn s
  · repeat' split
    all_goals exact goesOn_next _

end Shared

/-! ## Control registers and ports -/

section Ports

variable (s : State)

theorem State.ctxCommand_goesOn (c cmd : Nat) : GoesOn (s.ctxCommand c cmd) := by
  unfold State.ctxCommand execPreempt execStop execResume execTerminate execRelease execContinueC
  dsimp only
  repeat' split
  all_goals exact goesOn_next _

theorem State.pwrCommand_goesOn (n : Nat) : GoesOn (s.pwrCommand n) := by
  unfold State.pwrCommand
  split
  any_goals exact State.powerCommand_goesOn ..
  all_goals exact goesOn_next _

theorem execFmpMboxSubmit_goesOn (pa : Nat) : GoesOn (execFmpMboxSubmit pa s) := by
  unfold execFmpMboxSubmit
  dsimp only
  repeat' split
  all_goals exact goesOn_next _

theorem execTkcMboxSubmit_goesOn (pa : Nat) : GoesOn (execTkcMboxSubmit pa s) := by
  unfold execTkcMboxSubmit
  dsimp only
  repeat' split
  all_goals exact goesOn_next _

theorem State.writeCtx_goesOn (c o v : Nat) : GoesOn (s.writeCtx c o v) := by
  unfold State.writeCtx
  dsimp only
  split
  any_goals exact State.ctxCommand_goesOn ..
  all_goals exact goesOn_next _

theorem State.writeDie_goesOn (d o v : Nat) : GoesOn (s.writeDie d o v) := by
  unfold State.writeDie
  dsimp only
  repeat' split
  all_goals exact goesOn_next _

theorem State.writeFab_goesOn (d c o v : Nat) : GoesOn (s.writeFab d c o v) := by
  unfold State.writeFab
  dsimp only
  split <;> exact goesOn_next _

theorem State.writePower_goesOn (o v : Nat) : GoesOn (s.writePower o v) := by
  unfold State.writePower
  dsimp only
  split
  any_goals exact State.pwrCommand_goesOn ..
  all_goals exact goesOn_next _

/-- A register write, block by block of the control range (R395). -/
theorem State.writeReg_goesOn (pa v : Nat) : GoesOn (s.writeReg pa v) := by
  obtain ⟨k, hk⟩ : ∃ k, blockOf pa = k := ⟨_, rfl⟩
  obtain ⟨o, ho⟩ : ∃ o, blockOffset pa = o := ⟨_, rfl⟩
  rw [State.writeReg, hk, ho]
  dsimp only
  repeat' split
  any_goals exact goesOn_next _
  · exact State.writeDie_goesOn ..
  · exact State.writeCtx_goesOn ..
  · exact execFmpMboxSubmit_goesOn ..
  · exact execTkcMboxSubmit_goesOn ..
  · exact State.writePower_goesOn ..
  · exact State.writeFab_goesOn ..

theorem State.writeRegN_goesOn (pa n v : Nat) : GoesOn (s.writeRegN pa n v) := by
  unfold State.writeRegN
  split
  · exact goesOn_next _
  · exact State.writeReg_goesOn ..

theorem execRegisterWrite_goesOn (pa : Nat) (v : DWord) : GoesOn (execRegisterWrite pa v s) := by
  unfold execRegisterWrite
  split
  · exact State.writeReg_goesOn ..
  · exact goesOn_next _

theorem execSbmpMessage_goesOn (m : SbmpMsg) : GoesOn (execSbmpMessage m s) := by
  unfold execSbmpMessage
  dsimp only
  repeat' split
  any_goals exact goesOn_next _
  · exact State.ctxCommand_goesOn ..
  · exact State.pwrCommand_goesOn ..
  · exact execRegisterWrite_goesOn ..

/-- An access of a hart goes on where what comes of it does. -/
theorem State.hartAccess_goesOn (again : Instr) (n pa len : Nat) (wr reads : Bool) {k : State → Out} (hk : ∀ t, GoesOn (k t)) :
    GoesOn (s.hartAccess again n pa len wr reads k) := by
  unfold State.hartAccess
  split
  · exact goesOn_next _
  · split
    · exact goesOn_next _
    · exact hk _

theorem execHartMemoryOperation_goesOn (n : Nat) (op : HartOp) : GoesOn (execHartMemoryOperation n op s) := by
  unfold execHartMemoryOperation
  dsimp only
  repeat' split
  any_goals exact State.writeRegN_goesOn ..
  any_goals exact State.hartAccess_goesOn _ _ _ _ _ _ _ fun _ => goesOn_next _
  all_goals exact goesOn_next _

end Ports

/-! ## The dispatch -/

/-- Commands of the engines, the fabric and the logs: each waits, faults, or is accepted. -/
theorem command_goesOn {i : Instr} (hi : isCommand i = true) (s : State) : GoesOn (exec i s) := by
  cases i
  case cpy | cpyg =>
    unfold exec
    simp only [execCpy, execCpyg]
    repeat' split
    any_goals exact State.copyGo_goesOn ..
    all_goals exact goesOn_next _
  case cpy2d =>
    unfold exec
    simp only [execCpy2d]
    split
    · exact State.cpy2dDecode_goesOn ..
    · exact State.cpy2dRaw_goesOn ..
  case cpyo | plnx | scld =>
    unfold exec
    simp only [execCpyo, execPlnx, execScld]
    repeat' split
    any_goals exact State.accept_goesOn ..
    all_goals exact goesOn_next _
  case accz | accrd | accwr =>
    unfold exec
    exact State.accOp_goesOn ..
  case resl =>
    unfold exec
    simp only [execResl]
    repeat' split
    any_goals exact State.acceptMtx_goesOn ..
    all_goals exact goesOn_next _
  case mma | mma1 =>
    unfold exec
    simp only [execMma, execMma1]
    exact State.mma_goesOn ..
  case route =>
    unfold exec
    simp only [execRoute]
    repeat' split
    all_goals exact goesOn_next _
  case nput | nget => exact State.putGet_goesOn ..
  case ncoll | na2a | nred =>
    unfold exec
    simp only [execNcoll, execNa2a, execNred]
    repeat' split
    any_goals exact State.acceptFab_goesOn ..
    all_goals exact goesOn_next _
  case app | fmpreq =>
    unfold exec
    simp only [execApp, execFmpreq]
    repeat' split
    any_goals exact State.acceptReq_goesOn ..
    all_goals exact goesOn_next _
  case appsync | appseal => exact State.controlWord_goesOn _ _ fun _ => State.acceptReq_goesOn ..
  all_goals cases hi

/-- Every instruction goes on. Those with a shared operation go on as it does; the other meanings that branch answer each branch with a next
state; the rest are next states as they stand. -/
theorem exec_goesOn (i : Instr) (s : State) : GoesOn (exec i s) := by
  cases i
  case cpy | cpy2d | cpyg | cpyo | plnx | route | resl | mma | mma1 | accz | accrd | accwr | scld | nput | nget | ncoll | na2a | nred |
      app | appsync | appseal | fmpreq => exact command_goesOn rfl s
  -- special functions and control
  case fxp2 | flog2 | frcp | frsq | fsqrt | fsinpi | fcospi | ftanh =>
    unfold exec
    simp only [execFxp2, execFlog2, execFrcp, execFrsq, execFsqrt, execFsinpi, execFcospi, execFtanh]
    exact State.sfu_goesOn ..
  case bra | brc =>
    unfold exec
    simp only [execBra, execBrc]
    exact State.branch_goesOn ..
  case call | callx =>
    unfold exec
    simp only [execCall, execCallx]
    repeat' split
    any_goals exact State.callTo_goesOn ..
    all_goals exact goesOn_next _
  case qnt | brd | join | brx | ret | eret | trapEntry | bkpt =>
    unfold exec
    simp only [execQnt, execBrd, execJoin, execBrx, execRet, execEret, execTrapEntry, execBkpt]
    repeat' split
    all_goals exact goesOn_next _
  -- memory of the lanes
  case ld | ldRo | ldC | ldNt | ldU | lds =>
    unfold exec
    simp only [execLd, execLdRo, execLdC, execLdNt, execLdU, execLds, State.loadM]
    exact State.loadOp_goesOn ..
  case st | stNt | sts =>
    unfold exec
    simp only [execSt, execStNt, execSts]
    exact State.storeM_goesOn ..
  case aadd | amin | amax | aand | aor | axor | axch | acas | afadd | evsig =>
    unfold exec
    simp only [execAadd, execAmin, execAmax, execAand, execAor, execAxor, execAxch, execAcas, execAfadd, execEvsig, State.atom]
    exact State.atomOp_goesOn ..
  case ldf | stf | pref | wakea | sysc | storeComplete =>
    unfold exec
    simp only [execLdf, execStf, execPref, execWakea, execSysc, execStoreComplete]
    repeat' split
    all_goals exact goesOn_next _
  -- waits and barriers
  case waita | evwait =>
    unfold exec
    simp only [execWaita, execEvwait]
    refine State.waitRead_goesOn _ _ _ fun r w t => ?_
    repeat' split
    all_goals exact goesOn_next _
  case bararr | barwait | barsync =>
    unfold exec
    simp only [execBararr, execBarwait, execBarsync]
    refine State.barHere_goesOn _ _ _ fun t x => ?_
    repeat' split
    all_goals exact goesOn_next _
  case barinit | barrierTimeout | siblingStop | teamHalt | selectClause =>
    unfold exec
    simp only [execBarinit, execBarrierTimeout, execSiblingStop, execTeamHalt, execSelectClause]
    repeat' split
    all_goals exact goesOn_next _
  -- residencies and the engines
  case resa | respin | respinUnpin | resrel | resq | matrixCommandStart | matrixCommandRetire | routeRetire =>
    unfold exec
    simp only [execResa, execRespin, execRespinUnpin, execResrel, execResq, execMatrixCommandStart, execMatrixCommandRetire,
      execRouteRetire]
    repeat' split
    all_goals exact goesOn_next _
  -- launches, generations and the harts' custom instructions
  case launch | galloc | gfree | glaunch | gevsig | gevwait | gctx | gevwaitWake | dependenceTest | teamPlace | launchComplete =>
    unfold exec
    simp only [execLaunch, execGalloc, execGfree, execGlaunch, execGevsig, execGevwait, execGctx, execGevwaitWake, execDependenceTest,
      execTeamPlace, execLaunchComplete]
    repeat' split
    all_goals exact goesOn_next _
  -- the fabric
  case ctrset | ctradd | ctrrd =>
    unfold exec
    simp only [execCtrset, execCtradd, execCtrrd, State.ctrWrite]
    exact State.ctrHere_goesOn _ _ fun _ => goesOn_next _
  case trigarm | fabricCommandComplete | fabricPacketReceive | peerLost | retransmission =>
    unfold exec
    simp only [execTrigarm, execFabricCommandComplete, execFabricPacketReceive, execPeerLost, execRetransmission]
    repeat' split
    all_goals exact goesOn_next _
  -- the logs
  case appComplete | logquery | logtrim | fmpResult | logcreate | logmap | logunmap | logdelete | appendS | syncS | sealS =>
    unfold exec
    simp only [execAppComplete, execLogquery, execLogtrim, execFmpResult, execLogcreate, execLogmap, execLogunmap,
      execLogdelete, execAppendS, execSyncS, execSealS]
    refine State.reqOf_goesOn _ _ _ fun r => ?_
    repeat' split
    all_goals exact goesOn_next _
  case fmpMboxSubmit => exact execFmpMboxSubmit_goesOn ..
  case flashRelocation | relocationCopyEnd | granuleClear =>
    unfold exec
    simp only [execFlashRelocation, execRelocationCopyEnd, execGranuleClear]
    repeat' split
    all_goals exact goesOn_next _
  -- contexts and their translations
  case preempt | stop | resume | terminate | release | preemptDrained | stopDrainEnd | contextTermination | preemptDeadline |
      pageWalkComplete | shootdownComplete =>
    unfold exec
    simp only [execPreempt, execStop, execResume, execTerminate, execRelease, execPreemptDrained, execStopDrainEnd, execContextTermination,
      execPreemptDeadline, execPageWalkComplete, execShootdownComplete]
    repeat' split
    all_goals exact goesOn_next _
  -- memory tiers, keys and power
  case hbmRebuildEnd | uncorrectableError | hartPoisonTrap | channelRetirement | shadowSwitch | patrolScrub =>
    unfold exec
    simp only [execHbmRebuildEnd, execUncorrectableError, execHartPoisonTrap, execChannelRetirement, execShadowSwitch, execPatrolScrub]
    repeat' split
    all_goals exact goesOn_next _
  case keygen | region | fabbind | revoke | tkcResult | attest =>
    unfold exec
    simp only [execKeygen, execRegion, execFabbind, execRevoke, execTkcResult, execAttest]
    exact State.tkcOp_goesOn ..
  case tkcMboxSubmit => exact execTkcMboxSubmit_goesOn ..
  case ps0 | ps1 | ps2 | ps3 =>
    unfold exec
    simp only [execPs0, execPs1, execPs2, execPs3]
    exact State.powerCommand_goesOn ..
  case coldBoot => exact execColdBoot_goesOn s
  case powerTransitionEnd | pcieWake | thermalTrip =>
    unfold exec
    simp only [execPowerTransitionEnd, execPcieWake, execThermalTrip]
    repeat' split
    all_goals exact goesOn_next _
  -- registers and ports
  case registerWrite => exact execRegisterWrite_goesOn ..
  case sbmpMessage => exact execSbmpMessage_goesOn ..
  case hartMemoryOperation => exact execHartMemoryOperation_goesOn ..
  case pcieInboundRequest =>
    unfold exec
    simp only [execPcieInboundRequest]
    repeat' split
    all_goals exact goesOn_next _
  all_goals exact ⟨_, rfl⟩

/-! ## The step -/

section Step

variable {ex : Instr → State → Out} (hex : ∀ i s, GoesOn (ex i s))
include hex

/-- The words of a chain group go on where each instruction does. -/
theorem issueWords_goesOn (start : State) (n : Nat) (s : State) : GoesOn (issueWords ex start n s) := by
  induction n generalizing s with
  | zero => exact goesOn_next s
  | succ n ih =>
    unfold issueWords
    split
    · exact goesOn_next _
    · exact goesOn_next _
    · next i _ =>
      obtain ⟨t, ht⟩ := hex i s
      simp only [ht]
      repeat' split
      any_goals exact ih t
      all_goals exact goesOn_next _

theorem issueAlone_goesOn (s : State) : GoesOn (issueAlone ex s) := by
  unfold issueAlone
  repeat' split
  any_goals exact hex _ _
  any_goals exact issueWords_goesOn hex _ _ _
  all_goals exact goesOn_next _

/-- A chain group goes on: a mate stalls it, or it issues, and then the slot is settled. -/
theorem issueGroup_goesOn (s : State) : GoesOn (issueGroup ex s) := by
  obtain ⟨t, ht⟩ := issueAlone_goesOn hex s
  unfold issueGroup
  cases hp : packStall ex s <;> simp only [ht] <;> exact goesOn_next _

theorem issueOn_goesOn (n : Nat) (s : State) : GoesOn (issueOn ex n s) := by
  unfold issueOn
  split
  · exact issueGroup_goesOn hex _
  · exact hex _ _

theorem comeOn_goesOn (s t : State) : GoesOn (s.comeOn ex t) := by
  unfold State.comeOn
  split
  · exact hex _ _
  · exact goesOn_next _

/-- A step goes on, or stops at a hart's word. -/
theorem stepWith_outcome (s : State) : GoesOn (stepWith ex s) ∨ ∃ h, stepWith ex s = .fault (.hartWord h) := by
  unfold stepWith
  generalize s.beat = b
  dsimp only
  split
  · -- the agenda
    split
    · exact .inl (hex _ _)
    · exact .inl (goesOn_next _)
  · split
    · -- a hart's turn
      split
      · exact .inl (goesOn_next _)
      · split
        · exact .inl (goesOn_next _)
        · split
          · split
            · exact .inl (goesOn_next _)
            · exact .inr ⟨_, rfl⟩
          · next i _ =>
            obtain ⟨t, ht⟩ := hex i b
            simp only [ht]
            exact .inl (goesOn_next _)
    · -- a core's slot, or what comes on by itself
      left
      repeat' split
      any_goals exact issueOn_goesOn hex _ _
      any_goals exact comeOn_goesOn hex _ _
      any_goals exact hex _ _
      all_goals exact goesOn_next _

end Step

/-- Settles O56: the dispatch goes on at every instruction, and the step stops at a hart's word alone. -/
theorem everyInstructionGoesOn : Obligations.EveryInstructionGoesOn :=
  ⟨exec_goesOn, fun s => stepWith_outcome exec_goesOn s⟩

end Sys2Proof.Machine

/-!
Control registers and ports (O51). A register is named by its block of the control range and its offset there (R395): a write of it is a
write of the block's part of the state, and the fields of a register are the bits of a mask.
-/

namespace Sys2Proof.Machine

open Sys2Proof.Claims

/-! ## Fields and masks -/

theorem mod_two_pow_eq_and (v n : Nat) : v % 2 ^ n = v &&& (2 ^ n - 1) := (Nat.and_two_pow_sub_one_eq_mod v n).symm

/-- The bits [hi:lo] in place are those of the mask that has them. -/
theorem field_eq_and (v : Nat) {lo hi : Nat} (h : lo ≤ hi) : field v lo hi = v &&& (2 ^ (hi + 1) - 2 ^ lo) := by
  have hm : 2 ^ (hi + 1) - 2 ^ lo = (2 ^ (hi + 1 - lo) - 1) * 2 ^ lo := by
    rw [Nat.sub_mul, one_mul, ← pow_add, Nat.sub_add_cancel (by omega)]
  refine Nat.eq_of_testBit_eq fun i => ?_
  rw [hm, field, bitsOf, Nat.testBit_and, Nat.testBit_mul_two_pow, Nat.testBit_mul_two_pow, Nat.testBit_mod_two_pow,
    Nat.testBit_shiftRight, Nat.testBit_two_pow_sub_one]
  by_cases hi : lo ≤ i
  · simp [hi, Bool.and_comm]
  · simp [hi]

theorem bit_bitAt_zero (v : Nat) : bit (bitAt v 0) 0 = v &&& 1 := by
  rw [Nat.and_one_is_mod, bit, bitAt, pow_zero, Nat.div_one]
  have := Nat.mod_two_eq_zero_or_one v
  rcases this with h | h <;> simp [h]

theorem and_two_pow_64 (v : DWord) : v.toNat = v.toNat &&& (2 ^ 64 - 1) := by
  rw [← mod_two_pow_eq_and, Nat.mod_eq_of_lt v.isLt]

/-! ## Where a register lies -/

/-- pa is the doubleword at offset o of block k of the control range (R395). -/
structure AtBlock (pa k o : Nat) : Prop where
  addr : pa = 0x3F0000000000 + k * 2 ^ 32 + o
  off : o < 2 ^ 32
  block : k < 256
  aligned : o % 8 = 0

namespace AtBlock

variable {s t : State} {pa k o : Nat} (h : AtBlock pa k o)
include h

theorem blockOf_eq : blockOf pa = k := by
  obtain ⟨ha, ho, -, -⟩ := h
  unfold blockOf
  omega

theorem blockOffset_eq : blockOffset pa = o := by
  obtain ⟨ha, ho, -, -⟩ := h
  unfold blockOffset
  omega

theorem areaOf_eq : areaOf pa = .control := by
  obtain ⟨ha, ho, hk, -⟩ := h
  unfold areaOf
  rw [if_neg (by omega), if_neg (by omega), if_neg (by omega), if_neg (by omega), if_pos (by omega)]

/-- The supervisor's write of a register is the register's write (R7, R395). -/
theorem exec_registerWrite (v : DWord) : exec (.registerWrite pa v) s = s.writeReg pa v.toNat := by
  obtain ⟨ha, -, -, ho⟩ := id h
  show execRegisterWrite pa v s = _
  rw [execRegisterWrite, h.areaOf_eq, if_pos (by simp only [decide_true, Bool.true_and, decide_eq_true_eq]; omega)]

/-- What a write of a register does is what the write of its block does. -/
theorem reaches {v : DWord} {p : State → Prop} (hw : s.writeReg pa v.toNat = .next t) (hp : p t) : Reaches s (.registerWrite pa v) p :=
  ⟨t, h.exec_registerWrite v ▸ hw, hp⟩

end AtBlock

/-- A doubleword written to a register reads back as the fields that the register has, and memory is as it was. -/
def Holds (s : State) (pa : Nat) (v : DWord) (mask : Nat) : Prop :=
  Reaches s (.registerWrite pa v) (fun q => q.readReg pa = v.toNat &&& mask ∧ q.mem = s.mem)

/-! ## The blocks of contexts, dies, fabric and harts -/

section Blocks

variable {s t : State} {c d h o mask : Nat} {v : DWord}

theorem atBlock_ctx (hc : c < 64) (ho : o < 0x100) (h8 : o % 8 = 0) : AtBlock (0x3F0300000000 + 0x100 * c + o) 3 (0x100 * c + o) :=
  ⟨by omega, by omega, by omega, by omega⟩

theorem readReg_ctx (hc : c < 64) (ho : o < 0x100) (h8 : o % 8 = 0) : s.readReg (0x3F0300000000 + 0x100 * c + o) = s.readCtx c o := by
  have ha := atBlock_ctx hc ho h8
  simp only [State.readReg, ha.blockOf_eq, ha.blockOffset_eq]
  rw [if_pos (by omega), show (0x100 * c + o) / 0x100 = c by omega, show (0x100 * c + o) % 0x100 = o by omega]

theorem writeReg_ctx (hc : c < 64) (ho : o < 0x100) (h8 : o % 8 = 0) (n : Nat) :
    s.writeReg (0x3F0300000000 + 0x100 * c + o) n = s.writeCtx c o n := by
  have ha := atBlock_ctx hc ho h8
  simp only [State.writeReg, ha.blockOf_eq, ha.blockOffset_eq]
  rw [if_pos (by omega), show (0x100 * c + o) / 0x100 = c by omega, show (0x100 * c + o) % 0x100 = o by omega]

/-- A context's register holds what its write leaves in the context's block. -/
theorem holds_ctx (hc : c < 64) (ho : o < 0x100) (h8 : o % 8 = 0) (hw : s.writeCtx c o v.toNat = .next t)
    (hr : t.readCtx c o = v.toNat &&& mask) (hm : t.mem = s.mem) : Holds s (0x3F0300000000 + 0x100 * c + o) v mask :=
  (atBlock_ctx hc ho h8).reaches ((writeReg_ctx hc ho h8 _).trans hw) ⟨(readReg_ctx hc ho h8).trans hr, hm⟩

theorem atBlock_die (hd : d < 4) (ho : o < 0x1000) (h8 : o % 8 = 0) : AtBlock (0x3F0200000000 + 0x100000 * d + o) 2 (0x100000 * d + o) :=
  ⟨by omega, by omega, by omega, by omega⟩

theorem readReg_die (hd : d < 4) (ho : o < 0x1000) (h8 : o % 8 = 0) : s.readReg (0x3F0200000000 + 0x100000 * d + o) = s.readDie d o := by
  have ha := atBlock_die hd ho h8
  simp only [State.readReg, ha.blockOf_eq, ha.blockOffset_eq]
  rw [if_pos (by omega), show (0x100000 * d + o) / 0x100000 = d by omega, show (0x100000 * d + o) % 0x100000 = o by omega]

theorem writeReg_die (hd : d < 4) (ho : o < 0x1000) (h8 : o % 8 = 0) (n : Nat) :
    s.writeReg (0x3F0200000000 + 0x100000 * d + o) n = s.writeDie d o n := by
  have ha := atBlock_die hd ho h8
  simp only [State.writeReg, ha.blockOf_eq, ha.blockOffset_eq]
  rw [if_pos (by omega), show (0x100000 * d + o) / 0x100000 = d by omega, show (0x100000 * d + o) % 0x100000 = o by omega]

/-- A register of a die's shootdown controls holds what its write leaves in the die's block. -/
theorem holds_die (hd : d < 4) (ho : o < 0x1000) (h8 : o % 8 = 0) (hw : s.writeDie d o v.toNat = .next t)
    (hr : t.readDie d o = v.toNat &&& mask) (hm : t.mem = s.mem) : Holds s (0x3F0200000000 + 0x100000 * d + o) v mask :=
  (atBlock_die hd ho h8).reaches ((writeReg_die hd ho h8 _).trans hw) ⟨(readReg_die hd ho h8).trans hr, hm⟩

theorem atBlock_fab (hd : d < 4) (hc : c < 64) (ho : o < 0x100) (h8 : o % 8 = 0) :
    AtBlock (0x3F0A00000000 + 0x100000 * d + 0x100 * c + o) 10 (0x100000 * d + 0x100 * c + o) :=
  ⟨by omega, by omega, by omega, by omega⟩

theorem readReg_fab (hd : d < 4) (hc : c < 64) (ho : o < 0x100) (h8 : o % 8 = 0) :
    s.readReg (0x3F0A00000000 + 0x100000 * d + 0x100 * c + o) = s.readFab d c o := by
  have ha := atBlock_fab hd hc ho h8
  simp only [State.readReg, ha.blockOf_eq, ha.blockOffset_eq]
  rw [if_pos (by omega), show (0x100000 * d + 0x100 * c + o) / 0x100000 = d by omega,
    show (0x100000 * d + 0x100 * c + o) % 0x100000 / 0x100 = c by omega, show (0x100000 * d + 0x100 * c + o) % 0x100 = o by omega]

theorem writeReg_fab (hd : d < 4) (hc : c < 64) (ho : o < 0x100) (h8 : o % 8 = 0) (n : Nat) :
    s.writeReg (0x3F0A00000000 + 0x100000 * d + 0x100 * c + o) n = s.writeFab d c o n := by
  have ha := atBlock_fab hd hc ho h8
  simp only [State.writeReg, ha.blockOf_eq, ha.blockOffset_eq]
  rw [if_pos (by omega), show (0x100000 * d + 0x100 * c + o) / 0x100000 = d by omega,
    show (0x100000 * d + 0x100 * c + o) % 0x100000 / 0x100 = c by omega, show (0x100000 * d + 0x100 * c + o) % 0x100 = o by omega]

/-- A context's fabric register holds what its write leaves in the fabric block. -/
theorem holds_fab (hd : d < 4) (hc : c < 64) (ho : o < 0x100) (h8 : o % 8 = 0) (hw : s.writeFab d c o v.toNat = .next t)
    (hr : t.readFab d c o = v.toNat &&& mask) (hm : t.mem = s.mem) : Holds s (0x3F0A00000000 + 0x100000 * d + 0x100 * c + o) v mask :=
  (atBlock_fab hd hc ho h8).reaches ((writeReg_fab hd hc ho h8 _).trans hw) ⟨(readReg_fab hd hc ho h8).trans hr, hm⟩

/-- A register whose block is not divided holds what its write leaves in the block. -/
theorem AtBlock.holds {pa k : Nat} (ha : AtBlock pa k o) (hw : s.writeReg pa v.toNat = .next t) (hr : t.readReg pa = v.toNat &&& mask)
    (hm : t.mem = s.mem) : Holds s pa v mask := ha.reaches hw ⟨hr, hm⟩

theorem fab_modFab (s : State) (d c : Nat) (f : FabBlk → FabBlk) : (s.modFab d c f).fab d c = f (s.fab d c) := by
  simp [State.modFab, State.fab, Tab.get_put]

end Blocks

/-! ## Each register's fields (R355, R358, R418, R435, R443) -/

section Registers

variable (s : State) (v : DWord) {c d : Nat}

/-- A field g of a context, kept by a register whose write changes the context alone. -/
theorem holds_ctx_field {o mask : Nat} {f : Ctx → Ctx} (g : Ctx → Nat) (hc : c < 64) (ho : o < 0x100 ∧ o % 8 = 0)
    (hw : s.writeCtx c o v.toNat = .next (s.modCtx c f)) (hr : ∀ t : State, t.readCtx c o = g (t.ctx c))
    (hg : g (f (s.ctx c)) = v.toNat &&& mask) : Holds s (0x3F0300000000 + 0x100 * c + o) v mask :=
  holds_ctx hc ho.1 ho.2 hw (by rw [hr, State.ctx_modCtx, if_pos rfl, hg]) rfl

/-- The tail of the call ring, whose write also lets the cohorts that wait for room try again (R198). -/
theorem holds_ctx_sysTail (hc : c < 64) : Holds s (0x3F0300000000 + 0x100 * c + 0x98) v (2 ^ 32 - 1) := by
  have hr (t : State) : (t.sysRoom c).readCtx c 0x98 = (t.ctx c).sysTail := rfl
  refine holds_ctx hc (by decide) (by decide) rfl ?_ rfl
  rw [hr, State.ctx_modCtx, if_pos rfl]
  exact (BitVec.toNat_ofNat _ _).trans (mod_two_pow_eq_and _ 32)

/-- The registers of a context that hold what is written to them (R358). -/
theorem holds_ctxRegisters (hc : c < 64) : let ctx := 0x3F0300000000 + 0x100 * c
    Holds s ctx v (2 ^ 64 - 1) ∧ Holds s (ctx + 0x20) v (2 ^ 32 - 1) ∧ Holds s (ctx + 0x28) v (2 ^ 50 - 2 ^ 12) ∧
    Holds s (ctx + 0x38) v (2 ^ 50 - 2 ^ 12) ∧ Holds s (ctx + 0x40) v (2 ^ 57 - 2 ^ 12) ∧ Holds s (ctx + 0x58) v (2 ^ 32 - 1) ∧
    Holds s (ctx + 0x68) v (2 ^ 64 - 1) ∧ Holds s (ctx + 0x70) v (2 ^ 32 - 1) ∧ Holds s (ctx + 0x78) v (2 ^ 40 - 1) ∧
    Holds s (ctx + 0x80) v (2 ^ 57 - 2 ^ 6) ∧ Holds s (ctx + 0x98) v (2 ^ 32 - 1) ∧ Holds s (ctx + 0xA0) v 1 :=
  ⟨holds_ctx_field s v (fun x => x.root.toNat) hc (o := 0) (by decide) rfl (fun _ => rfl)
      ((BitVec.toNat_ofNat _ _).trans (mod_two_pow_eq_and _ 64)),
    holds_ctx_field s v Ctx.deadline hc (by decide) rfl (fun _ => rfl) (mod_two_pow_eq_and _ 32),
    holds_ctx_field s v Ctx.save hc (by decide) rfl (fun _ => rfl) (field_eq_and _ (by decide)),
    holds_ctx_field s v Ctx.map hc (by decide) rfl (fun _ => rfl) (field_eq_and _ (by decide)),
    holds_ctx_field s v Ctx.logBase hc (by decide) rfl (fun _ => rfl) (field_eq_and _ (by decide)),
    holds_ctx_field s v Ctx.logTail hc (by decide) rfl (fun _ => rfl) (mod_two_pow_eq_and _ 32),
    holds_ctx_field s v Ctx.msiAddr hc (by decide) rfl (fun _ => rfl) (mod_two_pow_eq_and _ 64),
    holds_ctx_field s v Ctx.msiData hc (by decide) rfl (fun _ => rfl) (mod_two_pow_eq_and _ 32),
    holds_ctx_field s v Ctx.savelim hc (by decide) rfl (fun _ => rfl) (mod_two_pow_eq_and _ 40),
    holds_ctx_field s v Ctx.sysBase hc (by decide) rfl (fun _ => rfl) (field_eq_and _ (by decide)),
    holds_ctx_sysTail s v hc,
    holds_ctx_field s v (fun x => bit x.bkpt 0) hc (by decide) rfl (fun _ => rfl) (bit_bitAt_zero _)⟩

/-- The range of a shootdown, in a die's block (R355). -/
theorem holds_dieRegisters (hd : d < 4) : let die := 0x3F0200000000 + 0x100000 * d
    Holds s (die + 0x10) v (2 ^ 57 - 2 ^ 12) ∧ Holds s (die + 0x18) v (2 ^ 32 - 1) := by
  refine ⟨holds_die hd (by decide) (by decide) rfl ?_ rfl, holds_die hd (by decide) (by decide) rfl ?_ rfl⟩
  · show ((s.modDie d _).die d).sfAddr = _
    rw [State.die_modDie, if_pos rfl]
    exact field_eq_and _ (by decide)
  · show ((s.modDie d _).die d).sfLen = _
    rw [State.die_modDie, if_pos rfl]
    exact mod_two_pow_eq_and _ 32

/-- A field g of a fabric block, kept by a register whose write changes the block alone. -/
theorem holds_fab_field {o mask : Nat} {f : FabBlk → FabBlk} (g : FabBlk → Nat) (hd : d < 4) (hc : c < 64) (ho : o < 0x100 ∧ o % 8 = 0)
    (hw : s.writeFab d c o v.toNat = .next (s.modFab d c f)) (hr : ∀ t : State, t.readFab d c o = g (t.fab d c))
    (hg : g (f (s.fab d c)) = v.toNat &&& mask) : Holds s (0x3F0A00000000 + 0x100000 * d + 0x100 * c + o) v mask :=
  holds_fab hd hc ho.1 ho.2 hw (by rw [hr, fab_modFab, hg]) rfl

/-- The registers of a fabric block that hold what is written to them (R443). -/
theorem holds_fabRegisters (hd : d < 4) (hc : c < 64) : let fab := 0x3F0A00000000 + 0x100000 * d + 0x100 * c
    Holds s fab v (2 ^ 24 - 1) ∧ Holds s (fab + 0x08) v (2 ^ 17 - 1) ∧ Holds s (fab + 0x10) v (2 ^ 18 - 1) ∧
    Holds s (fab + 0x18) v (2 ^ 50 - 2 ^ 12) ∧ Holds s (fab + 0x20) v (2 ^ 57 - 2 ^ 6) ∧ Holds s (fab + 0x38) v (2 ^ 32 - 1) :=
  ⟨holds_fab_field s v FabBlk.job hd hc (o := 0) (by decide) rfl (fun _ => rfl) (mod_two_pow_eq_and _ 24),
    holds_fab_field s v FabBlk.rank hd hc (by decide) rfl (fun _ => rfl) (mod_two_pow_eq_and _ 17),
    holds_fab_field s v FabBlk.nranks hd hc (by decide) rfl (fun _ => rfl) (mod_two_pow_eq_and _ 18),
    holds_fab_field s v FabBlk.ranktab hd hc (by decide) rfl (fun _ => rfl) (field_eq_and _ (by decide)),
    holds_fab_field s v FabBlk.cqBase hd hc (by decide) rfl (fun _ => rfl) (field_eq_and _ (by decide)),
    holds_fab_field s v FabBlk.cqTail hd hc (by decide) rfl (fun _ => rfl) (mod_two_pow_eq_and _ 32)⟩

/-- The registers of the Flash Management Processor, of the RAS ring and of the module's fabric number (R418, R437, R443). -/
theorem holds_moduleRegisters :
    Holds s 0x3F0600000010 v (2 ^ 64 - 1) ∧ Holds s 0x3F0600000018 v (2 ^ 32 - 1) ∧ Holds s 0x3F0900000020 v 15 ∧
    Holds s 0x3F0900000030 v (2 ^ 32 - 1) ∧ Holds s 0x3F0B00000000 v (2 ^ 15 - 1) := by
  have at_ {pa k o : Nat} : pa = 0x3F0000000000 + k * 2 ^ 32 + o ∧ o < 2 ^ 32 ∧ k < 256 ∧ o % 8 = 0 → AtBlock pa k o :=
    fun ⟨ha, ho, hk, h8⟩ => ⟨ha, ho, hk, h8⟩
  exact ⟨(at_ (k := 6) (o := 0x10) (by decide)).holds rfl (mod_two_pow_eq_and _ 64) rfl,
    (at_ (k := 6) (o := 0x18) (by decide)).holds rfl (mod_two_pow_eq_and _ 32) rfl,
    (at_ (k := 9) (o := 0x20) (by decide)).holds rfl (mod_two_pow_eq_and _ 4) rfl,
    (at_ (k := 9) (o := 0x30) (by decide)).holds rfl (mod_two_pow_eq_and _ 32) rfl,
    (at_ (k := 11) (o := 0) (by decide)).holds rfl (mod_two_pow_eq_and _ 15) rfl⟩

/-! Bits that clear, the tenant, and the interrupt file of a hart -/

theorem reaches_ctxStatusWrite (hc : c < 64) : Reaches s (.registerWrite (0x3F0300000000 + 0x100 * c + 0x18) v) (fun q =>
    q.ctx c = { s.ctx c with cmderr := (s.ctx c).cmderr && !bitAt v.toNat 3 } ∧ q.mem = s.mem) :=
  (atBlock_ctx hc (by decide) (by decide)).reaches (writeReg_ctx hc (by decide) (by decide) _) ⟨by simp, rfl⟩

theorem reaches_ctxTenantWrite (hc : c < 64) : Reaches s (.registerWrite (0x3F0300000000 + 0x100 * c + 0x08) v) (fun q =>
    q.mem = s.mem ∧ (q.ctx c).tenant = if (s.ctx c).state = .free then v.toNat % 16 else (s.ctx c).tenant) :=
  (atBlock_ctx hc (by decide) (by decide)).reaches (writeReg_ctx hc (by decide) (by decide) _) ⟨rfl, by simp⟩

/-- An MSI to a hart's interrupt file leaves the interrupt pending (log entry 29). -/
theorem reaches_hartInterrupt {h : Nat} (hh : h < 96) : Reaches s (.registerWrite (0x3F0C00000000 + 0x1000 * h) v) (fun q =>
    (q.hart h).pend = true ∧ q.mem = s.mem) := by
  have ha : AtBlock (0x3F0C00000000 + 0x1000 * h) 12 (0x1000 * h) := ⟨by omega, by omega, by omega, by omega⟩
  have hw : s.writeReg (0x3F0C00000000 + 0x1000 * h) v.toNat = .next (s.setHart h { s.hart h with pend := true }) := by
    simp only [State.writeReg, ha.blockOf_eq, ha.blockOffset_eq]
    rw [if_pos (by omega), show 0x1000 * h / 0x1000 = h by omega]
  exact ha.reaches hw ⟨by simp, rfl⟩

end Registers

/-! ## What a write of memory and a RAS record leave -/

theorem State.pokes_boot (l : List (Nat × Byte)) (s : State) : (s.pokes l).boot = s.boot := by
  induction l generalizing s with
  | nil => rfl
  | cons e l ih => rw [State.pokes, ih]; rfl

theorem State.write_boot (s : State) (cells : List (Nat × Byte)) : (s.write cells).boot = s.boot := by
  cases cells with
  | nil => rfl
  | cons e l =>
    unfold State.write State.writeBy
    dsimp only
    rw [State.pokes_boot]
    split <;> rfl

/-- Byte i of a run written at a is at a + i. -/
theorem mem_cellsFrom_iff (a : Nat) (bs : List Byte) (e : Nat × Byte) :
    e ∈ cellsFrom a bs ↔ ∃ i < bs.length, e = (a + i, bs.getD i 0) := by
  induction bs generalizing a with
  | nil => simp [cellsFrom]
  | cons b bs ih =>
    rw [cellsFrom, List.mem_cons, ih]
    constructor
    · rintro (rfl | ⟨i, hi, rfl⟩)
      · exact ⟨0, by simp, by simp⟩
      · exact ⟨i + 1, by simpa using hi, by simp [Nat.add_comm, Nat.add_left_comm]⟩
    · rintro ⟨_ | i, hi, rfl⟩
      · exact .inl (by simp)
      · exact .inr ⟨i, by simpa using hi, by simp [Nat.add_comm, Nat.add_left_comm]⟩

/-- A run of bytes written from a on stands there. -/
theorem State.byte_write_run (s : State) (a : Nat) (bs : List Byte) {i : Nat} (hi : i < bs.length) :
    (s.write (cellsFrom a bs)).byte (a + i) = bs.getD i 0 := by
  rw [State.byte_write]
  refine State.byte_pokes_in _ _ _ _ ((mem_cellsFrom_iff _ _ _).mpr ⟨i, hi, rfl⟩) fun e he ha => ?_
  obtain ⟨j, -, rfl⟩ := (mem_cellsFrom_iff _ _ _).mp he
  rw [show j = i by simpa using ha]

/-- Bytes outside a run keep their values. -/
theorem State.byte_write_outside (s : State) (a : Nat) (bs : List Byte) {x : Nat} (hx : x < a ∨ a + bs.length ≤ x) :
    (s.write (cellsFrom a bs)).byte x = s.byte x := by
  refine State.byte_write_out _ _ _ fun e he => ?_
  have := mem_cellsFrom _ _ _ he
  omega

theorem State.rasPut_boot (s : State) (kind place detail : Nat) : (s.rasPut kind place detail).boot = s.boot := by
  unfold State.rasPut
  dsimp only
  split
  · rfl
  · exact State.write_boot _ _

/-- A RAS event takes nothing out of boot flash but the trip record (R436). -/
theorem State.ras_boot (s : State) (kind place : Nat) :
    ∃ r, (s.ras kind place).boot = { s.boot with tripRec := r } := by
  rw [State.ras, State.rasPut_boot]
  unfold State.rasTrip
  split
  · split
    · exact ⟨_, rfl⟩
    · exact ⟨none, State.rasPut_boot _ _ _ _⟩
  · exact ⟨_, rfl⟩

/-! ## The side-band port (R434) -/

section Sideband

variable {s : State} {pa c img : Nat} {v : DWord} {im : FwImage}

/-- Outside a session a register write and an image update change nothing. -/
theorem exec_sbmp_regWrite_closed (hb : s.boot.session = false) : exec (.sbmpMessage (.regWrite pa v)) s = .next s := by
  simp [exec_sbmpMessage, execSbmpMessage, hb]

theorem exec_sbmp_updateSlot_closed (hb : s.boot.session = false) : exec (.sbmpMessage (.updateSlot img im)) s = .next s := by
  simp [exec_sbmpMessage, execSbmpMessage, hb]

/-- A register that is powered is written as the supervisor writes it; in PS4 only pwr_cmd is (R435, log entry 26). -/
theorem exec_sbmp_regWrite (hb : s.boot.session = true) : exec (.sbmpMessage (.regWrite pa v)) s =
    if s.pwr.state ≠ 4 ∨ pa = 0x3F0900000000 then exec (.registerWrite pa v) s else .next s := by
  have hp : (s.pwr.state != ps4Code || decide (pa = pwrCmd)) = true ↔ s.pwr.state ≠ 4 ∨ pa = 0x3F0900000000 := by
    rw [Bool.or_eq_true, bne_iff_ne, decide_eq_true_eq]; rfl
  simp only [exec_sbmpMessage, exec_registerWrite, execSbmpMessage, hb, if_true, hp]

theorem exec_sbmp_ctxCmd (hb : s.boot.session = true) (hp : s.pwr.state ≠ 4) (hc : c < 64) (n : BitVec 3) :
    exec (.sbmpMessage (.ctxCmd c n)) s = s.ctxCommand c n.toNat := by
  simp [exec_sbmpMessage, execSbmpMessage, hb, ps4Code, hp, hc]

theorem exec_sbmp_updateSlot (hb : s.boot.session = true) :
    exec (.sbmpMessage (.updateSlot img im)) s = .next (s.updateImage img im) := by
  simp [exec_sbmpMessage, execSbmpMessage, hb]

/-- The images of boot flash once an update has been written to the inactive slot (log entry 36). -/
def updatedImages (b : Boot) (img : Nat) (im : FwImage) : Tab FwImage := Tab.put b.images (2 * img + (1 - Tab.get 0 b.active img)) im

/-- An image that verifies, and is not older than the configuration record allows (R432). -/
def FitImage (b : Boot) (img : Nat) (im : FwImage) : Prop := im.good = true ∧ ∃ c, b.config = some c ∧ Tab.get 0 c.least img ≤ im.version

theorem fitImage_iff (b : Boot) (img : Nat) (im : FwImage) :
    FitImage b img im ↔ (im.good && b.config.any (fun c => decide (Tab.get 0 c.least img ≤ im.version))) = true := by
  simp only [FitImage, Bool.and_eq_true, Option.any_eq_true, decide_eq_true_eq]

/-- An image that fits is written and made active; the slots that images run from stay. -/
theorem updateImage_boot_of_fit (hi : img < 3) (hf : FitImage s.boot img im) :
    (s.updateImage img im).boot.images = updatedImages s.boot img im ∧
    (s.updateImage img im).boot.active = Tab.put s.boot.active img (1 - Tab.get 0 s.boot.active img) ∧
    (s.updateImage img im).boot.slots = s.boot.slots := by
  unfold State.updateImage
  dsimp only
  rw [if_pos hi, if_pos ((fitImage_iff _ _ _).mp hf)]
  obtain ⟨r, hr⟩ := State.ras_boot _ 6 _
  rw [hr]
  exact ⟨rfl, rfl, rfl⟩

/-- Any other image is written alone. -/
theorem updateImage_of_not_fit (hi : img < 3) (hf : ¬FitImage s.boot img im) :
    s.updateImage img im = { s with boot := { s.boot with images := updatedImages s.boot img im } } := by
  unfold State.updateImage
  dsimp only
  rw [if_pos hi, if_neg (mt (fitImage_iff _ _ _).mpr hf)]
  rfl

theorem updateImage_of_no_slot (hi : 3 ≤ img) : s.updateImage img im = s := by
  unfold State.updateImage
  dsimp only
  rw [if_neg (by omega)]

end Sideband

/-! ## The PCIe port (R394, R431) -/

section Pcie

variable (s : State)

theorem State.ide_setIde (n : Nat) (i : IdeStream) (m : Nat) : (s.setIde n i).ide m = if m = n then i else s.ide m := Tab.get_put _ _ _ _ _

/-- What a request that arrives intact leaves of its stream: the first under the new keys ends the old ones (R431). -/
def State.served (s : State) (st : Nat) (nk : Bool) : State := if nk then s.setIde st { s.ide st with newKeys := false } else s

theorem State.served_mem (st : Nat) (nk : Bool) : (s.served st nk).mem = s.mem := by
  unfold State.served; split <;> rfl

theorem State.served_byte (st : Nat) (nk : Bool) (x : Nat) : (s.served st nk).byte x = s.byte x := by
  unfold State.byte; rw [State.served_mem]

theorem State.served_boot (st : Nat) (nk : Bool) :
    (s.served st nk).boot = if nk then (s.setIde st { s.ide st with newKeys := false }).boot else s.boot := by
  unfold State.served; split <;> rfl

theorem State.served_heldBy (st : Nat) (nk : Bool) (pas : List Nat) (wr : Bool) : (s.served st nk).heldBy pas wr = s.heldBy pas wr := by
  unfold State.served; split <;> rfl

/-- A switch of keys programs the idle set of one of the five streams, or ends the old one (log entry 34). -/
theorem keySwitch_cases (k : Nat) (packet : Bool) : s.keySwitch k packet = s.setIde k { newKeys := true, secure := true } ∨
    s.keySwitch k packet = s.setIde k { s.ide k with newKeys := false } := by
  cases packet
  · exact .inl rfl
  · exact .inr rfl

variable {s}

/-- A stream that is insecure, or that the port has not, takes no request (log entry 34). -/
theorem execPcie_of_insecure {r : PcieReq} {st : Nat} (hr : (pcieParts r).1 = st) (h : (s.ide st).secure = false ∨ 4 < st) :
    execPcieInboundRequest r s = .next s := by
  subst hr
  unfold execPcieInboundRequest
  dsimp only
  rw [if_pos]
  rcases h with h | h <;> simp [h]

/-- A request that fails its check, or comes under keys that are not programmed, is an error of the port and makes its stream insecure. -/
theorem execPcie_of_fails {r : PcieReq} {st pa n : Nat} {nk intact : Bool} (hr : pcieParts r = (st, pa, n, nk, intact))
    (hs : (s.ide st).secure = true) (h4 : st ≤ 4) (hf : (s.ide st).fails nk intact = true) :
    execPcieInboundRequest r s = .next (({ s with boot := { s.boot with errors := s.boot.errors + 1 } } : State).setIde st
      { s.ide st with secure := false }) := by
  unfold execPcieInboundRequest
  simp only [hr, hs, hf, Bool.not_true, Bool.or_false, decide_eq_true_eq, if_neg (Nat.not_lt.mpr h4), if_true]

/-- A write that is taken, and that reaches memory that no command holds, is performed. -/
theorem execPcie_write {st pa : Nat} {bytes : List Byte} {nk intact : Bool} (hs : (s.ide st).secure = true) (h4 : st ≤ 4)
    (hf : (s.ide st).fails nk intact = false) (hn : bytes ≠ [])
    (hr : ∀ i < bytes.length, s.pcieMayReach (pa + i) true = true) (ha : areaOf pa = areaOf (pa + bytes.length - 1))
    (hh : s.heldBy ((List.range bytes.length).map (fun i => pa + i)) true = none) :
    execPcieInboundRequest (.write st pa bytes nk intact) s = .next ((s.served st nk).write (cellsFrom pa bytes)) := by
  have hall : (List.range bytes.length).all (fun i => s.pcieMayReach (pa + i) true) = true := by
    simpa [List.all_eq_true] using hr
  have h0 : bytes.length ≠ 0 := by simpa using hn
  have hh' := (s.served_heldBy st nk _ _).trans hh
  simp only [State.served, hs] at hh'
  simp only [execPcieInboundRequest, State.served, pcieParts, hs, hf, hall, hh', h0, ← ha, Bool.not_true, Bool.or_false,
    Bool.false_eq_true, if_false, bne_self_eq_false, decide_false]
  exact if_neg fun h => Nat.not_lt.mpr h4 (of_decide_eq_true h)

/-- A write to the control range, to flash or to no memory is answered and changes no memory. -/
theorem execPcie_write_unsupported {st pa : Nat} {bytes : List Byte} {nk intact : Bool} (hs : (s.ide st).secure = true) (h4 : st ≤ 4)
    (hf : (s.ide st).fails nk intact = false) (ha : areaOf pa = .control ∨ areaOf pa = .hole ∨ areaOf pa = .flash) :
    execPcieInboundRequest (.write st pa bytes nk intact) s = .next (s.served st nk) := by
  have hr : s.pcieMayReach pa true = false := by
    rcases ha with h | h | h <;> simp [State.pcieMayReach, h]
  have hall : bytes.length = 0 ∨ (List.range bytes.length).all (fun i => s.pcieMayReach (pa + i) true) = false := by
    rcases Nat.eq_zero_or_pos bytes.length with h | h
    · exact .inl h
    · exact .inr (List.all_eq_false.mpr ⟨0, List.mem_range.mpr h, by simp [hr]⟩)
  unfold execPcieInboundRequest State.served
  rcases hall with h | h <;>
    simp [pcieParts, hs, hf, h, Nat.not_lt.mpr h4]

/-- A read that is taken, of bytes that no command holds, changes no memory. -/
theorem execPcie_read {st pa n : Nat} {nk intact : Bool} (hs : (s.ide st).secure = true) (h4 : st ≤ 4)
    (hf : (s.ide st).fails nk intact = false) (hh : s.heldBy ((List.range n).map (fun i => pa + i)) false = none) :
    execPcieInboundRequest (.read st pa n nk intact) s = .next (s.served st nk) := by
  have hh' := (s.served_heldBy st nk _ _).trans hh
  simp only [State.served, hs] at hh'
  simp only [execPcieInboundRequest, State.served, pcieParts, hs, hf, hh', Bool.not_true, Bool.or_false, Bool.false_eq_true,
    if_false, ite_self]
  exact if_neg fun h => Nat.not_lt.mpr h4 (of_decide_eq_true h)

end Pcie

/-! ## The obligation -/

/-- What the side-band port's messages do (R434, R435). -/
theorem sideband_messages (s : State) (c pa img : Nat) (im : FwImage) (v : DWord) : let b := s.boot
    let same (i : Instr) : Prop := Reaches s i (fun q => q = s)
    (b.session = false → same (.sbmpMessage (.regWrite pa v)) ∧ same (.sbmpMessage (.updateSlot img im))) ∧
    (b.session = true →
      (s.pwr.state ≠ 4 ∨ pa = 0x3F0900000000 → exec (.sbmpMessage (.regWrite pa v)) s = exec (.registerWrite pa v) s) ∧
      (s.pwr.state = 4 → pa ≠ 0x3F0900000000 → same (.sbmpMessage (.regWrite pa v))) ∧
      (img < 3 →
        (FitImage b img im → Reaches s (.sbmpMessage (.updateSlot img im)) (fun q => q.boot.images = updatedImages b img im ∧
          q.boot.active = Tab.put b.active img (1 - Tab.get 0 b.active img) ∧ q.boot.slots = b.slots)) ∧
        (¬FitImage b img im → Reaches s (.sbmpMessage (.updateSlot img im)) (fun q =>
          q = { s with boot := { b with images := updatedImages b img im } }))) ∧
      (3 ≤ img → same (.sbmpMessage (.updateSlot img im))) ∧
      (c < 64 → s.pwr.state ≠ 4 → ∀ n : BitVec 3, exec (.sbmpMessage (.ctxCmd c n)) s = s.ctxCommand c n.toNat)) := by
  refine ⟨fun hb => ⟨⟨s, exec_sbmp_regWrite_closed hb, rfl⟩, ⟨s, exec_sbmp_updateSlot_closed hb, rfl⟩⟩, fun hb => ⟨fun hp => ?_,
    fun h4 hp => ⟨s, ?_, rfl⟩, fun hi => ⟨fun hf => ⟨_, exec_sbmp_updateSlot hb, updateImage_boot_of_fit hi hf⟩,
      fun hf => ⟨_, exec_sbmp_updateSlot hb, updateImage_of_not_fit hi hf⟩⟩,
    fun hi => ⟨_, exec_sbmp_updateSlot hb, updateImage_of_no_slot hi⟩, fun hc hp n => exec_sbmp_ctxCmd hb hp hc n⟩⟩
  · rw [exec_sbmp_regWrite hb, if_pos hp]
  · rw [exec_sbmp_regWrite hb, if_neg (by tauto)]

/-- What a request that is taken does (R394, R431). -/
theorem pcie_taken {s : State} {st : Nat} {nk : Bool} (hs : (s.ide st).secure = true) (h4 : st ≤ 4)
    (hk : nk = true → (s.ide st).newKeys = true) (pa n : Nat) (bytes : List Byte) :
    let seen (q : State) : Prop := q.boot = if nk then (s.setIde st { s.ide st with newKeys := false }).boot else s.boot
    (areaOf pa = .control ∨ areaOf pa = .hole ∨ areaOf pa = .flash →
      Reaches s (.pcieInboundRequest (.write st pa bytes nk true)) (fun q => q.mem = s.mem ∧ seen q)) ∧
    ((∀ i < bytes.length, areaOf (pa + i) = .hbm ∨ areaOf (pa + i) = .lpddr ∨
        (areaOf (pa + i) = .onchip ∧ s.chipReach (pa + i) = true)) → bytes ≠ [] →
      areaOf pa = areaOf (pa + bytes.length - 1) →
      s.heldBy ((List.range bytes.length).map (fun i => pa + i)) true = none →
      Reaches s (.pcieInboundRequest (.write st pa bytes nk true)) (fun q => seen q ∧
        (∀ i < bytes.length, q.byte (pa + i) = bytes.getD i 0) ∧ ∀ x, (x < pa ∨ pa + bytes.length ≤ x) → q.byte x = s.byte x)) ∧
    (s.heldBy ((List.range n).map (fun i => pa + i)) false = none →
      Reaches s (.pcieInboundRequest (.read st pa n nk true)) (fun q => seen q ∧ q.mem = s.mem)) := by
  have hf : (s.ide st).fails nk true = false := by
    cases nk
    · rfl
    · simp [IdeStream.fails, hk rfl]
  refine ⟨fun ha => ⟨_, execPcie_write_unsupported hs h4 hf ha, s.served_mem st nk, s.served_boot st nk⟩, fun hr hn ha hh => ?_,
    fun hh => ⟨_, execPcie_read hs h4 hf hh, s.served_boot st nk, s.served_mem st nk⟩⟩
  have hreach : ∀ i < bytes.length, s.pcieMayReach (pa + i) true = true := by
    intro i hi
    rcases hr i hi with h | h | ⟨h, hc⟩
    · simp [State.pcieMayReach, h]
    · simp [State.pcieMayReach, h]
    · simp [State.pcieMayReach, h, hc]
  refine ⟨_, execPcie_write hs h4 hf hn hreach ha hh, ?_, fun i hi => State.byte_write_run _ _ _ hi, fun x hx => ?_⟩
  · exact (State.write_boot _ _).trans (s.served_boot st nk)
  · exact (State.byte_write_outside _ _ _ hx).trans (s.served_byte st nk x)

/-- What a request that fails does to its stream and to the port's count of errors. -/
theorem pcie_failed {s : State} {r : PcieReq} {st pa n : Nat} {nk intact : Bool} (hr : pcieParts r = (st, pa, n, nk, intact))
    (hs : (s.ide st).secure = true) (h4 : st ≤ 4) (hi : intact = false ∨ (nk = true ∧ (s.ide st).newKeys = false)) :
    Reaches s (.pcieInboundRequest r) (fun q => q.mem = s.mem ∧ q.boot.errors = s.boot.errors + 1 ∧ (q.ide st).secure = false ∧
      ∀ x, x ≠ st → q.ide x = s.ide x) := by
  have hf : (s.ide st).fails nk intact = true := by
    rcases hi with rfl | ⟨rfl, hn⟩
    · rfl
    · simp [IdeStream.fails, hn]
  refine ⟨_, execPcie_of_fails hr hs h4 hf, rfl, rfl, ?_, fun x hx => ?_⟩
  · rw [State.ide_setIde, if_pos rfl]
  · rw [State.ide_setIde, if_neg hx]
    rfl

/-- Settles O51, block by block of the control range, and port by port. -/
theorem registersAndPorts : Obligations.RegistersAndPorts := by
  refine ⟨fun s v c d h hc hd hh => ?_, fun s c pa n img st im v bytes nk intact => ?_⟩
  · obtain ⟨c1, c2, c3, c4, c5, c6, c7, c8, c9, c10, c11, c12⟩ := holds_ctxRegisters s v hc
    obtain ⟨d1, d2⟩ := holds_dieRegisters s v hd
    obtain ⟨f1, f2, f3, f4, f5, f6⟩ := holds_fabRegisters s v hd hc
    obtain ⟨m1, m2, m3, m4, m5⟩ := holds_moduleRegisters s v
    exact ⟨c1, c2, c3, c4, c5, c6, c7, c8, c9, c10, c11, c12, d1, d2, f1, f2, f3, f4, f5, f6, m1, m2, m3, m4, m5,
      reaches_ctxStatusWrite s v hc, reaches_ctxTenantWrite s v hc, reaches_hartInterrupt s v hh⟩
  · obtain ⟨hclosed, hopen⟩ := sideband_messages s c pa img im v
    refine ⟨⟨s, rfl, rfl⟩, ⟨_, rfl, rfl⟩, hclosed, fun hb => ?_, ?_, fun h => ?_, fun hs h4 hi => ?_, fun hs h4 hi hk => ?_⟩
    · obtain ⟨hw, hw4, himg, hno, hcmd⟩ := hopen hb
      exact ⟨hw, hw4, himg, hno, fun hc hp => ⟨hcmd hc hp 1, hcmd hc hp 2, hcmd hc hp 3, hcmd hc hp 4, hcmd hc hp 5, hcmd hc hp 6⟩⟩
    · exact ⟨_, rfl, _, Nat.le_of_lt_succ (Nat.mod_lt _ (by decide)), keySwitch_cases s _ _⟩
    · have same (r : PcieReq) (hr : (pcieParts r).1 = st) : Reaches s (.pcieInboundRequest r) (fun q => q = s) :=
        ⟨s, execPcie_of_insecure hr h, rfl⟩
      exact ⟨same _ rfl, same _ rfl⟩
    · exact ⟨pcie_failed rfl hs h4 hi, pcie_failed rfl hs h4 hi⟩
    · exact pcie_taken hs h4 hk pa n bytes

end Sys2Proof.Machine

/-!
Special registers (O6). RDS and WRS are one lane operation each, whatever register they name: what is particular to a register is the
value it reads as (R31, R96) and the field that a write of it sets (R97).
-/

namespace Sys2Proof.Machine

open Sys2Proof.Claims

/-! ## The low word of a special register -/

theorem loOf_eq_ofNat (x : DWord) : loOf x = BitVec.ofNat 32 x.toNat := (BitVec.ofNat_toNat 32 x).symm

theorem loOf_ofNat (n : Nat) : loOf (BitVec.ofNat 64 n) = BitVec.ofNat 32 n := BitVec.setWidth_ofNat_of_le (by decide) n

theorem loOf_setWidth {w : Nat} (hw : w ≤ 64) (x : BitVec w) : loOf (x.setWidth 64) = BitVec.ofNat 32 x.toNat := by
  rw [loOf_eq_ofNat, BitVec.toNat_setWidth_of_le hw]

theorem loOf_flag (b : Bool) : loOf (if b then 1 else 0) = BitVec.ofNat 32 (if b then 1 else 0) := by
  cases b <;> rfl

/-! ## The lane operations -/

section Special

variable {s : State} {u : Bool} {d a : Reg} {idx : BitVec 6}

/-- RDS of a register of one word writes its low word in D. -/
theorem lanes_rds {val : Nat → Word} (hw : specialWide idx.toNat s.co.W = false) (hv : ∀ l, loOf (s.special idx.toNat l) = val l) :
    Lanes s (.rds u d idx) u d 1 val := by
  refine lanes_of_eq (f := fun l => loOf (s.special idx.toNat l)) ?_ hv
  rw [exec_rds, execRds, State.lane, if_neg (Bool.eq_false_iff.mp hw)]

/-- RDS of a 64-bit register writes the pair of D and the code after it (R95). -/
theorem lanesPair_rds {val : Nat → DWord} (hS : Shape s.co) (hd : d.even = true) (hw : specialWide idx.toNat s.co.W = true)
    (hv : ∀ l, s.special idx.toNat l = val l) : LanesPair s (.rds u d idx) u d 1 val := by
  refine lanesPair_of_eq (f := s.special idx.toNat) hS hd ?_ hv
  rw [exec_rds, execRds, State.lane, if_pos hw]

/-- A lane operation that leaves the cohort's place where it is completes with its effect on the cohort alone. -/
theorem onlyCo_of_lane {i : Instr} {n : Nat} {f : Cohort → Cohort} (h : exec i s = .next (s.lane f n)) (hf : (f s.co).idx = s.co.idx) :
    OnlyCo s i n f := by
  rw [OnlyCo, h, State.lane, Cohort.past, hf]

theorem onlyCo_wrs {f : Cohort → Cohort} (hw : s.co.writeSpecial a idx.toNat = f s.co) (hf : (f s.co).idx = s.co.idx) :
    OnlyCo s (.wrs u a idx) 1 f := by
  have h : exec (.wrs u a idx) s = .next (s.lane f 1) := by
    rw [exec_wrs, execWrs, State.lane, hw, State.lane]
  exact onlyCo_of_lane h hf

end Special

/-- Settles O6, register by register. -/
theorem specialRegisters : Obligations.SpecialRegisters := by
  refine ⟨fun s u d hS => ?_, fun s u a => ?_, fun s d => ?_⟩
  · exact ⟨fun h64 => lanes_rds (by simp [specialWide, h64]) fun _ => loOf_eq_ofNat s.co.rd.exec,
      lanes_rds rfl fun l => loOf_ofNat l,
      lanes_rds rfl fun _ => loOf_ofNat s.co.W,
      lanes_rds rfl fun _ => loOf_ofNat s.co.cohid,
      lanes_rds rfl fun _ => loOf_ofNat s.co.teamid,
      lanes_rds rfl fun _ => loOf_ofNat s.co.teamN,
      lanes_rds rfl fun _ => loOf_setWidth (by decide) s.co.launchid,
      lanes_rds rfl fun _ => loOf_ofNat (256 * s.co.tenant + s.co.ctx),
      lanes_rds rfl fun _ => loOf_ofNat (s.co.rd.wdepth % s.co.S),
      lanes_rds rfl fun _ => loOf_ofNat s.co.rd.wdepth,
      lanes_rds rfl fun _ => loOf_ofNat s.co.wlimit,
      lanes_rds rfl fun _ => loOf_setWidth (by decide) s.co.rd.flags,
      lanes_rds rfl fun _ => loOf_setWidth (by decide) s.co.rd.trapcause,
      lanes_rds rfl fun _ => loOf_flag s.co.skid,
      lanes_rds rfl fun _ => loOf_ofNat (s.co.shareN + (if s.co.shareN = 0 then 0 else 256 * s.co.shareB)),
      fun hd => ⟨fun h64 => lanesPair_rds hS hd (by simp [specialWide, h64]) fun _ => rfl,
        lanesPair_rds hS hd rfl fun _ => rfl, lanesPair_rds hS hd rfl fun _ => rfl, lanesPair_rds hS hd rfl fun _ => rfl⟩⟩
  · exact ⟨onlyCo_wrs rfl rfl, onlyCo_wrs rfl rfl, onlyCo_wrs rfl rfl, onlyCo_wrs rfl rfl⟩
  · exact ⟨uniform_of_eq (exec_wdepth s d) rfl, onlyCo_of_lane (exec_nop s) rfl⟩

end Sys2Proof.Machine

/-!
Where control transfers fault (O15). Each transfer tests before it moves: the test that fails gives the fault that is raised, and a fault
that the cohort's handler does not take is noted and halts the cohort (R162, R298).
-/

namespace Sys2Proof.Machine

open Sys2Proof.Claims

section ControlFaults

variable {s : State} {i : Instr} {u : Bool} {m a : Reg} {k : BrCond} {o : BitVec 15} {f : FaultInfo}

/-- The instruction is a fault of the focused cohort, which halts it where its handler does not take the cause. -/
def Faults (s : State) (i : Instr) (f : FaultInfo) : Prop := s.co.landSfu.delivers f.cause = false →
  Reaches s i (fun t => t.lastFault = some f ∧ t.co.halted = true ∧ t.co.fault = some f)

/-- A fault that stops its cohort and is reported nowhere else: no wait, no stall, no entry of a fault buffer. -/
def Stops (f : FaultInfo) : Prop := f.cause ≠ 0 ∧ f.cause ≠ causeLongLatency ∧ toBuffer f = false

theorem faults_of_raise (h : exec i s = .next (s.raise f)) (hf : Stops f) : Faults s i f := fun hd => by
  obtain ⟨h0, hl, hb⟩ := hf
  exact ⟨_, h, s.raise_stops f h0 hb hl hd⟩

theorem stops_of_cause (h : f.cause ∈ [causeUniformity, causeSoftTrap, causeMisaligned, causeWindowLimit]) : Stops f := by
  simp only [List.mem_cons, List.not_mem_nil, or_false] at h
  rcases h with h | h | h | h <;> simp only [Stops, toBuffer, h] <;> exact ⟨by decide, by decide, rfl⟩

theorem stops_uniformity (sub : Nat) : Stops (flt causeUniformity sub) := stops_of_cause (by simp [flt])

theorem stops_windowLimit : Stops (flt causeWindowLimit 0) := stops_of_cause (by simp [flt])

theorem stops_softTrap (sub : Nat) : Stops (flt causeSoftTrap sub) := stops_of_cause (by simp [flt])

theorem stops_misaligned (target : Nat) : Stops { flt causeMisaligned 0 with addr := target } := stops_of_cause (by simp [flt])

/-! ## Branches (R145, R147, R150) -/

theorem Cohort.disagree_iff (c : Cohort) (u : Bool) (x : Mask) : c.disagree u x = true ↔ u = true ∧ x ≠ 0 ∧ x ≠ c.rd.exec := by
  simp [Cohort.disagree, and_assoc]

theorem State.branch_of_disagree (hk : k ≠ .always) (hd : s.co.disagree u (s.co.branchMask m) = true) :
    s.branch u m k o = .next (s.raise (flt causeUniformity 1)) := by
  simp [State.branch, hk, hd]

theorem execBrd_of_disagree (hd : s.co.disagree u (s.co.branchMask m) = true) :
    execBrd u m k o s = .next (s.raise (flt causeUniformity 1)) := by
  simp [execBrd, hd]

/-- BRD has no room for a record: the window limit, or the depth of the divergence stack. -/
theorem execBrd_of_limit (hd : s.co.disagree u (s.co.branchMask m) = false) (hl : s.co.lim < s.co.v.wdepth + 4 ∨ s.co.jd = 65535) :
    execBrd u m k o s = .next (s.raise (flt causeWindowLimit 0)) := by
  by_cases hw : s.co.lim < s.co.v.wdepth + 4
  · simp [execBrd, hd, hw]
  · simp [execBrd, hd, hw, hl.resolve_left hw]

theorem faults_branches (hk : k ≠ .always) (h0 : s.co.branchMask m ≠ 0) (h1 : s.co.branchMask m ≠ s.co.rd.exec) :
    Faults s (.bra true m k o) (flt causeUniformity 1) ∧ Faults s (.brc true m k o) (flt causeUniformity 1) ∧
      Faults s (.brd true m k o) (flt causeUniformity 1) := by
  have hd := (s.co.disagree_iff true _).mpr ⟨rfl, h0, h1⟩
  exact ⟨faults_of_raise (State.branch_of_disagree hk hd) (stops_uniformity 1),
    faults_of_raise (State.branch_of_disagree hk hd) (stops_uniformity 1), faults_of_raise (execBrd_of_disagree hd) (stops_uniformity 1)⟩

theorem faults_brd_limit (hu : u = true → s.co.branchMask m = 0 ∨ s.co.branchMask m = s.co.rd.exec)
    (hl : s.co.lim < s.co.v.wdepth + 4 ∨ s.co.jd = 65535) : Faults s (.brd u m k o) (flt causeWindowLimit 0) := by
  refine faults_of_raise (execBrd_of_limit (Bool.eq_false_iff.mpr fun hd => ?_) hl) stops_windowLimit
  obtain ⟨hut, h0, h1⟩ := (s.co.disagree_iff u _).mp hd
  exact (hu hut).elim h0 h1

/-! ## Indirect targets and calls (R148, R158, R159) -/

theorem Cohort.indirect_of_disagree (c : Cohort) (h : ∃ l ∈ c.active, c.getPair a l ≠ c.ugetPair a) :
    c.indirect true a = .error (flt causeUniformity 1) := by
  obtain ⟨l, hl, hne⟩ := h
  have hany : c.active.any (fun l => (c.getPair a l).toNat != (c.ugetPair a).toNat) = true :=
    List.any_eq_true.mpr ⟨l, hl, bne_iff_ne.mpr fun he => hne (BitVec.eq_of_toNat_eq he)⟩
  simp [Cohort.indirect, hany]

/-- Where the active lanes agree, or need not, the alignment of the target decides. -/
theorem Cohort.indirect_of_agree (c : Cohort) (h : u = true → ∀ l ∈ c.active, c.getPair a l = c.ugetPair a) :
    c.indirect u a = if (c.ugetPair a).toNat % 4 ≠ 0 then .error { flt causeMisaligned 0 with addr := (c.ugetPair a).toNat }
      else .ok (c.ugetPair a).toNat := by
  have hany : (u && c.active.any (fun l => (c.getPair a l).toNat != (c.ugetPair a).toNat)) = false := by
    rw [Bool.and_eq_false_imp, List.any_eq_false]
    exact fun hu l hl => by simp [h hu l hl]
  simp [Cohort.indirect, hany]

/-- An indirect target that faults is the fault of BRX and of CALLX. -/
theorem faults_indirect {n : BitVec 5} (h : s.co.indirect u a = .error f) (hf : Stops f) :
    Faults s (.brx u a) f ∧ Faults s (.callx u a n) f :=
  ⟨faults_of_raise (by simp only [exec_brx, execBrx, h]) hf, faults_of_raise (by simp only [exec_callx, execCallx, h]) hf⟩

theorem State.callTo_of_limit {n target : Nat} (h : s.co.lim < s.co.v.wdepth + n) :
    s.callTo n target = .next (s.raise (flt causeWindowLimit 0)) := if_pos h

theorem faults_call_limit {n : Nat} (hn : n ≤ 11) (hl : s.co.lim < s.co.v.wdepth + 4 * n) :
    Faults s (.call u (BitVec.ofNat 6 n) o) (flt causeWindowLimit 0) := by
  have h6 : (BitVec.ofNat 6 n).toNat = n := by rw [BitVec.toNat_ofNat, Nat.mod_eq_of_lt (by omega)]
  exact faults_of_raise (State.callTo_of_limit (by rwa [h6])) stops_windowLimit

theorem faults_callx_limit {n : Nat} (hn : n ≤ 11) (hl : s.co.lim < s.co.v.wdepth + 4 * n)
    (ha : u = true → ∀ l ∈ s.co.active, s.co.getPair a l = s.co.ugetPair a) (ht : (s.co.ugetPair a).toNat % 4 = 0) :
    Faults s (.callx u a (BitVec.ofNat 5 n)) (flt causeWindowLimit 0) := by
  have h5 : (BitVec.ofNat 5 n).toNat = n := by rw [BitVec.toNat_ofNat, Nat.mod_eq_of_lt (by omega)]
  refine faults_of_raise ?_ stops_windowLimit
  rw [exec_callx, execCallx, s.co.indirect_of_agree ha, if_neg (not_not.mpr ht)]
  exact State.callTo_of_limit (by rwa [h5])

/-! ## Joins and returns (R151, R160, R165) -/

theorem faults_join_empty (h : s.co.jd = 0) : Faults s .join (flt causeUniformity 2) :=
  faults_of_raise (if_pos h) (stops_uniformity 2)

theorem faults_return_open (h : s.co.jd ≠ 0) : Faults s .ret (flt causeUniformity 2) ∧ Faults s .eret (flt causeUniformity 2) :=
  ⟨faults_of_raise (if_pos (bne_iff_ne.mpr h)) (stops_uniformity 2), faults_of_raise (if_pos (bne_iff_ne.mpr h)) (stops_uniformity 2)⟩

theorem faults_ret_outside (h : s.co.jd = 0) (hc : s.co.calld = 0) : Faults s .ret (flt causeUniformity 3) :=
  faults_of_raise (by simp [exec_ret, execRet, h, hc]) (stops_uniformity 3)

/-- ERET outside a handler, or in a function that the handler has called. -/
theorem faults_eret_outside (h : s.co.jd = 0) (hc : s.co.handler = none ∨ s.co.calld ≠ 0) : Faults s .eret (flt causeUniformity 4) := by
  refine faults_of_raise ?_ (stops_uniformity 4)
  cases hh : s.co.handler with
  | none => simp [exec_eret, execEret, h, hh]
  | some sv =>
    have hcd : s.co.calld ≠ 0 := hc.resolve_left (by simp [hh])
    simp [exec_eret, execEret, h, hh, hcd]

end ControlFaults

/-- Settles O15: one lemma for each test that a control transfer makes. -/
theorem controlFaults : Obligations.ControlFaults := by
  intro s u m a k o n code
  refine ⟨faults_branches, fun _ => faults_brd_limit, fun hd => ?_, fun ha ht => ?_, fun hn hl => ?_, faults_join_empty,
    faults_return_open, faults_ret_outside, faults_eret_outside, ?_⟩
  · exact faults_indirect (s.co.indirect_of_disagree hd) (stops_uniformity 1)
  · exact faults_indirect ((s.co.indirect_of_agree ha).trans (if_pos ht)) (stops_misaligned _)
  · exact ⟨faults_call_limit hn hl, faults_callx_limit hn hl⟩
  · exact faults_of_raise (exec_trap s code) (stops_softTrap _)

end Sys2Proof.Machine

/-!
A step runs the decoded instruction (O52): one equation of the step for each thing that comes next, and one of the issue for a core whose
slot is held by a cohort that stands at a single word.
-/

namespace Sys2Proof.Machine

section StepCases

variable {ex : Instr → State → Out} {s t q : State}

theorem stepWith_of_agenda {e : Instr} {rest : List Instr} (ha : s.beat.agenda = e :: rest) :
    stepWith ex s = if s.beat.allowed e then ex e { s.beat with agenda := rest } else .next { s.beat with agenda := rest } := by
  simp only [stepWith, ha]

section HartTurn

variable {n w : Nat} (ha : s.beat.agenda = []) (ht : s.beat.turn = some n) (hw : (s.beat.hart n).wait = none) (hp : s.beat.pwr.state < 3)
include ha ht hw hp

theorem stepWith_of_hartInstr {i : Instr} (hf : s.beat.hartWord n = .ok w) (hd : decodeHart w = some i) (hx : ex i s.beat = .next t) :
    stepWith ex s = .next { t with turn := none } := by
  simp [stepWith, ha, ht, hw, hp, hf, hd, hx]

theorem stepWith_of_hartUndecoded (hf : s.beat.hartWord n = .ok w) (hd : decodeHart w = none) :
    stepWith ex s = if w % 128 = 0x0B then .next (({ s.beat with turn := none } : State).hartTrap n trapIllegal (s.beat.hart n).pc)
      else .fault (.hartWord n) := by
  simp [stepWith, ha, ht, hw, hp, hf, hd]

theorem stepWith_of_hartFetchTrap {e : Nat × Nat} (hf : s.beat.hartWord n = .error e) :
    stepWith ex s = .next (({ s.beat with turn := none } : State).hartTrap n e.1 e.2) := by
  simp [stepWith, ha, ht, hw, hp, hf]

end HartTurn

theorem stepWith_of_burst {k n : Nat} (ha : s.beat.agenda = []) (ht : s.beat.turn = none) (hb : s.beat.burst = k + 1)
    (hn : s.beat.nextCore = some n) : stepWith ex s = issueOn ex n { s.beat with burst := k } := by
  simp only [stepWith, ha, ht, hb, hn]

theorem State.focus_focused {h : Nat} (hh : s.co.id = h) : s.focus h = s := if_pos hh

theorem issueOn_of_holder {n h : Nat} {hs : List Nat} (hk : (s.core n).holder = h :: hs) : issueOn ex n s = issueGroup ex (s.focus h) := by
  simp only [issueOn, hk]

/-- A word that is no chain group, and that nothing holds up, issues as the execution of its instruction. -/
theorem issueAlone_of_single {w : Nat} {i : Instr} (hi : s.nextInstr = some (w, .ok i)) (hp : s.co.pre = none) (hc : bitAt w 31 = false)
    (hg : s.gate w i = none) : issueAlone ex s = ex i s := by
  simp [issueAlone, hi, hp, hc, hg]

theorem issueGroup_of_alone (hm : packStall ex s = none) (hx : issueAlone ex s = .next q) : issueGroup ex s = .next (q.settle s.co.idx) := by
  simp only [issueGroup, hm, hx]

theorem State.nextInstr_of_words {w : Nat} {ls : List Nat} {i : Instr} (hw : s.co.words.drop s.co.idx = w :: ls)
    (hd : decodeWord w (ls.take (literalCount w)) = .ok i) : s.nextInstr = some (w, .ok i) := by
  simp only [State.nextInstr, hw, hd]

end StepCases

/-- Settles O52: the agenda, the turn of a hart, and the issue of a held slot, each by its equation of the step. -/
theorem stepRunsDecodedInstruction : Obligations.StepRunsDecodedInstruction := by
  intro s b after
  refine ⟨fun e rest ha => stepWith_of_agenda ha, fun n ha ht hw hp => ⟨fun w i hf hd => ?_, fun w hf hd => ?_, fun e hf => ?_⟩, ?_⟩
  · obtain ⟨t, hx⟩ := exec_goesOn i b
    rw [hx]
    exact stepWith_of_hartInstr ha ht hw hp hf hd hx
  · exact stepWith_of_hartUndecoded ha ht hw hp hf hd
  · exact stepWith_of_hartFetchTrap ha ht hw hp hf
  · intro k n h hs w ls i ha ht hb hn hk hid hws hd hc hp t hm hg
    obtain ⟨q, hx⟩ := exec_goesOn i t
    have halone : issueAlone exec t = .next q := (issueAlone_of_single (s := t) (State.nextInstr_of_words hws hd) hp hc hg).trans hx
    rw [hx]
    calc step s = issueOn exec n t := stepWith_of_burst ha ht hb hn
      _ = issueGroup exec (t.focus h) := issueOn_of_holder hk
      _ = issueGroup exec t := congrArg (issueGroup exec) (State.focus_focused (s := t) hid)
      _ = .next (q.settle t.co.idx) := issueGroup_of_alone hm halone

end Sys2Proof.Machine

/-!
What goes on behind the cohorts: the caches, the walks and the writes to memory change no cohort, team or launch and buffer no store. The
fetch of a clause (R48), the end of a cohort's buffered stores (R345) and the clearing up after a team (R37) are made of such moves.
-/

namespace Sys2Proof.Machine

/-! ## Reading sparse maps -/

section Tables

variable {α β : Type}

/-- What a change of every entry leaves of an entry, it leaves of what is read. -/
theorem Tab.get_map_field (p : α → β) {g : Nat × α → Nat × α} (hk : ∀ e, (g e).1 = e.1) (hp : ∀ e, p (g e).2 = p e.2) (d : α)
    (t : Tab α) (n : Nat) : p (Tab.get d (t.map g) n) = p (Tab.get d t n) := by
  induction t with
  | nil => rfl
  | cons e t ih =>
    obtain ⟨k, v⟩ := e
    have hg : g (k, v) = (k, (g (k, v)).2) := Prod.ext (hk _) rfl
    rw [List.map_cons, hg]
    by_cases h : k = n
    · simpa [Tab.get, h] using hp (n, v)
    · simpa [Tab.get, h] using ih

/-- What is read after entries have been dropped by their keys. -/
theorem Tab.get_filter_key (d : α) (p : Nat → Bool) (t : Tab α) (n : Nat) :
    Tab.get d (t.filter (fun e => p e.1)) n = if p n then Tab.get d t n else d := by
  induction t with
  | nil => simp [Tab.get]
  | cons e t ih =>
    obtain ⟨k, v⟩ := e
    by_cases hk : k = n
    · subst hk
      by_cases hp : p k = true <;> simp [Tab.get, hp, ih]
    · by_cases hp : p k = true <;> simp [Tab.get, hp, ih, hk]

theorem Tab.find_erase_self (t : Tab α) (n : Nat) : Tab.find (t.erase n) n = none := by
  induction t with
  | nil => rfl
  | cons e t ih =>
    obtain ⟨k, v⟩ := e
    by_cases h : k = n <;> simp [Tab.erase, Tab.find, h, ih]

theorem Tab.find_modify_self (t : Tab α) (n : Nat) (f : α → α) : Tab.find (t.modify n f) n = (Tab.find t n).map f := by
  induction t with
  | nil => rfl
  | cons e t ih =>
    obtain ⟨k, v⟩ := e
    unfold Tab.modify at ih ⊢
    by_cases h : k = n <;> simp [Tab.find, h, ih]

/-- An entry outlasts a put, but for the one that was read at the key. -/
theorem Tab.mem_put_of_mem {t : Tab α} {n : Nat} {x : α} {e : Nat × α} (he : e ∈ t) : e ∈ t.put n x ∨ Tab.find t n = some e.2 := by
  induction t with
  | nil => simp at he
  | cons a t ih =>
    obtain ⟨k, v⟩ := a
    rcases Nat.lt_trichotomy k n with hk | hk | hk
    · rcases List.mem_cons.mp he with he | he
      · exact .inl (by simp [Tab.put, hk, he])
      · simpa [Tab.put, Tab.find, hk, hk.ne] using (ih he).imp_left .inr
    · rcases List.mem_cons.mp he with he | he
      · exact .inr (by simp [Tab.find, hk, he])
      · exact .inl (by simp [Tab.put, hk, he])
    · exact .inl (by simp [Tab.put, hk.ne', hk.not_gt, List.mem_cons.mp he])

/-- An entry of a rising map after a put is the one put, or an old one of another key. -/
theorem Tab.mem_put_of_rising {t : Tab α} (ht : (t.map Prod.fst).Pairwise (· < ·)) {n : Nat} {x : α} {e : Nat × α}
    (he : e ∈ t.put n x) : e = (n, x) ∨ e ∈ t ∧ e.1 ≠ n := by
  induction t with
  | nil => exact .inl (by simpa [Tab.put] using he)
  | cons a t ih =>
    obtain ⟨k, v⟩ := a
    obtain ⟨hlt, ht⟩ := List.pairwise_cons.mp ht
    have habove : ∀ y ∈ t, k < y.1 := fun y hy => hlt _ (List.mem_map_of_mem hy)
    rcases Nat.lt_trichotomy k n with hk | hk | hk
    · simp only [Tab.put, if_pos hk, List.mem_cons] at he
      rcases he with he | he
      · exact .inr ⟨by simp [he], by simpa [he] using hk.ne⟩
      · exact (ih ht he).imp_right fun h => ⟨List.mem_cons_of_mem _ h.1, h.2⟩
    · simp only [Tab.put, hk, Nat.lt_irrefl, if_false, if_true, List.mem_cons] at he
      exact he.imp_right fun h => ⟨List.mem_cons_of_mem _ h, by have := habove _ h; omega⟩
    · simp only [Tab.put, if_neg hk.not_gt, if_neg hk.ne', List.mem_cons] at he
      rcases he with he | he | he
      · exact .inl he
      · exact .inr ⟨by simp [he], by simpa [he] using hk.ne'⟩
      · exact .inr ⟨List.mem_cons_of_mem _ he, by have := habove _ he; omega⟩

end Tables

/-! ## Moves behind the cohorts -/

/-- From s to t no cohort, team or launch has changed, and no core has a buffered store that it did not have. -/
structure Backstage (s t : State) : Prop where
  co : t.co = s.co
  cohorts : t.cohorts = s.cohorts
  teams : t.teams = s.teams
  launches : ∀ n, (t.ctx n).launches = (s.ctx n).launches
  wc : ∀ n, ∀ w ∈ (t.core n).wc, w ∈ (s.core n).wc

theorem Backstage.refl (s : State) : Backstage s s := ⟨rfl, rfl, rfl, fun _ => rfl, fun _ _ hw => hw⟩

theorem Backstage.trans {s t u : State} (h : Backstage s t) (k : Backstage t u) : Backstage s u :=
  ⟨k.co.trans h.co, k.cohorts.trans h.cohorts, k.teams.trans h.teams, fun n => (k.launches n).trans (h.launches n),
    fun n w hw => h.wc n w (k.wc n w hw)⟩

/-- A fold of moves, over something that holds the state. -/
theorem Backstage.foldl_of {α σ : Type} (p : σ → State) {f : σ → α → σ} (hf : ∀ q x, Backstage (p q) (p (f q x))) (l : List α) (q : σ) :
    Backstage (p q) (p (l.foldl f q)) := by
  induction l generalizing q with
  | nil => exact .refl _
  | cons x l ih => exact (hf q x).trans (ih _)

theorem Backstage.foldl {α : Type} {f : State → α → State} (hf : ∀ s x, Backstage s (f s x)) (l : List α) (s : State) :
    Backstage s (l.foldl f s) := .foldl_of id hf l s

theorem Backstage.cohort? {s t : State} (h : Backstage s t) (id : Nat) : t.cohort? id = s.cohort? id := by
  simp [State.cohort?, h.co, h.cohorts]

theorem Backstage.team? {s t : State} (h : Backstage s t) (k : Nat) : t.team? k = s.team? k := by
  simp [State.team?, h.teams]

section Moves

variable (s : State)

theorem backstage_modCluster (n : Nat) (f : Cluster → Cluster) : Backstage s (s.modCluster n f) :=
  ⟨rfl, rfl, rfl, fun _ => rfl, fun _ _ hw => hw⟩

/-- A change of a core that leaves its buffered stores, or takes some out. -/
theorem backstage_modCore (n : Nat) (f : Core → Core) (hf : ∀ (c : Core), ∀ w ∈ (f c).wc, w ∈ c.wc) :
    Backstage s (s.modCore n f) := by
  refine ⟨rfl, rfl, rfl, fun _ => rfl, fun m => ?_⟩
  rw [State.core_modCore]
  split
  · next h => exact h ▸ hf _
  · exact fun _ hw => hw

theorem backstage_modCtx (n : Nat) (f : Ctx → Ctx) (hf : ∀ c : Ctx, (f c).launches = c.launches) :
    Backstage s (s.modCtx n f) := by
  refine ⟨rfl, rfl, rfl, fun m => ?_, fun _ _ hw => hw⟩
  rw [State.ctx_modCtx]
  split
  · next h => exact h ▸ hf _
  · rfl

theorem backstage_mapCores {g : Nat × Core → Nat × Core} (hk : ∀ e, (g e).1 = e.1) (hg : ∀ e, (g e).2.wc = e.2.wc) :
    Backstage s { s with cores := s.cores.map g } := by
  refine ⟨rfl, rfl, rfl, fun _ => rfl, fun n w hw => ?_⟩
  rwa [State.core, Tab.get_map_field Core.wc hk hg] at hw

theorem backstage_ticket : Backstage s s.ticket := ⟨rfl, rfl, rfl, fun _ => rfl, fun _ _ hw => hw⟩

theorem backstage_markSectors (line : Nat) (m bad : BitVec 4) : Backstage s (s.markSectors line m bad) :=
  ⟨rfl, rfl, rfl, fun _ => rfl, fun _ _ hw => hw⟩

theorem backstage_clearShare (core b n : Nat) : Backstage s (s.clearShare core b n) :=
  ⟨rfl, rfl, rfl, fun _ => rfl, fun _ _ hw => hw⟩

/-! Memory -/

theorem State.pokes_eq (l : List (Nat × Byte)) : s.pokes l = { s with mem := (s.pokes l).mem } := by
  induction l generalizing s with
  | nil => rfl
  | cons e l ih => exact ih _

theorem Ctx.written_launches (src : Option (Nat × Nat)) (lines : List Nat) (x : Ctx) : (x.written src lines).launches = x.launches := by
  unfold Ctx.written
  split <;> rfl

/-- What a write does beside its bytes (R223, R254, R308, R330). -/
theorem backstage_written (lines : List Nat) : Backstage s { s with
    ctxs := s.ctxs.map (fun e => (e.1, e.2.written none lines))
    harts := s.harts.map (fun e => (e.1, e.2.written lines))
    clusters := s.clusters.map (fun e => (e.1, e.2.written lines))
    cores := s.cores.map (fun e => (e.1, e.2.written none lines)) } :=
  ⟨rfl, rfl, rfl, Tab.get_map_field Ctx.launches (g := fun e => (e.1, e.2.written none lines)) (fun _ => rfl)
    (fun e => Ctx.written_launches none lines e.2) _ _,
    (backstage_mapCores s (g := fun e => (e.1, e.2.written none lines)) (fun _ => rfl) fun _ => rfl).wc⟩

theorem backstage_write (cells : List (Nat × Byte)) : Backstage s (s.write cells) := by
  cases cells with
  | nil => exact .refl s
  | cons e l =>
    unfold State.write State.writeBy
    dsimp only
    rw [State.pokes_eq]
    refine .trans ?_ (backstage_written _ (linesOf (e :: l)))
    split <;> exact ⟨rfl, rfl, rfl, fun _ => rfl, fun _ _ hw => hw⟩

/-! The cluster cache (R307 to R309) -/

theorem backstage_ownLine (cl line : Nat) : Backstage s (s.ownLine cl line) := by
  unfold State.ownLine
  split
  · exact .refl s
  · split
    · exact .refl s
    · exact ((backstage_write s _).trans (backstage_markSectors _ _ _ _)).trans (backstage_modCluster _ _ _)

theorem backstage_ccRoom (cl line site : Nat) : Backstage s (s.ccRoom cl line site) := by
  unfold State.ccRoom
  dsimp only
  split
  · exact .refl s
  · split
    · exact (backstage_ownLine s _ _).trans (backstage_modCluster _ _ _)
    · exact .refl s

theorem backstage_dropReg (cl : Nat) (lines : List Nat) : Backstage s (s.dropReg cl lines) :=
  backstage_mapCores s (fun _ => by split <;> rfl) fun _ => by split <;> rfl

theorem backstage_ccTake (cl line : Nat) (cells : List (Nat × Byte)) (bad : BitVec 4) : Backstage s (s.ccTake cl line cells bad) := by
  unfold State.ccTake
  dsimp only
  refine (backstage_ccRoom s cl line 7302).trans ?_
  split
  · exact ((backstage_write _ _).trans (backstage_markSectors _ _ _ _)).trans (backstage_modCluster _ _ _)
  · exact backstage_modCluster _ _ _

theorem backstage_ccAccept (cl : Nat) (cells : List (Nat × Byte)) (bad : Nat → BitVec 4) : Backstage s (s.ccAccept cl cells bad) :=
  (backstage_dropReg s _ _).trans (.foldl (fun t _ => backstage_ccTake t _ _ _ _) _ _)

theorem backstage_flushCluster (cl : Nat) : Backstage s (s.flushCluster cl) := .foldl (fun t _ => backstage_ownLine t _ _) _ _

/-! The first-level cache (R222, R223) -/

theorem backstage_writeBack (core : Nat) (lines : List Nat) : Backstage s (s.writeBack core lines) := by
  unfold State.writeBack
  dsimp only
  split
  · exact .refl s
  · exact (backstage_ccAccept s _ _ _).trans (backstage_modCore _ _ _ fun _ _ hw => hw)

theorem backstage_dropLines (core : Nat) (lines : List Nat) : Backstage s (s.dropLines core lines) := by
  unfold State.dropLines
  exact (backstage_writeBack s core lines).trans (backstage_modCore _ _ _ fun _ _ hw => hw)

theorem backstage_publish (core : Nat) (lines : List Nat) : Backstage s (s.publish core lines) :=
  (backstage_writeBack s core lines).trans (.foldl (fun t _ => backstage_ownLine t _ _) _ _)

theorem backstage_past (core : Nat) (lines : List Nat) : Backstage s (s.past core lines) :=
  (backstage_publish s core lines).trans (backstage_dropLines _ core lines)

theorem backstage_flushCore (core : Nat) : Backstage s (s.flushCore core) :=
  (backstage_writeBack s _ _).trans (backstage_flushCluster _ _)

/-! The combining buffer (R345), releases and acquires (R336, R337) -/

theorem backstage_drainLine (core : Nat) (w : WcLine) : Backstage s (s.drainLine core w) :=
  (backstage_past s _ _).trans (backstage_write _ _)

/-- The buffered lines that a test names become visible; none of them is buffered then. -/
theorem drainThose_buffer (core : Nat) (mine : WcLine → Bool) :
    Backstage s (s.drainThose core mine) ∧ ∀ w ∈ ((s.drainThose core mine).core core).wc, mine w = false := by
  unfold State.drainThose
  dsimp only
  split
  · have hd := Backstage.foldl (fun t w => backstage_drainLine t core w) ((s.core core).wc.filter mine)
      (s.modCore core (fun c => { c with wc := c.wc.filter (fun w => !mine w) }))
    refine ⟨(backstage_modCore s core _ fun c _ hw => (List.mem_filter.mp hw).1).trans hd, fun w hw => ?_⟩
    have := hd.wc core w hw
    simp only [State.core_modCore, if_true, List.mem_filter] at this
    simpa using this.2
  · next h => exact ⟨.refl s, fun w hw => Bool.eq_false_iff.mpr fun hm => h (List.any_eq_true.mpr ⟨w, hw, hm⟩)⟩

theorem backstage_drainThose (core : Nat) (mine : WcLine → Bool) : Backstage s (s.drainThose core mine) :=
  (drainThose_buffer s core mine).1

theorem backstage_tagLines (core : Nat) (lines : List Nat) (r : Nat) : Backstage s (s.tagLines core lines r) := by
  unfold State.tagLines
  exact backstage_modCore s core _ fun _ _ hw => hw

theorem backstage_release (c : Cohort) (sc : Scope) : Backstage s (s.release c sc) := by
  unfold State.release
  dsimp only
  have drained : Backstage s (s.drainWc c.core (some c.id)) := backstage_drainThose s _ _
  have back := drained.trans (backstage_writeBack _ c.core ((s.drainWc c.core (some c.id)).core c.core).dirtyLines)
  split
  · exact drained
  · split
    · exact back.trans (backstage_tagLines _ _ _ _)
    · exact (back.trans (backstage_flushCluster _ _)).trans (backstage_tagLines _ _ _ _)

theorem backstage_acquire (c : Cohort) (sc : Scope) : Backstage s (s.acquire c sc) := by
  unfold State.acquire
  exact backstage_modCore s _ _ fun _ _ hw => hw

/-! Translation (R346 to R349) -/

theorem backstage_setAD (w : Walked) (k : AccessKind) : Backstage s (setAD s w k) := by
  unfold setAD
  dsimp only
  generalize (if bitsOf w.pte 6 1 == 1 then 0 else 64) + _ = add
  split
  · exact .refl s
  · split <;> exact backstage_write s _

theorem backstage_tlbFill (core ctx vpn : Nat) (l : Leaf) : Backstage s (s.tlbFill core ctx vpn l) := by
  unfold State.tlbFill
  refine .trans ?_ (backstage_modCluster _ _ _)
  exact backstage_modCore s core _ fun _ _ hw => hw

theorem backstage_translate (core : Option Nat) (ctx va : Nat) (k : AccessKind) (site : Nat) :
    Backstage s (translate s core ctx va k site).1 := by
  unfold translate
  dsimp only
  generalize walkSeen s (s.ctx ctx).root va k site = walked
  split
  · split <;> exact .refl s
  · cases walked with
    | error f => exact .refl s
    | ok w =>
      dsimp only
      split
      · exact .refl s
      · refine (backstage_setAD s w k).trans ?_
        cases core with
        | none => exact .refl _
        | some c => exact backstage_tlbFill _ _ _ _ _

theorem backstage_modWalk (cl ctx vpn : Nat) (f : Walk → Walk) : Backstage s (s.modWalk cl ctx vpn f) := backstage_modCluster s cl _

theorem backstage_lookup (c : Cohort) (va : Nat) (k : AccessKind) (site : Nat) : Backstage s (s.lookup c va k site).1 := by
  have own := backstage_translate s (some c.core) c.ctx va k site
  unfold State.lookup
  dsimp only
  repeat' split
  any_goals exact own
  any_goals exact backstage_modWalk s _ _ _ _
  dsimp only
  exact own.trans (backstage_modCluster _ _ _)

/-! The fetch of a clause (R48, R49) -/

theorem backstage_orderedFirst (c : Cohort) (l : Option Leaf) : Backstage s (s.orderedFirst c l) := by
  unfold State.orderedFirst
  repeat' split
  · exact ((backstage_release s _ _).trans (backstage_ticket _)).trans (backstage_acquire _ _ _)
  · exact backstage_drainThose s _ _
  all_goals exact .refl s

theorem backstage_aliasFirst (c : Cohort) (l : Option Leaf) (pas : List Nat) : Backstage s (s.aliasFirst c l pas) := by
  unfold State.aliasFirst
  dsimp only
  have hd (mine : WcLine → Bool) : Backstage s (if l.any Leaf.combining then s else s.drainThose c.core mine) := by
    split
    · exact .refl s
    · exact backstage_drainThose s _ _
  generalize l.elim true Leaf.normal = normal
  cases normal with
  | true => exact hd _
  | false => exact (hd _).trans (backstage_past _ _ _)

theorem backstage_putRo (core : Nat) (k : Bool) (u : Nat) (w : Word) : Backstage s (s.modCore core (fun c => c.putRo k u w)) :=
  backstage_modCore s core _ fun c w hw => by cases k <;> exact hw

theorem backstage_roUnit (core : Nat) (k : Bool) (u site : Nat) : Backstage s (s.roUnit core k u site).1 := by
  unfold State.roUnit
  dsimp only
  repeat' split
  any_goals exact backstage_putRo s _ _ _ _
  all_goals exact .refl s

theorem backstage_roBytes (core : Nat) (k : Bool) (site : Nat) (pas : List Nat) : Backstage s (s.roBytes core k site pas).1 :=
  .foldl_of (σ := State × Tab Word) Prod.fst (fun q _ => backstage_roUnit q.1 core k _ site) _ (s, [])

/-- A read through the constant path. -/
theorem backstage_fetchConst (c : Cohort) (part : Option Leaf × List Nat) (site : Nat) :
    Backstage s (s.fetchPart c .const part site).1 := by
  have first := (backstage_orderedFirst s c part.1).trans (backstage_aliasFirst _ c part.1 part.2)
  unfold State.fetchPart
  dsimp only
  repeat' split
  any_goals exact first
  · exact .refl s
  · exact first.trans (backstage_roBytes _ _ _ _ _)

theorem backstage_codeWords (c : Cohort) (l : List (Leaf × Nat)) (i : Nat) : Backstage s (State.codeWords c i l s).1 := by
  induction l generalizing i s with
  | nil => exact .refl s
  | cons x l ih => exact (backstage_fetchConst s c _ _).trans (ih _ _)

theorem backstage_fetchPlan (c : Cohort) : Backstage s (s.fetchPlan c).1 := by
  have first := backstage_lookup s c c.hdr .fetch 3000
  unfold State.fetchPlan
  generalize s.lookup c c.hdr .fetch 3000 = r at first
  obtain ⟨t, e⟩ := r
  cases e with
  | error f => exact first
  | ok l =>
    dsimp only at first ⊢
    generalize clauseWords _ = n
    split
    · exact first
    · split
      · exact first
      · split
        · exact first
        · have second := first.trans (backstage_lookup t c ((c.hdr + 4 * min n ((4096 - c.hdr % 4096) / 4)) % 2 ^ 64) .fetch 3001)
          generalize t.lookup c _ .fetch 3001 = r at second
          obtain ⟨u, e⟩ := r
          cases e with
          | error f => exact second
          | ok l2 =>
            dsimp only
            split <;> exact second

end Moves

end Sys2Proof.Machine

/-!
Completions, clauses and the end of cohorts (O43). What lands is written register by register; the slot is taken by the chosen cohort and its
mates; the last cohort of a team takes it off its core. What goes on behind the cohorts meanwhile is Backstage.
-/

namespace Sys2Proof.Machine

open Sys2Proof.Claims

/-! ## Values that land (R16, R43, R179) -/

section Landing

variable (c : Cohort) (clause : Nat) (w : Nat × Word) (ws : List (Nat × Word))

theorem Cohort.land_id : (c.land clause w).id = c.id := by
  unfold Cohort.land
  repeat' split
  all_goals rfl

theorem Cohort.land_live : (c.land clause w).v.live = c.v.live := by
  unfold Cohort.land
  repeat' split
  all_goals rfl

theorem Cohort.land_other {k : Nat} (hk : w.1 ≠ k) : Tab.get 0 (c.land clause w).v.regs k = Tab.get 0 c.v.regs k := by
  have hset : Tab.get 0 (c.v.setKey w.1 w.2).regs k = Tab.get 0 c.v.regs k := (Tab.get_set _ _ _ _ _).trans (if_neg hk.symm)
  unfold Cohort.land
  repeat' split
  any_goals exact hset
  all_goals rfl

/-- A value for a live lane, outside t0-t3, is what its register holds. -/
theorem Cohort.land_self (hl : c.v.live.getLsbD (w.1 % 64) = true) (ht : isTemp w.1 = false) :
    Tab.get 0 (c.land clause w).v.regs w.1 = w.2 := by
  have hset : Tab.get 0 (c.v.setKey w.1 w.2).regs w.1 = w.2 := (Tab.get_set _ _ _ _ _).trans (if_pos rfl)
  simpa [Cohort.land, hl, ht] using hset

/-- The values of an operation land in order. -/
def Cohort.landAll (c : Cohort) (clause : Nat) (ws : List (Nat × Word)) : Cohort := ws.foldl (fun c w => c.land clause w) c

theorem Cohort.landAll_id : (c.landAll clause ws).id = c.id := by
  induction ws generalizing c with
  | nil => rfl
  | cons w ws ih => exact (ih _).trans (c.land_id clause w)

theorem Cohort.landAll_other {k : Nat} (hk : ∀ x ∈ ws, x.1 ≠ k) : Tab.get 0 (c.landAll clause ws).v.regs k = Tab.get 0 c.v.regs k := by
  induction ws generalizing c with
  | nil => rfl
  | cons w ws ih =>
    exact (ih _ fun x hx => hk x (List.mem_cons_of_mem _ hx)).trans (c.land_other clause w (hk w List.mem_cons_self))

theorem Cohort.landAll_self (hn : (ws.map Prod.fst).Nodup) (hw : w ∈ ws) (hl : c.v.live.getLsbD (w.1 % 64) = true)
    (ht : isTemp w.1 = false) : Tab.get 0 (c.landAll clause ws).v.regs w.1 = w.2 := by
  induction ws generalizing c with
  | nil => cases hw
  | cons x ws ih =>
    obtain ⟨hx, hn⟩ := List.nodup_cons.mp hn
    rcases List.mem_cons.mp hw with rfl | hw
    · have later : ∀ y ∈ ws, y.1 ≠ w.1 := fun y hy he => hx (he ▸ List.mem_map_of_mem hy)
      exact (Cohort.landAll_other _ clause ws later).trans (c.land_self clause w hl ht)
    · exact ih _ hn hw ((congrArg (·.getLsbD (w.1 % 64)) (c.land_live clause x)).trans hl)

end Landing

section Completion

variable {s : State} {c : Cohort} {o : Op} {co op : Nat}

theorem Cohort.complete_of_op (h : c.op? op = some o) (ws : List (Nat × Word)) : c.complete op ws = (c.landAll o.clause ws).dropOp op := by
  simp only [Cohort.complete, h, Cohort.landAll]

theorem Cohort.complete_id (c : Cohort) (op : Nat) (ws : List (Nat × Word)) : (c.complete op ws).id = c.id := by
  unfold Cohort.complete
  split
  · exact c.landAll_id _ ws
  · rfl

theorem Cohort.op?_dropOp (c : Cohort) (op : Nat) : (c.dropOp op).op? op = none :=
  List.find?_eq_none.mpr fun o ho => by simpa using (List.mem_filter.mp ho).2

/-- A cohort that is changed, and keeps its identity, is found as it has become. -/
theorem State.cohort?_modCohort (h : s.cohort? co = some c) {f : Cohort → Cohort} (hf : (f c).id = c.id) :
    (s.modCohort co f).cohort? co = some (f c) := by
  unfold State.cohort? State.modCohort at *
  by_cases hc : s.co.id = co
  · rw [if_pos hc] at h
    cases h
    simp [hc, hf]
  · rw [if_neg hc] at h
    simp [hc, Tab.find_modify_self, h]

theorem State.modCohort_mem (s : State) (co : Nat) (f : Cohort → Cohort) : (s.modCohort co f).mem = s.mem := by
  unfold State.modCohort
  split <;> rfl

theorem State.modCohort_cores (s : State) (co : Nat) (f : Cohort → Cohort) : (s.modCohort co f).cores = s.cores := by
  unfold State.modCohort
  split <;> rfl

theorem State.completeOp_lands (hc : s.cohort? co = some c) (ho : c.op? op = some o) :
    (s.completeOp co op o.kind).cohort? co = some (c.complete op o.writes) ∧ (s.completeOp co op o.kind).mem = s.mem := by
  refine ⟨?_, State.modCohort_mem _ _ _⟩
  unfold State.completeOp
  rw [State.cohort?_modCohort hc] <;> simp only [ho, if_true, Cohort.complete_id]

theorem reaches_completeOp {i : Instr} {k : OpKind} (hi : exec i s = .next (s.completeOp co op k)) (hc : s.cohort? co = some c)
    (ho : c.op? op = some o) (hk : o.kind = k) :
    Reaches s i (fun q => q.cohort? co = some (c.complete op o.writes) ∧ q.mem = s.mem) :=
  ⟨_, hi, hk ▸ State.completeOp_lands hc ho⟩

/-- The end of a store: the buffered stores of its cohort have become visible (R345). -/
theorem reaches_storeComplete (hc : s.cohort? co = some c) (ho : c.op? op = some o) (hk : o.kind = .store) :
    Reaches s (.storeComplete co op) (fun q => q.cohort? co = some (c.complete op o.writes) ∧ ∀ w ∈ (q.core c.core).wc, w.co ≠ co) := by
  obtain ⟨hb, hw⟩ := drainThose_buffer s c.core (fun w => w.co == co)
  refine ⟨(s.drainWc c.core (some co)).completeOp co op .store, by simp only [exec_storeComplete, execStoreComplete, hc], ?_, fun w h => ?_⟩
  · exact hk ▸ (State.completeOp_lands ((hb.cohort? co).trans hc) ho).1
  · rw [State.core, State.completeOp, State.modCohort_cores] at h
    exact beq_eq_false_iff_ne.mp (hw w h)

end Completion

/-! ## The next clause (R45 to R48, R284 to R290) -/

theorem mem_of_mem_insertBy {α : Type} (f : α → Nat) {x y : α} {l : List α} (h : x ∈ insertBy f y l) : x = y ∨ x ∈ l := by
  induction l with
  | nil => exact .inl (List.mem_singleton.mp h)
  | cons z l ih =>
    unfold insertBy at h
    split at h
    · exact List.mem_cons.mp h
    · rcases List.mem_cons.mp h with h | h
      · exact .inr (h ▸ List.mem_cons_self)
      · exact (ih h).imp_right (List.mem_cons_of_mem _)

theorem mem_of_mem_sortBy {α : Type} (f : α → Nat) {x : α} {l : List α} (h : x ∈ sortBy f l) : x ∈ l := by
  have inserted (l t : List α) (h : x ∈ l.foldl (fun t x => insertBy f x t) t) : x ∈ t ∨ x ∈ l := by
    induction l generalizing t with
    | nil => exact .inl h
    | cons y l ih =>
      rcases ih _ h with h | h
      · exact (mem_of_mem_insertBy f h).elim (fun h => .inr (h ▸ List.mem_cons_self)) .inl
      · exact .inr (List.mem_cons_of_mem _ h)
  exact (inserted l [] h).resolve_left List.not_mem_nil

/-- The mates of a cohort are other cohorts. -/
theorem id_ne_of_mem_packOf {x y : Cohort} {ready : List Cohort} (h : y ∈ packOf x ready) : y.id ≠ x.id := by
  unfold packOf at h
  dsimp only at h
  split at h
  · cases h
  · have hf := (List.mem_filter.mp (mem_of_mem_sortBy _ (List.mem_of_mem_take h))).2
    simp only [Bool.and_eq_true, bne_iff_ne] at hf
    exact hf.1.1.1

section Clause

variable {s : State}

/-- t is s but for cohorts other than the focused one. -/
def SameFocus (s t : State) : Prop := t.co = s.co ∧ t.cores = s.cores ∧ t.mem = s.mem

theorem SameFocus.trans {s t u : State} (h : SameFocus s t) (k : SameFocus t u) : SameFocus s u :=
  ⟨k.1.trans h.1, k.2.1.trans h.2.1, k.2.2.trans h.2.2⟩

theorem sameFocus_modCohort {id : Nat} (h : id ≠ s.co.id) (f : Cohort → Cohort) : SameFocus s (s.modCohort id f) := by
  rw [State.modCohort, if_neg h.symm]
  exact ⟨rfl, rfl, rfl⟩

theorem sameFocus_foldl {α : Type} (id : α → Nat) (f : State → α → Cohort → Cohort) {l : List α} (h : ∀ a ∈ l, id a ≠ s.co.id) :
    SameFocus s (l.foldl (fun s a => s.modCohort (id a) (f s a)) s) := by
  induction l generalizing s with
  | nil => exact ⟨rfl, rfl, rfl⟩
  | cons a l ih =>
    have head := sameFocus_modCohort (h a List.mem_cons_self) (f s a)
    exact head.trans (ih fun b hb => head.1.symm ▸ h b (List.mem_cons_of_mem _ hb))

/-- Every cohort of a pack is changed, the focused one first. -/
theorem foldl_pack (f : State → Cohort → Cohort) {lead : Nat} {mates : List Nat} (hl : s.co.id = lead) (hf : (f s s.co).id = lead)
    (hm : ∀ i ∈ mates, i ≠ lead) :
    SameFocus { s with co := f s s.co } ((lead :: mates).foldl (fun s i => s.modCohort i (f s)) s) := by
  rw [List.foldl_cons, State.modCohort, if_pos hl]
  exact sameFocus_foldl (s := { s with co := f s s.co }) id (fun s _ => f s) fun i hi => hf.symm ▸ hm i hi

/-- The issue of a clause is counted: for the cohorts that it passes over, for the pack that it takes, and for the core (R287). -/
def State.countIssue (ready : List Cohort) (pack : List Nat) (core lead : Nat) (s : State) : State :=
  let s := (ready.filter (fun c => !pack.contains c.id)).foldl (fun s c => s.modCohort c.id (fun c => c.skipped s.tick)) s
  let s := pack.foldl (fun s i => s.modCohort i (fun c => { c with skip := 0, stamp := s.tick })) s
  s.modCore core (fun k => { k with run := if k.prev = some lead then k.run + 1 else 1, prev := some lead, prevOk := false })

/-- A pack takes the slot of a core at the first word of a clause whose words are given (R284, R289). -/
def State.holdClause (ready : List Cohort) (pack : List Nat) (core lead : Nat) (s : State) (ws : List Nat) : State :=
  let t := pack.foldl (fun t i => t.modCohort i (fun c => c.start t.tick s.fresh ws)) { s with fresh := s.fresh + 1 }
  (t.countIssue ready pack core lead).modCore core (fun k => { k with holder := pack })

/-- A held slot goes on with its holder. -/
theorem exec_selectClause_of_holder {core h : Nat} {hs : List Nat} (hk : (s.core core).holder = h :: hs) :
    exec (.selectClause core) s = .next (s.focus h) := by
  simp only [exec_selectClause, execSelectClause, hk]

/-- The clause of the chosen cohort has been fetched and decoded: its pack takes the slot. -/
theorem exec_selectClause_of_fetched {t u : State} {core : Nat} {x : Cohort} {pas : List (Leaf × Nat)} {ws : List Nat} {hd : Header}
    (hk : (s.core core).holder = []) (hx : chooseCohort (s.core core) (s.readyOn core) = some x) (hm : x.mid = false)
    (hp : (s.focus x.id).fetchPlan x = (t, .ok pas)) (hh : t.fetchHeld x pas = none) (hw : State.codeWords x 0 pas t = (u, ws))
    (hd : decodeClause x.W ws = .ok hd) : exec (.selectClause core) s =
      .next (u.holdClause (s.readyOn core) (x.id :: (packOf x (s.readyOn core)).map Cohort.id) core x.id ws) := by
  simp only [exec_selectClause, execSelectClause, hk, hx, hm, hp, hh, hw, hd]
  rfl

theorem Cohort.start_of_boundary (c : Cohort) (tick clause : Nat) (ws : List Nat) (hm : c.mid = false) : c.start tick clause ws =
    { c with skip := 0, stamp := tick, mid := true, words := ws, idx := 1, clause := clause, skid := c.skid || c.asked, pre := none } := by
  simp [Cohort.start, hm]

/-- Counting an issue changes the focused cohort, which leads the pack, in its counts alone. -/
theorem countIssue_focused {ready : List Cohort} {core lead : Nat} {mates : List Nat} (hl : s.co.id = lead) (hm : ∀ i ∈ mates, i ≠ lead) :
    let q := s.countIssue ready (lead :: mates) core lead
    (∃ stamp, q.co = { s.co with skip := 0, stamp := stamp }) ∧ q.mem = s.mem := by
  have passed := sameFocus_foldl (s := s) Cohort.id (fun t _ c => c.skipped t.tick)
    (l := ready.filter (fun c => !(lead :: mates).contains c.id)) fun c hc he => by
      simpa [he, hl] using (List.mem_filter.mp hc).2
  have taken := foldl_pack (fun t c => { c with skip := 0, stamp := t.tick }) (passed.1.symm ▸ hl) (passed.1.symm ▸ hl) hm
  exact ⟨⟨_, taken.1.trans (by rw [passed.1])⟩, taken.2.2.trans passed.2.2⟩

/-- The focused cohort and its mates hold the slot; it stands at the first word of the clause, and memory is as it was. -/
theorem holdClause_focused {ready : List Cohort} {core lead : Nat} {mates ws : List Nat} (hl : s.co.id = lead) (hb : s.co.mid = false)
    (hm : ∀ i ∈ mates, i ≠ lead) :
    let q := s.holdClause ready (lead :: mates) core lead ws
    (q.core core).holder = lead :: mates ∧
      (∃ stamp, q.co = { s.co with
        skip := 0, stamp := stamp, mid := true, words := ws, idx := 1, clause := s.fresh, skid := s.co.skid || s.co.asked, pre := none }) ∧
      q.mem = s.mem := by
  have hstart := s.co.start_of_boundary s.tick s.fresh ws hb
  have begun := foldl_pack (s := { s with fresh := s.fresh + 1 }) (fun t c => c.start t.tick s.fresh ws) hl
    ((congrArg Cohort.id hstart).trans hl) hm
  obtain ⟨⟨stamp, hco⟩, hmem⟩ := countIssue_focused (ready := ready) (core := core) (((congrArg Cohort.id begun.1).trans
    (congrArg Cohort.id hstart)).trans hl) hm
  refine ⟨by simp [State.holdClause], ⟨stamp, hco.trans ?_⟩, hmem.trans begun.2.2⟩
  rw [begun.1]
  simp only [hstart]

theorem State.focus_co {id : Nat} {x : Cohort} (h : s.cohort? id = some x) : (s.focus id).co = x := by
  unfold State.cohort? State.focus at *
  split at h
  · next hc => simpa [hc] using h
  · next hc => simp [hc, h]

/-- The chosen cohort and its mates take a free slot, at the first word of the clause that has been fetched at its pc. -/
theorem reaches_selectClause {t u : State} {core : Nat} {x : Cohort} {pas : List (Leaf × Nat)} {ws : List Nat}
    (hk : (s.core core).holder = []) (hx : chooseCohort (s.core core) (s.readyOn core) = some x) (hc : s.cohort? x.id = some x)
    (hm : x.mid = false) (hp : (s.focus x.id).fetchPlan x = (t, .ok pas)) (hh : t.fetchHeld x pas = none)
    (hw : State.codeWords x 0 pas t = (u, ws)) (hd : ∃ hd, decodeClause x.W ws = .ok hd) :
    Reaches s (.selectClause core) (fun q => (q.core core).holder = x.id :: (packOf x (s.readyOn core)).map Cohort.id ∧
      q.co.id = x.id ∧ q.co.words = ws ∧ q.co.idx = 1 ∧ q.co.mid = true ∧ q.co.hdr = x.hdr ∧ q.co.skip = 0 ∧ q.co.v = x.v ∧
      q.mem = u.mem) := by
  obtain ⟨hd, hd⟩ := hd
  have plan := backstage_fetchPlan (s.focus x.id) x
  have words := backstage_codeWords t x pas 0
  rw [hp] at plan
  rw [hw] at words
  have hco : u.co = x := (words.co.trans plan.co).trans (State.focus_co hc)
  have mates : ∀ i ∈ (packOf x (s.readyOn core)).map Cohort.id, i ≠ x.id := fun i hi => by
    obtain ⟨y, hy, rfl⟩ := List.mem_map.mp hi
    exact id_ne_of_mem_packOf hy
  obtain ⟨hold, ⟨stamp, hq⟩, hmem⟩ := holdClause_focused (s := u) (ready := s.readyOn core) (core := core) (ws := ws)
    (congrArg Cohort.id hco) (hco ▸ hm) mates
  refine ⟨_, exec_selectClause_of_fetched hk hx hm hp hh hw hd, hold, ?_, ?_, ?_, ?_, ?_, ?_, ?_, hmem⟩
  all_goals rw [hq]
  all_goals simp only [hco]

end Clause

/-! ## The end of a cohort (R37, R167, R217) -/

section End

variable {s : State} {c : Cohort} {t : Team} {co : Nat}

theorem State.cohort?_setCohort (s : State) (c : Cohort) : (s.setCohort c).cohort? c.id = some c := by
  unfold State.setCohort State.cohort?
  split <;> simp [*, Tab.find_put]

theorem State.setCohort_mem (s : State) (c : Cohort) : (s.setCohort c).mem = s.mem := by
  unfold State.setCohort
  split <;> rfl

theorem State.setCohort_teams (s : State) (c : Cohort) : (s.setCohort c).teams = s.teams := by
  unfold State.setCohort
  split <;> rfl

theorem State.setCohort_ctxs (s : State) (c : Cohort) : (s.setCohort c).ctxs = s.ctxs := by
  unfold State.setCohort
  split <;> rfl

theorem State.mem_allCohorts (s : State) (y : Cohort) : y ∈ s.allCohorts ↔ (s.co.id ≠ 0 ∧ y = s.co) ∨ ∃ e ∈ s.cohorts, e.2 = y := by
  by_cases h : s.co.id = 0 <;> simp [State.allCohorts, Tab.vals, h]

theorem State.mem_cohortsOf (s : State) (key : Nat) (y : Cohort) : y ∈ s.cohortsOf key ↔ y ∈ s.allCohorts ∧ y.team = key ∧ y.ended = false := by
  simp [State.cohortsOf]

/-- Another cohort stays resident when one is stored. -/
theorem State.mem_allCohorts_setCohort {x y : Cohort} (hc : s.cohort? c.id = some x) (hx : x.id = c.id) (hy : y ∈ s.allCohorts)
    (hne : y.id ≠ c.id) : y ∈ (s.setCohort c).allCohorts := by
  rw [State.mem_allCohorts] at hy ⊢
  unfold State.setCohort
  split
  · next h => exact .inr (hy.resolve_left fun hf => hne (hf.2 ▸ h))
  · next h =>
    refine hy.imp_right fun ⟨e, he, hy⟩ => ?_
    rcases Tab.mem_put_of_mem (n := c.id) (x := c) he with hp | hf
    · exact ⟨e, hp, hy⟩
    · rw [State.cohort?, if_neg h, hf] at hc
      exact absurd hx (Option.some.inj hc ▸ hy ▸ hne)

/-- Where every cohort is listed once, by its identity, what is resident after one is stored is that one, or another than it. -/
theorem State.mem_allCohorts_of_setCohort {y : Cohort} (hs : (s.cohorts.map Prod.fst).Pairwise (· < ·))
    (hid : ∀ e ∈ s.cohorts, e.2.id = e.1 ∧ e.1 ≠ s.co.id) (hy : y ∈ (s.setCohort c).allCohorts) :
    y = c ∨ y ∈ s.allCohorts ∧ y.id ≠ c.id := by
  rw [State.mem_allCohorts] at hy ⊢
  unfold State.setCohort at hy
  split at hy
  · next h =>
    refine hy.imp And.right fun ⟨e, he, hy⟩ => ⟨.inr ⟨e, he, hy⟩, ?_⟩
    rw [← hy, (hid e he).1, ← h]
    exact (hid e he).2
  · next h =>
    rcases hy with hy | ⟨e, he, hy⟩
    · exact .inr ⟨.inl hy, hy.2 ▸ h⟩
    · rcases Tab.mem_put_of_rising hs he with he | ⟨he, hne⟩
      · exact .inl (hy ▸ congrArg Prod.snd he)
      · exact .inr ⟨.inr ⟨e, he, hy⟩, by rwa [← hy, (hid e he).1]⟩

/-- The team counts a cohort that has ended. -/
def Team.withDone (t : Team) (c : Cohort) : Team := { t with done := t.done ||| BitVec.ofNat 32 (2 ^ c.cohid) }

/-- The cohort has ended, and its team counts it. -/
def State.withEnded (s : State) (c : Cohort) (t : Team) : State :=
  (s.setCohort { c with ended := true, wait := none }).setTeam (t.withDone c)

theorem exec_cohortEnd_of_exited (hc : s.cohort? co = some c) (hx : c.exited = true) (he : c.ended = false) (ho : c.v.ops = [])
    (ht : s.team? c.team = some t) : exec (.cohortEnd co) s = .next (if ((s.withEnded c t).cohortsOf t.key).isEmpty then
      (s.withEnded c t).endTeam (t.withDone c) else s.withEnded c t) := by
  have ht' : (s.setCohort { c with ended := true, wait := none }).team? c.team = some t := by rwa [State.team?, State.setCohort_teams]
  have ends : (c.exited && !c.ended && c.v.ops.isEmpty) = true := by simp [hx, he, ho]
  simp only [exec_cohortEnd, execCohortEnd, endCohort, hc, ends, ht', if_true]
  rfl

/-- While another cohort of the team has not ended, the team stays. -/
theorem reaches_cohortEnd_sibling (hc : s.cohort? co = some c) (hid : c.id = co) (hx : c.exited = true) (he : c.ended = false)
    (ho : c.v.ops = []) (ht : s.team? c.team = some t) (hk : t.key = c.team) (hy : ∃ y ∈ s.cohortsOf t.key, y.id ≠ co) :
    Reaches s (.cohortEnd co) (fun q => q.mem = s.mem ∧ q.cohort? co = some { c with ended := true, wait := none } ∧
      q.team? c.team = some { t with done := t.done ||| BitVec.ofNat 32 (2 ^ c.cohid) }) := by
  subst hid
  obtain ⟨y, hy, hne⟩ := hy
  obtain ⟨hy, hteam, hended⟩ := (s.mem_cohortsOf _ _).mp hy
  have stays : y ∈ (s.withEnded c t).cohortsOf t.key :=
    (State.mem_cohortsOf _ _ _).mpr ⟨State.mem_allCohorts_setCohort (c := { c with ended := true, wait := none }) hc rfl hy hne, hteam, hended⟩
  refine ⟨s.withEnded c t, ?_, s.setCohort_mem _, s.cohort?_setCohort _, ?_⟩
  · rw [exec_cohortEnd_of_exited hc hx he ho ht, if_neg fun hn => ?_]
    rw [List.isEmpty_iff.mp hn] at stays
    exact List.not_mem_nil stays
  · exact (State.team?_setTeam _ _ _).trans (if_pos hk.symm)

/-! The departure of a team -/

theorem State.byte_clearShare (s : State) (core b n a : Nat) : (s.clearShare core b n).byte a =
    if slotAddr core (spOffset + 16384 * b) ≤ a ∧ a < slotAddr core (spOffset + 16384 * (b + n)) then 0 else s.byte a := by
  refine (Tab.get_filter_key memDefault (fun x => !(decide (slotAddr core (spOffset + 16384 * b) ≤ x) &&
    decide (x < slotAddr core (spOffset + 16384 * (b + n))))) s.mem a).trans ?_
  by_cases h : slotAddr core (spOffset + 16384 * b) ≤ a ∧ a < slotAddr core (spOffset + 16384 * (b + n))
  · simp [h, memDefault]
  · simp only [Bool.not_eq_true', Bool.and_eq_false_iff, decide_eq_false_iff_not, if_neg h]
    exact if_pos (not_and_or.mp h)

section Releases

variable (s : State)

theorem State.byte_releaseClaim (core a : Nat) : (s.releaseClaim core).byte a = s.byte a := by
  unfold State.releaseClaim
  repeat' split
  all_goals rfl

theorem State.byte_releaseCluster (ctx lid cl a : Nat) : (s.releaseCluster ctx lid cl).byte a = s.byte a := by
  unfold State.releaseCluster
  split <;> rfl

theorem State.byte_reclaim (ctx a : Nat) : (s.reclaim ctx).byte a = s.byte a := by
  unfold State.reclaim
  split <;> rfl

theorem backstage_releaseClaim (core : Nat) : Backstage s (s.releaseClaim core) := by
  unfold State.releaseClaim
  repeat' split
  any_goals exact backstage_modCore s _ _ fun _ _ hw => hw
  all_goals exact .refl s

theorem backstage_releaseCluster (ctx lid cl : Nat) : Backstage s (s.releaseCluster ctx lid cl) := by
  unfold State.releaseCluster
  split
  · exact .refl s
  · exact backstage_modCluster s _ _

theorem backstage_reclaim (ctx : Nat) : Backstage s (s.reclaim ctx) := by
  unfold State.reclaim
  dsimp only
  split
  · exact .refl s
  · exact backstage_modCtx s _ _ fun _ => rfl

end Releases

/-- A team and its cohorts are gone. -/
def State.withoutTeam (s : State) (t : Team) : State :=
  { (s.leaveArrivals t).dropTeam t.key with
    cohorts := s.cohorts.filter (fun e => e.2.team != t.key)
    co := if s.co.team = t.key then Cohort.init else s.co }

/-- The walks of its cluster no longer answer its cohorts. -/
def State.sweepWalks (s : State) (t : Team) : State :=
  s.modCluster (clusterOf t.core) (fun q => { q with
    walks := (q.walks.map (fun w => { w with reqs := w.reqs.filter (fun i => !t.cohorts.contains i) })).filter (fun w =>
      !w.ended || !w.reqs.isEmpty) })

/-- Its stores on a core are performed for every agent, and its cohorts leave the core's slot. -/
def State.sweepCore (s : State) (t : Team) (core : Nat) : State :=
  ((s.drainThose core (fun w => t.cohorts.contains w.co)).flushCore core).modCore core (fun k =>
    { k with holder := k.holder.filter (fun i => !t.cohorts.contains i) })

/-- Its share on a core is cleared, and the core's claim released with its context's last team. -/
def State.yieldShare (s : State) (t : Team) (core b : Nat) : State := (s.clearShare core b t.shareN).releaseClaim core

theorem State.departTeam_of_single (s : State) (t : Team) (hp : t.pair = false) : s.departTeam t =
    (((((s.withoutTeam t).sweepWalks t).sweepCore t t.core).yieldShare t t.core t.shareB).releaseCluster t.ctx t.lid
      (clusterOf t.core)).reclaim t.ctx := by
  simp only [State.departTeam, hp, Bool.false_eq_true, if_false]
  rfl

theorem State.departTeam_of_pair (s : State) (t : Team) (hp : t.pair = true) : s.departTeam t =
    (((((((s.withoutTeam t).sweepWalks t).sweepCore t t.core).sweepCore t (t.core + 1)).yieldShare t t.core t.shareB).yieldShare t
      (t.core + 1) t.shareB2).releaseCluster t.ctx t.lid (clusterOf t.core)).reclaim t.ctx := by
  simp only [State.departTeam, hp, if_true]
  rfl

theorem backstage_sweepWalks (s : State) (t : Team) : Backstage s (s.sweepWalks t) := backstage_modCluster s _ _

theorem backstage_sweepCore (s : State) (t : Team) (core : Nat) : Backstage s (s.sweepCore t core) := by
  unfold State.sweepCore
  exact ((backstage_drainThose s core _).trans (backstage_flushCore _ core)).trans (backstage_modCore _ _ _ fun _ _ hw => hw)

theorem backstage_yieldShare (s : State) (t : Team) (core b : Nat) : Backstage s (s.yieldShare t core b) :=
  (backstage_clearShare s core b t.shareN).trans (backstage_releaseClaim _ core)

/-- What else a departing team leaves goes on behind the cohorts that stay. -/
theorem backstage_departTeam (s : State) (t : Team) : Backstage (s.withoutTeam t) (s.departTeam t) := by
  have swept := (backstage_sweepWalks (s.withoutTeam t) t).trans (backstage_sweepCore _ t t.core)
  have last (q : State) := (backstage_releaseCluster q t.ctx t.lid (clusterOf t.core)).trans (backstage_reclaim _ t.ctx)
  cases hp : t.pair
  · rw [s.departTeam_of_single t hp]
    exact (swept.trans (backstage_yieldShare _ t _ _)).trans (last _)
  · rw [s.departTeam_of_pair t hp]
    exact (((swept.trans (backstage_sweepCore _ t _)).trans (backstage_yieldShare _ t _ _)).trans
      (backstage_yieldShare _ t _ _)).trans (last _)

/-- A byte of a team's share on a core. -/
def InTeamShare (t : Team) (core b a : Nat) : Prop :=
  slotAddr core (spOffset + 16384 * b) ≤ a ∧ a < slotAddr core (spOffset + 16384 * (b + t.shareN))

theorem State.byte_yieldShare_in (s : State) {t : Team} {core b a : Nat} (h : InTeamShare t core b a) :
    (s.yieldShare t core b).byte a = 0 :=
  (State.byte_releaseClaim _ _ _).trans ((s.byte_clearShare _ _ _ _).trans (if_pos h))

theorem State.byte_yieldShare_zero (s : State) (t : Team) {core b a : Nat} (h : s.byte a = 0) : (s.yieldShare t core b).byte a = 0 :=
  (State.byte_releaseClaim _ _ _).trans ((s.byte_clearShare _ _ _ _).trans (by rw [h, ite_self]))

/-- The shares of a departing team read 0. -/
theorem State.byte_departTeam (s : State) (t : Team) {a : Nat}
    (h : InTeamShare t t.core t.shareB a ∨ t.pair = true ∧ InTeamShare t (t.core + 1) t.shareB2 a) : (s.departTeam t).byte a = 0 := by
  cases hp : t.pair
  · have first := h.resolve_right fun hb => absurd hb.1 (by simp [hp])
    rw [s.departTeam_of_single t hp, State.byte_reclaim, State.byte_releaseCluster]
    exact State.byte_yieldShare_in _ first
  · rw [s.departTeam_of_pair t hp, State.byte_reclaim, State.byte_releaseCluster]
    rcases h with first | second
    · exact State.byte_yieldShare_zero _ t (State.byte_yieldShare_in _ first)
    · exact State.byte_yieldShare_in _ second.2

/-- A launch counts a team that has ended. -/
theorem launches_endTeam (s : State) (t : Team) : ((s.endTeam t).ctx t.ctx).launches =
    (s.ctx t.ctx).launches.map (fun l => if l.order = t.order then { l with ended := l.ended + 1 } else l) := by
  unfold State.endTeam State.modLaunch
  rw [State.ctx_modCtx, if_pos rfl]
  exact congrArg (List.map _) ((backstage_departTeam s t).launches t.ctx)

theorem team?_endTeam (s : State) (t : Team) : (s.endTeam t).team? t.key = none :=
  ((backstage_departTeam s t).team? t.key).trans (Tab.find_erase_self _ _)

/-- With its last cohort a team departs: its launch counts it, and its shares read 0. -/
theorem reaches_cohortEnd_last (hc : s.cohort? co = some c) (hid : c.id = co) (hx : c.exited = true) (he : c.ended = false)
    (ho : c.v.ops = []) (ht : s.team? c.team = some t) (hk : t.key = c.team) (hlast : ∀ y ∈ s.cohortsOf t.key, y.id = co)
    (hs : (s.cohorts.map Prod.fst).Pairwise (· < ·)) (hids : ∀ e ∈ s.cohorts, e.2.id = e.1 ∧ e.1 ≠ s.co.id) :
    Reaches s (.cohortEnd co) (fun q => q.team? c.team = none ∧
      (∀ l ∈ (s.ctx t.ctx).launches, l.order = t.order → ∃ l' ∈ (q.ctx t.ctx).launches, l'.order = l.order ∧ l'.ended = l.ended + 1) ∧
      (∀ a, slotAddr t.core (spOffset + 16384 * t.shareB) ≤ a → a < slotAddr t.core (spOffset + 16384 * (t.shareB + t.shareN)) →
        q.byte a = 0) ∧
      (t.pair = true → ∀ a, slotAddr (t.core + 1) (spOffset + 16384 * t.shareB2) ≤ a →
        a < slotAddr (t.core + 1) (spOffset + 16384 * (t.shareB2 + t.shareN)) → q.byte a = 0)) := by
  subst hid
  have none_left : ((s.withEnded c t).cohortsOf t.key).isEmpty = true := by
    refine List.isEmpty_iff.mpr (List.eq_nil_iff_forall_not_mem.mpr fun y hy => ?_)
    obtain ⟨hy, hteam, hended⟩ := (State.mem_cohortsOf _ _ _).mp hy
    rcases State.mem_allCohorts_of_setCohort hs hids hy with rfl | ⟨hy, hne⟩
    · cases hended
    · exact hne (hlast y ((s.mem_cohortsOf _ _).mpr ⟨hy, hteam, hended⟩))
  have bytes (a : Nat) := State.byte_departTeam (s.withEnded c t) (t.withDone c) (a := a)
  have launches := launches_endTeam (s.withEnded c t) (t.withDone c)
  refine ⟨(s.withEnded c t).endTeam (t.withDone c), ?_, ?_, fun l hl hord => ⟨{ l with ended := l.ended + 1 }, ?_, rfl, rfl⟩,
    fun a hlo hhi => bytes a (.inl ⟨hlo, hhi⟩), fun hp a hlo hhi => bytes a (.inr ⟨hp, hlo, hhi⟩)⟩
  · rw [exec_cohortEnd_of_exited hc hx he ho ht, if_pos none_left]
  · rw [← hk]
    exact team?_endTeam _ (t.withDone c)
  · have hl' : l ∈ ((s.withEnded c t).ctx t.ctx).launches := by
      rwa [State.ctx, show (s.withEnded c t).ctxs = s.ctxs from s.setCohort_ctxs _]
    exact launches ▸ List.mem_map.mpr ⟨l, hl', if_pos hord⟩

end End

/-- Settles O43: what lands, the clause that the slot takes, and the end of a cohort beside others and as the last. -/
theorem completionsAndClauses : Obligations.CompletionsAndClauses := by
  refine ⟨fun s co op c o hc hid => ⟨fun ho => ⟨?_, ?_, ?_, ?_, ?_, ?_, ?_, ?_, ?_⟩, ?_⟩, fun s t u core co h x c ws hs pas tm => ⟨?_, ?_, ?_⟩⟩
  · exact reaches_completeOp (exec_sfuResult s co op) hc ho
  · exact reaches_completeOp (exec_loadComplete s co op) hc ho
  · exact reaches_completeOp (exec_atomicComplete s co op) hc ho
  · exact reaches_completeOp (exec_prefComplete s co op) hc ho
  · exact reaches_completeOp (exec_cacheMaintComplete s co op) hc ho
  · exact reaches_storeComplete hc ho
  · rw [Cohort.complete_of_op ho]
    exact Cohort.op?_dropOp _ _
  · rw [Cohort.complete_of_op ho]
    exact fun w hw hn ht hl => c.landAll_self o.clause w o.writes hn hw hl ht
  · rw [Cohort.complete_of_op ho]
    exact fun k hk => c.landAll_other o.clause o.writes hk
  · exact ⟨_, exec_fenceComplete s co, State.cohort?_modCohort hc rfl, s.modCohort_mem _ _⟩
  · exact fun hk => ⟨_, exec_selectClause_of_holder hk, rfl⟩
  · exact reaches_selectClause
  · exact fun hc hid hx he ho ht hk => ⟨reaches_cohortEnd_sibling hc hid hx he ho ht hk, reaches_cohortEnd_last hc hid hx he ho ht hk⟩

end Sys2Proof.Machine

/-!
Integer arithmetic (O1). Each instruction is one lane operation; what is particular to it is the value that it computes, which is the exact
result of R77 to R81 brought to the width of its destination.
-/

namespace Sys2Proof.Machine

open Sys2Proof.Claims

/-! ## The lane operations of the family, with the value that each computes -/

section LaneOps

variable {s : State} {i : Instr} {u : Bool} {d a b e : Reg}

theorem one_of_un {f g : Word → Word} (h : exec i s = s.un u d a f) (hf : ∀ x, f x = g x) : One s i u d a g :=
  lanes_of_eq h fun _ => hf _

theorem two_of_bin {f g : Word → Word → Word} (h : exec i s = s.bin u d a b f) (hf : ∀ x y, f x y = g x y) : Two s i u d a b g :=
  lanes_of_eq h fun _ => hf _ _

theorem lanes_of_tern {f g : Word → Word → Word → Word} (h : exec i s = s.tern d a b e f) (hf : ∀ x y z, f x y z = g x y z) :
    Lanes s i false d 1 (fun l => g (s.co.get a l) (s.co.get b l) (s.co.get e l)) :=
  lanes_of_eq h fun _ => hf _ _ _

theorem lanesPair_of_bin64 {f g : DWord → DWord → DWord} (hS : Shape s.co) (hd : d.even = true) (h : exec i s = s.bin64 u d a b f)
    (hf : ∀ x y, f x y = g x y) : LanesPair s i u d 1 (fun l => g (s.co.getPair a l) (s.co.getPair b l)) :=
  lanesPair_of_eq hS hd h fun _ => hf _ _

end LaneOps

/-! ## Arithmetic at a width is exact arithmetic brought to the width (R77 to R81) -/

section Arithmetic

variable {n : Nat} (x y z : BitVec n)

theorem add_eq_ofInt : x + y = BitVec.ofInt n (x.toInt + y.toInt) := by
  rw [BitVec.ofInt_add, BitVec.ofInt_toInt, BitVec.ofInt_toInt]

theorem mul_eq_ofInt : x * y = BitVec.ofInt n (x.toInt * y.toInt) := by
  rw [BitVec.ofInt_mul, BitVec.ofInt_toInt, BitVec.ofInt_toInt]

theorem sub_eq_ofInt : x - y = BitVec.ofInt n (x.toInt - y.toInt) := by
  rw [Int.sub_eq_add_neg, BitVec.ofInt_add, BitVec.ofInt_neg, BitVec.ofInt_toInt, BitVec.ofInt_toInt, BitVec.sub_eq_add_neg]

theorem zero_sub_eq_ofInt : 0 - x = BitVec.ofInt n (-x.toInt) := by
  rw [BitVec.ofInt_neg, BitVec.ofInt_toInt, zero_sub]

theorem mul_add_eq_ofInt : x * y + z = BitVec.ofInt n (x.toInt * y.toInt + z.toInt) := by
  rw [BitVec.ofInt_add, ← mul_eq_ofInt, BitVec.ofInt_toInt]

theorem add_signExtend_eq_ofInt {m : Nat} (imm : BitVec m) : x + imm.signExtend n = BitVec.ofInt n (x.toInt + imm.toInt) := by
  rw [BitVec.ofInt_add, BitVec.ofInt_toInt, BitVec.signExtend]

end Arithmetic

theorem abs_eq_ofNat (x : Word) : (if x.msb then 0 - x else x) = BitVec.ofNat 32 x.toInt.natAbs := by
  rw [← BitVec.ofInt_natCast]
  cases h : x.msb with
  | true =>
    have hneg : x.toInt < 0 := of_decide_eq_true (BitVec.msb_eq_toInt.symm.trans h)
    rw [if_pos rfl, zero_sub_eq_ofInt, Int.ofNat_natAbs_of_nonpos hneg.le]
  | false =>
    have hpos : 0 ≤ x.toInt := Int.not_lt.mp (of_decide_eq_false (BitVec.msb_eq_toInt.symm.trans h))
    rw [if_neg Bool.false_ne_true, Int.natAbs_of_nonneg hpos, BitVec.ofInt_toInt]

theorem hiOf_ofNat (n : Nat) : hiOf (BitVec.ofNat 64 n) = BitVec.ofNat 32 (n / 2 ^ 32) := by
  apply BitVec.eq_of_toNat_eq
  simp only [hiOf, BitVec.toNat_setWidth, BitVec.toNat_ushiftRight, BitVec.toNat_ofNat, Nat.shiftRight_eq_div_pow]
  omega

theorem hiOf_ofInt (n : Int) : hiOf (BitVec.ofInt 64 n) = BitVec.ofInt 32 (n / 2 ^ 32) := by
  apply BitVec.eq_of_toNat_eq
  simp only [hiOf, BitVec.toNat_setWidth, BitVec.toNat_ushiftRight, BitVec.toNat_ofInt, Nat.shiftRight_eq_div_pow]
  omega

theorem mulhS_eq (x y : Word) : mulhS x y = BitVec.ofInt 32 (x.toInt * y.toInt / 2 ^ 32) := by
  rw [mulhS, BitVec.signExtend, BitVec.signExtend, ← BitVec.ofInt_mul, hiOf_ofInt]

theorem mulhU_eq (x y : Word) : mulhU x y = BitVec.ofNat 32 (x.toNat * y.toNat / 2 ^ 32) := by
  rw [mulhU, ← hiOf_ofNat, BitVec.ofNat_mul, BitVec.ofNat_toNat, BitVec.ofNat_toNat]

/-! ## The integers that words stand for (R77, R93) -/

/-- The integer that a word stands for, unsigned or signed. -/
def intOf {n : Nat} (uns : Bool) (x : BitVec n) : Int := if uns then x.toNat else x.toInt

theorem intOf_inj {n : Nat} {uns : Bool} {x y : BitVec n} : intOf uns x = intOf uns y ↔ x = y := by
  cases uns with
  | true => exact Int.ofNat_inj.trans BitVec.toNat_inj
  | false => exact BitVec.toInt_inj

theorem intOf_lt_iff {n : Nat} (uns : Bool) (x y : BitVec n) :
    (if uns then decide (x < y) else x.slt y) = decide (intOf uns x < intOf uns y) := by
  cases uns with
  | true => exact decide_eq_decide.mpr Int.ofNat_lt.symm
  | false => rfl

theorem minW_eq (uns : Bool) (x y : Word) : minW uns x y = if intOf uns x ≤ intOf uns y then x else y := by
  simp only [minW, intOf_lt_iff, decide_eq_true_eq, ← Int.not_le, ite_not]

theorem maxW_eq (uns : Bool) (x y : Word) : maxW uns x y = if intOf uns x ≤ intOf uns y then y else x := by
  by_cases h : intOf uns x = intOf uns y
  · simp [maxW, intOf_inj.mp h]
  · simp only [maxW, intOf_lt_iff, decide_eq_true_eq, Int.lt_iff_le_and_ne, ne_eq, h, not_false_eq_true, and_true]

/-! ## Counts and addresses (R80, R85) -/

/-- The count of R85 is that of the places that hold a 1. -/
theorem popcount_eq (x n : Nat) : popcount x n = ((List.range n).filter x.testBit).length := by
  induction n generalizing x with
  | zero => rfl
  | succ n ih =>
    have hz : x % 2 = (x.testBit 0).toNat := by
      rw [Nat.testBit_zero]
      rcases Nat.mod_two_eq_zero_or_one x with h | h <;> simp [h]
    have hs : (List.range n).filter (x / 2).testBit = (List.range n).filter (x.testBit ∘ Nat.succ) := by
      congr 1
      funext k
      exact (Nat.testBit_succ x k).symm
    rw [popcount, ih, hs, List.range_succ_eq_map, List.filter_cons, List.filter_map, hz]
    cases x.testBit 0 <;> simp [Nat.add_comm]

theorem ofInt_shiftLeft (w : Nat) (k : Int) (n : Nat) : BitVec.ofInt w k <<< n = BitVec.ofInt w (k * 2 ^ n) := by
  have hpow : BitVec.twoPow w n = BitVec.ofInt w (2 ^ n) := by
    apply BitVec.eq_of_toNat_eq
    rw [BitVec.toNat_twoPow, BitVec.toNat_ofInt]
    norm_cast
  rw [BitVec.shiftLeft_eq_mul_twoPow, BitVec.ofInt_mul, hpow]

theorem leaOf_eq (base : DWord) (idx : Word) (sh : BitVec 3) (sx : Bool) (off : Word) : leaOf base idx sh sx off =
    BitVec.ofInt 64 (base.toInt + (if sx then idx.toInt else idx.toNat) * 2 ^ sh.toNat + off.toInt) := by
  have hidx : (if sx then idx.signExtend 64 else idx.setWidth 64) = BitVec.ofInt 64 (if sx then idx.toInt else idx.toNat) := by
    cases sx with
    | true => rfl
    | false => exact (BitVec.ofNat_toNat 64 idx).symm.trans (BitVec.ofInt_natCast 64 _).symm
  rw [leaOf, hidx, ofInt_shiftLeft, BitVec.ofInt_add, BitVec.ofInt_add, BitVec.ofInt_toInt, BitVec.signExtend]

section PairSums

variable {s : State} {u : Bool} {d a b : Reg} (hS : Shape s.co) (hd : d.even = true)
include hS hd

theorem lanesPair_iadd64 :
    LanesPair s (.iadd64 u d a b) u d 1 (fun l => BitVec.ofInt 64 ((s.co.getPair a l).toInt + (s.co.getPair b l).toInt)) :=
  lanesPair_of_bin64 hS hd (exec_iadd64 s u d a b) add_eq_ofInt

theorem lanesPair_isub64 :
    LanesPair s (.isub64 u d a b) u d 1 (fun l => BitVec.ofInt 64 ((s.co.getPair a l).toInt - (s.co.getPair b l).toInt)) :=
  lanesPair_of_bin64 hS hd (exec_isub64 s u d a b) sub_eq_ofInt

end PairSums

/-- Settles O1: each operation is one lane operation, whose value is the exact one brought to the width. -/
theorem integerArithmetic : Obligations.IntegerArithmetic := by
  refine ⟨fun s u d a b => ?_, fun s u d a imm lit => ?_, fun s u d a b c m sh sx off hS => ?_⟩
  · exact ⟨two_of_bin (exec_iadd s u d a b) add_eq_ofInt,
      two_of_bin (exec_isub s u d a b) sub_eq_ofInt,
      two_of_bin (exec_imul s u d a b) mul_eq_ofInt,
      two_of_bin (exec_imulhI32 s u d a b) mulhS_eq,
      two_of_bin (exec_imulhN32 s u d a b) mulhU_eq,
      two_of_bin (exec_iminI32 s u d a b) (minW_eq false),
      two_of_bin (exec_iminN32 s u d a b) fun x y => (minW_eq true x y).trans (if_congr Int.ofNat_le rfl rfl),
      two_of_bin (exec_imaxI32 s u d a b) (maxW_eq false),
      two_of_bin (exec_imaxN32 s u d a b) fun x y => (maxW_eq true x y).trans (if_congr Int.ofNat_le rfl rfl)⟩
  · exact ⟨one_of_un (exec_iabs s u d a) abs_eq_ofNat,
      one_of_un (exec_ineg s u d a) zero_sub_eq_ofInt,
      one_of_un (exec_iaddImm s u d a imm) fun x => add_signExtend_eq_ofInt x imm,
      lanes_of_eq (exec_movi s u d lit) fun _ => rfl,
      one_of_un (exec_mov s u d a) fun _ => rfl,
      one_of_un (exec_clz s u d a) fun _ => rfl,
      one_of_un (exec_brev s u d a) fun _ => rfl,
      one_of_un (exec_popc s u d a) fun x => congrArg (BitVec.ofNat 32) (popcount_eq x.toNat 32)⟩
  · exact ⟨lanes_of_tern (exec_imad s d a b c) mul_add_eq_ofInt,
      lanes_of_eq (exec_sel s d a b m) fun _ => rfl,
      fun hd => ⟨lanesPair_iadd64 hS hd, lanesPair_isub64 hS hd,
        lanesPair_of_eq hS hd (exec_lea s u d a b sh sx off) fun _ => leaOf_eq ..⟩⟩

end Sys2Proof.Machine

/-!
Logic, shifts and bit fields (O2). The logic instructions and the fields are given bit by bit, the shifts by multiplication and division.
-/

namespace Sys2Proof.Machine

open Sys2Proof.Claims

/-! ## Logic (R78, R82) -/

section Bitwise

variable {s : State} {i : Instr} {u : Bool} {d a b : Reg} {p : Bool → Bool → Bool}

theorem bitwise_of_bin {f : Word → Word → Word} (h : exec i s = s.bin u d a b f)
    (hf : ∀ x y : Word, ∀ n < 32, (f x y).getLsbD n = p (x.getLsbD n) (y.getLsbD n)) :
    ∃ val : Nat → Word, Lanes s i u d 1 val ∧
      ∀ l, ∀ n < 32, (val l).getLsbD n = p ((s.co.get a l).getLsbD n) ((s.co.get b l).getLsbD n) :=
  ⟨_, two_of_bin h fun _ _ => rfl, fun _ => hf _ _⟩

theorem bitwise_of_un {f : Word → Word} {other : Nat → Word} (h : exec i s = s.un u d a f)
    (hf : ∀ l, ∀ n < 32, (f (s.co.get a l)).getLsbD n = p ((s.co.get a l).getLsbD n) ((other l).getLsbD n)) :
    ∃ val : Nat → Word, Lanes s i u d 1 val ∧ ∀ l, ∀ n < 32, (val l).getLsbD n = p ((s.co.get a l).getLsbD n) ((other l).getLsbD n) :=
  ⟨_, one_of_un h fun _ => rfl, hf⟩

end Bitwise

theorem getLsbD_not_word (x : Word) {n : Nat} (hn : n < 32) : (~~~x).getLsbD n = !x.getLsbD n := by
  rw [BitVec.getLsbD_not, decide_eq_true hn, Bool.true_and]

/-! ## Shifts (R83, R84) -/

section Shifts

variable (x : Word) (n : Nat)

theorem shiftLeft_eq_ofNat : x <<< n = BitVec.ofNat 32 (x.toNat * 2 ^ n) := by
  apply BitVec.eq_of_toNat_eq
  rw [BitVec.toNat_shiftLeft, BitVec.toNat_ofNat, Nat.shiftLeft_eq]

theorem ushiftRight_eq_ofNat : x >>> n = BitVec.ofNat 32 (x.toNat / 2 ^ n) := by
  rw [← Nat.shiftRight_eq_div_pow, ← BitVec.toNat_ushiftRight, BitVec.ofNat_toNat, BitVec.setWidth_eq]

theorem shlW_eq : shlW x n = if n ≤ 31 then BitVec.ofNat 32 (x.toNat * 2 ^ n) else 0 := by
  rw [shlW, shiftLeft_eq_ofNat]

theorem shrW_eq : shrW x n = if n ≤ 31 then BitVec.ofNat 32 (x.toNat / 2 ^ n) else 0 := by
  rw [shrW, ushiftRight_eq_ofNat]

/-- An arithmetic shift by 31 leaves the sign bit in every place. -/
theorem ofInt_toInt_div_sign : BitVec.ofInt 32 (x.toInt / 2 ^ 31) = if x.msb then 0xFFFFFFFF else 0 := by
  have hlt := BitVec.toInt_lt (x := x)
  have hle := BitVec.le_toInt (x := x)
  rw [BitVec.msb_eq_toInt]
  by_cases h : x.toInt < 0
  · rw [if_pos (decide_eq_true h), show x.toInt / 2 ^ 31 = -1 by omega]
    rfl
  · rw [if_neg (by simpa using h), show x.toInt / 2 ^ 31 = 0 by omega]
    rfl

theorem sarW_eq : sarW x n = BitVec.ofInt 32 (x.toInt / 2 ^ min n 31) := by
  by_cases h : n ≤ 31
  · rw [sarW, if_pos h, Nat.min_eq_left h, BitVec.sshiftRight, Int.shiftRight_eq_div_pow]
    norm_cast
  · rw [sarW, if_neg h, Nat.min_eq_right (by omega), ofInt_toInt_div_sign]

theorem rotW_eq : rotW x n = BitVec.ofNat 32 (x.toNat * 2 ^ (n % 32) + x.toNat / 2 ^ (32 - n % 32)) := by
  have hdisjoint : x <<< (n % 32) &&& x >>> (32 - n % 32) = 0 := by
    apply BitVec.eq_of_getLsbD_eq
    intro i hi
    have hlow : i < n % 32 ∨ 32 ≤ 32 - n % 32 + i := by omega
    rcases hlow with h | h <;> simp [h]
  rw [rotW, BitVec.rotateLeft_mod_eq_rotateLeft, BitVec.rotateLeft_def, ← BitVec.add_eq_or_of_and_eq_zero _ _ hdisjoint,
    BitVec.ofNat_add, ← shiftLeft_eq_ofNat, ← ushiftRight_eq_ofNat]

end Shifts

/-! ## Bit fields (R86) -/

theorem fieldOf_zeroExtend (x : Word) (pos len : Nat) :
    fieldOf (x.setWidth 64) pos len = BitVec.ofNat 32 (x.toNat / 2 ^ pos % 2 ^ len) := by
  rw [fieldOf, bitsOf, Nat.shiftRight_eq_div_pow, BitVec.toNat_setWidth_of_le (by decide)]

section Bits

variable {n : Nat} (hn : n < 32)
include hn

theorem getLsbD_fieldOf (x : DWord) (pos len : Nat) : (fieldOf x pos len).getLsbD n = (decide (n < len) && x.getLsbD (pos + n)) := by
  rw [fieldOf, BitVec.getLsbD_ofNat, bitsOf, Nat.testBit_mod_two_pow, Nat.testBit_shiftRight, decide_eq_true hn, Bool.true_and]
  rfl

theorem getLsbD_sextFrom (f : Word) {len : Nat} (h1 : 1 ≤ len) (h2 : len ≤ 32) :
    (sextFrom f len).getLsbD n = f.getLsbD (min n (len - 1)) := by
  rw [sextFrom, BitVec.getLsbD_sshiftRight, BitVec.msb_eq_getLsbD_last, BitVec.getLsbD_shiftLeft, BitVec.getLsbD_shiftLeft]
  by_cases h : n ≤ len - 1
  · have hin : 32 - len + n < 32 := by omega
    simp [hn, h, hin]
  · have hout : ¬32 - len + n < 32 := by omega
    have hlast : 31 - (32 - len) = len - 1 := by omega
    simp [hn, hout, hlast, Nat.min_eq_right (Nat.le_of_not_le h), show ¬31 < 32 - len by omega]

theorem getLsbD_insertField (old x : Word) (pos len : Nat) : (insertField old x pos len).getLsbD n =
    if pos ≤ n ∧ n < pos + len then x.getLsbD (n - pos) else old.getLsbD n := by
  have hm : (BitVec.ofNat 32 ((2 ^ len - 1) * 2 ^ pos)).getLsbD n = decide (pos ≤ n ∧ n < pos + len) := by
    rw [BitVec.getLsbD_ofNat, Nat.testBit_mul_two_pow, Nat.testBit_two_pow_sub_one, decide_eq_true hn, Bool.true_and, ← Bool.decide_and]
    exact decide_eq_decide.mpr (by omega)
  rw [insertField, BitVec.getLsbD_or, BitVec.getLsbD_and, BitVec.getLsbD_and, BitVec.getLsbD_shiftLeft, getLsbD_not_word _ hn, hm]
  by_cases h : pos ≤ n ∧ n < pos + len
  · simp [h, hn]
  · simp [h]

end Bits

/-- Bit n of the sign extension repeats the word's sign bit from bit 31 on. -/
theorem getLsbD_signExtend_word (x : Word) {n : Nat} (hn : n < 64) : (x.signExtend 64).getLsbD n = x.getLsbD (min n 31) := by
  rw [BitVec.getLsbD_signExtend, decide_eq_true hn, Bool.true_and, BitVec.msb_eq_getLsbD_last]
  split
  next h => rw [Nat.min_eq_left (Nat.le_of_lt_succ h)]
  next h => rw [Nat.min_eq_right (by omega)]

theorem getLsbD_signedField (x : Word) {pos len n : Nat} (hp : pos < 32) (h1 : 1 ≤ len) (h2 : len ≤ 32) (hn : n < 32) :
    (sextFrom (fieldOf (x.signExtend 64) pos len) len).getLsbD n = x.getLsbD (min (min n (len - 1) + pos) 31) := by
  have hin : min n (len - 1) < len := by omega
  rw [getLsbD_sextFrom hn _ h1 h2, getLsbD_fieldOf (by omega), decide_eq_true hin, Bool.true_and, getLsbD_signExtend_word _ (by omega),
    Nat.add_comm]

/-- Settles O2: the logic and the fields bit by bit, the shifts by their arithmetic. -/
theorem logicShiftsAndFields : Obligations.LogicShiftsAndFields := by
  refine ⟨fun s u d a b imm => ?_, fun s u d a b n => ?_, fun s u d a len pos h1 h2 => ?_⟩
  · exact ⟨bitwise_of_bin (exec_andR s u d a b) fun _ _ _ _ => BitVec.getLsbD_and,
      bitwise_of_bin (exec_orR s u d a b) fun _ _ _ _ => BitVec.getLsbD_or,
      bitwise_of_bin (exec_xorR s u d a b) fun _ _ _ _ => BitVec.getLsbD_xor,
      bitwise_of_bin (p := fun p q => p && !q) (exec_andnR s u d a b) fun x y n hn => by rw [BitVec.getLsbD_and, getLsbD_not_word y hn],
      bitwise_of_un (p := fun p _ => !p) (other := s.co.get a) (exec_notR s u d a) fun _ _ hn => getLsbD_not_word _ hn,
      bitwise_of_un (exec_andImm s u d a imm) fun _ _ _ => BitVec.getLsbD_and,
      bitwise_of_un (exec_orImm s u d a imm) fun _ _ _ => BitVec.getLsbD_or,
      bitwise_of_un (exec_xorImm s u d a imm) fun _ _ _ => BitVec.getLsbD_xor⟩
  · exact ⟨two_of_bin (exec_shl s u d a b) fun x y => shlW_eq x y.toNat,
      two_of_bin (exec_shr s u d a b) fun x y => shrW_eq x y.toNat,
      two_of_bin (exec_sar s u d a b) fun x y => sarW_eq x y.toNat,
      two_of_bin (exec_rot s u d a b) fun x y => rotW_eq x y.toNat,
      one_of_un (exec_shlImm s u d a n) fun x => shlW_eq x n.toNat,
      one_of_un (exec_shrImm s u d a n) fun x => shrW_eq x n.toNat,
      one_of_un (exec_sarImm s u d a n) fun x => sarW_eq x n.toNat,
      one_of_un (exec_rotImm s u d a n) fun x => rotW_eq x n.toNat⟩
  · exact ⟨one_of_un (exec_bfxN32 s u d a len pos) fun x => fieldOf_zeroExtend x pos.toNat len.toNat,
      ⟨_, one_of_un (exec_bfxI32 s u d a len pos) fun _ => rfl, fun l n hn => getLsbD_signedField _ pos.isLt h1 h2 hn⟩,
      ⟨_, two_of_bin (exec_bfi s u d a len pos) fun _ _ => rfl, fun l n hn => getLsbD_insertField hn _ _ _ _⟩⟩

end Sys2Proof.Machine

/-!
The pair sums of R79 (O59): the words of opcode 0x03, and what IADD64 and ISUB64 compute.
-/

namespace Sys2Proof.Machine

open Sys2Proof.Claims

/-- The fields that the decoder reads from a word of format RRR are those that it was made of (R50). -/
theorem fields_encRRR {op fn : Nat} (u : Bool) (d a b : Reg) (hop : op < 128) (hfn : fn < 32) :
    let w := encRRR op u d.toNat a.toNat b.toNat fn
    fld w 24 7 = op ∧ fld w 0 5 = fn ∧ bitAt w 23 = u ∧ rfld w 17 = d ∧ rfld w 11 = a ∧ rfld w 5 = b := by
  have hu : Sys2Proof.bit u 23 = u.toNat * 2 ^ 23 := by cases u <;> rfl
  have hu1 := u.toNat_le
  have hd := d.isLt
  have ha := a.isLt
  have hb := b.isLt
  simp only [fld, bitAt, rfld, encRRR, hu]
  refine ⟨by omega, by omega, ?_, ?_, ?_, ?_⟩
  · rw [show (op * 2 ^ 24 + u.toNat * 2 ^ 23 + d.toNat * 2 ^ 17 + a.toNat * 2 ^ 11 + b.toNat * 2 ^ 5 + fn) / 2 ^ 23 % 2 = u.toNat by omega]
    cases u <;> rfl
  all_goals
    apply BitVec.eq_of_toNat_eq
    rw [BitVec.toNat_ofNat]
    omega

/-- What a word of opcode 0x03 with a function number decodes to (R79): two functions are assigned, each on three pairs. -/
def decodedPairSum (u : Bool) (d a b : Reg) : Nat → Decoded
  | 0 => pair10 (d.even && a.even && b.even) (.iadd64 u d a b)
  | 1 => pair10 (d.even && a.even && b.even) (.isub64 u d a b)
  | _ => .error 2

theorem decodeWord_pairSum (u : Bool) (d a b : Reg) (fn : BitVec 5) :
    decodeWord (encRRR 0x03 u d.toNat a.toNat b.toNat fn.toNat) [] = decodedPairSum u d a b fn.toNat := by
  obtain ⟨hop, hfn, hu, hd, ha, hb⟩ := fields_encRRR (op := 3) u d a b (by decide) fn.isLt
  simp only [decodeWord, hop, decInt, hfn, hu, hd, ha, hb]
  rfl

theorem pair10_ne_ok {c : Bool} (h : c = false) (i j : Instr) : pair10 c i ≠ .ok j := by
  rw [pair10, need, h]
  exact nofun

/-- Of opcode 0x03 no word decodes to an instruction with an odd code, whatever its function. -/
theorem decodedPairSum_ne_ok {u : Bool} {d a b : Reg} (h : (d.even && a.even && b.even) = false) :
    ∀ fn i, decodedPairSum u d a b fn ≠ .ok i
  | 0, i => pair10_ne_ok h _ i
  | 1, i => pair10_ne_ok h _ i
  | _ + 2, _ => nofun

theorem decodedPairSum_unassigned (u : Bool) (d a b : Reg) : ∀ {fn : Nat}, 2 ≤ fn → decodedPairSum u d a b fn = .error 2
  | _ + 2, _ => rfl

/-- Settles O59: the decoder by its function numbers, the sums as O1 has them. -/
theorem pairSums : Obligations.PairSums := by
  intro u d a b fn w pairs
  have hw : decodeWord w [] = decodedPairSum u d a b fn.toNat := decodeWord_pairSum u d a b fn
  rw [hw]
  refine ⟨fun hp => ⟨?_, ?_⟩, fun hp => decodedPairSum_ne_ok hp _, decodedPairSum_unassigned u d a b, fun s hS hp => ?_⟩
  · rintro rfl
    exact if_pos hp
  · rintro rfl
    exact if_pos hp
  · have hd : d.even = true := by
      simp only [pairs, Bool.and_eq_true] at hp
      exact hp.1.1
    exact ⟨lanesPair_iadd64 hS hd, lanesPair_isub64 hS hd⟩

end Sys2Proof.Machine

/-!
Moves between lanes (O4), reductions and scans (O5). A reduction combines neighbours level by level, inactive lanes standing in with the
identity (R93); since each operation is associative and has that identity, it is the reduction of the active lanes one after another.
-/

namespace Sys2Proof.Machine

open Sys2Proof.Claims

/-! ## Moves between lanes (R90 to R92) -/

/-- A shift up of n lanes takes lane l - n where there is one. -/
theorem Cohort.srcOf_upLane (c : Cohort) (a : Reg) (n l : Nat) :
    c.srcOf a (upLane c.W l n) l = if n ≤ l ∧ l - n < c.W then c.get a (l - n) else c.get a l := by
  by_cases h : n ≤ l <;> simp [Cohort.srcOf, upLane, h]

/-- Settles O4: each move takes the value of the lane that it names, or the lane's own. -/
theorem crossLaneMoves : Obligations.CrossLaneMoves := by
  intro s u d a b n c k up dn xr _
  exact ⟨lanes_of_eq (exec_perm s u d a b) fun _ => rfl,
    lanes_of_eq (exec_shup s u d a b) fun l => c.srcOf_upLane a k l,
    lanes_of_eq (exec_shdn s u d a b) fun _ => rfl,
    lanes_of_eq (exec_shxr s u d a b) fun _ => rfl,
    lanes_of_eq (exec_shupImm s u d a n) fun l => c.srcOf_upLane a n.toNat l,
    lanes_of_eq (exec_shdnImm s u d a n) fun _ => rfl,
    lanes_of_eq (exec_shxrImm s u d a n) fun _ => rfl,
    lanes_of_eq (exec_bcst s u d a b) fun _ => rfl⟩

/-! ## The tree of R93 -/

section Tree

variable {α : Type} {f : α → α → α} {e : α}

theorem foldl_treePairs (hf : ∀ x y z, f (f x y) z = f x (f y z)) (l : List α) (x : α) : (treePairs f l).foldl f x = l.foldl f x := by
  induction l using treePairs.induct generalizing x with
  | case1 a b l ih => rw [treePairs, List.foldl_cons, ih, List.foldl_cons, List.foldl_cons, hf]
  | case2 l h => rw [treePairs.eq_2 f l h]

theorem length_treePairs (f : α → α → α) (l : List α) : (treePairs f l).length = (l.length + 1) / 2 := by
  induction l using treePairs.induct with
  | case1 a b l ih =>
    rw [treePairs, List.length_cons, ih, List.length_cons, List.length_cons]
    omega
  | case2 l h =>
    match l, h with
    | [], _ => simp [treePairs]
    | [_], _ => simp [treePairs]
    | a :: b :: l, h => exact absurd rfl (h a b l)

/-- A tree of n levels over at most 2^n elements comes to combining them one after another. -/
theorem treeRed_eq_foldl (hf : ∀ x y z, f (f x y) z = f x (f y z)) (he : ∀ x, f e x = x) (d : α) (n : Nat) {l : List α}
    (hl : 0 < l.length) (hn : l.length ≤ 2 ^ n) : treeRed f d n l = l.foldl f e := by
  induction n generalizing l with
  | zero =>
    obtain ⟨x, rfl⟩ := List.length_eq_one_iff.mp (Nat.le_antisymm hn hl)
    exact (he x).symm
  | succ n ih =>
    have hlen := length_treePairs f l
    rw [treeRed, ih (by omega) (by omega), foldl_treePairs hf]

/-- An element that is left out counts as much as one that stands in with the identity. -/
theorem foldl_map_ite (he : ∀ x, f x e = x) (p : Nat → Bool) (g : Nat → α) (l : List Nat) (x : α) :
    (l.map (fun n => if p n then g n else e)).foldl f x = ((l.filter p).map g).foldl f x := by
  rw [List.foldl_map, List.foldl_map, List.foldl_filter]
  congr 1
  funext y n
  cases p n with
  | true => rfl
  | false => exact he y

theorem treeRed_redSource (hf : ∀ x y z, f (f x y) z = f x (f y z)) (hl : ∀ x, f e x = x) (hr : ∀ x, f x e = x) (d : α) {c : Cohort}
    (h0 : 0 < c.W) (h64 : c.W ≤ 64) (g : Nat → α) : treeRed f d 6 (c.redSource e g) = (c.active.map g).foldl f e := by
  have hlen : (c.redSource e g).length = c.W := by rw [Cohort.redSource, List.length_map, List.length_range]
  rw [treeRed_eq_foldl hf hl d 6 (by omega) (by omega), Cohort.redSource, foldl_map_ite hr]
  rfl

end Tree

/-! ## The operations and their identities (R93) -/

/-- Of two words the one that stands for the lesser integer, and the first of two that are equal. -/
def lesser {n : Nat} (k : BitVec n → Int) (x y : BitVec n) : BitVec n := if k y < k x then y else x

theorem lesser_assoc {n : Nat} (k : BitVec n → Int) (x y z : BitVec n) : lesser k (lesser k x y) z = lesser k x (lesser k y z) := by
  grind [lesser]

/-- The reductions, and the identity of each, at any width. -/
def opBits {n : Nat} (o : RedOp) (uns : Bool) (x y : BitVec n) : BitVec n := match o with
  | .add => x + y
  | .min => lesser (intOf uns) x y
  | .max => lesser (fun x => -intOf uns x) x y
  | .and => x &&& y
  | .or => x ||| y
  | .xor => x ^^^ y
def idBits (n : Nat) (o : RedOp) (uns : Bool) : BitVec n := match o with
  | .add | .or | .xor => 0#n
  | .and => BitVec.allOnes n
  | .min => if uns then BitVec.allOnes n else BitVec.intMax n
  | .max => if uns then 0#n else BitVec.intMin n

theorem opWord_eq (o : RedOp) (uns : Bool) : opWord o uns = opBits o uns := by
  funext x y
  cases o with
  | min => simp only [opWord, opBits, minW, lesser, intOf_lt_iff, decide_eq_true_eq]
  | max => simp only [opWord, opBits, maxW, lesser, intOf_lt_iff, decide_eq_true_eq, neg_lt_neg_iff]
  | add | and | or | xor => rfl

theorem opDWord_eq (o : RedOp) (uns : Bool) : opDWord o uns = opBits o uns := by
  funext x y
  cases o with
  | min => simp only [opDWord, opBits, minD, lesser, intOf_lt_iff, decide_eq_true_eq]
  | max => simp only [opDWord, opBits, maxD, lesser, intOf_lt_iff, decide_eq_true_eq, neg_lt_neg_iff]
  | add | and | or | xor => rfl

theorem idWord_eq (o : RedOp) (uns : Bool) : idWord o uns = idBits 32 o uns := by
  cases o <;> cases uns <;> rfl

theorem idDWord_eq (o : RedOp) (uns : Bool) : idDWord o uns = idBits 64 o uns := by
  cases o <;> cases uns <;> rfl

section Laws

variable {n : Nat} (o : RedOp) (uns : Bool) (x y z : BitVec n)

theorem opBits_assoc : opBits o uns (opBits o uns x y) z = opBits o uns x (opBits o uns y z) := by
  cases o with
  | add => exact BitVec.add_assoc x y z
  | min => exact lesser_assoc _ x y z
  | max => exact lesser_assoc (fun x => -intOf uns x) x y z
  | and => exact BitVec.and_assoc x y z
  | or => exact BitVec.or_assoc x y z
  | xor => exact BitVec.xor_assoc x y z

/-- The identity of a minimum stands for the greatest integer, that of a maximum for the least. -/
theorem intOf_le_idBits_min : intOf uns x ≤ intOf uns (idBits n .min uns) := by
  cases uns with
  | true => exact Int.ofNat_le.mpr (BitVec.toNat_allOnes ▸ Nat.le_sub_one_of_lt x.isLt : x.toNat ≤ (BitVec.allOnes n).toNat)
  | false =>
    have := BitVec.toInt_lt (x := x)
    show x.toInt ≤ (BitVec.intMax n).toInt
    rw [BitVec.toInt_intMax]
    omega

theorem idBits_max_le_intOf : intOf uns (idBits n .max uns) ≤ intOf uns x := by
  cases uns with
  | true => exact Int.ofNat_le.mpr (Nat.zero_le _)
  | false => exact BitVec.toInt_intMin_le x

theorem lesser_of_le {k : BitVec n → Int} (hk : ∀ a b, k a = k b → a = b) {e : BitVec n} (he : k x ≤ k e) :
    lesser k e x = x ∧ lesser k x e = x := by
  refine ⟨?_, if_neg he.not_gt⟩
  by_cases h : k x < k e
  · exact if_pos h
  · exact (if_neg h).trans (hk _ _ (by omega))

theorem opBits_idBits : opBits o uns (idBits n o uns) x = x ∧ opBits o uns x (idBits n o uns) = x := by
  cases o with
  | add => exact ⟨BitVec.zero_add x, BitVec.add_zero x⟩
  | min => exact lesser_of_le x (fun _ _ => intOf_inj.mp) (intOf_le_idBits_min uns x)
  | max => exact lesser_of_le x (fun _ _ h => intOf_inj.mp (Int.neg_inj.mp h)) (Int.neg_le_neg (idBits_max_le_intOf uns x))
  | and => exact ⟨BitVec.allOnes_and, BitVec.and_allOnes⟩
  | or => exact ⟨BitVec.zero_or, BitVec.or_zero⟩
  | xor => exact ⟨BitVec.zero_xor, BitVec.xor_zero⟩

end Laws

/-! ## VRED and SCAN (R93, R94) -/

section Reductions

variable {s : State} {u excl uns : Bool} {d a : Reg} {op : RedOp}

theorem treeRed_opBits {n : Nat} {c : Cohort} (h0 : 0 < c.W) (h64 : c.W ≤ 64) (g : Nat → BitVec n) :
    treeRed (opBits op uns) 0 6 (c.redSource (idBits n op uns) g) = (c.active.map g).foldl (opBits op uns) (idBits n op uns) :=
  treeRed_redSource (opBits_assoc op uns) (fun x => (opBits_idBits op uns x).1) (fun x => (opBits_idBits op uns x).2) 0 h0 h64 g

theorem uniform_vred (hS : Shape s.co) (h0 : 0 < s.co.W) : Uniform s (.vred u d a false uns op) d 1
    ((s.co.active.map (s.co.get a)).foldl (opWord op uns) (idWord op uns)) := by
  refine uniform_of_eq (exec_vred s u d a false uns op) ?_
  rw [opWord_eq, idWord_eq]
  exact treeRed_opBits h0 hS.2 (s.co.get a)

theorem uniformPair_vred (hS : Shape s.co) (h0 : 0 < s.co.W) (hd : d.even = true) : UniformPair s (.vred u d a true uns op) d 1
    ((s.co.active.map (s.co.getPair a)).foldl (opDWord op uns) (idDWord op uns)) := by
  have h := uniformPair_of_eq hS hd (exec_vred s u d a true uns op)
  rw [opDWord_eq, idDWord_eq] at h ⊢
  rwa [treeRed_opBits h0 hS.2] at h

theorem lanes_scan_active (h : s.co.active ≠ []) : Lanes s (.scan u d a excl uns op) u d 1 (fun l =>
    ((s.co.active.filter (fun m => decide (m < l) || (!excl && m == l))).map (s.co.get a)).foldl (opWord op uns) (idWord op uns)) := by
  refine lanes_of_eq (exec_scan s u d a excl uns op) fun l => ?_
  rw [List.isEmpty_eq_false_iff.mpr h, Bool.and_false, if_neg Bool.false_ne_true, List.foldl_map]
  rfl

/-- With no active lane the operation is on the identity and, when inclusive, lane 0; one that is not uniform has no lane to write. -/
theorem lanes_scan_inactive (h : s.co.active = []) : Lanes s (.scan u d a excl uns op) u d 1 (fun l =>
    if excl then idWord op uns else opWord op uns (idWord op uns) (s.co.get a l)) := by
  cases u with
  | true =>
    refine lanes_of_eq (exec_scan s true d a excl uns op) fun l => ?_
    rw [h]
    rfl
  | false =>
    have hnone : ∀ f g, s.co.lanes false d f = s.co.lanes false d g := fun f g => by
      rw [Cohort.lanes, Cohort.lanes, Cohort.targets, if_neg Bool.false_ne_true, h]
      rfl
    refine lanes_of_eq (f := fun l => if excl then idWord op uns else opWord op uns (idWord op uns) (s.co.get a l)) ?_ fun _ => rfl
    rw [exec_scan, execScan, State.lane, hnone]

end Reductions

/-- Settles O5: the tree of R93 and the fold over the active lanes agree. -/
theorem reductionsAndScans : Obligations.ReductionsAndScans :=
  fun _ _ _ _ _ _ _ hS h0 =>
    ⟨uniform_vred hS h0, uniformPair_vred hS h0, lanes_scan_active, lanes_scan_inactive⟩

end Sys2Proof.Machine

/-!
Masks and integer conditions (O3). A compare builds its mask lane by lane, so that a bit of it is that of one lane; a condition on words is
one on the integers that they stand for.
-/

namespace Sys2Proof.Machine

open Sys2Proof.Claims

/-! ## Masks (R26, R27) -/

section Masks

variable {s : State} {i : Instr} {u : Bool} {d a : Reg} {c : Cohort} {n : Nat}

theorem getLsbD_putBit (hn : n < 64) (b : Bool) (m : Mask) (l : Nat) :
    (if b then m ||| BitVec.ofNat 64 (2 ^ l) else m).getLsbD n = (m.getLsbD n || (decide (l = n) && b)) := by
  cases b with
  | true => rw [if_pos rfl, BitVec.getLsbD_or, BitVec.getLsbD_ofNat, Nat.testBit_two_pow, decide_eq_true hn, Bool.true_and, Bool.and_true]
  | false => rw [if_neg Bool.false_ne_true, Bool.and_false, Bool.or_false]

/-- A mask built lane by lane has the bits of its start and of the lanes in which p holds. -/
theorem getLsbD_foldl_mask (hn : n < 64) (p : Nat → Bool) (ls : List Nat) (m : Mask) :
    (ls.foldl (fun m l => if p l then m ||| BitVec.ofNat 64 (2 ^ l) else m) m).getLsbD n = (m.getLsbD n || (ls.contains n && p n)) := by
  induction ls generalizing m with
  | nil => rw [List.foldl_nil, List.contains_nil, Bool.false_and, Bool.or_false]
  | cons l ls ih =>
    rw [List.foldl_cons, ih, getLsbD_putBit hn, List.contains_cons]
    by_cases h : l = n
    · subst h
      cases p l <;> simp
    · simp [h, beq_eq_false_iff_ne.mpr (Ne.symm h)]

theorem Cohort.getLsbD_maskWhere (hn : n < 64) (p : Nat → Bool) : (c.maskWhere p).getLsbD n = (c.active.contains n && p n) := by
  rw [Cohort.maskWhere, getLsbD_foldl_mask hn]
  exact congrArg (· || _) BitVec.getLsbD_zero

theorem getLsbD_loOf (hn : n < 32) (m : DWord) : (loOf m).getLsbD n = m.getLsbD n := by
  rw [loOf, BitVec.getLsbD_setWidth, decide_eq_true hn, Bool.true_and]

/-- A compare writes the mask of the active lanes in which its condition holds (R27). -/
theorem writesMask_of_compare {p : Cohort → Nat → Bool} (hS : Shape s.co) (hd : s.co.W = 64 → d.even = true)
    (h : exec i s = .next (s.lane (fun c => c.compare u d (p c)) 1)) :
    WritesMask s i d (fun l => p s.co (s.co.source u l)) := by
  rw [State.lane, Cohort.compare, Cohort.putMask] at h
  refine ⟨fun h32 => ?_, fun h64 => ?_⟩
  · rw [if_neg (by omega)] at h
    refine ⟨_, uniform_of_eq h rfl, fun n hn => ?_⟩
    rw [getLsbD_loOf hn, Cohort.getLsbD_maskWhere (by omega)]
  · rw [if_pos h64] at h
    exact ⟨_, uniformPair_of_eq hS (hd h64) h, fun n hn => Cohort.getLsbD_maskWhere hn _⟩

theorem Cohort.getLsbD_mask_of_le (h : c.W ≤ n) : (c.mask a).getLsbD n = false := by
  rw [Cohort.mask, BitVec.getLsbD_and, maskW, BitVec.getLsbD_ofNat, Nat.testBit_two_pow_sub_one, decide_eq_false (Nat.not_lt.mpr h),
    Bool.and_false, Bool.and_false]

/-- MPOP's count is of the lanes of the mask (R89): its bits W and above are 0. -/
theorem Cohort.popcount_mask (hW : c.W ≤ 64) : popcount (c.mask a).toNat 64 = (lanesIn (c.mask a) c.W).length := by
  have hrange : List.range 64 = List.range c.W ++ (List.range (64 - c.W)).map (c.W + ·) := by
    rw [← List.range_add, Nat.add_sub_of_le hW]
  have hhigh : ((List.range (64 - c.W)).map (c.W + ·)).filter (c.mask a).toNat.testBit = [] := by
    rw [List.filter_eq_nil_iff]
    intro n hn
    obtain ⟨k, -, rfl⟩ := List.mem_map.mp hn
    exact Bool.eq_false_iff.mp (Cohort.getLsbD_mask_of_le (Nat.le_add_right _ _))
  rw [popcount_eq, hrange, List.filter_append, hhigh, List.append_nil]
  rfl

end Masks

/-! ## Integer conditions (R55, R87) -/

/-- A condition on the integers that two words stand for. -/
def intHolds (k : IntCond) (x y : Int) : Bool := match k with
  | .eq => decide (x = y)
  | .ne => decide (x ≠ y)
  | .lt => decide (x < y)
  | .le => decide (x ≤ y)
  | .gt => decide (x > y)
  | .ge => decide (x ≥ y)

theorem holds_eq_intHolds {n : Nat} (k : IntCond) (uns : Bool) (x y : BitVec n) :
    IntCond.holds k uns x y = intHolds k (intOf uns x) (intOf uns y) := by
  have heq : (x == y) = decide (intOf uns x = intOf uns y) := by
    rw [beq_eq_decide]
    exact decide_eq_decide.mpr intOf_inj.symm
  simp only [Sys2Proof.Machine.IntCond.holds, intOf_lt_iff, bne, heq]
  cases k with
  | eq => rfl
  | ne => exact (decide_not ..).symm
  | lt => rfl
  | le => rw [intHolds, ← Bool.decide_or, decide_eq_decide]; omega
  | gt => rw [intHolds, ← decide_not, ← decide_not, ← Bool.decide_and, decide_eq_decide]; omega
  | ge => exact (decide_not ..).symm.trans (decide_eq_decide.mpr Int.not_lt)

/-- The integer that a source of CMP stands for in a lane (R87). -/
def Cohort.cmpInt (c : Cohort) (t : CmpType) (r : Reg) (l : Nat) : Int := match t with
  | .i32 => (c.get r l).toInt
  | .n32 => (c.get r l).toNat
  | .i64 => (c.getPair r l).toInt
  | .n64 => (c.getPair r l).toNat

theorem Cohort.cmpAt_eq (c : Cohort) (a b : Reg) (t : CmpType) (k : IntCond) (l : Nat) :
    c.cmpAt a b t k l = intHolds k (c.cmpInt t a l) (c.cmpInt t b l) := by
  cases t with
  | i32 => exact holds_eq_intHolds k false ..
  | n32 => exact holds_eq_intHolds k true ..
  | i64 => exact holds_eq_intHolds k false ..
  | n64 => exact holds_eq_intHolds k true ..

end Sys2Proof.Machine

/-!
Float compares and classes (O3). The values of codes that are no NaN are ordered as the codes themselves are in sign and magnitude (R130):
each magnitude is a multiple of the format's least one, and the multiples rise with the bits below the sign.
-/

namespace Sys2Proof.Machine

open Sys2Proof.Claims

/-! ## The fields of a code (R101) -/

section Codes

variable {f : Fmt} (c : Nat)

theorem Fmt.code_mod_sign : c % (2 * f.sign) % f.sign = c % f.sign := Nat.mod_mod_of_dvd c (Nat.dvd_mul_left ..)

theorem fExp_eq : c % f.sign / 2 ^ f.m = fExp f c := by
  rw [Fmt.sign, Nat.add_comm, Nat.pow_add, fExp, Nat.mod_mul_right_div_self]

theorem fFrac_eq : c % f.sign % 2 ^ f.m = fFrac f c :=
  Nat.mod_mod_of_dvd c (Nat.pow_dvd_pow 2 (Nat.le_add_left ..))

theorem fFrac_lt : fFrac f c < 2 ^ f.m := Nat.mod_lt _ (Nat.two_pow_pos _)

theorem fExp_le : fExp f c ≤ 2 ^ f.e - 1 := Nat.le_sub_one_of_lt (Nat.mod_lt _ (Nat.two_pow_pos _))

/-- The bits below the sign are the exponent and the fraction. -/
theorem Fmt.code_mod_sign_eq : c % f.sign = fExp f c * 2 ^ f.m + fFrac f c := by
  rw [← fExp_eq, ← fFrac_eq, Nat.div_add_mod']

/-- A code within its format is its sign and the bits below. -/
theorem Fmt.code_eq : c % (2 * f.sign) = (if fNeg f c then f.sign else 0) + c % f.sign := by
  have h : c / f.sign % 2 = c % (2 * f.sign) / f.sign := by rw [Nat.mul_comm, Nat.mod_mul_right_div_self]
  have hdiv := Nat.div_add_mod (c % (2 * f.sign)) f.sign
  rw [Fmt.code_mod_sign, ← h] at hdiv
  rw [← hdiv, fNeg, ← Fmt.sign]
  rcases Nat.mod_two_eq_zero_or_one (c / f.sign) with h | h <;> simp [h]

theorem Fmt.sign_le_iff : f.sign ≤ c % (2 * f.sign) ↔ fNeg f c = true := by
  have hlt : c % f.sign < f.sign := Nat.mod_lt _ (Nat.two_pow_pos _)
  rw [Fmt.code_eq]
  split
  next h => simp [h]
  next h => simp [h, hlt]

theorem Fmt.decide_sign_le : decide (f.sign ≤ c % (2 * f.sign)) = fNeg f c := by
  rw [Bool.eq_iff_iff, decide_eq_true_iff, Fmt.sign_le_iff]

/-- The quiet bit is the highest of the fraction. -/
theorem quietBit_mod_two (hm : 0 < f.m) : fFrac f c / 2 ^ (f.m - 1) % 2 = fFrac f c / 2 ^ (f.m - 1) := by
  refine Nat.mod_eq_of_lt (Nat.div_lt_of_lt_mul ?_)
  rw [← Nat.pow_succ, Nat.succ_eq_add_one, Nat.sub_add_cancel hm]
  exact fFrac_lt c

variable (hk : f.kind = .ieee)
include hk

theorem Fmt.value_eq : f.value c =
    if fExp f c = 2 ^ f.e - 1 then (if fFrac f c = 0 then .inf (fNeg f c) else .nan (fNeg f c) (fFrac f c))
    else if fExp f c = 0 then .num (fNeg f c) (fFrac f c) (1 - (f.bias : Int) - f.m)
    else .num (fNeg f c) (2 ^ f.m + fFrac f c) ((fExp f c : Int) - f.bias - f.m) := by
  simp only [Fmt.value, hk, Fmt.code_mod_sign, fExp_eq, fFrac_eq, Fmt.decide_sign_le]

theorem fNaN_iff : fNaN f c = true ↔ fExp f c = 2 ^ f.e - 1 ∧ fFrac f c ≠ 0 := by
  simp [fNaN, hk]

theorem fInf_iff : fInf f c = true ↔ fExp f c = 2 ^ f.e - 1 ∧ fFrac f c = 0 := by
  simp [fInf, hk]

theorem Fmt.isNan_eq : f.isNan c = fNaN f c := by
  rw [Bool.eq_iff_iff, fNaN_iff c hk, Fmt.isNan, Fmt.value_eq c hk]
  split_ifs with hE hF h0
  · simp [hF]
  · simp [hE, hF]
  · simp [hE]
  · simp [hE]

theorem Fmt.infCode_eq : f.infCode = (2 ^ f.e - 1) * 2 ^ f.m := by
  rw [Fmt.infCode, hk]

theorem fInf_iff_infCode : fInf f c = true ↔ c % f.sign = f.infCode := by
  rw [fInf_iff c hk, Fmt.infCode_eq hk]
  constructor
  · rintro ⟨hE, hF⟩
    rw [Fmt.code_mod_sign_eq, hE, hF, Nat.add_zero]
  · intro h
    rw [← fExp_eq, ← fFrac_eq, h]
    exact ⟨Nat.mul_div_cancel _ (Nat.two_pow_pos _), Nat.mul_mod_left ..⟩

theorem Fmt.le_infCode (hn : fNaN f c = false) : c % f.sign ≤ f.infCode := by
  rw [Fmt.infCode_eq hk, Fmt.code_mod_sign_eq]
  by_cases hE : fExp f c = 2 ^ f.e - 1
  · have hF : fFrac f c = 0 := by
      by_contra hF
      exact Bool.eq_false_iff.mp hn ((fNaN_iff c hk).mpr ⟨hE, hF⟩)
    rw [hE, hF, Nat.add_zero]
  · have hF := fFrac_lt (f := f) c
    have hE' : fExp f c + 1 ≤ 2 ^ f.e - 1 := Nat.lt_of_le_of_ne (fExp_le c) hE
    calc fExp f c * 2 ^ f.m + fFrac f c ≤ (fExp f c + 1) * 2 ^ f.m := by rw [Nat.add_mul]; omega
      _ ≤ (2 ^ f.e - 1) * 2 ^ f.m := Nat.mul_le_mul_right _ hE'

/-- FCLASS sets the bit of the class (R131). -/
theorem Fmt.fclass_eq (hm : 0 < f.m) : f.fclass c = 2 ^ fClass f c := by
  have hnan := fNaN_iff c hk
  have hinf := fInf_iff c hk
  rw [Fmt.fclass, Fmt.value_eq c hk, fClass]
  by_cases hE : fExp f c = 2 ^ f.e - 1
  · by_cases hF : fFrac f c = 0
    · have hn : fNaN f c = false := by simp [Bool.eq_false_iff, hnan, hF]
      simp only [hE, hF, hn, hinf.mpr ⟨hE, hF⟩]
      cases fNeg f c <;> rfl
    · simp only [hE, hF, hnan.mpr ⟨hE, hF⟩, quietBit_mod_two c hm, if_true, if_false]
      split <;> rfl
  · have hn : fNaN f c = false := by simp [Bool.eq_false_iff, hnan, hE]
    have hi : fInf f c = false := by simp [Bool.eq_false_iff, hinf, hE]
    simp only [hE, hn, hi, if_false, Bool.false_eq_true]
    by_cases h0 : fExp f c = 0
    · by_cases hF : fFrac f c = 0
      · simp only [h0, hF, and_self, if_true]
        cases fNeg f c <;> rfl
      · simp only [h0, hF, fFrac_lt c, if_true, if_false, and_true]
        cases fNeg f c <;> rfl
    · have hpos : 2 ^ f.m + fFrac f c ≠ 0 := by positivity
      simp only [h0, hpos, if_false, and_false, Nat.not_lt.mpr (Nat.le_add_right _ _)]
      cases fNeg f c <;> rfl

end Codes

/-! ## The order of the magnitudes -/

section Places

variable {f : Fmt}

/-- The magnitude of a code below infinity, as a multiple of the least one. -/
def Fmt.steps (f : Fmt) (k : Nat) : Nat := ((if k / 2 ^ f.m = 0 then 0 else 2 ^ f.m) + k % 2 ^ f.m) * 2 ^ (k / 2 ^ f.m - 1)

/-- The place of a code's magnitude in the order of the values: an infinity lies beyond them, where fOrd puts it. -/
def Fmt.place (f : Fmt) (k : Nat) : Nat := if k = f.infCode then 2 ^ (2 * f.bias + f.m + 1) else f.steps k

theorem Fmt.steps_of_fields {E F : Nat} (hF : F < 2 ^ f.m) : f.steps (E * 2 ^ f.m + F) = ((if E = 0 then 0 else 2 ^ f.m) + F) * 2 ^ (E - 1) := by
  have hdiv : (E * 2 ^ f.m + F) / 2 ^ f.m = E := by
    rw [Nat.mul_comm, Nat.mul_add_div (Nat.two_pow_pos _), Nat.div_eq_of_lt hF, Nat.add_zero]
  rw [Fmt.steps, hdiv, Nat.mul_add_mod', Nat.mod_eq_of_lt hF]

theorem Fmt.steps_strictMono : StrictMono f.steps := by
  refine strictMono_nat_of_lt_succ fun k => ?_
  have hF := Nat.mod_lt k (Nat.two_pow_pos f.m)
  rw [← Nat.div_add_mod' k (2 ^ f.m)]
  generalize k / 2 ^ f.m = E at *
  generalize k % 2 ^ f.m = F at *
  rw [Fmt.steps_of_fields hF]
  by_cases hlast : F + 1 < 2 ^ f.m
  · rw [Nat.add_assoc, Fmt.steps_of_fields hlast]
    exact Nat.mul_lt_mul_of_pos_right (by omega) (Nat.two_pow_pos _)
  · have hnext : E * 2 ^ f.m + F + 1 = (E + 1) * 2 ^ f.m + 0 := by rw [Nat.add_mul]; omega
    rw [hnext, Fmt.steps_of_fields (Nat.two_pow_pos _), if_neg E.succ_ne_zero, Nat.add_sub_cancel]
    cases E with
    | zero => simpa using hF
    | succ E =>
      rw [if_neg E.succ_ne_zero, Nat.add_sub_cancel, Nat.pow_succ, Nat.mul_comm _ 2, ← Nat.mul_assoc]
      exact Nat.mul_lt_mul_of_pos_right (by omega) (Nat.two_pow_pos _)

variable (hk : f.kind = .ieee) (he : 0 < f.e)
include he

theorem Fmt.two_pow_e_sub : 2 ^ f.e - 2 = 2 * f.bias := by
  obtain ⟨e, he⟩ := Nat.exists_eq_add_of_lt he
  rw [Fmt.bias, he, Nat.zero_add, Nat.add_sub_cancel, Nat.pow_succ]
  omega

include hk

theorem Fmt.steps_infCode_lt : f.steps f.infCode < 2 ^ (2 * f.bias + f.m + 1) := by
  have htop : 2 ^ f.e - 1 ≠ 0 := by
    have := Nat.one_lt_two_pow he.ne'
    omega
  have h := Fmt.steps_of_fields (f := f) (E := 2 ^ f.e - 1) (Nat.two_pow_pos _)
  rw [Fmt.infCode_eq hk, ← Nat.add_zero (_ * _), h, if_neg htop, Nat.add_zero, Nat.sub_sub, Fmt.two_pow_e_sub he, ← Nat.pow_add]
  exact Nat.pow_lt_pow_right (by decide) (by omega)

theorem Fmt.place_lt_iff {a b : Nat} (ha : a ≤ f.infCode) (hb : b ≤ f.infCode) : f.place a < f.place b ↔ a < b := by
  have hmono : StrictMonoOn f.place (Set.Iic f.infCode) := by
    intro x hx y hy hxy
    have hx' : x ≠ f.infCode := fun h => absurd (h ▸ hxy) (Nat.not_lt.mpr hy)
    rw [Fmt.place, if_neg hx', Fmt.place]
    split
    next => exact (Fmt.steps_strictMono.monotone hx).trans_lt (Fmt.steps_infCode_lt hk he)
    next => exact Fmt.steps_strictMono hxy
  exact hmono.lt_iff_lt ha hb

theorem Fmt.place_zero : f.place 0 = 0 := by
  have htop : 0 ≠ f.infCode := by
    have := Nat.one_lt_two_pow he.ne'
    rw [Fmt.infCode_eq hk]
    exact (Nat.mul_pos (by omega) (Nat.two_pow_pos _)).ne
  rw [Fmt.place, if_neg htop]
  simp [Fmt.steps]

end Places

/-! ## The order of the values (R130) -/

/-- The bits of a code as an integer in sign and magnitude. -/
def Fmt.signed (f : Fmt) (c : Nat) : Int := if fNeg f c then -((c % f.sign : Nat) : Int) else (c % f.sign : Nat)

theorem Fmt.order_eq (f : Fmt) (a b : Nat) :
    f.order a b = if f.signed a < f.signed b then -1 else if f.signed b < f.signed a then 1 else 0 := by
  have hkey (c : Nat) : (if f.sign ≤ c % (2 * f.sign) then -((c % (2 * f.sign) - f.sign : Nat) : Int) else (c % (2 * f.sign) : Nat)) =
      f.signed c := by
    rw [Fmt.signed, if_congr (Fmt.sign_le_iff c) rfl rfl, Fmt.code_eq]
    cases fNeg f c <;> simp
  simp only [Fmt.order, hkey]

/-- The least magnitude of a format. -/
def Fmt.least (f : Fmt) : ℚ := 2 ^ (1 - (f.bias : ℤ) - f.m)

/-- The place of a code in the order of the values. -/
def Fmt.signedPlace (f : Fmt) (c : Nat) : Int := if fNeg f c then -(f.place (c % f.sign) : Int) else f.place (c % f.sign)

section Order

variable {f : Fmt}

theorem Fmt.least_pos : 0 < f.least := zpow_pos two_pos _

theorem Fmt.two_pow_mul_least (n : ℕ) : (2 ^ n : ℕ) * f.least = 2 ^ (n + (1 - (f.bias : ℤ) - f.m)) := by
  rw [Fmt.least, zpow_add₀ two_ne_zero, zpow_natCast]
  push_cast
  rfl

/-- A finite magnitude is its steps times the least one. -/
theorem fMag_eq (c : Nat) : fMag f c = f.steps (c % f.sign) * f.least := by
  rw [Fmt.code_mod_sign_eq, Fmt.steps_of_fields (fFrac_lt c), Nat.cast_mul, mul_assoc, Fmt.two_pow_mul_least, fMag]
  by_cases h0 : fExp f c = 0
  · simp [h0]
  · have hexp : (fExp f c : ℤ) - f.bias - f.m = (fExp f c - 1 : ℕ) + (1 - (f.bias : ℤ) - f.m) := by omega
    rw [if_neg h0, if_neg h0, hexp]
    push_cast
    rfl

variable (hk : f.kind = .ieee)
include hk

theorem fOrd_eq (c : Nat) : fOrd f c = f.signedPlace c * f.least := by
  have hinf : (2 : ℚ) ^ (f.bias + 2) = (2 ^ (2 * f.bias + f.m + 1) : ℕ) * f.least := by
    rw [Fmt.two_pow_mul_least, ← zpow_natCast]
    congr 1
    push_cast
    ring
  have hmag : (if fInf f c then (2 : ℚ) ^ (f.bias + 2) else fMag f c) = f.place (c % f.sign) * f.least := by
    rw [Fmt.place, if_congr (fInf_iff_infCode c hk) rfl rfl, fMag_eq, hinf]
    split <;> rfl
  have hsign : fOrd f c = if fNeg f c then -(if fInf f c then (2 : ℚ) ^ (f.bias + 2) else fMag f c)
      else if fInf f c then (2 : ℚ) ^ (f.bias + 2) else fMag f c := by
    rw [fOrd, fVal]
    split_ifs <;> rfl
  rw [hsign, hmag, Fmt.signedPlace]
  split
  · push_cast
    ring
  · push_cast
    rfl

variable (he : 0 < f.e) {a b : Nat} (ha : fNaN f a = false) (hb : fNaN f b = false)
include he ha hb

/-- Codes that are no NaN are ordered as their bits are in sign and magnitude (R130). -/
theorem fOrd_lt_iff : fOrd f a < fOrd f b ↔ f.signed a < f.signed b := by
  have hab := Fmt.place_lt_iff hk he (Fmt.le_infCode a hk ha) (Fmt.le_infCode b hk hb)
  have hba := Fmt.place_lt_iff hk he (Fmt.le_infCode b hk hb) (Fmt.le_infCode a hk ha)
  have h0a := Fmt.place_lt_iff hk he (Nat.zero_le _) (Fmt.le_infCode a hk ha)
  have h0b := Fmt.place_lt_iff hk he (Nat.zero_le _) (Fmt.le_infCode b hk hb)
  rw [Fmt.place_zero hk he] at h0a h0b
  rw [fOrd_eq hk, fOrd_eq hk, mul_lt_mul_iff_left₀ Fmt.least_pos, Int.cast_lt, Fmt.signedPlace, Fmt.signedPlace, Fmt.signed, Fmt.signed]
  cases fNeg f a <;> cases fNeg f b <;> simp only [if_true, Bool.false_eq_true, if_false] <;> omega

theorem Fmt.order_eq_cmp : f.order a b = if fOrd f a < fOrd f b then -1 else if fOrd f b < fOrd f a then 1 else 0 := by
  rw [Fmt.order_eq, if_congr (fOrd_lt_iff hk he ha hb) rfl (if_congr (fOrd_lt_iff hk he hb ha) rfl rfl)]

/-- What each answer of the comparison says of the values. -/
theorem Fmt.order_beq : (f.order a b == -1) = decide (fOrd f a < fOrd f b) ∧ (f.order a b == 0) = decide (fOrd f a = fOrd f b) ∧
    (f.order a b == 1) = decide (fOrd f b < fOrd f a) := by
  rw [Fmt.order_eq_cmp hk he ha hb]
  rcases lt_trichotomy (fOrd f a) (fOrd f b) with h | h | h
  · simp [h, h.ne, h.not_gt]
  · simp [h]
  · simp [h, h.ne', h.not_gt]

end Order

/-- FCMP's condition is that of R130 on the values. -/
theorem Fmt.cond_eq {f : Fmt} (hk : f.kind = .ieee) (he : 0 < f.e) (k : FloatCond) (a b : Nat) : f.cond k a b = fHolds f k a b := by
  rw [Fmt.cond.eq_def, fHolds.eq_def]
  simp only [Fmt.isNan_eq _ hk, bne]
  cases hun : (fNaN f a || fNaN f b) with
  | true => cases k <;> rfl
  | false =>
    obtain ⟨ha, hb⟩ := Bool.or_eq_false_iff.mp hun
    obtain ⟨hlt, heq, hgt⟩ := Fmt.order_beq hk he ha hb
    rw [hlt, heq, hgt]
    cases k with
    | le | ge | ne => simp only [← decide_not, not_lt, ne_eq, Bool.not_false, Bool.true_and, Bool.false_or]
    | eq | lt | gt | ord | unord => rfl

/-- The three types of the float instructions have infinities, an exponent and a fraction. -/
theorem fmtOf_eq (t : FType) : fmtOf t = fType t ∧ (fType t).kind = .ieee ∧ 0 < (fType t).e ∧ 0 < (fType t).m := by
  cases t <;> decide

/-! ## The instructions -/

section Instructions

variable {s : State} {u : Bool} {d a b : Reg}

theorem lanes_mpop (hS : Shape s.co) :
    Lanes s (.mpop u d a) u d 1 (fun _ => BitVec.ofNat 32 (lanesIn (s.co.mask a) s.co.W).length) :=
  lanes_of_eq (exec_mpop s u d a) fun _ => congrArg (BitVec.ofNat 32) (Cohort.popcount_mask hS.2)

theorem lanes_mfirst : Lanes s (.mfirst u d a) u d 1 (fun _ => match lanesIn (s.co.mask a) s.co.W with
    | n :: _ => BitVec.ofNat 32 n
    | [] => 0xFFFFFFFF) := by
  refine lanes_of_eq (exec_mfirst s u d a) fun _ => ?_
  cases lanesIn (s.co.mask a) s.co.W <;> rfl

theorem one_fclass (t : FType) : One s (.fclass u d a t) u d a (fun x => BitVec.ofNat 32 (2 ^ fClass (fType t) x.toNat)) := by
  obtain ⟨hf, hk, -, hm⟩ := fmtOf_eq t
  exact one_of_un (exec_fclass s u d a t) fun x => by rw [hf, Fmt.fclass_eq x.toNat hk hm]

variable (hS : Shape s.co) (hd : s.co.W = 64 → d.even = true)
include hS hd

theorem writesMask_cmp (t : CmpType) (k : IntCond) : WritesMask s (.cmp u d a b t k) d
    (fun l => intHolds k (s.co.cmpInt t a (s.co.source u l)) (s.co.cmpInt t b (s.co.source u l))) := by
  have h := writesMask_of_compare hS hd (exec_cmp s u d a b t k)
  simp only [Cohort.cmpAt_eq] at h
  exact h

theorem writesMask_fcmp (t : FType) (k : FloatCond) : WritesMask s (.fcmp u d a b t k) d
    (fun l => fHolds (fType t) k (s.co.get a (s.co.source u l)).toNat (s.co.get b (s.co.source u l)).toNat) := by
  have h := writesMask_of_compare hS hd (exec_fcmp s u d a b t k)
  obtain ⟨hf, hk, he, -⟩ := fmtOf_eq t
  simp only [hf, Fmt.cond_eq hk he] at h
  exact h

end Instructions

/-- Settles O3: the compares write the mask of their condition; the counts and FCLASS are one lane operation each. -/
theorem comparesAndMaskCounts : Obligations.ComparesAndMaskCounts :=
  ⟨fun _ _ _ _ _ k t hS hd => writesMask_cmp hS hd t k, fun _ _ _ _ hS => ⟨lanes_mpop hS, lanes_mfirst⟩,
    fun _ _ _ _ _ t k hS hd => ⟨writesMask_fcmp hS hd t k, one_fclass t⟩⟩

end Sys2Proof.Machine

/-!
The rounding of exact values (O8, O9). The magnitudes that R114 lets a result take, with the exponent range unbounded above, are the
steps of a format's codes times its least magnitude, the codes running on without bound; so the neighbours lo and hi of an exact value
are those of one code and of the next.
-/

namespace Sys2Proof.Machine

open Sys2Proof.Claims

/-! ## The representable magnitudes (R114) -/

section Representable

variable {f : Fmt}

/-- The code that lies n spacings up, at the exponent field E + 1. -/
theorem Fmt.steps_of_spacings {E n : Nat} (hn : n ≤ 2 ^ (f.m + 1)) (hE : E = 0 ∨ 2 ^ f.m ≤ n) :
    f.steps ((E + 1) * 2 ^ f.m + n - 2 ^ f.m) = n * 2 ^ E := by
  rw [Nat.pow_succ] at hn
  rcases Nat.lt_or_ge n (2 ^ f.m) with hlow | hlow
  · obtain rfl : E = 0 := hE.resolve_right (Nat.not_le.mpr hlow)
    have hcode : (0 + 1) * 2 ^ f.m + n - 2 ^ f.m = 0 * 2 ^ f.m + n := by omega
    rw [hcode, Fmt.steps_of_fields hlow]
    simp
  · obtain ⟨F, rfl⟩ := Nat.exists_eq_add_of_le hlow
    have hcode : (E + 1) * 2 ^ f.m + (2 ^ f.m + F) - 2 ^ f.m = (E + 1) * 2 ^ f.m + F := by omega
    rcases Nat.lt_or_ge F (2 ^ f.m) with hF | hF
    · rw [hcode, Fmt.steps_of_fields hF, if_neg E.succ_ne_zero, Nat.add_sub_cancel]
    · obtain rfl : F = 2 ^ f.m := by omega
      have hnext : (E + 1) * 2 ^ f.m + 2 ^ f.m = (E + 1 + 1) * 2 ^ f.m + 0 := by ring
      rw [hcode, hnext, Fmt.steps_of_fields (Nat.two_pow_pos _), if_neg (E + 1).succ_ne_zero, Nat.add_sub_cancel, Nat.pow_succ]
      ring

theorem Fmt.exists_steps (E : Nat) {n : Nat} (hn : n < 2 ^ (f.m + 1)) : ∃ k, f.steps k = n * 2 ^ E := by
  induction E generalizing n with
  | zero => exact ⟨_, Fmt.steps_of_spacings hn.le (.inl rfl)⟩
  | succ E ih =>
    rcases Nat.lt_or_ge n (2 ^ f.m) with hlow | hlow
    · obtain ⟨k, hk⟩ := ih (n := 2 * n) (by rw [Nat.pow_succ]; omega)
      exact ⟨k, by rw [hk]; ring⟩
    · exact ⟨_, Fmt.steps_of_spacings hn.le (.inr hlow)⟩

theorem Fmt.mul_zpow_eq_mul_least (n E : ℕ) : (n : ℚ) * 2 ^ (E + (1 - (f.bias : ℤ) - f.m)) = (n * 2 ^ E : ℕ) * f.least := by
  rw [Nat.cast_mul, mul_assoc, Fmt.two_pow_mul_least]

/-- A magnitude is representable when it is that of a code, the codes running on without bound. -/
theorem rep_iff {q : ℚ} : Rep f q ↔ ∃ k, q = f.steps k * f.least := by
  constructor
  · rintro ⟨n, k, hn, hk, rfl⟩
    obtain ⟨E, hE⟩ := Int.eq_ofNat_of_zero_le (Int.sub_nonneg.mpr hk)
    obtain ⟨j, hj⟩ := Fmt.exists_steps E hn
    refine ⟨j, ?_⟩
    rw [hj, ← Fmt.mul_zpow_eq_mul_least, ← hE, sub_add_cancel]
  · rintro ⟨k, rfl⟩
    have hF : k % 2 ^ f.m < 2 ^ f.m := Nat.mod_lt _ (Nat.two_pow_pos _)
    refine ⟨(if k / 2 ^ f.m = 0 then 0 else 2 ^ f.m) + k % 2 ^ f.m, (k / 2 ^ f.m - 1 : ℕ) + (1 - (f.bias : ℤ) - f.m), ?_, by omega, ?_⟩
    · rw [Nat.pow_succ]
      split <;> omega
    · rw [Fmt.mul_zpow_eq_mul_least, Fmt.steps]

theorem Fmt.steps_mul_least_le_iff {j k : ℕ} : (f.steps j : ℚ) * f.least ≤ f.steps k * f.least ↔ j ≤ k := by
  rw [mul_le_mul_iff_left₀ Fmt.least_pos, Nat.cast_le, Fmt.steps_strictMono.le_iff_le]

theorem Fmt.steps_mul_least_lt_iff {j k : ℕ} : (f.steps j : ℚ) * f.least < f.steps k * f.least ↔ j < k := by
  rw [← not_le, Fmt.steps_mul_least_le_iff, not_le]

/-- The neighbours of a magnitude are those of a code and of the next. -/
theorem between_steps {x : ℚ} {k : Nat} (hlo : f.steps k * f.least ≤ x) (hhi : x < f.steps (k + 1) * f.least) :
    Between (Rep f) x (f.steps k * f.least) (f.steps (k + 1) * f.least) := by
  refine ⟨rep_iff.mpr ⟨k, rfl⟩, rep_iff.mpr ⟨k + 1, rfl⟩, hlo, hhi, fun q hq => ?_⟩
  obtain ⟨j, rfl⟩ := rep_iff.mp hq
  rw [Fmt.steps_mul_least_le_iff, Fmt.steps_mul_least_le_iff]
  omega

theorem Fmt.steps_zero : f.steps 0 = 0 := by simp [Fmt.steps]

theorem Fmt.steps_one : f.steps 1 = 1 := by
  have h := Fmt.steps_of_spacings (f := f) (E := 0) (n := 1) Nat.one_le_two_pow (.inl rfl)
  simpa using h

/-- The greatest magnitude of an exponent field. -/
theorem Fmt.steps_last {E : Nat} (hE : E ≠ 0) :
    f.steps (E * 2 ^ f.m + (2 ^ f.m - 1)) * f.least = (2 ^ (f.m + 1) - 1) * 2 ^ ((E : ℤ) - f.bias - f.m) := by
  have hpos := Nat.two_pow_pos f.m
  have hsig : 2 ^ f.m + (2 ^ f.m - 1) = 2 ^ (f.m + 1) - 1 := by rw [Nat.pow_succ]; omega
  have hexp : ((E - 1 : ℕ) : ℤ) + (1 - (f.bias : ℤ) - f.m) = E - f.bias - f.m := by omega
  rw [Fmt.steps_of_fields (by omega), if_neg hE, hsig, ← Fmt.mul_zpow_eq_mul_least, hexp, Nat.cast_sub Nat.one_le_two_pow]
  push_cast
  rfl

end Representable

/-! ## The two neighbours (R114, R117) -/

section Neighbours

variable {S : ℚ → Prop} {mode : Rnd} {neg : Bool} {draw : Nat} {M x lo hi y : ℚ}

theorem picks_eq_or (h : Picks mode neg draw M x lo hi y) : y = lo ∨ y = hi := by
  cases mode with
  | rn =>
    obtain ⟨hlt, hgt, htie⟩ := h
    rcases lt_trichotomy (x - lo) (hi - x) with hc | hc | hc
    · exact .inl (hlt hc)
    · rcases htie hc with ⟨_, _, rfl⟩ | ⟨_, _, rfl⟩
      · exact .inl rfl
      · exact .inr rfl
    · exact .inr (hgt hc)
  | rz => exact .inl h
  | ru | rd =>
    simp only [Picks] at h
    split at h
    · exact .inr h
    · exact .inl h
  | rs =>
    simp only [Picks] at h
    split_ifs at h
    · exact .inl h
    · exact .inr h
    · exact .inr h
    · exact .inl h

/-- An exact value is taken as it is. -/
theorem picks_eq_of_exact (hlt : lo < hi) (h : Picks mode neg draw M lo lo hi y) : y = lo := by
  cases mode with
  | rn => exact h.1 (by linarith)
  | rz => exact h
  | ru | rd | rs => simpa [Picks] using h

/-- A member of the kind is its own lower neighbour. -/
theorem between_eq_of_mem (h : Between S x lo hi) (hx : S x) : lo = x := by
  obtain ⟨-, -, hle, hlt, hadj⟩ := h
  rcases hadj x hx with hc | hc
  · exact le_antisymm hle hc
  · exact absurd hlt (not_lt.mpr hc)

end Neighbours

section Spacings

variable {mode : Rnd} {neg : Bool} {M x w : ℚ} {n rem den : ℕ} {d : Word} (hw : 0 < w) (hrem : rem < den) (hx : x = (n + rem / den) * w)
include hw hrem hx

/-! A value x lies rem / den of a spacing w above n spacings. -/

omit hw hrem in
theorem above_lower : x - n * w = rem / den * w ∧ (n + 1 : ℕ) * w - x = (1 - rem / den) * w := by
  rw [hx]
  push_cast
  exact ⟨by ring, by ring⟩

theorem eq_lower_iff : x = n * w ↔ rem = 0 := by
  have hden : (den : ℚ) ≠ 0 := by exact_mod_cast Nat.ne_zero_of_lt hrem
  rw [← sub_eq_zero, (above_lower hx).1, mul_eq_zero, div_eq_zero_iff]
  simp [hw.ne', hden]

theorem nearer_lower_iff : x - n * w < (n + 1 : ℕ) * w - x ↔ 2 * rem < den := by
  have hden : (0 : ℚ) < den := by exact_mod_cast Nat.zero_lt_of_lt hrem
  rw [(above_lower hx).1, (above_lower hx).2, mul_lt_mul_iff_left₀ hw, lt_sub_iff_add_lt, ← add_div, div_lt_one hden, ← two_mul]
  exact_mod_cast Iff.rfl

theorem midway_iff : x - n * w = (n + 1 : ℕ) * w - x ↔ 2 * rem = den := by
  have hden : (den : ℚ) ≠ 0 := by exact_mod_cast Nat.ne_zero_of_lt hrem
  rw [(above_lower hx).1, (above_lower hx).2, mul_left_inj' hw.ne', eq_sub_iff_add_eq, ← add_div, div_eq_one_iff_eq hden, ← two_mul]
  exact_mod_cast Iff.rfl

theorem nearer_upper_iff : (n + 1 : ℕ) * w - x < x - n * w ↔ den < 2 * rem := by
  rw [← not_le, le_iff_lt_or_eq, nearer_lower_iff hw hrem hx, midway_iff hw hrem hx]
  omega

/-- Rounding to nearest, with ties to the even multiple. -/
theorem picks_roundUp_rn (draw : Nat) :
    Picks .rn neg draw M x (n * w) ((n + 1 : ℕ) * w) ((if roundUp .rn neg n rem den d then n + 1 else n : ℕ) * w) := by
  have hgap : ((n + 1 : ℕ) : ℚ) * w - n * w = w := by push_cast; ring
  have hup : roundUp .rn neg n rem den d = true ↔ rem ≠ 0 ∧ (den < 2 * rem ∨ 2 * rem = den ∧ n % 2 = 1) := by
    by_cases h0 : rem = 0 <;> simp [roundUp, h0]
  rw [Picks, nearer_lower_iff hw hrem hx, nearer_upper_iff hw hrem hx, midway_iff hw hrem hx, if_congr hup rfl rfl, hgap]
  refine ⟨fun h => ?_, fun h => ?_, fun h => ?_⟩
  · rw [if_neg (by omega)]
  · rw [if_pos (by omega)]
  · rcases Nat.mod_two_eq_zero_or_one n with hpar | hpar
    · have heven : n = 2 * (n / 2) := by omega
      refine .inl ⟨n / 2, congrArg (· * w) (by exact_mod_cast heven), ?_⟩
      rw [if_neg (by omega)]
    · have hodd : n = 2 * (n / 2) + 1 := by omega
      refine .inr ⟨n / 2, congrArg (· * w) (by exact_mod_cast hodd), ?_⟩
      rw [if_pos (by omega)]

/-- The model's choice between n and n + 1 spacings is that of R114 and R117; a stochastic choice is for a value within M. -/
theorem picks_roundUp (hM : mode = .rs → x ≤ M) : Picks mode neg d.toNat M x (n * w) ((n + 1 : ℕ) * w)
    ((if roundUp mode neg n rem den d then n + 1 else n : ℕ) * w) := by
  have hexact := eq_lower_iff hw hrem hx
  cases mode with
  | rn => exact picks_roundUp_rn hw hrem hx _
  | rz => simp [Picks, roundUp]
  | ru | rd => by_cases h0 : rem = 0 <;> cases neg <;> simp [Picks, roundUp, hexact, h0]
  | rs =>
    have hgap : ((n + 1 : ℕ) : ℚ) * w - n * w = w := by push_cast; ring
    have hfloor : ⌊(x - n * w) / ((n + 1 : ℕ) * w - n * w) * 2 ^ 32⌋ = (rem * 2 ^ 32 / den : ℕ) := by
      rw [(above_lower hx).1, hgap, mul_div_cancel_right₀ _ hw.ne', div_mul_eq_mul_div]
      exact_mod_cast Rat.floor_natCast_div_natCast (rem * 2 ^ 32) den
    rw [Picks, if_congr hexact rfl rfl, if_neg (not_lt.mpr (hM rfl)), hfloor]
    by_cases h0 : rem = 0
    · simp [roundUp, h0]
    · simp only [roundUp, h0, if_false, decide_eq_true_eq, Int.ofNat_lt]
      split <;> rfl

end Spacings

/-! ## The codes of a format (R100, R101, R115) -/

/-- What every format of R100 has. -/
def Fmt.Std (f : Fmt) : Prop := 1 < f.e ∧ 0 < f.m ∧ (f.kind = .e4m3 → f = ⟨4, 3, .e4m3⟩)

section Codes

variable {f : Fmt}

/-- The code with a sign and the bits k below it. -/
def Fmt.withSign (f : Fmt) (neg : Bool) (k : Nat) : Nat := (if neg then f.sign else 0) + k

theorem Fmt.sign_pos : 0 < f.sign := Nat.two_pow_pos _

theorem Fmt.two_mul_sign : 2 * f.sign = 2 ^ fBits f := by
  rw [Fmt.sign, fBits, Nat.add_assoc, Nat.add_comm 1, Nat.pow_succ, Nat.mul_comm]

theorem fOwn_eq (c : Nat) : fOwn f c = c % (2 * f.sign) := by rw [fOwn, Fmt.two_mul_sign]

theorem fOwn_lt (c : Nat) : fOwn f c < 2 ^ fBits f := Nat.mod_lt _ (Nat.two_pow_pos _)

section WithSign

variable {k : Nat} (hk : k < f.sign) (neg : Bool)
include hk

theorem Fmt.withSign_lt : f.withSign neg k < 2 ^ fBits f := by
  rw [← Fmt.two_mul_sign, Fmt.withSign]
  split <;> omega

theorem Fmt.withSign_mod : f.withSign neg k % f.sign = k := by
  cases neg <;> simp [Fmt.withSign, Nat.mod_eq_of_lt hk]

theorem fNeg_withSign : fNeg f (f.withSign neg k) = neg := by
  have h := Fmt.sign_le_iff (f := f) (f.withSign neg k)
  rw [Fmt.two_mul_sign, Nat.mod_eq_of_lt (Fmt.withSign_lt hk neg)] at h
  rw [Bool.eq_iff_iff, ← h, Fmt.withSign]
  cases neg <;> simp [hk]

theorem fMag_withSign : fMag f (f.withSign neg k) = f.steps k * f.least := by
  rw [fMag_eq, Fmt.withSign_mod hk]

end WithSign

theorem fExp_eq_of_mod {k c : Nat} (h : k % f.sign = c % f.sign) : fExp f k = fExp f c := by rw [← fExp_eq, ← fExp_eq, h]

theorem fFrac_eq_of_mod {k c : Nat} (h : k % f.sign = c % f.sign) : fFrac f k = fFrac f c := by rw [← fFrac_eq, ← fFrac_eq, h]

theorem Fmt.overflow_eq (mode : Rnd) (sat neg : Bool) : f.overflow mode sat neg =
    if !sat && (mode == .rn || (mode == .ru && !neg) || (mode == .rd && neg)) then f.infCode else f.maxCode := by
  cases sat <;> cases neg <;> cases mode <;> rfl

variable (hf : f.Std)
include hf

theorem Fmt.Std.four_le : 4 ≤ 2 ^ f.e := Nat.pow_le_pow_right (n := 2) (by decide) hf.1

theorem Fmt.maxCode_lt : f.maxCode < f.sign := by
  obtain ⟨he, hm, hk⟩ := hf
  have h4 := Fmt.Std.four_le ⟨he, hm, hk⟩
  have hsign := Fmt.sign_pos (f := f)
  rw [Fmt.maxCode]
  cases hkind : f.kind with
  | ieee =>
    have hlt : (2 ^ f.e - 1) * 2 ^ f.m < 2 ^ f.e * 2 ^ f.m := Nat.mul_lt_mul_of_pos_right (by omega) (Nat.two_pow_pos _)
    rw [Fmt.sign, Nat.pow_add]
    exact (Nat.sub_le ..).trans_lt hlt
  | e4m3 | finite => exact Nat.sub_lt hsign (by decide)

/-- The codes that are neither NaN nor infinity are those up to the largest finite one. -/
theorem Fmt.finite_iff (c : Nat) : (fNaN f c = false ∧ fInf f c = false) ↔ c % f.sign ≤ f.maxCode := by
  obtain ⟨he, hm, hk⟩ := hf
  have h4 := Fmt.Std.four_le ⟨he, hm, hk⟩
  have hlt : c % f.sign < f.sign := Nat.mod_lt _ Fmt.sign_pos
  cases hkind : f.kind with
  | ieee =>
    have hsplit : (fNaN f c = false ∧ fInf f c = false) ↔ fExp f c ≠ 2 ^ f.e - 1 := by
      rw [← Bool.not_eq_true, ← Bool.not_eq_true, fNaN_iff c hkind, fInf_iff c hkind]
      tauto
    have hpos := Nat.two_pow_pos f.m
    have hexp : fExp f c < 2 ^ f.e - 1 ↔ c % f.sign < (2 ^ f.e - 1) * 2 ^ f.m := by rw [← fExp_eq, Nat.div_lt_iff_lt_mul hpos]
    have hle := fExp_le (f := f) c
    have hmul : 0 < (2 ^ f.e - 1) * 2 ^ f.m := Nat.mul_pos (by omega) hpos
    rw [hsplit, Fmt.maxCode, hkind]
    dsimp only
    omega
  | e4m3 =>
    obtain rfl := hk hkind
    have hcode := Fmt.code_mod_sign_eq (f := ⟨4, 3, .e4m3⟩) c
    have hfrac := fFrac_lt (f := ⟨4, 3, .e4m3⟩) c
    have hexp := fExp_le (f := ⟨4, 3, .e4m3⟩) c
    simp only [fNaN, fInf, Bool.and_eq_false_iff, beq_eq_false_iff_ne, and_true]
    simp only [Fmt.sign, Fmt.maxCode] at *
    omega
  | finite =>
    simp only [fNaN, fInf, Fmt.maxCode, hkind, true_iff, and_self]
    exact Nat.le_sub_one_of_lt hlt

/-- The largest finite magnitude M is that of the largest finite code. -/
theorem fTop_eq : fTop f = f.steps f.maxCode * f.least := by
  obtain ⟨he, hm, hk⟩ := hf
  have h4 := Fmt.Std.four_le ⟨he, hm, hk⟩
  have hpos := Nat.two_pow_pos f.m
  have hbias := Fmt.two_pow_e_sub (f := f) (by omega)
  rw [fTop, Fmt.maxCode]
  cases hkind : f.kind with
  | ieee =>
    have hcode : (2 ^ f.e - 1) * 2 ^ f.m - 1 = (2 ^ f.e - 2) * 2 ^ f.m + (2 ^ f.m - 1) := by
      have hsucc : 2 ^ f.e - 1 = 2 ^ f.e - 2 + 1 := by omega
      rw [hsucc, Nat.add_mul]
      omega
    have hexp : ((2 ^ f.e - 2 : ℕ) : ℤ) - f.bias - f.m = f.bias - f.m := by omega
    dsimp only
    rw [hcode, Fmt.steps_last (by omega), hexp, zpow_sub₀ two_ne_zero, zpow_natCast, zpow_natCast]
    field_simp
    ring
  | e4m3 =>
    obtain rfl := hk hkind
    norm_num [Fmt.steps, Fmt.least, Fmt.bias]
  | finite =>
    have hcode : 2 ^ (f.e + f.m) - 1 = (2 ^ f.e - 1) * 2 ^ f.m + (2 ^ f.m - 1) := by
      rw [Nat.pow_add, Nat.sub_mul, Nat.one_mul]
      have := Nat.le_mul_of_pos_left (2 ^ f.m) (Nat.two_pow_pos f.e)
      omega
    have hcast : ((2 ^ f.e - 1 : ℕ) : ℤ) = 2 ^ f.e - 1 := by rw [Nat.cast_sub Nat.one_le_two_pow]; push_cast; rfl
    dsimp only
    rw [hcode, Fmt.steps_last (by omega), hcast]

/-! ## The model's rounding is that of R114, R115 and R117 -/

theorem Fmt.infCode_lt : f.infCode < f.sign := by
  have hmax := Fmt.maxCode_lt hf
  have h4 := Fmt.Std.four_le hf
  have hpos := Nat.two_pow_pos f.m
  rw [Fmt.infCode]
  cases hkind : f.kind with
  | ieee =>
    rw [Fmt.sign, Nat.pow_add]
    exact Nat.mul_lt_mul_of_pos_right (by omega) hpos
  | e4m3 => exact Nat.sub_lt Fmt.sign_pos Nat.one_pos
  | finite => exact hmax

theorem fInf_withSign_infCode (hk : f.kind = .ieee) (neg : Bool) : fInf f (f.withSign neg f.infCode) = true := by
  rw [fInf_iff_infCode _ hk, Fmt.withSign_mod (Fmt.infCode_lt hf)]

theorem fNaN_withSign_infCode (hk : f.kind = .e4m3) (neg : Bool) : fNaN f (f.withSign neg f.infCode) = true := by
  obtain rfl := hf.2.2 hk
  cases neg <;> decide

/-- A code up to the largest finite one, with a sign, is finite and has the steps of its bits. -/
theorem finite_withSign {k : Nat} (hk : k ≤ f.maxCode) (neg : Bool) :
    fNaN f (f.withSign neg k) = false ∧ fInf f (f.withSign neg k) = false ∧ fMag f (f.withSign neg k) = f.steps k * f.least := by
  have hlt := hk.trans_lt (Fmt.maxCode_lt hf)
  obtain ⟨hn, hi⟩ := (Fmt.finite_iff hf (f.withSign neg k)).mpr (by rwa [Fmt.withSign_mod hlt])
  exact ⟨hn, hi, fMag_withSign hlt neg⟩

theorem overflows (mode : Rnd) (sat neg : Bool) : Overflows f mode sat neg (f.withSign neg (f.overflow mode sat neg)) := by
  obtain ⟨hn, hi, hmag⟩ := finite_withSign hf le_rfl neg
  replace hmag := hmag.trans (fTop_eq hf).symm
  rw [Overflows, Fmt.overflow_eq]
  cases hkind : f.kind with
  | ieee =>
    dsimp only
    split
    · exact fInf_withSign_infCode hf hkind neg
    · exact ⟨hi, hmag⟩
  | e4m3 =>
    dsimp only
    split
    · exact fNaN_withSign_infCode hf hkind neg
    · exact ⟨hn, hmag⟩
  | finite =>
    have hinf : f.infCode = f.maxCode := by rw [Fmt.infCode, hkind]
    dsimp only
    rw [hinf, ite_self]
    exact hmag

theorem Fmt.overflow_lt (mode : Rnd) (sat neg : Bool) : f.overflow mode sat neg < f.sign := by
  rw [Fmt.overflow_eq]
  split
  · exact Fmt.infCode_lt hf
  · exact Fmt.maxCode_lt hf

omit hf

/-- The bits below the sign that a value takes between the codes k and k + 1, whose spacing it divides in n + rem / den parts. -/
def Fmt.between (f : Fmt) (mode : Rnd) (sat neg : Bool) (k n rem den : Nat) (draw : Word) : Nat :=
  let above := decide (f.maxCode < k) || (decide (k = f.maxCode) && rem != 0)
  let j := if mode = .rs && above then k else if roundUp mode neg n rem den draw then k + 1 else k
  if f.maxCode < j then f.overflow mode sat neg else j

include hf

theorem Fmt.between_lt (mode : Rnd) (sat neg : Bool) (k n rem den : Nat) (draw : Word) :
    f.between mode sat neg k n rem den draw < f.sign := by
  rw [Fmt.between]
  generalize (if mode = .rs && _ then k else _ : Nat) = j
  split
  · exact Fmt.overflow_lt hf mode sat neg
  next h => exact (Nat.le_of_not_lt h).trans_lt (Fmt.maxCode_lt hf)

section Round

variable {mode : Rnd} {sat neg : Bool} {k n rem den : ℕ} {w x : ℚ} {d : Word} (hw : 0 < w) (hrem : rem < den)
  (hlo : f.steps k * f.least = n * w) (hhi : f.steps (k + 1) * f.least = (n + 1 : ℕ) * w) (hx : x = (n + rem / den) * w)
include hw hrem hlo hhi hx

omit hf in
theorem between_of_parts : Between (Rep f) x (n * w) ((n + 1 : ℕ) * w) := by
  have hden : (0 : ℚ) < den := by exact_mod_cast Nat.zero_lt_of_lt hrem
  have hfrac : (rem : ℚ) / den < 1 := (div_lt_one hden).mpr (by exact_mod_cast hrem)
  have hnonneg : (0 : ℚ) ≤ rem / den := by positivity
  rw [← hlo, ← hhi]
  refine between_steps ?_ ?_
  · rw [hlo, hx]
    exact mul_le_mul_of_nonneg_right (by linarith) hw.le
  · rw [hhi, hx]
    push_cast
    exact mul_lt_mul_of_pos_right (by linarith) hw

/-- A value is above the largest finite one when its lower code is, or is that one's while the value is not exact. -/
theorem above_iff : (decide (f.maxCode < k) || (decide (k = f.maxCode) && rem != 0)) = true ↔ fTop f < x := by
  obtain ⟨-, -, hle, hlt, -⟩ := between_of_parts hw hrem hlo hhi hx
  have hexact := eq_lower_iff hw hrem hx
  simp only [Bool.or_eq_true, Bool.and_eq_true, decide_eq_true_eq, bne_iff_ne]
  rw [← hlo] at hle hexact
  rw [← hhi] at hlt
  rw [fTop_eq hf]
  rcases Nat.lt_trichotomy f.maxCode k with hk | rfl | hk
  · exact iff_of_true (.inl hk) ((Fmt.steps_mul_least_lt_iff.mpr hk).trans_le hle)
  · simp [hle.lt_iff_ne'.trans (not_congr hexact)]
  · refine iff_of_false (by omega) (not_lt.mpr (hlt.le.trans ?_))
    exact Fmt.steps_mul_least_le_iff.mpr hk

/-- No value beyond M is drawn (R117): a stochastic rounding gives M there. -/
theorem rounds_between_of_above (habove : fTop f < x) :
    Rounds f .rs sat neg x d.toNat (f.withSign neg (f.between .rs sat neg k n rem den d)) := by
  have hlt := Fmt.between_lt hf .rs sat neg k n rem den d
  have hbetween := between_of_parts hw hrem hlo hhi hx
  have hcond := (above_iff hf hw hrem hlo hhi hx).mpr habove
  have hmax : f.overflow .rs sat neg = f.maxCode := by cases sat <;> rfl
  have hk : f.maxCode ≤ k := by
    simp only [Bool.or_eq_true, Bool.and_eq_true, decide_eq_true_eq] at hcond
    omega
  have hcode : f.between .rs sat neg k n rem den d = f.overflow .rs sat neg := by
    rw [Fmt.between, hcond, hmax]
    simp only [decide_true, Bool.and_self, if_true, ite_eq_left_iff]
    omega
  have hbeyond : fTop f < if x = n * w then n * w else (n + 1 : ℕ) * w := by
    split
    next h => rwa [← h]
    next => exact habove.trans hbetween.2.2.2.1
  refine ⟨Fmt.withSign_lt hlt neg, fNeg_withSign hlt neg, n * w, (n + 1 : ℕ) * w, if x = n * w then n * w else (n + 1 : ℕ) * w,
    hbetween, ?_, ?_⟩
  · rw [Picks, if_pos habove]
  · rw [if_neg (not_le.mpr hbeyond), hcode]
    exact overflows hf .rs sat neg

theorem rounds_between : Rounds f mode sat neg x d.toNat (f.withSign neg (f.between mode sat neg k n rem den d)) := by
  have hlt := Fmt.between_lt hf mode sat neg k n rem den d
  by_cases hrs : mode = .rs ∧ fTop f < x
  · obtain ⟨rfl, habove⟩ := hrs
    exact rounds_between_of_above hf hw hrem hlo hhi hx habove
  · have hcond : (decide (mode = .rs) && (decide (f.maxCode < k) || (decide (k = f.maxCode) && rem != 0))) = false := by
      rwa [Bool.eq_false_iff, ne_eq, Bool.and_eq_true, decide_eq_true_eq, above_iff hf hw hrem hlo hhi hx]
    have hy : ((if roundUp mode neg n rem den d then n + 1 else n : ℕ) : ℚ) * w =
        f.steps (if roundUp mode neg n rem den d then k + 1 else k) * f.least := by
      split
      · exact hhi.symm
      · exact hlo.symm
    refine ⟨Fmt.withSign_lt hlt neg, fNeg_withSign hlt neg, n * w, (n + 1 : ℕ) * w, _, between_of_parts hw hrem hlo hhi hx,
      picks_roundUp hw hrem hx fun hm => not_lt.mp fun h => hrs ⟨hm, h⟩, ?_⟩
    rw [hy, Fmt.between, hcond, if_neg Bool.false_ne_true]
    generalize (if roundUp mode neg n rem den d = true then k + 1 else k) = j
    have htop : f.steps j * f.least ≤ fTop f ↔ j ≤ f.maxCode := by rw [fTop_eq hf, Fmt.steps_mul_least_le_iff]
    by_cases hfin : j ≤ f.maxCode
    · rw [if_pos (htop.mpr hfin), if_neg (Nat.not_lt.mpr hfin)]
      exact finite_withSign hf hfin neg
    · rw [if_neg (htop.not.mpr hfin), if_pos (Nat.lt_of_not_le hfin)]
      exact overflows hf mode sat neg

end Round

end Codes

/-! ## Powers of two, and the spacing of a value -/

theorem pow2_pos (x : Int) : 0 < (pow2 x).1 ∧ 0 < (pow2 x).2 := by
  rw [pow2]
  split <;> simp

theorem pow2_div (x : Int) : ((pow2 x).1 : ℚ) / (pow2 x).2 = 2 ^ x := by
  rw [pow2]
  split
  next h =>
    obtain ⟨n, rfl⟩ := Int.eq_ofNat_of_zero_le h
    simp
  next h =>
    obtain ⟨n, hn⟩ := Int.eq_ofNat_of_zero_le (a := -x) (by omega)
    obtain rfl : x = -n := by omega
    simp

section Log

variable {a b : Nat} (ha : a ≠ 0) (hb : b ≠ 0)
include ha hb

/-- The exponent of a quotient of positive numbers. -/
theorem floorLog2_spec : (2 : ℚ) ^ floorLog2 a b ≤ a / b ∧ (a : ℚ) / b < 2 ^ (floorLog2 a b + 1) := by
  have hbq : (0 : ℚ) < b := by exact_mod_cast Nat.pos_of_ne_zero hb
  have hla : (2 : ℚ) ^ (Nat.log2 a : ℤ) ≤ a := by exact_mod_cast Nat.log2_self_le ha
  have hua : (a : ℚ) < 2 ^ ((Nat.log2 a : ℤ) + 1) := by exact_mod_cast Nat.lt_log2_self
  have hlb : (2 : ℚ) ^ (Nat.log2 b : ℤ) ≤ b := by exact_mod_cast Nat.log2_self_le hb
  have hub : (b : ℚ) < 2 ^ ((Nat.log2 b : ℤ) + 1) := by exact_mod_cast Nat.lt_log2_self
  have hlower : (2 : ℚ) ^ ((Nat.log2 a : ℤ) - Nat.log2 b - 1) ≤ a / b := by
    rw [le_div_iff₀ hbq]
    calc (2 : ℚ) ^ ((Nat.log2 a : ℤ) - Nat.log2 b - 1) * b
        ≤ 2 ^ ((Nat.log2 a : ℤ) - Nat.log2 b - 1) * 2 ^ ((Nat.log2 b : ℤ) + 1) := by gcongr
      _ = 2 ^ (Nat.log2 a : ℤ) := by rw [← zpow_add₀ two_ne_zero]; congr 1; ring
      _ ≤ a := hla
  have hupper : (a : ℚ) / b < 2 ^ ((Nat.log2 a : ℤ) - Nat.log2 b + 1) := by
    rw [div_lt_iff₀ hbq]
    calc (a : ℚ) < 2 ^ ((Nat.log2 a : ℤ) + 1) := hua
      _ = 2 ^ ((Nat.log2 a : ℤ) - Nat.log2 b + 1) * 2 ^ (Nat.log2 b : ℤ) := by rw [← zpow_add₀ two_ne_zero]; congr 1; ring
      _ ≤ _ := by gcongr
  rw [floorLog2]
  generalize (Nat.log2 a : ℤ) - Nat.log2 b = k at *
  have hq : (0 : ℚ) < (pow2 k).2 := by exact_mod_cast (pow2_pos k).2
  have htest : (pow2 k).1 * b ≤ a * (pow2 k).2 ↔ (2 : ℚ) ^ k ≤ a / b := by
    rw [← pow2_div, div_le_div_iff₀ hq hbq]
    exact_mod_cast Iff.rfl
  dsimp only
  split
  next h => exact ⟨htest.mp h, hupper⟩
  next h =>
    rw [sub_add_cancel]
    exact ⟨hlower, not_le.mp fun hk => h (htest.mpr hk)⟩

end Log

/-- A quotient is its whole part and the rest, of any spacing. -/
theorem div_add_mod_div {a b : ℕ} (hb : b ≠ 0) : (a : ℚ) / b = (a / b : ℕ) + (a % b : ℕ) / b := by
  have hbq : (b : ℚ) ≠ 0 := by exact_mod_cast hb
  rw [eq_comm, ← mul_left_inj' hbq, add_mul, div_mul_cancel₀ _ hbq, div_mul_cancel₀ _ hbq]
  exact_mod_cast Nat.div_add_mod' a b

section Spacing

variable {f : Fmt} {a b : Nat}

/-- The exponent of the spacing at a quotient. -/
def Fmt.ulp (f : Fmt) (a b : Nat) : Int := max (floorLog2 a b - f.m) (1 - (f.bias : Int) - f.m)

/-- The exponent of a spacing, counted from the least. -/
def Fmt.field (f : Fmt) (a b : Nat) : Nat := (f.ulp a b + f.bias + f.m).toNat - 1

theorem Fmt.field_eq : ((f.field a b : ℕ) : ℤ) + (1 - (f.bias : ℤ) - f.m) = f.ulp a b ∧
    (f.ulp a b + f.bias + f.m).toNat = f.field a b + 1 := by
  rw [Fmt.field, Fmt.ulp]
  omega

/-- How many spacings lie below a quotient. -/
theorem Fmt.spacings_bounds (ha : a ≠ 0) (hb : b ≠ 0) {n rem den : ℕ} (hrem : rem < den)
    (hx : (a : ℚ) / b = (n + rem / den) * 2 ^ f.ulp a b) :
    n + 1 ≤ 2 ^ (f.m + 1) ∧ (f.field a b = 0 ∨ 2 ^ f.m ≤ n) := by
  obtain ⟨hlog, hlog'⟩ := floorLog2_spec ha hb
  have hden : (0 : ℚ) < den := by exact_mod_cast Nat.zero_lt_of_lt hrem
  have hfrac : (rem : ℚ) / den < 1 := (div_lt_one hden).mpr (by exact_mod_cast hrem)
  have hnonneg : (0 : ℚ) ≤ rem / den := by positivity
  have hw : (0 : ℚ) < 2 ^ f.ulp a b := by positivity
  rw [hx] at hlog hlog'
  constructor
  · have hle : floorLog2 a b + 1 ≤ (f.m + 1 : ℕ) + f.ulp a b := by rw [Fmt.ulp]; omega
    have hlt : (n + rem / den : ℚ) * 2 ^ f.ulp a b < 2 ^ (f.m + 1) * 2 ^ f.ulp a b := by
      rw [← zpow_natCast, ← zpow_add₀ two_ne_zero]
      exact hlog'.trans_le (zpow_le_zpow_right₀ one_le_two hle)
    have hn : (n : ℚ) < (2 ^ (f.m + 1) : ℕ) := by
      push_cast
      linarith [(mul_lt_mul_iff_left₀ hw).mp hlt]
    exact_mod_cast hn
  · by_cases h0 : f.field a b = 0
    · exact .inl h0
    · have hge : floorLog2 a b = f.m + f.ulp a b := by
        have := (Fmt.field_eq (f := f) (a := a) (b := b)).1
        rw [Fmt.ulp] at *
        omega
      rw [hge, zpow_add₀ two_ne_zero, zpow_natCast, mul_le_mul_iff_left₀ hw] at hlog
      have hn : ((2 ^ f.m : ℕ) : ℚ) < (n + 1 : ℕ) := by
        push_cast
        linarith
      exact .inr (Nat.lt_succ_iff.mp (by exact_mod_cast hn))

end Spacing

/-! ## The model's rounding -/

section Round

variable {f : Fmt} {mode : Rnd} {sat neg : Bool} {d : Word}

/-- The code above that of n spacings is that of n + 1. -/
theorem Fmt.code_succ (E n : Nat) : (E + 1) * 2 ^ f.m + (n + 1) - 2 ^ f.m = (E + 1) * 2 ^ f.m + n - 2 ^ f.m + 1 := by
  rw [Nat.add_mul]
  omega

/-- The rounding of a positive quotient is the choice between two codes. -/
theorem Fmt.round_eq {a b : Nat} (ha : a ≠ 0) : f.round mode sat neg a b d =
    let den := b * (pow2 (f.ulp a b)).1
    let n := a * (pow2 (f.ulp a b)).2 / den
    f.withSign neg (f.between mode sat neg ((f.field a b + 1) * 2 ^ f.m + n - 2 ^ f.m) n (a * (pow2 (f.ulp a b)).2 % den) den d) := by
  have hcode (keep up : Bool) (E n : Nat) : (E + 1) * 2 ^ f.m + (if keep then n else if up then n + 1 else n) - 2 ^ f.m =
      if keep then (E + 1) * 2 ^ f.m + n - 2 ^ f.m else if up then (E + 1) * 2 ^ f.m + n - 2 ^ f.m + 1 else (E + 1) * 2 ^ f.m + n - 2 ^ f.m := by
    rw [← Fmt.code_succ]
    cases keep <;> cases up <;> rfl
  rw [Fmt.round, if_neg ha, ← Fmt.ulp]
  dsimp only
  rw [Fmt.field_eq.2, hcode]
  rfl

variable (hf : f.Std)
include hf

theorem rounds_zero : Rounds f mode sat neg 0 d.toNat (f.withSign neg 0) := by
  have hcode : f.between mode sat neg 0 0 0 1 d = 0 := by
    have hup : roundUp mode neg 0 0 1 d = false := rfl
    simp [Fmt.between, hup]
  have h := rounds_between hf (mode := mode) (sat := sat) (neg := neg) (k := 0) (n := 0) (rem := 0) (den := 1) (w := f.least) (x := 0)
    (d := d) Fmt.least_pos Nat.one_pos (by rw [Fmt.steps_zero]) (by rw [Fmt.steps_one]) (by simp)
  rwa [hcode] at h

/-- The model's rounding of a quotient is that of R114, R115 and R117. -/
theorem Fmt.rounds_round {a b : Nat} (hb : b ≠ 0) : Rounds f mode sat neg ((a : ℚ) / b) d.toNat (f.round mode sat neg a b d) := by
  by_cases ha : a = 0
  · have h := rounds_zero hf (mode := mode) (sat := sat) (neg := neg) (d := d)
    rw [ha, Nat.cast_zero, zero_div]
    simpa [Fmt.round, Fmt.withSign] using h
  · rw [Fmt.round_eq ha]
    dsimp only
    obtain ⟨hp, hq⟩ := pow2_pos (f.ulp a b)
    have hw : (0 : ℚ) < 2 ^ f.ulp a b := by positivity
    have hden : b * (pow2 (f.ulp a b)).1 ≠ 0 := Nat.mul_ne_zero hb hp.ne'
    have hrem := Nat.mod_lt (a * (pow2 (f.ulp a b)).2) (Nat.pos_of_ne_zero hden)
    have hx : (a : ℚ) / b = ((a * (pow2 (f.ulp a b)).2 / (b * (pow2 (f.ulp a b)).1) : ℕ) +
        (a * (pow2 (f.ulp a b)).2 % (b * (pow2 (f.ulp a b)).1) : ℕ) / (b * (pow2 (f.ulp a b)).1 : ℕ)) * 2 ^ f.ulp a b := by
      have hbq : (b : ℚ) ≠ 0 := by exact_mod_cast hb
      have hpq : ((pow2 (f.ulp a b)).1 : ℚ) ≠ 0 := by exact_mod_cast hp.ne'
      have hqq : ((pow2 (f.ulp a b)).2 : ℚ) ≠ 0 := by exact_mod_cast hq.ne'
      rw [← div_add_mod_div hden, ← pow2_div]
      push_cast
      field_simp
    generalize a * (pow2 (f.ulp a b)).2 / (b * (pow2 (f.ulp a b)).1) = n at hx ⊢
    generalize a * (pow2 (f.ulp a b)).2 % (b * (pow2 (f.ulp a b)).1) = rem at hx hrem ⊢
    obtain ⟨hn, hE⟩ := Fmt.spacings_bounds ha hb hrem hx
    have hfield := (Fmt.field_eq (f := f) (a := a) (b := b)).1
    refine rounds_between hf hw hrem ?_ ?_ hx
    · rw [Fmt.steps_of_spacings (by omega) hE, ← Fmt.mul_zpow_eq_mul_least, hfield]
    · rw [← Fmt.code_succ, Fmt.steps_of_spacings hn (hE.imp_right Nat.le_succ_of_le), ← Fmt.mul_zpow_eq_mul_least, hfield]

theorem Fmt.rounds_roundD (n : Nat) (x : Int) : Rounds f mode sat neg (n * 2 ^ x) d.toNat (f.roundD mode sat neg n x d) := by
  have h := Fmt.rounds_round hf (mode := mode) (sat := sat) (neg := neg) (d := d) (a := n * (pow2 x).1) (pow2_pos x).2.ne'
  rwa [Nat.cast_mul, mul_div_assoc, pow2_div] at h

end Round

/-- The model's rounding to an integer is that of R132. -/
theorem roundsInt_roundInt (mode : Rnd) (neg : Bool) (n : Nat) (x : Int) (d : Word) :
    RoundsInt mode neg (n * 2 ^ x) d.toNat (roundInt mode neg n x d) := by
  obtain ⟨-, hq⟩ := pow2_pos x
  have hqq : (0 : ℚ) < (pow2 x).2 := by exact_mod_cast hq
  have hrem := Nat.mod_lt (n * (pow2 x).1) hq
  have hx : (n : ℚ) * 2 ^ x = (n * (pow2 x).1 / (pow2 x).2 : ℕ) + (n * (pow2 x).1 % (pow2 x).2 : ℕ) / ((pow2 x).2 : ℕ) := by
    rw [← div_add_mod_div hq.ne', Nat.cast_mul, mul_div_assoc, pow2_div]
  rw [roundInt]
  dsimp only
  generalize n * (pow2 x).1 / (pow2 x).2 = k at hx ⊢
  generalize n * (pow2 x).1 % (pow2 x).2 = rem at hx hrem ⊢
  have hfrac : (rem : ℚ) / (pow2 x).2 < 1 := (div_lt_one hqq).mpr (by exact_mod_cast hrem)
  have hnonneg : (0 : ℚ) ≤ rem / (pow2 x).2 := by positivity
  have hpicks := picks_roundUp (mode := mode) (neg := neg) (d := d) (w := 1) (M := n * 2 ^ x) one_pos hrem (hx.trans (mul_one _).symm)
    fun _ => le_rfl
  simp only [mul_one] at hpicks
  refine ⟨k, (k + 1 : ℕ), ⟨⟨k, rfl⟩, ⟨k + 1, rfl⟩, ?_, ?_, ?_⟩, hpicks⟩
  · rw [hx]
    linarith
  · rw [hx]
    push_cast
    linarith
  · rintro _ ⟨j, rfl⟩
    rw [Nat.cast_le, Nat.cast_le]
    omega

end Sys2Proof.Machine

/-!
Rounding, scaling and conversion (O8). A code is taken apart into NaN, infinity or an exact number; each instruction's result is then that
of its table, or the rounding of an exact value.
-/

namespace Sys2Proof.Machine

open Sys2Proof.Claims

/-! ## The value of a code (R101) -/

section Value

variable {f : Fmt}

/-- The integer and the power of two whose product is the magnitude of a finite code. -/
def fNum (f : Fmt) (c : Nat) : Nat := if fExp f c = 0 then fFrac f c else 2 ^ f.m + fFrac f c
def fPow (f : Fmt) (c : Nat) : Int := if fExp f c = 0 then 1 - (f.bias : Int) - f.m else (fExp f c : Int) - f.bias - f.m

theorem fMag_eq_num (c : Nat) : fMag f c = fNum f c * 2 ^ fPow f c := by
  rw [fMag, fNum, fPow]
  split <;> simp

theorem fNum_lt (c : Nat) : fNum f c < 2 ^ (f.m + 1) := by
  have := fFrac_lt (f := f) c
  rw [fNum, Nat.pow_succ]
  split <;> omega

theorem fMag_eq_zero_iff (c : Nat) : fMag f c = 0 ↔ fNum f c = 0 := by
  simp [fMag_eq_num, zpow_ne_zero]

variable (hf : f.Std) {c : Nat}
include hf

/-- The value of a code is a NaN, an infinity, or the exact number of its magnitude, as its fields say. -/
theorem Fmt.value_eq_cases : f.value c = if fNaN f c then .nan (fNeg f c) (fFrac f c) else if fInf f c then .inf (fNeg f c)
    else .num (fNeg f c) (fNum f c) (fPow f c) := by
  have hnum : (if fExp f c = 0 then FVal.num (fNeg f c) (fFrac f c) (1 - (f.bias : Int) - f.m)
      else .num (fNeg f c) (2 ^ f.m + fFrac f c) ((fExp f c : Int) - f.bias - f.m)) = .num (fNeg f c) (fNum f c) (fPow f c) := by
    rw [fNum, fPow]
    split <;> rfl
  cases hk : f.kind with
  | ieee =>
    rw [Fmt.value_eq c hk, hnum]
    by_cases hE : fExp f c = 2 ^ f.e - 1 <;> by_cases hF : fFrac f c = 0 <;> simp [fNaN, fInf, hk, hE, hF]
  | e4m3 =>
    have htop : c % f.sign = 2 ^ (f.e + f.m) - 1 ↔ fNaN f c = true := by
      obtain rfl := hf.2.2 hk
      have hcode := Fmt.code_mod_sign_eq (f := ⟨4, 3, .e4m3⟩) c
      have hfrac := fFrac_lt (f := ⟨4, 3, .e4m3⟩) c
      have hexp := fExp_le (f := ⟨4, 3, .e4m3⟩) c
      simp only [fNaN, Bool.and_eq_true, beq_iff_eq, Fmt.sign] at *
      omega
    simp only [Fmt.value, hk, Fmt.code_mod_sign, fExp_eq, fFrac_eq, Fmt.decide_sign_le, hnum, htop]
    simp [fInf, hk]
  | finite =>
    simp only [Fmt.value, hk, Fmt.code_mod_sign, fExp_eq, fFrac_eq, Fmt.decide_sign_le, hnum]
    simp [fNaN, fInf, hk]

theorem Fmt.value_of_nan (hn : fNaN f c = true) : f.value c = .nan (fNeg f c) (fFrac f c) := by
  rw [Fmt.value_eq_cases hf, if_pos hn]

theorem Fmt.value_of_inf (hn : fNaN f c = false) (hi : fInf f c = true) : f.value c = .inf (fNeg f c) := by
  rw [Fmt.value_eq_cases hf, hn, if_neg Bool.false_ne_true, if_pos hi]

theorem Fmt.value_of_finite (hn : fNaN f c = false) (hi : fInf f c = false) : f.value c = .num (fNeg f c) (fNum f c) (fPow f c) := by
  rw [Fmt.value_eq_cases hf, hn, hi, if_neg Bool.false_ne_true, if_neg Bool.false_ne_true]

end Value

/-! ## Exact values -/

section Exact

variable {f : Fmt} {mode : Rnd} {sat neg : Bool} {x y : ℚ} {draw c n : Nat}

/-- A representable magnitude within M is rounded to itself. -/
theorem rounds_eq_of_rep (h : Rounds f mode sat neg x draw c) (hx : Rep f x) (htop : x ≤ fTop f) :
    fNaN f c = false ∧ fInf f c = false ∧ fMag f c = x := by
  obtain ⟨-, -, lo, hi, y, hbetween, hpicks, hcode⟩ := h
  have hlt := hbetween.2.2.2.1
  obtain rfl := between_eq_of_mem hbetween hx
  obtain rfl := picks_eq_of_exact hlt hpicks
  rwa [if_pos htop] at hcode

/-- A whole magnitude is the integer that it rounds to. -/
theorem roundsInt_eq_of_whole (h : RoundsInt mode neg x draw n) (hx : Whole x) : (n : ℚ) = x := by
  obtain ⟨lo, hi, hbetween, hpicks⟩ := h
  have hlt := hbetween.2.2.2.1
  obtain rfl := between_eq_of_mem hbetween hx
  exact picks_eq_of_exact hlt hpicks

/-- The integer that a magnitude below a whole one rounds to does not exceed that one. -/
theorem roundsInt_le_of_lt {k : Nat} (h : RoundsInt mode neg x draw n) (hx : x < k) : n ≤ k := by
  obtain ⟨lo, hi, ⟨-, -, hle, hlt, hadj⟩, hpicks⟩ := h
  have hhi : hi ≤ k := (hadj k ⟨k, rfl⟩).resolve_left (by linarith)
  have hn : (n : ℚ) ≤ k := by
    rcases picks_eq_or hpicks with h | h <;> linarith
  exact_mod_cast hn

end Exact

/-! ## NaNs (R120, R124) -/

/-- Setting a bit adds it, if it is not set already. -/
theorem or_two_pow_eq (n k : Nat) : n ||| 2 ^ k = if n / 2 ^ k % 2 = 1 then n else n + 2 ^ k := by
  split
  next h =>
    refine Nat.eq_of_testBit_eq fun i => ?_
    rw [Nat.testBit_or, Nat.testBit_two_pow]
    by_cases hi : k = i
    · subst hi
      simp [Nat.testBit_eq_decide_div_mod_eq, h]
    · simp [hi]
  next h =>
    have hlow : n % 2 ^ k < 2 ^ k := Nat.mod_lt _ (Nat.two_pow_pos k)
    have hlow' : n % 2 ^ k < 2 ^ (k + 1) := by rw [Nat.pow_succ]; omega
    have hsum : n % 2 ^ k + 2 ^ k < 2 ^ (k + 1) := by rw [Nat.pow_succ]; omega
    have hn : 2 ^ (k + 1) * (n / 2 ^ k / 2) + n % 2 ^ k = n := by
      have hdiv : n / 2 ^ k = 2 * (n / 2 ^ k / 2) := by omega
      rw [Nat.pow_succ, Nat.mul_assoc, ← hdiv, Nat.div_add_mod]
    calc n ||| 2 ^ k = (2 ^ (k + 1) * (n / 2 ^ k / 2) ||| n % 2 ^ k) ||| 2 ^ k := by rw [← Nat.two_pow_add_eq_or_of_lt hlow', hn]
      _ = 2 ^ (k + 1) * (n / 2 ^ k / 2) + (n % 2 ^ k + 2 ^ k) := by
        rw [Nat.or_assoc, Nat.or_two_pow_eq_add_of_lt hlow, ← Nat.two_pow_add_eq_or_of_lt hsum]
      _ = n + 2 ^ k := by rw [← Nat.add_assoc, hn]

/-- The model's quiet NaN is that of R124. -/
theorem Fmt.quiet_eq (f : Fmt) (c : Nat) : f.quiet c = fOwn f c ||| 2 ^ (f.m - 1) := by
  rw [or_two_pow_eq, fOwn_eq, Fmt.quiet]

theorem firstNaN_one (f : Fmt) (c : Nat) : firstNaN f [c] = if fNaN f c then some (f.quiet c) else none := by
  rw [firstNaN, List.find?_cons, List.find?_nil, Fmt.quiet_eq]
  cases fNaN f c <;> rfl

section NaNs

variable {f g : Fmt} {c : Nat}

/-- The fraction of a code, aligned at the top of another format's (R120). -/
def fCarried (g f : Fmt) (c : Nat) : Nat := if f.m ≤ g.m then fFrac g c / 2 ^ (g.m - f.m) else fFrac g c * 2 ^ (f.m - g.m)

theorem fCarried_lt : fCarried g f c < 2 ^ f.m := by
  have hfrac := fFrac_lt (f := g) c
  rw [fCarried]
  split
  next hm =>
    rw [Nat.div_lt_iff_lt_mul (Nat.two_pow_pos _), ← Nat.pow_add, Nat.add_sub_cancel' hm]
    exact hfrac
  next hm =>
    calc fFrac g c * 2 ^ (f.m - g.m) < 2 ^ g.m * 2 ^ (f.m - g.m) := Nat.mul_lt_mul_of_pos_right hfrac (Nat.two_pow_pos _)
      _ = 2 ^ f.m := by rw [← Nat.pow_add, Nat.add_sub_cancel' (Nat.le_of_not_le hm)]

variable (hf : f.Std)
include hf

/-- A NaN carried between formats is that of R120. -/
theorem Fmt.nanFrom_eq : f.nanFrom (fNeg g c) g.m (fFrac g c) = nanIn g f c := by
  rw [Fmt.nanFrom, nanIn, ← fCarried]
  cases hk : f.kind with
  | ieee =>
    have hlt := fCarried_lt (f := f) (g := g) (c := c)
    have hpow : 2 ^ (f.m - 1 + 1) = 2 ^ f.m := by rw [Nat.sub_add_cancel hf.2.1]
    have hbit : fCarried g f c / 2 ^ (f.m - 1) % 2 = 1 ↔ 2 ^ (f.m - 1) ≤ fCarried g f c := by
      have hone : fCarried g f c / 2 ^ (f.m - 1) < 2 :=
        Nat.div_lt_of_lt_mul (by rw [← Nat.pow_succ, Nat.succ_eq_add_one, hpow]; exact hlt)
      rw [Nat.mod_eq_of_lt hone, ← Nat.one_le_div_iff (Nat.two_pow_pos _)]
      omega
    dsimp only
    rw [or_two_pow_eq, if_congr hbit rfl rfl, Fmt.infCode_eq hk, Fmt.sign]
  | e4m3 =>
    obtain rfl := hf.2.2 hk
    rfl
  | finite => rfl

theorem nanIn_lt : nanIn g f c < 2 ^ fBits f := by
  have hm := hf.2.1
  rw [nanIn, ← fCarried, ← Fmt.sign]
  cases hk : f.kind with
  | ieee =>
    have hquiet : fCarried g f c ||| 2 ^ (f.m - 1) < 2 ^ f.m :=
      Nat.or_lt_two_pow fCarried_lt (Nat.pow_lt_pow_right (by decide) (by omega))
    have hexp : (2 ^ f.e - 1) * 2 ^ f.m + 2 ^ f.m = f.sign := by
      rw [← Nat.succ_mul, Nat.succ_eq_add_one, Nat.sub_add_cancel Nat.one_le_two_pow, Fmt.sign, Nat.pow_add]
    dsimp only
    rw [Nat.add_assoc]
    exact Fmt.withSign_lt (by omega) (fNeg g c)
  | e4m3 =>
    obtain rfl := hf.2.2 hk
    exact Fmt.withSign_lt (by decide) (fNeg g c)
  | finite => exact Nat.two_pow_pos _

end NaNs

/-! ## FRINT and FSCALE (R132) -/

/-- The code itself, of a code within its format. -/
theorem fields_fOwn (f : Fmt) (c : Nat) : fNaN f (fOwn f c) = fNaN f c ∧ fInf f (fOwn f c) = fInf f c ∧ fNeg f (fOwn f c) = fNeg f c ∧
    fMag f (fOwn f c) = fMag f c := by
  have hmod : fOwn f c % f.sign = c % f.sign := by rw [fOwn_eq, Fmt.code_mod_sign]
  have hE := fExp_eq_of_mod hmod
  have hF := fFrac_eq_of_mod hmod
  have hneg : fNeg f (fOwn f c) = fNeg f c := by
    rw [Bool.eq_iff_iff, ← Fmt.sign_le_iff, ← Fmt.sign_le_iff, fOwn_eq, Nat.mod_mod]
  exact ⟨by rw [fNaN, fNaN, hE, hF], by rw [fInf, fInf, hE, hF], hneg, by rw [fMag, fMag, hE, hF]⟩

/-- The three types hold the integers up to twice their significand's range (R132). -/
theorem fType_integers (t : FType) {k : Nat} (hk : k ≤ 2 ^ (fType t).m) : Rep (fType t) k ∧ (k : ℚ) ≤ fTop (fType t) := by
  refine ⟨⟨k, 0, by rw [Nat.pow_succ]; have := Nat.two_pow_pos (fType t).m; omega, by cases t <;> decide, by simp⟩, ?_⟩
  have hq : (k : ℚ) ≤ (2 ^ (fType t).m : ℕ) := by exact_mod_cast hk
  refine hq.trans ?_
  cases t <;> norm_num [fTop, fType, Fmt.bias]

theorem fType_std (t : FType) : (fType t).Std := by
  obtain ⟨-, hk, -, hm⟩ := fmtOf_eq t
  exact ⟨by cases t <;> decide, hm, fun h => absurd (hk.symm.trans h) (by decide)⟩

theorem whole_fMag {f : Fmt} {c : Nat} (h : 0 ≤ fPow f c) : Whole (fMag f c) := by
  obtain ⟨e, he⟩ := Int.eq_ofNat_of_zero_le h
  exact ⟨fNum f c * 2 ^ e, by rw [fMag_eq_num, he]; push_cast; rfl⟩

/-- A magnitude that is not whole by its exponent lies below the format's first whole spacing. -/
theorem fMag_lt_of_fPow_neg {f : Fmt} {c : Nat} (h : fPow f c < 0) : fMag f c < (2 ^ f.m : ℕ) := by
  have hlt : (fNum f c : ℚ) < (2 ^ (f.m + 1) : ℕ) := by exact_mod_cast fNum_lt c
  have hpow : (2 : ℚ) ^ fPow f c ≤ 2 ^ (-1 : ℤ) := zpow_le_zpow_right₀ one_le_two (by omega)
  calc fMag f c ≤ fNum f c * 2 ^ (-1 : ℤ) := by rw [fMag_eq_num]; gcongr
    _ < (2 ^ (f.m + 1) : ℕ) * 2 ^ (-1 : ℤ) := by gcongr
    _ = (2 ^ f.m : ℕ) := by push_cast; ring

/-- FRINT of a number whose exponent is negative is the integer of R132, held exactly. -/
theorem rint_of_fPow_neg (t : FType) (r : Rnd) {a : Nat} (d : Word) (hx : fPow (fType t) a < 0) :
    let f := fType t
    let n := roundInt r (fNeg f a) (fNum f a) (fPow f a) d
    let c := f.roundD r false (fNeg f a) n 0 0
    c < 2 ^ fBits f ∧ fNeg f c = fNeg f a ∧ fNaN f c = false ∧ fInf f c = false ∧ fMag f c = n := by
  have hint := roundsInt_roundInt r (fNeg (fType t) a) (fNum (fType t) a) (fPow (fType t) a) d
  rw [← fMag_eq_num] at hint
  obtain ⟨hrep, htop⟩ := fType_integers t (roundsInt_le_of_lt hint (fMag_lt_of_fPow_neg hx))
  have hrounds := Fmt.rounds_roundD (fType_std t) (mode := r) (sat := false) (neg := fNeg (fType t) a) (d := 0)
    (roundInt r (fNeg (fType t) a) (fNum (fType t) a) (fPow (fType t) a) d) 0
  rw [zpow_zero, mul_one] at hrounds
  obtain ⟨hn, hi, hmag⟩ := rounds_eq_of_rep hrounds hrep htop
  exact ⟨hrounds.1, hrounds.2.1, hn, hi, hmag⟩

theorem roundsToInt_rint (t : FType) (r : Rnd) (a : Nat) (d : Word) :
    RoundsToInt (fType t) r a d.toNat ((fType t).rint r a d) := by
  have hf := fType_std t
  have hneg := rint_of_fPow_neg t r (a := a) d
  generalize fType t = f at hf hneg
  rw [RoundsToInt, firstNaN_one, Fmt.rint]
  by_cases hn : fNaN f a = true
  · rw [Fmt.value_of_nan hf hn, if_pos hn]
  rw [if_neg hn]
  rw [Bool.not_eq_true] at hn
  by_cases hi : fInf f a = true
  · rw [Fmt.value_of_inf hf hn hi]
    simp only [hi, true_or, if_true]
    exact (fOwn_eq a).symm
  rw [Bool.not_eq_true] at hi
  rw [Fmt.value_of_finite hf hn hi]
  simp only [hi, Bool.false_eq_true, false_or, fMag_eq_zero_iff, Bool.or_eq_true, decide_eq_true_eq, ← fOwn_eq]
  by_cases h0 : fNum f a = 0
  · rw [if_pos h0, if_pos (.inl h0)]
  rw [if_neg h0]
  have hint := roundsInt_roundInt r (fNeg f a) (fNum f a) (fPow f a) d
  rw [← fMag_eq_num] at hint
  by_cases hx : 0 ≤ fPow f a
  · rw [if_pos (.inr hx)]
    obtain ⟨hn', hi', hneg, hmag⟩ := fields_fOwn f a
    exact ⟨fOwn_lt a, hneg, hn'.trans hn, hi'.trans hi, _, hint, by rw [hmag, roundsInt_eq_of_whole hint (whole_fMag hx)]⟩
  · rw [if_neg (by tauto)]
    obtain ⟨hlt, hsign, hn', hi', hmag⟩ := hneg (Int.not_le.mp hx)
    exact ⟨hlt, hsign, hn', hi', _, hint, hmag⟩

/-! The scale of FSCALE is any 32-bit integer. Beyond a bound every result is that at the bound: an overflow, or a value nearest to zero. -/

section Far

variable {f : Fmt} {mode : Rnd} {sat neg : Bool} {x z : ℚ} {draw c : Nat}

/-- All magnitudes from a representable one above M overflow alike. -/
theorem rounds_of_far {T : ℚ} {b : Nat} (hT : Rep f T) (htop : fTop f < T) (hx : T ≤ x) (hz : T ≤ z)
    (hb : Rounds f mode sat neg z draw b) (h : Rounds f mode sat neg x draw c) : Rounds f mode sat neg z draw c := by
  have hfar {v lo hi y : ℚ} (hv : T ≤ v) (hbetween : Between (Rep f) v lo hi) (hpicks : Picks mode neg draw (fTop f) v lo hi y) :
      ¬y ≤ fTop f := by
    obtain ⟨-, -, hle, hlt, hadj⟩ := hbetween
    have hlo : T ≤ lo := (hadj T hT).resolve_right (by linarith)
    rcases picks_eq_or hpicks with rfl | rfl <;> linarith
  obtain ⟨hlt, hsign, lo, hi, y, hbetween, hpicks, hcode⟩ := h
  obtain ⟨-, -, lo', hi', y', hbetween', hpicks', -⟩ := hb
  rw [if_neg (hfar hx hbetween hpicks)] at hcode
  exact ⟨hlt, hsign, lo', hi', y', hbetween', hpicks', by rwa [if_neg (hfar hz hbetween' hpicks')]⟩

/-- A positive magnitude below the least one lies between zero and that one. -/
theorem between_least {lo hi : ℚ} (h0 : 0 < x) (h1 : x < f.least) (h : Between (Rep f) x lo hi) : lo = 0 ∧ hi = f.least := by
  obtain ⟨hlo, hhi, hle, hlt, hadj⟩ := h
  have hleast : f.least = f.steps 1 * f.least := by rw [Fmt.steps_one, Nat.cast_one, one_mul]
  have hzero : (0 : ℚ) = f.steps 0 * f.least := by rw [Fmt.steps_zero, Nat.cast_zero, zero_mul]
  obtain ⟨j, rfl⟩ := rep_iff.mp hlo
  obtain ⟨k, rfl⟩ := rep_iff.mp hhi
  have hj : j < 1 := by rw [← Fmt.steps_mul_least_lt_iff (f := f), ← hleast]; linarith
  have hk : 0 < k := by rw [← Fmt.steps_mul_least_lt_iff (f := f), ← hzero]; linarith
  have hk' : k ≤ 1 := by
    rw [← Fmt.steps_mul_least_le_iff (f := f), ← hleast]
    exact (hadj _ (rep_iff.mpr ⟨1, hleast⟩)).resolve_left (by linarith)
  obtain rfl : j = 0 := by omega
  obtain rfl : k = 1 := by omega
  exact ⟨hzero.symm, hleast.symm⟩

/-- All positive magnitudes too small for a draw to tell from zero are rounded alike. -/
theorem rounds_of_near_zero (htop : f.least ≤ fTop f) (hx0 : 0 < x) (hx : x * 2 ^ 32 < f.least) (hz0 : 0 < z) (hz : z * 2 ^ 32 < f.least)
    (h : Rounds f mode sat neg x draw c) : Rounds f mode sat neg z draw c := by
  obtain ⟨hlt, hsign, lo, hi, y, hbetween, hpicks, hcode⟩ := h
  obtain ⟨rfl, rfl⟩ := between_least hx0 (by linarith) hbetween
  obtain ⟨hlo, hhi, -, -, hadj⟩ := hbetween
  refine ⟨hlt, hsign, 0, f.least, y, ⟨hlo, hhi, hz0.le, by linarith, hadj⟩, ?_, hcode⟩
  have hfloor {v : ℚ} (h0 : 0 < v) (hv : v * 2 ^ 32 < f.least) : ⌊(v - 0) / (f.least - 0) * 2 ^ 32⌋ = 0 := by
    rw [sub_zero, sub_zero, div_mul_eq_mul_div, Int.floor_eq_zero_iff]
    exact ⟨div_nonneg (by positivity) Fmt.least_pos.le, (div_lt_one Fmt.least_pos).mpr hv⟩
  cases mode with
  | rn => exact ⟨fun _ => hpicks.1 (by linarith), fun h => absurd h (by linarith), fun h => absurd h (by linarith)⟩
  | rz => exact hpicks
  | ru | rd =>
    simp only [Picks, ne_eq, hx0.ne', hz0.ne', not_false_eq_true, and_true] at hpicks ⊢
    exact hpicks
  | rs =>
    have hMx : ¬fTop f < x := by linarith
    have hMz : ¬fTop f < z := by linarith
    simp only [Picks, hx0.ne', hz0.ne', hMx, hMz, if_false, hfloor hx0 hx, hfloor hz0 hz] at hpicks ⊢
    exact hpicks

end Far

section Bounds

variable {f : Fmt} (hf : f.Std) (hk : f.kind = .ieee)
include hf hk

/-- The magnitude of a nonzero number in the units of the least one. -/
theorem fMag_bounds {a : Nat} (hn : fNaN f a = false) (h0 : fMag f a ≠ 0) :
    f.least ≤ fMag f a ∧ fMag f a < 2 ^ (2 * f.bias + f.m + 1) * f.least := by
  have he : 0 < f.e := Nat.zero_lt_of_lt hf.1
  have hpos := f.least_pos
  rw [fMag_eq] at h0 ⊢
  have hlower : f.steps (a % f.sign) ≠ 0 := fun h => h0 (by rw [h, Nat.cast_zero, zero_mul])
  constructor
  · have h1 : (1 : ℚ) ≤ f.steps (a % f.sign) := by exact_mod_cast Nat.pos_of_ne_zero hlower
    linarith [mul_le_mul_of_nonneg_right h1 hpos.le]
  · refine mul_lt_mul_of_pos_right ?_ hpos
    exact_mod_cast (Fmt.steps_strictMono.monotone (Fmt.le_infCode a hk hn)).trans_lt (Fmt.steps_infCode_lt hk he)

/-- The magnitude just above M is that of infinity's code. -/
theorem fTop_lt_infCode : fTop f < f.steps f.infCode * f.least ∧
    f.steps f.infCode * f.least < 2 ^ (2 * f.bias + f.m + 1) * f.least := by
  have h4 := Fmt.Std.four_le hf
  have hlt : f.maxCode < f.infCode := by
    have hmul : 0 < (2 ^ f.e - 1) * 2 ^ f.m := Nat.mul_pos (by omega) (Nat.two_pow_pos _)
    rw [Fmt.maxCode, Fmt.infCode, hk]
    dsimp only
    omega
  rw [fTop_eq hf]
  refine ⟨Fmt.steps_mul_least_lt_iff.mpr hlt, mul_lt_mul_of_pos_right ?_ f.least_pos⟩
  exact_mod_cast Fmt.steps_infCode_lt hk (Nat.zero_lt_of_lt hf.1)

/-- The rounding of a scaled number is that at a scale within the model's bounds, in a format whose range lies within them. -/
theorem rounds_clamped (hrange : 2 * f.bias + f.m + 1 ≤ 500) (htop : f.least ≤ fTop f) {r : Rnd} {neg : Bool} {a b c draw : Nat} (n : Int)
    (hn : fNaN f a = false) (h0 : fMag f a ≠ 0) (hb : Rounds f r false neg (fMag f a * 2 ^ n) draw b)
    (h : Rounds f r false neg (fMag f a * 2 ^ max (-1000) (min 1000 n)) draw c) : Rounds f r false neg (fMag f a * 2 ^ n) draw c := by
  obtain ⟨hlower, hupper⟩ := fMag_bounds hf hk hn h0
  obtain ⟨hT, hT'⟩ := fTop_lt_infCode hf hk
  have hpos := f.least_pos
  generalize fMag f a = v at *
  generalize 2 * f.bias + f.m + 1 = E at *
  have hv : 0 < v := by linarith
  rcases lt_or_ge 1000 n with hbig | hbig
  · have hfar {m : Int} (hm : 1000 ≤ m) : f.steps f.infCode * f.least ≤ v * 2 ^ m := by
      have hpow : (2 : ℚ) ^ E ≤ 2 ^ m := by
        rw [← zpow_natCast]
        exact zpow_le_zpow_right₀ one_le_two (by omega)
      calc f.steps f.infCode * f.least ≤ 2 ^ E * f.least := hT'.le
        _ ≤ 2 ^ m * v := by gcongr
        _ = v * 2 ^ m := mul_comm _ _
    exact rounds_of_far (rep_iff.mpr ⟨_, rfl⟩) hT (hfar (by omega)) (hfar hbig.le) hb h
  rcases lt_or_ge n (-1000) with hsmall | hsmall
  · have hnear {m : Int} (hm : m ≤ -1000) : v * 2 ^ m * 2 ^ 32 < f.least := by
      have hpow : (2 : ℚ) ^ E * 2 ^ m * 2 ^ 32 ≤ 1 := by
        rw [← zpow_natCast, ← zpow_natCast, ← zpow_add₀ two_ne_zero, ← zpow_add₀ two_ne_zero]
        exact zpow_le_one_of_nonpos₀ one_le_two (by omega)
      calc v * 2 ^ m * 2 ^ 32 < 2 ^ E * f.least * 2 ^ m * 2 ^ 32 := by gcongr
        _ = 2 ^ E * 2 ^ m * 2 ^ 32 * f.least := by ring
        _ ≤ 1 * f.least := by gcongr
        _ = f.least := one_mul _
    exact rounds_of_near_zero htop (by positivity) (hnear (by omega)) (by positivity) (hnear hsmall.le) h
  · rwa [show max (-1000) (min 1000 n) = n by omega] at h

end Bounds

theorem fType_range (t : FType) : 2 * (fType t).bias + (fType t).m + 1 ≤ 500 ∧ (fType t).least ≤ fTop (fType t) := by
  have h1 := Fmt.steps_mul_least_le_iff (f := fType t) (j := 1) (k := (fType t).maxCode)
  rw [Fmt.steps_one, Nat.cast_one, one_mul, ← fTop_eq (fType_std t)] at h1
  rw [h1]
  cases t <;> decide

theorem scales_scale (t : FType) (r : Rnd) (a : Nat) (n : Int) (d : Word) :
    Scales (fType t) r a n d.toNat ((fType t).scale r a n d) := by
  have hf := fType_std t
  obtain ⟨-, hk, -, -⟩ := fmtOf_eq t
  obtain ⟨hrange, htop⟩ := fType_range t
  generalize fType t = f at *
  rw [Scales, firstNaN_one, Fmt.scale]
  by_cases hn : fNaN f a = true
  · rw [Fmt.value_of_nan hf hn, if_pos hn]
  rw [if_neg hn]
  rw [Bool.not_eq_true] at hn
  by_cases hi : fInf f a = true
  · rw [Fmt.value_of_inf hf hn hi]
    simp only [hi, true_or, if_true]
    exact (fOwn_eq a).symm
  rw [Bool.not_eq_true] at hi
  rw [Fmt.value_of_finite hf hn hi]
  simp only [hi, Bool.false_eq_true, false_or, ← fMag_eq_zero_iff, ← fOwn_eq]
  by_cases h0 : fMag f a = 0
  · rw [if_pos h0, if_pos h0]
  rw [if_neg h0, if_neg h0]
  have hrounds (m : Int) := Fmt.rounds_roundD hf (mode := r) (sat := false) (neg := fNeg f a) (d := d) (fNum f a)
    (fPow f a + m)
  simp only [zpow_add₀ (two_ne_zero (α := ℚ)), ← mul_assoc, ← fMag_eq_num] at hrounds
  exact rounds_clamped hf hk hrange htop n hn h0 (hrounds n) (hrounds _)

/-! ## Conversions (R119, R138) -/

theorem cvtKind_of_int {t : CvtType} {i : Nat × Bool} (h : cvtInt t = some i) : cvtKind t = .int i.1 i.2 := by
  revert h
  cases t <;> rintro ⟨rfl⟩ <;> rfl

theorem cvtKind_of_flt {t : CvtType} (h : cvtInt t = none) : cvtKind t = .flt (cvtFmt t) := by
  revert h
  cases t <;> rintro ⟨⟩ <;> rfl

theorem cvtFmt_std (t : CvtType) : (cvtFmt t).Std ∧ 2 ^ fBits (cvtFmt t) ≤ 2 ^ 64 := by
  cases t <;> exact ⟨⟨by decide, by decide, by decide⟩, by decide⟩

theorem cvtInt_bits {t : CvtType} {i : Nat × Bool} (h : cvtInt t = some i) : 0 < i.1 := by
  revert h
  cases t <;> rintro ⟨rfl⟩ <;> decide

section Integers

variable (n : Nat) (sgn : Bool)

theorem intLo_eq : intLo n sgn = iMin (n, sgn) := by
  rw [intLo, iMin]
  push_cast
  rfl

theorem intHi_eq : intHi n sgn = iMax (n, sgn) := by
  rw [intHi, iMax]
  split <;> push_cast <;> rfl

theorem iMin_le_iMax : iMin (n, sgn) ≤ iMax (n, sgn) := by
  have h1 : (0 : ℤ) < 2 ^ (n - 1) := by positivity
  have h2 : (0 : ℤ) < 2 ^ n := by positivity
  rw [iMin, iMax]
  dsimp only
  split <;> omega

theorem clampInt_eq (v : Int) : clampInt n sgn v = iClamp (n, sgn) v := by
  have h := iMin_le_iMax n sgn
  rw [clampInt, iClamp, intLo_eq, intHi_eq]
  split_ifs <;> omega

theorem intIn_eq (hn : 0 < n) (x : DWord) : intIn n sgn x.toNat = iVal (n, sgn) x := by
  have hpow : 2 ^ n = 2 ^ (n - 1) * 2 := by rw [← Nat.pow_succ, Nat.succ_eq_add_one, Nat.sub_add_cancel hn]
  rw [intIn, iVal]
  cases sgn with
  | false => simp [BitVec.toNat_setWidth]
  | true =>
    simp only [if_true, Bool.true_and, decide_eq_true_eq, BitVec.toInt_eq_toNat_cond, BitVec.toNat_setWidth]
    split_ifs <;> omega

end Integers

/-- An infinity carried between formats (R119). -/
theorem infIn_convert {f : Fmt} (hf : f.Std) (g : Fmt) (r : Rnd) (sat neg : Bool) (d : Word) :
    InfIn f sat neg (f.convert g r sat (.inf neg) d) := by
  obtain ⟨hn, -, hmag⟩ := finite_withSign hf le_rfl neg
  replace hmag := hmag.trans (fTop_eq hf).symm
  have hcode {k : Nat} (hk : k < f.sign) := And.intro (Fmt.withSign_lt hk neg) (fNeg_withSign hk neg)
  obtain ⟨hinf, hinf'⟩ := hcode (Fmt.infCode_lt hf)
  obtain ⟨htop, htop'⟩ := hcode (Fmt.maxCode_lt hf)
  rw [InfIn, Fmt.convert, ← Fmt.withSign]
  cases hk : f.kind with
  | ieee => exact ⟨hinf, hinf', fInf_withSign_infCode hf hk neg⟩
  | e4m3 =>
    have hnan : f.nanCode = f.infCode := by rw [Fmt.nanCode, Fmt.infCode, hk]
    have h448 : fTop f = 448 := by rw [fTop, hk]
    cases sat with
    | true => exact ⟨htop, htop', hmag.trans h448, hn⟩
    | false =>
      simp only [hnan, Bool.false_eq_true, if_false]
      exact ⟨hinf, hinf', fNaN_withSign_infCode hf hk neg⟩
  | finite => exact ⟨htop, htop', hmag⟩

theorem recodes_convert {f g : Fmt} (hf : f.Std) (hg : g.Std) (r : Rnd) (sat : Bool) (a : Nat) (d : Word) :
    Recodes g f r sat a d.toNat (f.convert g r sat (g.value a) d) := by
  rw [Recodes]
  by_cases hn : fNaN g a = true
  · rw [if_pos hn, Fmt.value_of_nan hg hn]
    exact Fmt.nanFrom_eq hf
  rw [if_neg hn]
  rw [Bool.not_eq_true] at hn
  by_cases hi : fInf g a = true
  · rw [if_pos hi, Fmt.value_of_inf hg hn hi]
    exact infIn_convert hf g r sat _ d
  · rw [if_neg hi, Fmt.value_of_finite hg hn (Bool.not_eq_true _ ▸ hi), fMag_eq_num]
    exact Fmt.rounds_roundD hf _ _

/-- A rounded code is what its register reads as. -/
theorem rounds_toNat {w : Nat} {f : Fmt} {r : Rnd} {sat neg : Bool} {x : ℚ} {draw c : Nat} (hw : 2 ^ fBits f ≤ 2 ^ w)
    (h : Rounds f r sat neg x draw c) : (BitVec.ofNat w c).toNat = c := by
  rw [BitVec.toNat_ofNat, Nat.mod_eq_of_lt (h.1.trans_le hw)]

/-- An integer to a format: the magnitude rounded, with the integer's sign. -/
theorem rounds_int {f : Fmt} (hf : f.Std) (r : Rnd) (sat : Bool) (v : Int) (d : Word) :
    Rounds f r sat (decide (v < 0)) |(v : ℚ)| d.toNat (f.roundD r sat (decide (v < 0)) v.natAbs 0 d) := by
  have h := Fmt.rounds_roundD hf (mode := r) (sat := sat) (neg := decide (v < 0)) (d := d) v.natAbs 0
  rwa [zpow_zero, mul_one, Nat.cast_natAbs, Int.cast_abs] at h

theorem recodes_lt {f g : Fmt} (hf : f.Std) {r : Rnd} {sat : Bool} {a draw c : Nat} (h : Recodes g f r sat a draw c) :
    c < 2 ^ fBits f := by
  rw [Recodes] at h
  split_ifs at h with hn hi
  · rw [h]
    exact nanIn_lt hf
  · exact h.1
  · exact h.1

/-- The integer that a code converts to: 0 of a NaN, a limit of an infinity, or the rounded number within the limits. -/
theorem convert1_flt_int {t k : CvtType} {j : Nat × Bool} (r : Rnd) (sat : Bool) (x : DWord) (d : Word) (hk : cvtInt k = none)
    (ht : cvtInt t = some j) : convert1 r sat t k x d = match (cvtFmt k).value x.toNat with
      | .nan _ _ => 0
      | .inf neg => iPut j (if neg then iMin j else iMax j)
      | .num neg n e => iPut j (iClamp j (if neg then -(roundInt r neg n e d : Int) else roundInt r neg n e d)) := by
  rw [convert1, cvtKind_of_flt hk, cvtKind_of_int ht]
  simp only [intLo_eq, intHi_eq, clampInt_eq]
  rfl

/-- One conversion, by the classes of its source and destination (R138). -/
theorem converts_convert1 (r : Rnd) (sat : Bool) (t k : CvtType) (x : DWord) (d : Word) :
    Converts r sat t k x d.toNat (convert1 r sat t k x d) := by
  obtain ⟨hf, hbits⟩ := cvtFmt_std t
  obtain ⟨hg, -⟩ := cvtFmt_std k
  rw [Converts]
  cases hk : cvtInt k with
  | some i =>
    cases ht : cvtInt t with
    | some j =>
      rw [convert1, cvtKind_of_int hk, cvtKind_of_int ht]
      simp only [intIn_eq _ _ (cvtInt_bits hk), clampInt_eq]
      rfl
    | none =>
      have h := rounds_int hf r sat (iVal i x) d
      rw [convert1, cvtKind_of_int hk, cvtKind_of_flt ht]
      simp only [intIn_eq _ _ (cvtInt_bits hk)]
      rwa [← rounds_toNat hbits h] at h
  | none =>
    cases ht : cvtInt t with
    | some j =>
      rw [convert1_flt_int r sat x d hk ht]
      dsimp only
      by_cases hn : fNaN (cvtFmt k) x.toNat = true
      · rw [if_pos hn, Fmt.value_of_nan hg hn]
      rw [if_neg hn]
      rw [Bool.not_eq_true] at hn
      by_cases hi : fInf (cvtFmt k) x.toNat = true
      · rw [if_pos hi, Fmt.value_of_inf hg hn hi]
      · rw [if_neg hi, Fmt.value_of_finite hg hn (Bool.not_eq_true _ ▸ hi), fMag_eq_num]
        exact ⟨_, roundsInt_roundInt r _ _ _ d, rfl⟩
    | none =>
      have h := recodes_convert hf hg r sat x.toNat d
      have hw := BitVec.toNat_ofNat .. |>.trans (Nat.mod_eq_of_lt ((recodes_lt hf h).trans_le hbits))
      rw [convert1, cvtKind_of_flt hk, cvtKind_of_flt ht]
      rwa [← hw] at h

/-! ## The registers that a rounding instruction writes (R116, R121) -/

section Registers

variable {s t : State} {u : Bool} {d : Reg} {r : Rnd}

theorem Cohort.drawn_eq (c : Cohort) (r : Rnd) :
    c.drawn r = { c with v := { c.v with k := if r = .rs then c.v.k + 1 else c.v.k } } := by
  rw [Cohort.drawn]
  split <;> rfl

/-- The lanes of D and no other key hold what a lane operation writes, whatever else of the cohort has changed. -/
theorem wrote_of_regs {f : Nat → Word} (hregs : t.co.v.regs = (s.co.lanes u d f).v.regs) (hw : t.co.v.wdepth = s.co.v.wdepth)
    (hS : t.co.S = s.co.S) : Wrote s t u d f := by
  refine ⟨fun l hl => ?_, fun k hk => ?_⟩
  · rw [regOf, hregs, hw, hS]
    exact Cohort.setLanes_in s.co d (fun l => f (s.co.source u l)) _ l hl
  · rw [hregs]
    exact Cohort.setLanes_out s.co d _ _ k hk

/-- Both registers of a pair are written in the same lanes, from the same lanes. -/
theorem Cohort.lanesPair_eq (c : Cohort) (u : Bool) (d : Reg) (f : Nat → DWord) :
    c.lanesPair u d f = (c.setLanes d (fun l => loOf (f (c.source u l))) (c.targets u)).setLanes (d + 1)
      (fun l => hiOf (f (c.source u l))) (c.targets u) := by
  have hsource := source_lanes c u d (fun l => loOf (f l))
  rw [Cohort.lanesPair, Cohort.lanes, (hsource 0).2, funext fun l => congrArg (fun x => hiOf (f x)) (hsource l).1, Cohort.lanes]

/-- A next state that counts its draw after it has written registers has changed nothing else. -/
theorem onlyRegsDraw_of_regs {c : Cohort} (h : ∃ regs, c = { s.co with v := { s.co.v with regs := regs } }) :
    OnlyRegsDraw s { s with co := (c.drawn r).past 1 } r := by
  obtain ⟨regs, rfl⟩ := h
  exact ⟨regs, by rw [Cohort.drawn_eq]; rfl⟩

/-- An instruction whose next state writes one register per lane, and counts its draw, completes so. -/
theorem lanesDraw_of_eq {i : Instr} {f : Nat → Word} (h : exec i s = .next { s with co := ((s.co.lanes u d f).drawn r).past 1 }) :
    LanesDraw s i u d r f := by
  have hlanes := Cohort.setLanes_eq s.co d (fun l => f (s.co.source u l)) (s.co.targets u)
  refine ⟨_, h, onlyRegsDraw_of_regs ⟨_, hlanes⟩, wrote_of_regs ?_ ?_ ?_⟩ <;> rw [Cohort.drawn_eq]
  · rfl
  · rw [Cohort.lanes, hlanes]
    rfl
  · rw [Cohort.lanes, hlanes]
    rfl

end Registers

theorem Fmt.quiet_lt {f : Fmt} (c : Nat) : fOwn f c ||| 2 ^ (f.m - 1) < 2 ^ fBits f :=
  Nat.or_lt_two_pow (fOwn_lt c) (Nat.pow_lt_pow_right (by decide) (by rw [fBits]; omega))

theorem fBits_fType (t : FType) : 2 ^ fBits (fType t) ≤ 2 ^ 32 := by cases t <;> decide

section Instructions

variable {s : State} {i : Instr} {u : Bool} {d a b : Reg} {t : FType} {r : Rnd}

theorem roundsToInt_lt {f : Fmt} {n draw c : Nat} (h : RoundsToInt f r n draw c) : c < 2 ^ fBits f := by
  rw [RoundsToInt, firstNaN_one, Fmt.quiet_eq] at h
  cases hn : fNaN f n with
  | true =>
    rw [hn] at h
    exact h ▸ Fmt.quiet_lt n
  | false =>
    simp only [hn, Bool.false_eq_true, if_false] at h
    split at h
    · exact h ▸ fOwn_lt n
    · exact h.1

theorem scales_lt {f : Fmt} {n draw c : Nat} {e : Int} (h : Scales f r n e draw c) : c < 2 ^ fBits f := by
  rw [Scales, firstNaN_one, Fmt.quiet_eq] at h
  cases hn : fNaN f n with
  | true =>
    rw [hn] at h
    exact h ▸ Fmt.quiet_lt n
  | false =>
    simp only [hn, Bool.false_eq_true, if_false] at h
    split at h
    · exact h ▸ fOwn_lt n
    · exact h.1

theorem toNat_ofNat_fType {c : Nat} (h : c < 2 ^ fBits (fType t)) : (BitVec.ofNat 32 c).toNat = c := by
  rw [BitVec.toNat_ofNat, Nat.mod_eq_of_lt (h.trans_le (fBits_fType t))]

theorem lanesDraw_frint (s : State) (u : Bool) (d a : Reg) (t : FType) (r : Rnd) : ∃ val : Nat → Word,
    LanesDraw s (.frint u d a t r) u d r val ∧ ∀ l, RoundsToInt (fType t) r (s.co.get a l).toNat (s.co.draw l 1 0).toNat (val l).toNat := by
  refine ⟨_, lanesDraw_of_eq (exec_frint s u d a t r), fun l => ?_⟩
  have h := roundsToInt_rint t r (s.co.get a l).toNat (s.co.draw l 1 0)
  rwa [(fmtOf_eq t).1, toNat_ofNat_fType (roundsToInt_lt h)]

theorem lanesDraw_fscale (s : State) (u : Bool) (d a b : Reg) (t : FType) (r : Rnd) : ∃ val : Nat → Word,
    LanesDraw s (.fscale u d a b t r) u d r val ∧
      ∀ l, Scales (fType t) r (s.co.get a l).toNat (s.co.get b l).toInt (s.co.draw l 1 0).toNat (val l).toNat := by
  refine ⟨_, lanesDraw_of_eq (exec_fscale s u d a b t r), fun l => ?_⟩
  have h := scales_scale t r (s.co.get a l).toNat (s.co.get b l).toInt (s.co.draw l 1 0)
  rwa [(fmtOf_eq t).1, toNat_ofNat_fType (scales_lt h)]

theorem cvtWide_iff (t : CvtType) : cvtWide t = true ↔ t = .i64 ∨ t = .n64 := by
  rw [cvtWide, Bool.or_eq_true, beq_iff_eq, beq_iff_eq]

theorem exec_conv (s : State) (u : Bool) (d a : Reg) (r : Rnd) (sat : Bool) (x k : CvtType) :
    exec (if sat then .cvtSat u d a r x k else .cvt u d a r x k) s = s.conv u d a r sat x k := by
  cases sat <;> rfl

/-- The value that a conversion computes in a lane. -/
def Cohort.converted (c : Cohort) (a : Reg) (r : Rnd) (sat : Bool) (x k : CvtType) (l : Nat) : DWord :=
  convert1 r sat x k (c.cvtIn k a l) (c.draw l 1 0)

theorem lanesDraw_conv {sat : Bool} {x k : CvtType} (h : exec i s = s.conv u d a r sat x k) (hx : cvtWide x = false) :
    LanesDraw s i u d r (fun l => loOf (s.co.converted a r sat x k l)) := by
  refine lanesDraw_of_eq ?_
  rw [h, State.conv, hx]
  rfl

theorem pairDraw_conv {sat : Bool} {x k : CvtType} (hS : Shape s.co) (hd : d.even = true) (h : exec i s = s.conv u d a r sat x k)
    (hx : cvtWide x = true) : ∃ t, exec i s = .next t ∧ OnlyRegsDraw s t r ∧
      (∀ l ∈ s.co.targets u, pairOf (regOf t.co d l) (regOf t.co (d + 1) l) = s.co.converted a r sat x k (s.co.source u l)) ∧
      (∀ q, (∀ l ∈ s.co.targets u, q ≠ regKey s.co.v.wdepth s.co.S d l ∧ q ≠ regKey s.co.v.wdepth s.co.S (d + 1) l) →
        Tab.get 0 t.co.v.regs q = Tab.get 0 s.co.v.regs q) := by
  have hwritten := pair_written s.co d (fun l => s.co.converted a r sat x k (s.co.source u l)) (s.co.targets u) hS hd
    fun l hl => Cohort.target_lt _ _ _ hl
  have hnext : exec i s = .next { s with co := ((s.co.lanesPair u d (s.co.converted a r sat x k)).drawn r).past 1 } := by
    rw [h, State.conv, hx]
    rfl
  obtain ⟨hregs, hin, hout⟩ := hwritten
  rw [Cohort.lanesPair_eq] at hnext
  refine ⟨_, hnext, onlyRegsDraw_of_regs hregs, ?_⟩
  rw [Cohort.drawn_eq]
  exact ⟨hin, hout⟩

end Instructions

/-- Settles O8: each instruction is one lane operation, whose value the rounding lemmas give. -/
theorem roundingAndConversion : Obligations.RoundingAndConversion := by
  refine fun s u d a b t r x k hS => ⟨lanesDraw_frint s u d a t r, lanesDraw_fscale s u d a b t r, fun sat i hi => ?_⟩
  have hconv : exec i s = s.conv u d a r sat x k := by rw [hi, exec_conv]
  refine ⟨s.co.converted a r sat x k, fun l => ?_, fun h1 h2 => ?_, fun hx hd => ?_⟩
  · have hsource : s.co.cvtIn k a l = if k = .i64 ∨ k = .n64 then s.co.getPair a l else (s.co.get a l).setWidth 64 :=
      if_congr (cvtWide_iff k) rfl rfl
    have h : Converts r sat x k (s.co.cvtIn k a l) (s.co.draw l 1 0).toNat (s.co.converted a r sat x k l) := converts_convert1 ..
    rw [hsource] at h
    exact h
  · exact lanesDraw_conv hconv (Bool.eq_false_iff.mpr fun h => ((cvtWide_iff x).mp h).elim h1 h2)
  · exact pairDraw_conv hS hd hconv ((cvtWide_iff x).mpr hx)

end Sys2Proof.Machine

/-!
Quantization with block scales (O9). An element is the value of its code; a block's scale is that of its greatest magnitude, which is the
greatest of its codes; and its lanes are written block by block, each register in lanes of its own.
-/

namespace Sys2Proof.Machine

open Sys2Proof.Claims

/-! ## The elements of blocks (R104, R105, R109) -/

section Elements

variable {k : BlkFmt} {f : Fmt} {n : Nat}

theorem blkFmt_std (h : blkFmt k = .inl f) : f.Std := by
  revert h
  cases k <;> rintro ⟨rfl⟩ <;> exact ⟨by decide, by decide, by decide⟩

theorem blkFmt_bits (h : blkFmt k = .inr n) : 0 < n ∧ n ≤ 64 := by
  revert h
  cases k <;> rintro ⟨rfl⟩ <;> decide

theorem intMag_eq (hn : 0 < n) (hn' : n ≤ 64) (c : Nat) :
    intMag n c = (decide (iVal (n, true) (BitVec.ofNat 64 c) < 0), (iVal (n, true) (BitVec.ofNat 64 c)).natAbs) := by
  have hmod : c % 2 ^ 64 % 2 ^ n = c % 2 ^ n := Nat.mod_mod_of_dvd c (Nat.pow_dvd_pow 2 hn')
  have hlt : c % 2 ^ n < 2 ^ n := Nat.mod_lt _ (Nat.two_pow_pos n)
  rw [← intIn_eq n true hn, intMag, intIn, BitVec.toNat_ofNat, hmod]
  generalize 2 ^ (n - 1) = h at *
  generalize 2 ^ n = p at *
  generalize c % p = a at *
  simp only [Bool.true_and, decide_eq_true_eq]
  split
  · refine Prod.ext ?_ ?_
    · simp only [decide_eq_true_eq, eq_comm (a := true)]
      omega
    · dsimp only
      omega
  · refine Prod.ext ?_ ?_
    · simp only [decide_eq_false_iff_not, eq_comm (a := false)]
      omega
    · dsimp only
      omega

theorem blockValue_of_fmt (h : blkFmt k = .inl f) {c q : Nat} (hs : ¬(k = .e2m1s ∧ c % 16 = 8)) : blockValue k c q = f.value c := by
  revert h
  cases k with
  | e2m1s =>
    rintro ⟨rfl⟩
    exact if_neg fun hc => hs ⟨rfl, hc⟩
  | _ => rintro ⟨rfl⟩ <;> rfl

theorem blockValue_of_int (h : blkFmt k = .inr n) (c q : Nat) : blockValue k c q =
    .num (decide (iVal (n, true) (BitVec.ofNat 64 c) < 0)) (iVal (n, true) (BitVec.ofNat 64 c)).natAbs 0 := by
  have hmag := intMag_eq (blkFmt_bits h).1 (blkFmt_bits h).2 c
  revert h hmag
  cases k <;> rintro ⟨rfl⟩ hmag <;> simp only [blockValue, hmag]

/-- A scaled element as FP32, of the number n * 2^x under the scale exponent E. -/
theorem rounds_scaled (neg : Bool) (n : Nat) (x : Int) (E : Nat) {v : ℚ} (hv : v = n * 2 ^ x) :
    Rounds (fType .f32) .rn false neg (v * 2 ^ ((E : ℤ) - 127)) 0 (Fmt.f32.roundD .rn false neg n (x + E - 127) 0) := by
  have h := Fmt.rounds_roundD (fType_std .f32) (mode := .rn) (sat := false) (neg := neg) (d := 0) n (x + E - 127)
  have hx : v * 2 ^ ((E : ℤ) - 127) = n * 2 ^ (x + E - 127) := by rw [hv, add_sub_assoc, zpow_add₀ two_ne_zero, mul_assoc]
  rw [hx]
  exact h

/-- The model's decoding of an element is that of R109. -/
theorem decodes_decodeBlock (k : BlkFmt) (c q : Nat) : Decodes k c q (decodeBlock k c q) := by
  rw [Decodes, decodeBlock]
  dsimp only
  by_cases hE : q / 256 % 256 = 255
  · rw [if_pos hE, if_pos hE]
  rw [if_neg hE, if_neg hE]
  by_cases hs : k = .e2m1s ∧ c % 16 = 8
  · obtain ⟨rfl, hc⟩ := hs
    rw [if_pos ⟨rfl, hc⟩, blockValue, if_pos hc]
    exact rounds_scaled _ _ _ _ (by rw [zpow_neg_one, div_eq_mul_inv])
  rw [if_neg hs]
  cases hk : blkFmt k with
  | inr n =>
    rw [blockValue_of_int hk]
    exact rounds_scaled _ _ _ _ (by rw [zpow_zero, mul_one, Nat.cast_natAbs, Int.cast_abs])
  | inl f =>
    have hf := blkFmt_std hk
    rw [blockValue_of_fmt hk hs]
    dsimp only
    by_cases hn : fNaN f c = true
    · rw [Fmt.value_of_nan hf hn, if_pos hn]
    rw [if_neg hn]
    rw [Bool.not_eq_true] at hn
    by_cases hi : fInf f c = true
    · rw [Fmt.value_of_inf hf hn hi, if_pos hi]
    · rw [Fmt.value_of_finite hf hn (Bool.not_eq_true _ ▸ hi), if_neg hi]
      exact rounds_scaled _ _ _ _ (fMag_eq_num c)

theorem decodes_lt {k : BlkFmt} {c q w : Nat} (h : Decodes k c q w) : w < 2 ^ 32 := by
  rw [Decodes] at h
  dsimp only at h
  split at h
  · omega
  split at h
  · exact h.1
  cases hk : blkFmt k with
  | inr n =>
    rw [hk] at h
    exact h.1
  | inl f =>
    rw [hk] at h
    dsimp only at h
    split_ifs at h with hn hi hneg
    · omega
    · omega
    · omega
    · exact h.1

/-- The low bits of an integer's result are the integer modulo their number. -/
theorem intOut_mod (hn : n ≤ 64) (v : Int) : (((intOut n true v).toNat % 2 ^ n : ℕ) : ℤ) = v % 2 ^ n := by
  have hlow : ((BitVec.ofInt n v).signExtend 64).setWidth n = BitVec.ofInt n v := by
    refine BitVec.eq_of_getLsbD_eq fun i hi => ?_
    simp only [BitVec.getLsbD_setWidth, BitVec.getLsbD_signExtend, hi, Nat.lt_of_lt_of_le hi hn, decide_true, Bool.true_and, if_true]
  rw [intOut, if_pos rfl, ← BitVec.toNat_setWidth, hlow, BitVec.toNat_ofInt]
  have hpos : (0 : ℤ) < 2 ^ n := by positivity
  push_cast
  exact Int.toNat_of_nonneg (Int.emod_nonneg _ hpos.ne')

theorem blockEncode_of_fmt (h : blkFmt k = .inl f) (r : Rnd) (neg : Bool) (m : Nat) (x : Int) (d : Word) :
    blockEncode k r neg m x d = f.roundD r true neg m x d := by
  revert h
  cases k <;> rintro ⟨rfl⟩ <;> rfl

theorem blockEncode_of_int (h : blkFmt k = .inr n) (r : Rnd) (neg : Bool) (m : Nat) (x : Int) (d : Word) : blockEncode k r neg m x d =
    (intOut n true (iClamp (n, true) (if neg then -(roundInt r neg m x d : ℤ) else roundInt r neg m x d))).toNat % 2 ^ n := by
  rw [← clampInt_eq]
  revert h
  cases k <;> rintro ⟨rfl⟩ <;> rfl

/-- The model's code of a scaled value is that of R141. -/
theorem encodes_blockEncode (k : BlkFmt) (r : Rnd) (neg : Bool) (m : Nat) (x : Int) (d : Word) :
    Encodes k r neg (m * 2 ^ x) d.toNat (blockEncode k r neg m x d) := by
  rw [Encodes]
  cases hk : blkFmt k with
  | inl f =>
    rw [blockEncode_of_fmt hk]
    exact Fmt.rounds_roundD (blkFmt_std hk) m x
  | inr n =>
    rw [blockEncode_of_int hk]
    refine ⟨_, roundsInt_roundInt r neg m x d, Nat.mod_lt _ (Nat.two_pow_pos n), ?_⟩
    rw [intOut_mod (blkFmt_bits hk).2, Int.emod_emod_of_dvd _ (dvd_refl _)]

end Elements

/-! ## A block's scale (R141) -/

theorem f32_std : Fmt.f32.Std := fType_std .f32

theorem f32Parts_eq {a : Nat} (hn : fNaN Fmt.f32 a = false) (hi : fInf Fmt.f32 a = false) :
    f32Parts a = (fNeg Fmt.f32 a, fNum Fmt.f32 a, fPow Fmt.f32 a) := by
  rw [f32Parts, Fmt.value_of_finite f32_std hn hi]

/-- The test for NaNs and infinities looks at the exponent alone. -/
theorem f32_special (a : Nat) : (a / 2 ^ 23 % 256 == 255) = (fNaN Fmt.f32 a || fInf Fmt.f32 a) := by
  have hsplit : (fNaN Fmt.f32 a || fInf Fmt.f32 a) =
      ((a / 2 ^ 23 % 256 == 255 && !(fFrac Fmt.f32 a == 0)) || (a / 2 ^ 23 % 256 == 255 && fFrac Fmt.f32 a == 0)) := rfl
  rw [hsplit, ← Bool.and_or_distrib_left, Bool.not_or_self, Bool.and_true]

section Scale

/-- The greatest of some numbers, 0 if there are none. -/
theorem foldl_max_spec (as : List Nat) : (∀ a ∈ as, a ≤ as.foldl max 0) ∧ (as = [] ∨ as.foldl max 0 ∈ as) := by
  rw [List.foldl_max]
  cases h : as.max? with
  | none => simp [List.max?_eq_none_iff.mp h]
  | some m =>
    obtain ⟨hmem, hle⟩ := List.max?_eq_some_iff.mp h
    rw [Option.getD_some, Nat.zero_max]
    exact ⟨hle, .inr hmem⟩

variable (x : Nat → Nat) (ls : List Nat)

/-- The bits of the greatest magnitude of a block. -/
def greatest : Nat := (ls.map fun l => x l % 2 ^ 31).foldl max 0

theorem greatest_spec : (∀ l ∈ ls, x l % 2 ^ 31 ≤ greatest x ls) ∧ (ls = [] ∧ greatest x ls = 0 ∨ ∃ l ∈ ls, x l % 2 ^ 31 = greatest x ls) := by
  obtain ⟨hle, hmem⟩ := foldl_max_spec (ls.map fun l => x l % 2 ^ 31)
  refine ⟨fun l hl => hle _ (List.mem_map_of_mem hl), ?_⟩
  rcases hmem with h | h
  · obtain rfl := List.map_eq_nil_iff.mp h
    exact .inl ⟨rfl, rfl⟩
  · exact .inr (List.mem_map.mp h)

theorem f32_sign : Fmt.f32.sign = 2 ^ 31 := rfl

/-- A magnitude of FP32 by the bits below its sign. -/
theorem fMag_f32 (a : Nat) : fMag Fmt.f32 a = Fmt.f32.steps (a % 2 ^ 31) * Fmt.f32.least := fMag_eq a

theorem fMag_f32_le_iff (a b : Nat) : fMag Fmt.f32 a ≤ fMag Fmt.f32 b ↔ a % 2 ^ 31 ≤ b % 2 ^ 31 := by
  rw [fMag_f32, fMag_f32, Fmt.steps_mul_least_le_iff]

theorem fMag_f32_eq_iff (a b : Nat) : fMag Fmt.f32 a = fMag Fmt.f32 b ↔ a % 2 ^ 31 = b % 2 ^ 31 := by
  rw [le_antisymm_iff, fMag_f32_le_iff, fMag_f32_le_iff, ← le_antisymm_iff]

theorem fMag_f32_zero : fMag Fmt.f32 0 = 0 := by
  rw [fMag_f32, Nat.zero_mod, Fmt.steps_zero, Nat.cast_zero, zero_mul]

theorem greatest_mod : greatest x ls % 2 ^ 31 = greatest x ls := by
  rcases (greatest_spec x ls).2 with ⟨-, h⟩ | ⟨l, -, h⟩
  · rw [h, Nat.zero_mod]
  · rw [← h, Nat.mod_mod]

/-- The greatest magnitude of a block, as R141 has it. -/
theorem fMag_greatest : (∀ l ∈ ls, fMag Fmt.f32 (x l) ≤ fMag Fmt.f32 (greatest x ls)) ∧
    ((∃ l ∈ ls, fMag Fmt.f32 (x l) = fMag Fmt.f32 (greatest x ls)) ∨ (ls = [] ∧ fMag Fmt.f32 (greatest x ls) = 0)) := by
  obtain ⟨hle, hmem⟩ := greatest_spec x ls
  simp only [fMag_f32_le_iff, fMag_f32_eq_iff, greatest_mod]
  refine ⟨hle, ?_⟩
  rcases hmem with ⟨h, h0⟩ | h
  · exact .inr ⟨h, by rw [h0, fMag_f32_zero]⟩
  · exact .inl h

theorem fMag_greatest_eq_zero_iff : fMag Fmt.f32 (greatest x ls) = 0 ↔ greatest x ls = 0 := by
  rw [← fMag_f32_zero, fMag_f32_eq_iff, greatest_mod, Nat.zero_mod]

/-- With no NaN and no infinity in a block its greatest magnitude is finite. -/
theorem greatest_finite (h : ∀ l ∈ ls, fNaN Fmt.f32 (x l) = false ∧ fInf Fmt.f32 (x l) = false) :
    fNaN Fmt.f32 (greatest x ls) = false ∧ fInf Fmt.f32 (greatest x ls) = false := by
  rw [Fmt.finite_iff f32_std, f32_sign, greatest_mod]
  rcases (greatest_spec x ls).2 with ⟨-, h0⟩ | ⟨l, hl, hg⟩
  · rw [h0]
    exact Nat.zero_le _
  · rw [← hg]
    exact (Fmt.finite_iff f32_std (x l)).mp (h l hl)

/-- The scale exponent of a block whose greatest magnitude has the code a. -/
def scaleExp (k : BlkFmt) (a : Nat) : Int :=
  if a = 0 then 127 else max 0 (min 254 ((Nat.log2 (fNum Fmt.f32 a) : Int) + fPow Fmt.f32 a - blockEmax k + 127))

theorem scaleExp_nonneg (k : BlkFmt) (a : Nat) : ((scaleExp k a).toNat : ℤ) = scaleExp k a := by
  rw [scaleExp]
  split <;> omega

theorem blockEmax_eq (k : BlkFmt) : blockEmax k = blkEmax k := by cases k <;> rfl

/-- The exponent of a magnitude is that of its integer, moved by its power of two. -/
theorem fMag_log2 {f : Fmt} {a : Nat} (h : fMag f a ≠ 0) : (2 : ℚ) ^ ((Nat.log2 (fNum f a) : ℤ) + fPow f a) ≤ fMag f a ∧
    fMag f a < 2 ^ ((Nat.log2 (fNum f a) : ℤ) + fPow f a + 1) := by
  have hnum : fNum f a ≠ 0 := fun h0 => h ((fMag_eq_zero_iff a).mpr h0)
  have hle : (2 : ℚ) ^ (Nat.log2 (fNum f a) : ℤ) ≤ fNum f a := by exact_mod_cast Nat.log2_self_le hnum
  have hlt : (fNum f a : ℚ) < 2 ^ ((Nat.log2 (fNum f a) : ℤ) + 1) := by exact_mod_cast Nat.lt_log2_self
  rw [fMag_eq_num, add_right_comm, zpow_add₀ two_ne_zero, zpow_add₀ two_ne_zero (_ + 1)]
  exact ⟨by gcongr, by gcongr⟩

theorem scaleExp_spec (k : BlkFmt) {a : Nat} (h0 : fMag Fmt.f32 a = 0 ↔ a = 0) : if fMag Fmt.f32 a = 0 then (scaleExp k a).toNat = 127
    else ∃ g : ℤ, (2 : ℚ) ^ g ≤ fMag Fmt.f32 a ∧ fMag Fmt.f32 a < 2 ^ (g + 1) ∧
      ((scaleExp k a).toNat : ℤ) = max 0 (min 254 (g - blkEmax k + 127)) := by
  split
  next h => rw [scaleExp, if_pos (h0.mp h)]; rfl
  next h =>
    obtain ⟨hle, hlt⟩ := fMag_log2 h
    exact ⟨_, hle, hlt, by rw [scaleExp_nonneg, scaleExp, if_neg (h0.not.mp h), blockEmax_eq]⟩

end Scale

/-! ## The codes of a block (R141) -/

section Block

variable (k : BlkFmt) (r : Rnd) (x : Nat → Nat) (draw : Nat → Word) (ls : List Nat)

/-- The power of two of a scaled element. -/
def scaledPow (k : BlkFmt) (x : Nat → Nat) (ls : List Nat) (l : Nat) : Int := fPow Fmt.f32 (x l) - (scaleExp k (greatest x ls) - 127)

/-- The magnitude of a scaled element. -/
def scaledMag (k : BlkFmt) (x : Nat → Nat) (ls : List Nat) (l : Nat) : ℚ :=
  fMag Fmt.f32 (x l) / 2 ^ (((scaleExp k (greatest x ls)).toNat : ℤ) - 127)

theorem scaledMag_eq (l : Nat) : scaledMag k x ls l = fNum Fmt.f32 (x l) * 2 ^ scaledPow k x ls l := by
  rw [scaledMag, scaledPow, fMag_eq_num, scaleExp_nonneg, zpow_sub₀ two_ne_zero (fPow Fmt.f32 (x l)), mul_div_assoc]

/-- The code of a scaled element, before the special value. -/
def plainCode (k : BlkFmt) (r : Rnd) (x : Nat → Nat) (draw : Nat → Word) (ls : List Nat) (l : Nat) : Nat :=
  blockEncode k r (fNeg Fmt.f32 (x l)) (fNum Fmt.f32 (x l)) (scaledPow k x ls l) (draw l)

theorem encodes_plainCode (l : Nat) :
    Encodes k r (fNeg Fmt.f32 (x l)) (scaledMag k x ls l) (draw l).toNat (plainCode k r x draw ls l) := by
  rw [scaledMag_eq]
  exact encodes_blockEncode ..

/-- The special value's half-steps, of the lane m. -/
def halfSteps (k : BlkFmt) (x : Nat → Nat) (ls : List Nat) (m : Nat) : Nat :=
  roundInt .rn (fNeg Fmt.f32 (x m)) (fNum Fmt.f32 (x m)) (scaledPow k x ls m + 1) 0

theorem roundsInt_halfSteps (m : Nat) : RoundsInt .rn false (2 * scaledMag k x ls m) 0 (halfSteps k x ls m) := by
  have h := roundsInt_roundInt .rn (fNeg Fmt.f32 (x m)) (fNum Fmt.f32 (x m)) (scaledPow k x ls m + 1) 0
  rw [zpow_add_one₀ two_ne_zero, ← mul_assoc, ← scaledMag_eq, mul_comm] at h
  exact h

/-- A number with its sign. -/
def signedQ (neg : Bool) (q : ℚ) : ℚ := if neg then -q else q

/-- The distance of two numbers in units of a power of two below both. -/
theorem absDiff_mul {b x1 x2 : Int} (h1 : b ≤ x1) (h2 : b ≤ x2) (s1 s2 : Bool) (n1 n2 : Nat) :
    (absDiff b s1 n1 x1 s2 n2 x2 : ℚ) * 2 ^ b = |signedQ s1 (n1 * 2 ^ x1) - signedQ s2 (n2 * 2 ^ x2)| := by
  have hunits {n : Nat} {y : Int} (h : b ≤ y) : ((n * 2 ^ (y - b).toNat : ℕ) : ℚ) * 2 ^ b = n * 2 ^ y := by
    push_cast
    rw [mul_assoc, ← zpow_natCast, ← zpow_add₀ two_ne_zero]
    congr 2
    omega
  have hsign (s : Bool) (n : ℕ) : ((if s then -(n : ℤ) else n : ℤ) : ℚ) * 2 ^ b = signedQ s (n * 2 ^ b) := by
    cases s <;> simp [signedQ]
  have hpos : (0 : ℚ) < 2 ^ b := by positivity
  rw [absDiff, Nat.cast_natAbs, Int.cast_abs, ← abs_of_pos hpos, ← abs_mul, Int.cast_sub, sub_mul, hsign, hsign,
    hunits h1, hunits h2]

/-- The code of a scaled element of an E2M1S block whose special value is that of the lane m (R141). -/
def specialCode (r : Rnd) (x : Nat → Nat) (draw : Nat → Word) (ls : List Nat) (m l : Nat) : Nat :=
  let c := plainCode .e2m1s r x draw ls l
  let b := min (scaledPow .e2m1s x ls l) (-2)
  if absDiff b (fNeg Fmt.f32 (x l)) (fNum Fmt.f32 (x l)) (scaledPow .e2m1s x ls l) (fNeg Fmt.f32 (x m))
        (max 1 (min 127 (halfSteps .e2m1s x ls m))) (-1) <
      absDiff b (fNeg Fmt.f32 (x l)) (fNum Fmt.f32 (x l)) (scaledPow .e2m1s x ls l) (fNeg Fmt.e2m1 c) (fNum Fmt.e2m1 c) (fPow Fmt.e2m1 c) then 8
  else if c = 8 then 0 else c

theorem e2m1_std : Fmt.e2m1.Std := blkFmt_std (k := .e2m1) rfl

theorem e2m1_value (c : Nat) : Fmt.e2m1.value c = .num (fNeg Fmt.e2m1 c) (fNum Fmt.e2m1 c) (fPow Fmt.e2m1 c) :=
  Fmt.value_of_finite e2m1_std rfl rfl

theorem e2m1_pow (c : Nat) : -2 ≤ fPow Fmt.e2m1 c := by
  have hbias : Fmt.e2m1.bias = 1 := rfl
  have hm : Fmt.e2m1.m = 1 := rfl
  rw [fPow, hbias, hm]
  split <;> omega

theorem specialCode_eq (m l : Nat) : specialCode r x draw ls m l =
    let signed (l : Nat) (y : ℚ) : ℚ := if fNeg Fmt.f32 (x l) then -y else y
    let c := plainCode .e2m1s r x draw ls l
    if |signed l (scaledMag .e2m1s x ls l) - signed m ((max 1 (min 127 (halfSteps .e2m1s x ls m)) : ℕ) / 2)| <
        |signed l (scaledMag .e2m1s x ls l) - fVal Fmt.e2m1 c| then 8
    else if c = 8 then 0 else c := by
  rw [specialCode]
  dsimp only
  generalize plainCode .e2m1s r x draw ls l = c
  generalize max 1 (min 127 (halfSteps .e2m1s x ls m)) = sp
  have hpos : (0 : ℚ) < 2 ^ min (scaledPow .e2m1s x ls l) (-2) := by positivity
  have hspecial := absDiff_mul (b := min (scaledPow .e2m1s x ls l) (-2)) (min_le_left ..) (x2 := -1) (by omega) (fNeg Fmt.f32 (x l))
    (fNeg Fmt.f32 (x m)) (fNum Fmt.f32 (x l)) sp
  have hplain := absDiff_mul (b := min (scaledPow .e2m1s x ls l) (-2)) (min_le_left ..) (x2 := fPow Fmt.e2m1 c)
    ((min_le_right ..).trans (e2m1_pow c)) (fNeg Fmt.f32 (x l)) (fNeg Fmt.e2m1 c) (fNum Fmt.f32 (x l)) (fNum Fmt.e2m1 c)
  rw [← scaledMag_eq, zpow_neg_one, ← div_eq_mul_inv] at hspecial
  rw [← scaledMag_eq, ← fMag_eq_num] at hplain
  refine if_congr ?_ rfl rfl
  rw [← Nat.cast_lt (α := ℚ), ← mul_lt_mul_iff_left₀ hpos, hspecial, hplain]
  rfl

/-- The lowest lane with the greatest magnitude. -/
def leader (x : Nat → Nat) (ls : List Nat) : Nat := (ls.find? fun l => x l % 2 ^ 31 == greatest x ls).getD 0

theorem leader_spec (h0 : greatest x ls ≠ 0) : (ls.find? fun l => x l % 2 ^ 31 == greatest x ls) = some (leader x ls) ∧ leader x ls ∈ ls := by
  obtain ⟨l, hl, hg⟩ := (greatest_spec x ls).2.resolve_left fun h => h0 h.2
  cases hm : ls.find? fun l => x l % 2 ^ 31 == greatest x ls with
  | none => exact absurd (beq_iff_eq.mpr hg) (List.find?_eq_none.mp hm l hl)
  | some m =>
    have hlead : leader x ls = m := by rw [leader, hm, Option.getD_some]
    rw [hlead]
    exact ⟨rfl, List.mem_of_find?_eq_some hm⟩

/-! ## The model's block -/

/-- A block with a NaN or an infinity. -/
theorem quantBlock_of_bad (h : ls.any (fun l => fNaN Fmt.f32 (x l) || fInf Fmt.f32 (x l)) = true) :
    quantBlock k r (ls.map fun l => (l, x l)) draw = (0xFF00, ls.map fun l => (l, 0)) := by
  rw [quantBlock]
  simp only [List.any_map, Function.comp_def, f32_special, h, if_true, List.map_map]

variable (hfin : ∀ l ∈ ls, fNaN Fmt.f32 (x l) = false ∧ fInf Fmt.f32 (x l) = false)
include hfin

/-- A block of numbers: its plain codes, or in E2M1S those about the special value of the lane m. -/
theorem quantBlock_of_finite : quantBlock k r (ls.map fun l => (l, x l)) draw =
    if k = .e2m1s ∧ greatest x ls ≠ 0 then
      ((scaleExp k (greatest x ls)).toNat * 256 + (if fNeg Fmt.f32 (x (leader x ls)) then 128 else 0) +
        max 1 (min 127 (halfSteps k x ls (leader x ls))), ls.map fun l => (l, specialCode r x draw ls (leader x ls) l))
    else ((scaleExp k (greatest x ls)).toNat * 256, ls.map fun l => (l, plainCode k r x draw ls l)) := by
  obtain ⟨hn, hi⟩ := greatest_finite x ls hfin
  have hbad : ls.any (fun l => fNaN Fmt.f32 (x l) || fInf Fmt.f32 (x l)) = false := by simp +contextual [hfin]
  have hmax : ls.foldl (fun m l => max m (x l % 2 ^ 31)) 0 = greatest x ls := by rw [greatest, List.foldl_map]
  have hexp (k : BlkFmt) : (if greatest x ls = 0 then 127 else max 0 (min 254 ((Nat.log2 (fNum Fmt.f32 (greatest x ls)) : Int) +
      fPow Fmt.f32 (greatest x ls) - blockEmax k + 127))) = scaleExp k (greatest x ls) := rfl
  have hplain (k : BlkFmt) : ls.map (fun l => (l, blockEncode k r (f32Parts (x l)).1 (f32Parts (x l)).2.1
      ((f32Parts (x l)).2.2 - (scaleExp k (greatest x ls) - 127)) (draw l))) = ls.map fun l => (l, plainCode k r x draw ls l) :=
    List.map_congr_left fun l hl => by rw [f32Parts_eq (hfin l hl).1 (hfin l hl).2]; rfl
  rw [quantBlock]
  simp only [List.any_map, Function.comp_def, f32_special, hbad, List.map_map, List.foldl_map, hmax, f32Parts_eq hn hi,
    Bool.false_eq_true, if_false, hexp, List.find?_map]
  cases k with
  | e2m1s =>
    by_cases h0 : greatest x ls = 0
    · have hcond : ¬(BlkFmt.e2m1s = .e2m1s ∧ greatest x ls ≠ 0) := fun h => h.2 h0
      rw [if_neg hcond, ← hplain]
      cases ls.find? fun l => x l % 2 ^ 31 == greatest x ls with
      | none => rfl
      | some m => exact if_pos h0
    · obtain ⟨hm, hmem⟩ := leader_spec x ls h0
      have hcond : BlkFmt.e2m1s = .e2m1s ∧ greatest x ls ≠ 0 := ⟨rfl, h0⟩
      rw [if_pos hcond, hm]
      simp only [Option.map_some, h0, if_false, f32Parts_eq (hfin _ hmem).1 (hfin _ hmem).2, e2m1_value]
      refine Prod.ext rfl (List.map_congr_left fun l hl => ?_)
      rw [f32Parts_eq (hfin l hl).1 (hfin l hl).2]
      rfl
  | e4m3 | e5m2 | e3m2 | e2m3 | e2m1 | q8 | q4 => exact Prod.ext rfl (hplain _)

omit hfin

/-- No lane below the leader has the greatest magnitude. -/
theorem leader_least (hls : ls.Pairwise (· < ·)) (h0 : greatest x ls ≠ 0) : fMag Fmt.f32 (x (leader x ls)) = fMag Fmt.f32 (greatest x ls) ∧
    ∀ l ∈ ls, l < leader x ls → fMag Fmt.f32 (x l) ≠ fMag Fmt.f32 (greatest x ls) := by
  obtain ⟨hp, as, bs, hsplit, hbefore⟩ := List.find?_eq_some_iff_append.mp (leader_spec x ls h0).1
  simp only [ne_eq, fMag_f32_eq_iff, greatest_mod]
  refine ⟨beq_iff_eq.mp hp, fun l hl hlt hg => ?_⟩
  rw [hsplit, List.pairwise_append, List.pairwise_cons] at hls
  obtain ⟨-, ⟨hafter, -⟩, -⟩ := hls
  rw [hsplit, List.mem_append, List.mem_cons] at hl
  rcases hl with hl | rfl | hl
  · have := hbefore l hl
    rw [beq_iff_eq.mpr hg] at this
    exact absurd this (by decide)
  · exact Nat.lt_irrefl _ hlt
  · exact Nat.lt_asymm hlt (hafter l hl)

/-- The block that QNT forms is that of R141, with its codes by lane. -/
theorem quantises_quantBlock (hls : ls.Pairwise (· < ·)) :
    ∃ code : Nat → Nat, (quantBlock k r (ls.map fun l => (l, x l)) draw).2 = ls.map (fun l => (l, code l)) ∧
      Quantises k r ls x (fun l => (draw l).toNat) (quantBlock k r (ls.map fun l => (l, x l)) draw).1 code := by
  by_cases hbad : ls.any (fun l => fNaN Fmt.f32 (x l) || fInf Fmt.f32 (x l)) = true
  · rw [quantBlock_of_bad k r x draw ls hbad]
    refine ⟨fun _ => 0, rfl, ?_⟩
    rw [Quantises]
    exact (if_pos hbad).mpr ⟨rfl, fun _ _ => rfl⟩
  · have hfin : ∀ l ∈ ls, fNaN Fmt.f32 (x l) = false ∧ fInf Fmt.f32 (x l) = false := by simpa using hbad
    obtain ⟨hle, hmem⟩ := fMag_greatest x ls
    have hzero := fMag_greatest_eq_zero_iff x ls
    rw [quantBlock_of_finite k r x draw ls hfin]
    by_cases hspecial : k = .e2m1s ∧ greatest x ls ≠ 0
    · obtain ⟨rfl, h0⟩ := hspecial
      obtain ⟨hlead, hleast⟩ := leader_least x ls hls h0
      rw [if_pos ⟨rfl, h0⟩]
      refine ⟨_, rfl, ?_⟩
      rw [Quantises]
      refine (if_neg hbad).mpr ⟨_, _, _, hle, hmem, scaleExp_spec .e2m1s hzero, fun l _ => encodes_plainCode .e2m1s r x draw ls l, ?_⟩
      refine (if_pos ⟨rfl, hzero.not.mpr h0⟩).mpr ⟨_, (leader_spec x ls h0).2, hlead, hleast, _, roundsInt_halfSteps .e2m1s x ls _, rfl,
        fun l _ => specialCode_eq r x draw ls _ l⟩
    · rw [if_neg hspecial]
      refine ⟨_, rfl, ?_⟩
      rw [Quantises]
      refine (if_neg hbad).mpr ⟨_, _, _, hle, hmem, scaleExp_spec k hzero, fun l _ => encodes_plainCode k r x draw ls l, ?_⟩
      exact (if_neg fun h => hspecial ⟨h.1, hzero.not.mp h.2⟩).mpr ⟨rfl, fun _ _ => rfl⟩

end Block

/-! ## The results that land before a fault (R135) -/

section Landed

variable (c : Cohort)

theorem Cohort.land_ops (clause : Nat) (w : Nat × Word) : (c.land clause w).v.ops = c.v.ops := by
  unfold Cohort.land
  repeat' split
  all_goals rfl

theorem Cohort.landAll_ops (clause : Nat) (ws : List (Nat × Word)) : (c.landAll clause ws).v.ops = c.v.ops := by
  induction ws generalizing c with
  | nil => rfl
  | cons w ws ih => exact (ih _).trans (c.land_ops clause w)

/-- A completion takes away the operation and no other. -/
theorem Cohort.mem_complete_ops (id : Nat) (ws : List (Nat × Word)) (o : Op) :
    o ∈ (c.complete id ws).v.ops ↔ o ∈ c.v.ops ∧ o.id ≠ id := by
  cases h : c.op? id with
  | some p => rw [Cohort.complete_of_op h, Cohort.dropOp, Cohort.landAll_ops, List.mem_filter, bne_iff_ne]
  | none =>
    have hne : ∀ o ∈ c.v.ops, o.id ≠ id := fun o ho => by simpa using List.find?_eq_none.mp h o ho
    rw [Cohort.complete, h]
    exact ⟨fun ho => ⟨ho, hne o ho⟩, And.left⟩

theorem Cohort.mem_completeAll_ops (os : List Op) (o : Op) :
    o ∈ (os.foldl (fun c o => c.complete o.id o.writes) c).v.ops ↔ o ∈ c.v.ops ∧ ∀ p ∈ os, o.id ≠ p.id := by
  induction os generalizing c with
  | nil => simp
  | cons p os ih => rw [List.foldl_cons, ih, Cohort.mem_complete_ops, List.forall_mem_cons, and_assoc]

/-- Once they have landed no special-function result is outstanding. -/
theorem Cohort.landSfu_landSfu : c.landSfu.landSfu = c.landSfu := by
  have hnone : c.landSfu.v.ops.filter (fun o => o.kind == .sfu) = [] := by
    refine List.filter_eq_nil_iff.mpr fun o ho hk => ?_
    obtain ⟨hmem, hne⟩ := (c.mem_completeAll_ops _ o).mp ho
    exact hne o (List.mem_filter.mpr ⟨hmem, hk⟩) rfl
  rw [Cohort.landSfu, hnone]
  rfl

end Landed

/-- A fault that stops its cohort leaves its registers as the landed results made them. -/
theorem State.raise_regs {s : State} {f : FaultInfo} (hf : Stops f) (hd : s.co.landSfu.delivers f.cause = false) :
    (s.raise f).co.v.regs = s.co.landSfu.v.regs := by
  obtain ⟨h0, hl, hb⟩ := hf
  rw [State.raise, if_neg h0, State.takeFault]
  simp only [hd, Bool.false_eq_true, if_false]
  rw [State.teamFault_co _ f _ hb hl]
  have hland : s.co.landSfu.landSfu.v.regs = s.co.landSfu.v.regs := by rw [Cohort.landSfu_landSfu]
  exact hland

theorem stops_format : Stops (flt causeFormat 6) := ⟨by decide, by decide, rfl⟩

/-- QNT on a cohort too narrow for a block (R141). -/
theorem qnt_narrow {s : State} (d a : Reg) (r : Rnd) (k : BlkFmt) (hW : s.co.W < 32) (hd : s.co.landSfu.delivers 0x08 = false) :
    ∃ t, exec (.qnt d a r k) s = .next t ∧ t.lastFault = some (flt 0x08 6) ∧ t.co.halted = true ∧ t.co.v.regs = s.co.landSfu.v.regs := by
  have hexec : exec (.qnt d a r k) s = .next (s.raise (flt causeFormat 6)) := by rw [exec_qnt, execQnt, if_pos hW]
  obtain ⟨h0, hl, hb⟩ := stops_format
  obtain ⟨hfault, hhalt, -⟩ := s.raise_stops (flt causeFormat 6) h0 hb hl hd
  exact ⟨_, hexec, hfault, hhalt, State.raise_regs stops_format hd⟩

/-! ## What QNT writes (R141) -/

section Writes

variable (c : Cohort) (d : Reg)

theorem Cohort.setLanes_shape (r : Reg) (f : Nat → Word) (ls : List Nat) :
    (c.setLanes r f ls).v.wdepth = c.v.wdepth ∧ (c.setLanes r f ls).S = c.S := by
  rw [Cohort.setLanes_eq]
  exact ⟨rfl, rfl⟩

theorem Cohort.foldl_setLane (f : Nat → Nat) (ls : List Nat) :
    (ls.map fun l => (l, f l)).foldl (fun (c : Cohort) e => c.setLane d e.1 (BitVec.ofNat 32 e.2)) c =
      c.setLanes d (fun l => BitVec.ofNat 32 (f l)) ls := by
  induction ls generalizing c with
  | nil => rfl
  | cons l ls ih => exact ih _

theorem Cohort.setLanes_congr {f g : Nat → Word} {ls : List Nat} (h : ∀ l ∈ ls, f l = g l) : c.setLanes d f ls = c.setLanes d g ls := by
  induction ls generalizing c with
  | nil => rfl
  | cons l ls ih =>
    rw [List.forall_mem_cons] at h
    rw [Cohort.setLanes, Cohort.setLanes, h.1, ih _ h.2]

/-- The cohort after code and record registers are written in the lanes of the blocks below n: the codes F of the lanes as, and the
records G of the lanes ls. -/
structure BlocksWritten (d : Reg) (as ls : List Nat) (F G : Nat → Word) (n : Nat) (t : Cohort) : Prop where
  regsOnly : ∃ regs, t = { c with v := { c.v with regs := regs } }
  codes : ∀ l ∈ as, l / 32 < n → regOf t d l = F l
  records : ∀ l ∈ ls, l / 32 < n → regOf t (d + 1) l = G l
  rest : ∀ q, (∀ l ∈ as, q ≠ regKey c.v.wdepth c.S d l) → (∀ l ∈ ls, q ≠ regKey c.v.wdepth c.S (d + 1) l) →
    Tab.get 0 t.v.regs q = Tab.get 0 c.v.regs q

variable {c d} {as ls : List Nat} {F G : Nat → Word}

theorem blocksWritten_zero : BlocksWritten c d as ls F G 0 c :=
  ⟨⟨_, rfl⟩, fun _ _ h => absurd h (Nat.not_lt_zero _), fun _ _ h => absurd h (Nat.not_lt_zero _), fun _ _ _ => rfl⟩

/-- Another register, or a register in a lane that is not written, keeps its value. -/
theorem regOf_setLanes_of_ne {t : Cohort} {r q : Reg} {f : Nat → Word} {ms : List Nat} {l : Nat}
    (h : ∀ m ∈ ms, regKey t.v.wdepth t.S q l ≠ regKey t.v.wdepth t.S r m) : regOf (t.setLanes r f ms) q l = regOf t q l := by
  have hout := Cohort.setLanes_out t r f ms _ h
  rw [Cohort.setLanes_eq] at hout ⊢
  exact hout

theorem regOf_setLanes_self {t : Cohort} {r : Reg} {f : Nat → Word} {ms : List Nat} {l : Nat} (h : l ∈ ms) :
    regOf (t.setLanes r f ms) r l = f l := by
  have hin := Cohort.setLanes_in t r f ms l h
  rw [Cohort.setLanes_eq] at hin ⊢
  exact hin

/-- Writing one block more writes its lanes and keeps those of the blocks before. -/
theorem blocksWritten_succ (hS : Shape c) (hd : d.even = true) (has : ∀ l ∈ as, l < 64) (hls : ∀ l ∈ ls, l < 64) {n : Nat} {t : Cohort}
    (h : BlocksWritten c d as ls F G n t) : BlocksWritten c d as ls F G (n + 1)
      ((t.setLanes d F (as.filter fun l => l / 32 == n)).setLanes (d + 1) G (ls.filter fun l => l / 32 == n)) := by
  obtain ⟨⟨regs, ht⟩, hcodes, hrecords, hrest⟩ := h
  have htS : t.v.wdepth = c.v.wdepth ∧ t.S = c.S := by rw [ht]; exact ⟨rfl, rfl⟩
  obtain ⟨hw1, hS1⟩ := t.setLanes_shape d F (as.filter fun l => l / 32 == n)
  have hblock {ms : List Nat} {l : Nat} : (l ∈ ms.filter fun l => l / 32 == n) ↔ l ∈ ms ∧ l / 32 = n := by
    rw [List.mem_filter, beq_iff_eq]
  have hother {ms : List Nat} {t : Cohort} {r : Reg} {l m : Nat} (hl : l / 32 ≠ n) (hm : m ∈ ms.filter fun l => l / 32 == n) :
      regKey t.v.wdepth t.S r l ≠ regKey t.v.wdepth t.S r m := fun he =>
    hl (by rw [regKey_inj _ _ _ _ _ he]; exact (hblock.mp hm).2)
  have hpair (l m : Nat) (hl : l < 64) (hm : m < 64) := pair_keys c d hS hd l m hl hm
  refine ⟨?_, fun l hl hn => ?_, fun l hl hn => ?_, fun q hqa hql => ?_⟩
  · rw [Cohort.setLanes_eq, Cohort.setLanes_eq, ht]
    exact ⟨_, rfl⟩
  · rw [regOf_setLanes_of_ne fun m hm => by rw [hw1, hS1, htS.1, htS.2]; exact hpair l m (has l hl) (hls m (hblock.mp hm).1)]
    by_cases hln : l / 32 = n
    · exact regOf_setLanes_self (hblock.mpr ⟨hl, hln⟩)
    · rw [regOf_setLanes_of_ne fun m hm => hother hln hm]
      exact hcodes l hl (by omega)
  · by_cases hln : l / 32 = n
    · exact regOf_setLanes_self (hblock.mpr ⟨hl, hln⟩)
    · rw [regOf_setLanes_of_ne fun m hm => hother hln hm,
        regOf_setLanes_of_ne fun m hm => by rw [htS.1, htS.2]; exact (hpair m l (has m (hblock.mp hm).1) (hls l hl)).symm]
      exact hrecords l hl (by omega)
  · rw [Cohort.setLanes_out _ _ _ _ q fun m hm => by rw [hw1, hS1, htS.1, htS.2]; exact hql m (hblock.mp hm).1,
      Cohort.setLanes_out _ _ _ _ q fun m hm => by rw [htS.1, htS.2]; exact hqa m (hblock.mp hm).1]
    exact hrest q hqa hql

end Writes

section Qnt

variable {s : State} {d a : Reg} {r : Rnd} {k : BlkFmt}

/-- The lanes of a block that are active. -/
def Cohort.blockLanes (c : Cohort) (j : Nat) : List Nat := c.active.filter fun l => l / 32 == j

theorem Cohort.blockLanes_sorted (c : Cohort) (j : Nat) : (c.blockLanes j).Pairwise (· < ·) :=
  (List.pairwise_lt_range.filter _).filter _

/-- QNT writes the blocks one after another, each its codes and its record. -/
theorem blocksWritten_qnt (hS : Shape s.co) (hd : d.even = true) {q : Nat → Nat} {code : Nat → Nat → Nat}
    (h : ∀ j, quantBlock k r ((s.co.blockLanes j).map fun l => (l, (s.co.get a l).toNat)) (fun l => s.co.draw l 1 0) =
      (q j, (s.co.blockLanes j).map fun l => (l, code j l))) (n : Nat) :
    BlocksWritten s.co d s.co.active s.co.livel (fun l => BitVec.ofNat 32 (code (l / 32) l)) (fun l => BitVec.ofNat 32 (q (l / 32))) n
      ((List.range n).foldl (fun t j => s.co.qntBlock d a r k j t) s.co) := by
  have hlt {m : Mask} {l : Nat} (hl : l ∈ lanesIn m s.co.W) : l < 64 := ((mem_lanesIn _ _ _).mp hl).1.trans_le hS.2
  induction n with
  | zero => exact blocksWritten_zero
  | succ n ih =>
    have hmine {ms : List Nat} {l : Nat} (hl : l ∈ ms.filter fun l => l / 32 == n) : l / 32 = n := beq_iff_eq.mp (List.mem_filter.mp hl).2
    have hcodes (t : Cohort) : t.setLanes d (fun l => BitVec.ofNat 32 (code n l)) (s.co.blockLanes n) =
        t.setLanes d (fun l => BitVec.ofNat 32 (code (l / 32) l)) (s.co.blockLanes n) :=
      t.setLanes_congr d fun l hl => by rw [hmine hl]
    have hrecords (t : Cohort) : t.setLanes (d + 1) (fun _ => BitVec.ofNat 32 (q n)) (s.co.livel.filter fun l => l / 32 == n) =
        t.setLanes (d + 1) (fun l => BitVec.ofNat 32 (q (l / 32))) (s.co.livel.filter fun l => l / 32 == n) :=
      t.setLanes_congr (d + 1) fun l hl => by rw [hmine hl]
    rw [List.range_succ, List.foldl_append, List.foldl_cons, List.foldl_nil, Cohort.qntBlock, ← Cohort.blockLanes, h n]
    dsimp only
    rw [Cohort.foldl_setLane, hcodes, hrecords]
    exact blocksWritten_succ hS hd (fun _ => hlt) (fun _ => hlt) ih

/-- QNT on a cohort of whole blocks (R141). -/
theorem qnt_blocks (hS : Shape s.co) (hd : d.even = true) (hW : s.co.W = 32 ∨ s.co.W = 64) :
    ∃ t, exec (.qnt d a r k) s = .next t ∧ OnlyRegsDraw s t r ∧
      (∀ j < s.co.W / 32, ∃ (q : Nat) (code : Nat → Nat),
        Quantises k r (s.co.blockLanes j) (fun l => (s.co.get a l).toNat) (fun l => (s.co.draw l 1 0).toNat) q code ∧
        (∀ l ∈ s.co.blockLanes j, regOf t.co d l = BitVec.ofNat 32 (code l)) ∧
        ∀ l ∈ s.co.livel, l / 32 = j → regOf t.co (d + 1) l = BitVec.ofNat 32 q) ∧
      ∀ key, (∀ l ∈ s.co.active, key ≠ regKey s.co.v.wdepth s.co.S d l) → (∀ l ∈ s.co.livel, key ≠ regKey s.co.v.wdepth s.co.S (d + 1) l) →
        Tab.get 0 t.co.v.regs key = Tab.get 0 s.co.v.regs key := by
  choose code hcode hquant using fun j => quantises_quantBlock k r (fun l => (s.co.get a l).toNat) (fun l => s.co.draw l 1 0)
    (s.co.blockLanes j) (s.co.blockLanes_sorted j)
  obtain ⟨hregs, hcodes, hrecords, hrest⟩ := blocksWritten_qnt hS hd (fun j => Prod.ext rfl (hcode j)) (s.co.W / 32)
  have hexec : exec (.qnt d a r k) s = .next
      { s with co := (((List.range (s.co.W / 32)).foldl (fun t j => s.co.qntBlock d a r k j t) s.co).drawn r).past 1 } := by
    rw [exec_qnt, execQnt, if_neg (by omega)]
    rfl
  refine ⟨_, hexec, onlyRegsDraw_of_regs hregs, ?_⟩
  rw [Cohort.drawn_eq]
  refine ⟨fun j hj => ⟨_, code j, hquant j, fun l hl => ?_, fun l hl hlj => ?_⟩, hrest⟩
  · obtain ⟨hact, hlj⟩ := List.mem_filter.mp hl
    obtain rfl := beq_iff_eq.mp hlj
    exact hcodes l hact hj
  · obtain rfl := hlj
    exact hrecords l hl hj

end Qnt

theorem lanes_dqt (s : State) (u : Bool) (d a : Reg) (k : BlkFmt) : ∃ val : Nat → Word, Lanes s (.dqt u d a k) u d 1 val ∧
    ∀ l, Decodes k (s.co.get a l).toNat ((s.co.get (a + 1) l).toNat % 65536) (val l).toNat := by
  refine ⟨_, lanes_of_eq (exec_dqt s u d a k) fun _ => rfl, fun l => ?_⟩
  have h := decodes_decodeBlock k (s.co.get a l).toNat ((s.co.get (a + 1) l).toNat % 65536)
  rwa [BitVec.toNat_ofNat, Nat.mod_eq_of_lt (decodes_lt h)]

/-- Settles O9: QNT block by block, its fault on a narrow cohort, DQT by its element, SRND by the fields that it sets. -/
theorem blockConversions : Obligations.BlockConversions := by
  refine ⟨fun s d a r k hS hd => ⟨fun hW => ?_, fun hW hdel => ?_⟩, fun s u d a b k => ⟨?_, ?_⟩⟩
  · exact qnt_blocks hS hd hW
  · exact qnt_narrow d a r k hW hdel
  · exact lanes_dqt s u d a k
  · rw [OnlyCo, exec_srnd, execSrnd]
    rfl

end Sys2Proof.Machine

/-!
Float arithmetic (O7). The operands are taken apart into NaN, infinity or an exact number, one after another; a result of numbers is an
exact sum or product, rounded once.
-/

namespace Sys2Proof.Machine

open Sys2Proof.Claims

/-! ## Operands by class (R101, R124) -/

section Operands

variable {f : Fmt}

theorem firstNaN_nil : firstNaN f [] = none := rfl

theorem firstNaN_cons (c : Nat) (cs : List Nat) :
    firstNaN f (c :: cs) = if fNaN f c then some (f.quiet c) else firstNaN f cs := by
  rw [firstNaN, List.find?_cons, Fmt.quiet_eq]
  cases fNaN f c <;> rfl

theorem firstNaN_eq_none_iff {cs : List Nat} : firstNaN f cs = none ↔ ∀ c ∈ cs, fNaN f c = false := by
  simp [firstNaN, List.find?_eq_none]

theorem firstNaN_lt {cs : List Nat} {q : Nat} (h : firstNaN f cs = some q) : q < 2 ^ fBits f := by
  obtain ⟨c, -, rfl⟩ := Option.map_eq_some_iff.mp h
  exact Fmt.quiet_lt c

theorem fVal_eq (c : Nat) : fVal f c = signedQ (fNeg f c) (fNum f c * 2 ^ fPow f c) := by
  rw [fVal, signedQ, fMag_eq_num]

end Operands

/-! ## Exact sums (R125) -/

section Sums

variable {f : Fmt} {neg : Bool} {n : Nat} {x : Int} {v : ℚ} {zeros : Bool}

theorem signedQ_add_same (s : Bool) (p q : ℚ) : signedQ s p + signedQ s q = signedQ s (p + q) := by
  cases s <;> simp [signedQ, add_comm]

theorem signedQ_add_other {s t : Bool} (h : s ≠ t) (p q : ℚ) : signedQ s p + signedQ t q = signedQ s (p - q) := by
  obtain rfl := Bool.eq_not_of_ne h.symm
  cases s <;> simp [signedQ] <;> ring

theorem signedQ_mul (s t : Bool) (p q : ℚ) : signedQ s p * signedQ t q = signedQ (s != t) (p * q) := by
  cases s <;> cases t <;> simp [signedQ]

/-- A number in units of a smaller power of two. -/
theorem mul_zpow_eq_units {x b : Int} (h : b ≤ x) (n : Nat) : (n : ℚ) * 2 ^ x = (n * 2 ^ (x - b).toNat : ℕ) * 2 ^ b := by
  push_cast
  rw [mul_assoc, ← zpow_natCast, ← zpow_add₀ two_ne_zero, Int.toNat_of_nonneg (Int.sub_nonneg.mpr h), sub_add_cancel]

/-- The model's sum is exact, and an exact zero is -0 only of two operands of sign -. -/
theorem addExact_spec (s1 : Bool) (n1 : Nat) (x1 : Int) (s2 : Bool) (n2 : Nat) (x2 : Int) :
    let r := addExact s1 n1 x1 s2 n2 x2
    signedQ r.1 (r.2.1 * 2 ^ r.2.2) = signedQ s1 (n1 * 2 ^ x1) + signedQ s2 (n2 * 2 ^ x2) ∧ (r.2.1 = 0 → r.1 = (s1 && s2)) := by
  rw [mul_zpow_eq_units (min_le_left x1 x2), mul_zpow_eq_units (min_le_right x1 x2), addExact]
  dsimp only
  generalize n1 * 2 ^ (x1 - min x1 x2).toNat = a
  generalize n2 * 2 ^ (x2 - min x1 x2).toNat = b
  by_cases hs : s1 = s2
  · subst hs
    rw [if_pos rfl, signedQ_add_same, ← add_mul, Bool.and_self, Nat.cast_add]
    exact ⟨rfl, fun _ => rfl⟩
  have hand : (s1 && s2) = false := by
    obtain rfl := Bool.eq_not_of_ne hs
    exact Bool.not_and_self s2
  rw [if_neg hs, hand]
  split_ifs with hab hlt
  · rw [signedQ_add_other hs, hab, sub_self]
    simp [signedQ]
  · rw [signedQ_add_other hs, ← sub_mul, Nat.cast_sub hlt.le]
    exact ⟨rfl, fun h => absurd h (by dsimp only; omega)⟩
  · rw [add_comm, signedQ_add_other (Ne.symm hs), ← sub_mul, Nat.cast_sub (by omega)]
    exact ⟨rfl, fun h => absurd h (by dsimp only; omega)⟩

/-- The rounding of an exact number, as the sum of finite values that it is. -/
theorem sums_roundD (hf : f.Std) (hv : signedQ neg (n * 2 ^ x) = v) (h0 : n = 0 → neg = zeros) :
    Sums f v zeros (f.roundD .rn false neg n x 0) := by
  have hmag : (0 : ℚ) ≤ n * 2 ^ x := by positivity
  have habs : |v| = n * 2 ^ x := by
    rw [← hv, signedQ]
    split
    · rw [abs_neg, abs_of_nonneg hmag]
    · exact abs_of_nonneg hmag
  have hneg : (decide (v < 0) || (decide (v = 0) && zeros)) = neg := by
    rcases Nat.eq_zero_or_pos n with rfl | hn
    · have hzero : v = 0 := by rw [← abs_eq_zero, habs, Nat.cast_zero, zero_mul]
      simp [hzero, h0 rfl]
    · have hpos : (0 : ℚ) < n * 2 ^ x := by positivity
      rw [← hv]
      cases neg with
      | true => simp [signedQ, hpos]
      | false => simp [signedQ, hpos.ne', hmag]
  rw [Sums, hneg, habs]
  exact Fmt.rounds_roundD hf n x

theorem sums_addExact (hf : f.Std) {s1 s2 : Bool} {n1 n2 : Nat} {x1 x2 : Int}
    (hv : signedQ s1 (n1 * 2 ^ x1) + signedQ s2 (n2 * 2 ^ x2) = v) :
    let r := addExact s1 n1 x1 s2 n2 x2
    Sums f v (s1 && s2) (f.roundD .rn false r.1 r.2.1 r.2.2 0) := by
  obtain ⟨hsum, hzero⟩ := addExact_spec s1 n1 x1 s2 n2 x2
  exact sums_roundD hf (hsum.trans hv) hzero

end Sums

/-! ## The operations by the classes of their operands (R124, R125, R127, R128)

Each operation is a table of the classes of its operands: the first NaN, or the entry for the infinities and numbers that they are. -/

section Operations

variable {f : Fmt}

theorem fMag_beq_zero (a : Nat) : (fMag f a == 0) = (fNum f a == 0) := by
  rw [Bool.eq_iff_iff, beq_iff_eq, beq_iff_eq, fMag_eq_zero_iff]

/-- An infinity times zero, of operands one of which is an infinity. -/
def zeroTimesInf (f : Fmt) (a b : Nat) : Bool := (!fInf f a && fNum f a == 0) || (!fInf f b && fNum f b == 0)

theorem zeroTimesInf_eq (a b : Nat) :
    zeroTimesInf f a b = ((!fInf f a && fMag f a == 0) || (!fInf f b && fMag f b == 0)) := by
  rw [zeroTimesInf, fMag_beq_zero, fMag_beq_zero]

variable (hf : f.Std) (a b c : Nat)
include hf

theorem Fmt.add_eq : f.add a b = (firstNaN f [a, b]).getD (
    if fInf f a && fInf f b then (if fNeg f a = fNeg f b then fOwn f a else f.nanCode)
    else if fInf f a then fOwn f a
    else if fInf f b then fOwn f b
    else
      let r := addExact (fNeg f a) (fNum f a) (fPow f a) (fNeg f b) (fNum f b) (fPow f b)
      f.roundD .rn false r.1 r.2.1 r.2.2 0) := by
  rw [Fmt.add, Fmt.value_eq_cases hf, Fmt.value_eq_cases hf, firstNaN_cons, firstNaN_cons, firstNaN_nil, fOwn_eq, fOwn_eq]
  cases fNaN f a <;> cases fNaN f b <;> cases fInf f a <;> cases fInf f b <;> rfl

theorem Fmt.mul_eq : f.mul a b = (firstNaN f [a, b]).getD (
    if fInf f a || fInf f b then if zeroTimesInf f a b then f.nanCode else f.withSign (fNeg f a != fNeg f b) f.infCode
    else f.roundD .rn false (fNeg f a != fNeg f b) (fNum f a * fNum f b) (fPow f a + fPow f b) 0) := by
  rw [Fmt.mul, Fmt.value_eq_cases hf, Fmt.value_eq_cases hf, firstNaN_cons, firstNaN_cons, firstNaN_nil, zeroTimesInf]
  cases fNaN f a <;> cases fNaN f b <;> cases fInf f a <;> cases fInf f b <;> simp [Fmt.withSign]

theorem Fmt.fma_eq : f.fma a b c = (firstNaN f [a, b, c]).getD (
    if fInf f a || fInf f b then
      if zeroTimesInf f a b || (fInf f c && fNeg f c != (fNeg f a != fNeg f b)) then f.nanCode
      else if fInf f c then fOwn f c else f.withSign (fNeg f a != fNeg f b) f.infCode
    else if fInf f c then fOwn f c
    else
      let r := addExact (fNeg f a != fNeg f b) (fNum f a * fNum f b) (fPow f a + fPow f b) (fNeg f c) (fNum f c) (fPow f c)
      f.roundD .rn false r.1 r.2.1 r.2.2 0) := by
  rw [Fmt.fma, Fmt.value_eq_cases hf, Fmt.value_eq_cases hf, Fmt.value_eq_cases hf, firstNaN_cons, firstNaN_cons, firstNaN_cons,
    firstNaN_nil, zeroTimesInf, fOwn_eq]
  cases fNaN f a with
  | true => rfl
  | false =>
    cases fNaN f b with
    | true => cases fInf f a <;> rfl
    | false =>
      cases fNaN f c with
      | true => cases fInf f a <;> cases fInf f b <;> rfl
      | false =>
        generalize fNum f a = n
        generalize fNum f b = m
        cases fInf f a <;> cases fInf f b <;> cases fInf f c <;> cases n <;> cases m <;> simp [Fmt.withSign]

/-- FMIN and FMAX compare by the values, and tell -0 from +0 by the signs. -/
theorem Fmt.minmax_eq (hk : f.kind = .ieee) (greatest : Bool) : f.minmax greatest a b = (firstNaN f [a, b]).getD (
    if greatest then
      if fOrd f a < fOrd f b ∨ (fOrd f a = fOrd f b ∧ fNeg f a = true ∧ fNeg f b = false) then fOwn f b else fOwn f a
    else if fOrd f b < fOrd f a ∨ (fOrd f a = fOrd f b ∧ fNeg f a = false ∧ fNeg f b = true) then fOwn f b else fOwn f a) := by
  rw [Fmt.minmax, Fmt.isNan_eq a hk, Fmt.isNan_eq b hk, firstNaN_cons, firstNaN_cons, firstNaN_nil, fOwn_eq, fOwn_eq]
  cases ha : fNaN f a with
  | true => rfl
  | false =>
    cases hb : fNaN f b with
    | true => rfl
    | false =>
      obtain ⟨hlt, heq, hgt⟩ := Fmt.order_beq hk (Nat.zero_lt_of_lt hf.1) ha hb
      simp only [hlt, heq, hgt, Fmt.decide_sign_le, Bool.false_eq_true, if_false, Option.getD_none, Bool.or_eq_true,
        Bool.and_eq_true, decide_eq_true_eq, Bool.not_eq_true', and_assoc]

end Operations

/-! ## The other sign (R124, R125) -/

section Flip

variable {f : Fmt} (c : Nat)

/-- Changing a bit that is 0 adds it. -/
theorem xor_two_pow_eq_add {k n : Nat} (h : k < 2 ^ n) : k ^^^ 2 ^ n = 2 ^ n + k := by
  have hdiv : (k ^^^ 2 ^ n) / 2 ^ n = 1 := by
    rw [Nat.xor_div_two_pow, Nat.div_eq_of_lt h, Nat.div_self (Nat.two_pow_pos n), Nat.zero_xor]
  have hmod : (k ^^^ 2 ^ n) % 2 ^ n = k := by
    rw [Nat.xor_mod_two_pow, Nat.mod_self, Nat.xor_zero, Nat.mod_eq_of_lt h]
  rw [← Nat.div_add_mod (k ^^^ 2 ^ n) (2 ^ n), hdiv, hmod, Nat.mul_one]

theorem fFlip_eq : fFlip f c = f.withSign (!fNeg f c) (c % f.sign) := by
  have hxor : c % f.sign ^^^ f.sign = f.sign + c % f.sign := xor_two_pow_eq_add (Nat.mod_lt _ Fmt.sign_pos)
  rw [fFlip, fOwn_eq, Fmt.code_eq, ← Fmt.sign, Fmt.withSign]
  cases fNeg f c with
  | true => rw [if_pos rfl, ← hxor, Nat.xor_assoc, Nat.xor_self, Nat.xor_zero]; simp
  | false => simpa using hxor

theorem Fmt.negate_eq : f.negate c = fFlip f c := by
  have hlt : c % f.sign < f.sign := Nat.mod_lt _ Fmt.sign_pos
  rw [fFlip_eq, Fmt.negate, Fmt.code_eq, Fmt.withSign]
  cases fNeg f c with
  | true => simp
  | false => simp [hlt.not_ge, Nat.add_comm]

/-- The code with the other sign differs in the sign alone. -/
theorem fields_fFlip : fNaN f (fFlip f c) = fNaN f c ∧ fInf f (fFlip f c) = fInf f c ∧ fNeg f (fFlip f c) = (!fNeg f c) ∧
    fVal f (fFlip f c) = -fVal f c ∧ fOwn f (fFlip f c) = fFlip f c := by
  have hlt : c % f.sign < f.sign := Nat.mod_lt _ Fmt.sign_pos
  have hmod : fFlip f c % f.sign = c % f.sign := by rw [fFlip_eq, Fmt.withSign_mod hlt]
  have hneg : fNeg f (fFlip f c) = !fNeg f c := by rw [fFlip_eq, fNeg_withSign hlt]
  have hE := fExp_eq_of_mod hmod
  have hF := fFrac_eq_of_mod hmod
  refine ⟨by rw [fNaN, fNaN, hE, hF], by rw [fInf, fInf, hE, hF], hneg, ?_, ?_⟩
  · rw [fVal, fVal, hneg, fMag, fMag, hE, hF]
    cases fNeg f c <;> simp
  · rw [fOwn, Nat.mod_eq_of_lt]
    rw [fFlip_eq]
    exact Fmt.withSign_lt hlt _

theorem Fmt.sub_eq (hk : f.kind = .ieee) (a b : Nat) : f.sub a b = (firstNaN f [a, b]).getD (f.add a (fFlip f b)) := by
  rw [Fmt.sub, Fmt.isNan_eq a hk, Fmt.isNan_eq b hk, Fmt.negate_eq, firstNaN_cons, firstNaN_cons, firstNaN_nil]
  cases fNaN f a <;> cases fNaN f b <;> rfl

end Flip

/-! ## The results of the operations -/

section Results

variable {f : Fmt} (hf : f.Std) (hk : f.kind = .ieee) {nan : Nat} (hnan : f.nanCode = nan) (a b c : Nat)
include hf

/-- An infinity of a sign. -/
theorem infinity_withSign (hk : f.kind = .ieee) (neg : Bool) : f.withSign neg f.infCode < 2 ^ fBits f ∧
    fInf f (f.withSign neg f.infCode) = true ∧ fNeg f (f.withSign neg f.infCode) = neg :=
  ⟨Fmt.withSign_lt (Fmt.infCode_lt hf) neg, fInf_withSign_infCode hf hk neg, fNeg_withSign (Fmt.infCode_lt hf) neg⟩

omit hf in
theorem fOwn_of_inf (hk : f.kind = .ieee) {c : Nat} (hi : fInf f c = true) : fOwn f c = f.withSign (fNeg f c) f.infCode := by
  rw [fOwn_eq, Fmt.code_eq, (fInf_iff_infCode c hk).mp hi, Fmt.withSign]

include hnan

theorem adds_add : Adds f nan a b (f.add a b) := by
  rw [Adds, Fmt.add_eq hf, hnan]
  cases firstNaN f [a, b] with
  | some q => rfl
  | none =>
    dsimp only [Option.getD_none]
    split_ifs
    · rfl
    · rfl
    · rfl
    · rfl
    · exact sums_addExact hf (by rw [fVal_eq, fVal_eq])

include hk

theorem subtracts_sub : Subtracts f nan a b (f.sub a b) := by
  obtain ⟨hn, hi, hneg, hval, hown⟩ := fields_fFlip (f := f) b
  rw [Subtracts, Fmt.sub_eq hk]
  cases hnone : firstNaN f [a, b] with
  | some q => rfl
  | none =>
    have hflip : firstNaN f [a, fFlip f b] = none := by
      rw [firstNaN_eq_none_iff] at hnone ⊢
      simpa [hn] using hnone
    have h := adds_add hf hnan a (fFlip f b)
    rw [Adds, hflip] at h
    dsimp only at h
    rw [hi, hneg, hval, hown, ← sub_eq_add_neg] at h
    simp only [Bool.eq_not_iff, ne_eq, ite_not] at h
    exact h

theorem multiplies_mul : Multiplies f nan a b (f.mul a b) := by
  rw [Multiplies, Fmt.mul_eq hf, hnan]
  cases firstNaN f [a, b] with
  | some q => rfl
  | none =>
    dsimp only [Option.getD_none]
    rw [← zeroTimesInf_eq]
    split_ifs
    · rfl
    · exact infinity_withSign hf hk _
    · have hmul : ((fNum f a * fNum f b : ℕ) : ℚ) * 2 ^ (fPow f a + fPow f b) = fMag f a * fMag f b := by
        rw [fMag_eq_num, fMag_eq_num, Nat.cast_mul, zpow_add₀ two_ne_zero, mul_mul_mul_comm]
      rw [← hmul]
      exact Fmt.rounds_roundD hf _ _

theorem fuses_fma : Fuses f nan a b c (f.fma a b c) := by
  rw [Fuses, Fmt.fma_eq hf, hnan]
  cases firstNaN f [a, b, c] with
  | some q => rfl
  | none =>
    dsimp only [Option.getD_none]
    rw [← zeroTimesInf_eq]
    split_ifs with h1 h2 h3
    · rfl
    · simp only [Bool.or_eq_true, not_or, h3, Bool.true_and, bne_iff_ne, not_not] at h2
      rw [fOwn_of_inf hk h3, h2.2]
      exact infinity_withSign hf hk _
    · exact infinity_withSign hf hk _
    · rfl
    · exact sums_addExact hf (by rw [fVal_eq, fVal_eq, fVal_eq, signedQ_mul, Nat.cast_mul, zpow_add₀ two_ne_zero, mul_mul_mul_comm])

omit hnan in
theorem selects_minmax (greatest : Bool) : Selects f greatest a b (f.minmax greatest a b) := by
  rw [Selects, Fmt.minmax_eq hf a b hk]
  cases firstNaN f [a, b] with
  | some q => rfl
  | none =>
    dsimp only [Option.getD_none]
    cases greatest with
    | true => exact ⟨fun h => if_pos h, fun h => if_neg h⟩
    | false => exact ⟨fun h => if_pos h, fun h => if_neg h⟩

end Results

/-! ## The results are codes of their format (R121) -/

section Range

variable {f : Fmt}

theorem firstNaN_getD_lt (cs : List Nat) {r : Nat} (hr : r < 2 ^ fBits f) : (firstNaN f cs).getD r < 2 ^ fBits f := by
  cases h : firstNaN f cs with
  | some q => exact firstNaN_lt h
  | none => exact hr

variable (hf : f.Std) (hk : f.kind = .ieee) (hnan : f.nanCode < 2 ^ fBits f) (a b c : Nat)
include hf

theorem Fmt.roundD_lt (mode : Rnd) (sat neg : Bool) (n : Nat) (x : Int) (d : Word) : f.roundD mode sat neg n x d < 2 ^ fBits f :=
  (Fmt.rounds_roundD hf n x).1

theorem Fmt.minmax_lt (hk : f.kind = .ieee) (greatest : Bool) : f.minmax greatest a b < 2 ^ fBits f := by
  rw [Fmt.minmax_eq hf a b hk]
  refine firstNaN_getD_lt _ ?_
  split_ifs
  all_goals exact fOwn_lt _

include hnan

theorem Fmt.add_lt : f.add a b < 2 ^ fBits f := by
  rw [Fmt.add_eq hf]
  refine firstNaN_getD_lt _ ?_
  split_ifs
  · exact fOwn_lt a
  · exact hnan
  · exact fOwn_lt a
  · exact fOwn_lt b
  · exact Fmt.roundD_lt hf ..

theorem Fmt.sub_lt (hk : f.kind = .ieee) : f.sub a b < 2 ^ fBits f := by
  rw [Fmt.sub_eq hk]
  exact firstNaN_getD_lt _ (Fmt.add_lt hf hnan a _)

theorem Fmt.mul_lt : f.mul a b < 2 ^ fBits f := by
  rw [Fmt.mul_eq hf]
  refine firstNaN_getD_lt _ ?_
  split_ifs
  · exact hnan
  · exact Fmt.withSign_lt (Fmt.infCode_lt hf) _
  · exact Fmt.roundD_lt hf ..

theorem Fmt.fma_lt : f.fma a b c < 2 ^ fBits f := by
  rw [Fmt.fma_eq hf]
  refine firstNaN_getD_lt _ ?_
  split_ifs
  · exact hnan
  · exact fOwn_lt c
  · exact Fmt.withSign_lt (Fmt.infCode_lt hf) _
  · exact fOwn_lt c
  · exact Fmt.roundD_lt hf ..

end Range

/-! ## The three types (R102, R121) -/

section Types

variable (t : FType) (a b c : Nat)

/-- The canonical NaNs are codes of their formats (R102). -/
theorem nanCode_fType : (fType t).nanCode = fCanon t ∧ (fType t).nanCode < 2 ^ fBits (fType t) := by
  cases t <;> decide

theorem fadd_result : Adds (fType t) (fCanon t) a b ((fmtOf t).add a b) ∧ (fmtOf t).add a b < 2 ^ fBits (fType t) := by
  obtain ⟨hnan, hlt⟩ := nanCode_fType t
  rw [(fmtOf_eq t).1]
  exact ⟨adds_add (fType_std t) hnan a b, Fmt.add_lt (fType_std t) hlt a b⟩

theorem fsub_result : Subtracts (fType t) (fCanon t) a b ((fmtOf t).sub a b) ∧ (fmtOf t).sub a b < 2 ^ fBits (fType t) := by
  obtain ⟨hnan, hlt⟩ := nanCode_fType t
  obtain ⟨hfmt, hk, -⟩ := fmtOf_eq t
  rw [hfmt]
  exact ⟨subtracts_sub (fType_std t) hk hnan a b, Fmt.sub_lt (fType_std t) hlt a b hk⟩

theorem fmul_result : Multiplies (fType t) (fCanon t) a b ((fmtOf t).mul a b) ∧ (fmtOf t).mul a b < 2 ^ fBits (fType t) := by
  obtain ⟨hnan, hlt⟩ := nanCode_fType t
  obtain ⟨hfmt, hk, -⟩ := fmtOf_eq t
  rw [hfmt]
  exact ⟨multiplies_mul (fType_std t) hk hnan a b, Fmt.mul_lt (fType_std t) hlt a b⟩

theorem ffma_result : Fuses (fType t) (fCanon t) a b c ((fmtOf t).fma a b c) ∧ (fmtOf t).fma a b c < 2 ^ fBits (fType t) := by
  obtain ⟨hnan, hlt⟩ := nanCode_fType t
  obtain ⟨hfmt, hk, -⟩ := fmtOf_eq t
  rw [hfmt]
  exact ⟨fuses_fma (fType_std t) hk hnan a b c, Fmt.fma_lt (fType_std t) hlt a b c⟩

theorem fminmax_result (greatest : Bool) : Selects (fType t) greatest a b ((fmtOf t).minmax greatest a b) ∧
    (fmtOf t).minmax greatest a b < 2 ^ fBits (fType t) := by
  obtain ⟨hfmt, hk, -⟩ := fmtOf_eq t
  rw [hfmt]
  exact ⟨selects_minmax (fType_std t) hk a b greatest, Fmt.minmax_lt (fType_std t) a b hk greatest⟩

end Types

/-! ## The instructions -/

section Instructions

variable {s : State} {i : Instr} {u : Bool} {d a b c : Reg} {t : FType} {op : Nat → Nat → Nat} {op3 : Nat → Nat → Nat → Nat}
  {p : Nat → Nat → Nat → Prop} {p3 : Nat → Nat → Nat → Nat → Prop}

/-- An operation of two operands in a format: its result is a code, which is what the register reads as. -/
theorem two_of_fbin (h : exec i s = s.fbin u d a b op) (hop : ∀ x y, p x y (op x y) ∧ op x y < 2 ^ fBits (fType t)) :
    ∃ g : Word → Word → Word, Two s i u d a b g ∧ ∀ x y, p x.toNat y.toNat (g x y).toNat := by
  refine ⟨_, two_of_bin h fun _ _ => rfl, fun x y => ?_⟩
  obtain ⟨hp, hlt⟩ := hop x.toNat y.toNat
  rwa [toNat_ofNat_fType hlt]

theorem lanes_ffma (s : State) (d a b c : Reg) : ∃ g : Word → Word → Word → Word,
    Lanes s (.ffma d a b c) false d 1 (fun l => g (s.co.get a l) (s.co.get b l) (s.co.get c l)) ∧
      ∀ x y z, Fuses (fType .f32) (fCanon .f32) x.toNat y.toNat z.toNat (g x y z).toNat := by
  refine ⟨_, lanes_of_tern (exec_ffma s d a b c) fun _ _ _ => rfl, fun x y z => ?_⟩
  obtain ⟨hfuses, hlt⟩ := ffma_result .f32 x.toNat y.toNat z.toNat
  rwa [← toNat_ofNat_fType hlt] at hfuses

/-- A word made of two results of 16 bits gives both back. -/
theorem packed_halves {x y : Nat} (hx : x < 65536) (hy : y < 65536) :
    (BitVec.ofNat 32 (x + 65536 * y)).toNat % 65536 = x ∧ (BitVec.ofNat 32 (x + 65536 * y)).toNat / 65536 = y := by
  rw [BitVec.toNat_ofNat]
  omega

/-- A packed operation computes each half in its format (R129). -/
theorem two_of_packed2 (h : exec i s = s.bin u d a b (packed2 op)) (hop : ∀ x y, p x y (op x y) ∧ op x y < 65536) :
    ∃ g : Word → Word → Word, Two s i u d a b g ∧ ∀ x y,
      p (x.toNat % 65536) (y.toNat % 65536) ((g x y).toNat % 65536) ∧ p (x.toNat / 65536) (y.toNat / 65536) ((g x y).toNat / 65536) := by
  refine ⟨_, two_of_bin h fun _ _ => rfl, fun x y => ?_⟩
  obtain ⟨hlo, hlo'⟩ := hop (x.toNat % 65536) (y.toNat % 65536)
  obtain ⟨hhi, hhi'⟩ := hop (x.toNat / 65536) (y.toNat / 65536)
  obtain ⟨hl, hh⟩ := packed_halves hlo' hhi'
  rw [packed2, hl, hh]
  exact ⟨hlo, hhi⟩

theorem lanes_of_packed3 (h : exec i s = s.tern d a b c (packed3 op3)) (hop : ∀ x y z, p3 x y z (op3 x y z) ∧ op3 x y z < 65536) :
    ∃ g : Word → Word → Word → Word, Lanes s i false d 1 (fun l => g (s.co.get a l) (s.co.get b l) (s.co.get c l)) ∧ ∀ x y z,
      p3 (x.toNat % 65536) (y.toNat % 65536) (z.toNat % 65536) ((g x y z).toNat % 65536) ∧
      p3 (x.toNat / 65536) (y.toNat / 65536) (z.toNat / 65536) ((g x y z).toNat / 65536) := by
  refine ⟨_, lanes_of_tern h fun _ _ _ => rfl, fun x y z => ?_⟩
  obtain ⟨hlo, hlo'⟩ := hop (x.toNat % 65536) (y.toNat % 65536) (z.toNat % 65536)
  obtain ⟨hhi, hhi'⟩ := hop (x.toNat / 65536) (y.toNat / 65536) (z.toNat / 65536)
  obtain ⟨hl, hh⟩ := packed_halves hlo' hhi'
  rw [packed3, hl, hh]
  exact ⟨hlo, hhi⟩

end Instructions

/-- The format of the packed instructions is one of the float types, of 16 bits. -/
theorem packFmt_eq (bf : Bool) : packFmt bf = fmtOf (if bf then .b16 else .f16) ∧ 2 ^ fBits (fType (if bf then .b16 else .f16)) = 65536 := by
  cases bf <;> exact ⟨rfl, rfl⟩

/-- Settles O7: each instruction is one lane operation, whose value is the operation's by the classes of its operands. -/
theorem floatArithmetic : Obligations.FloatArithmetic := by
  intro s u d a b c t bf
  obtain ⟨hpack, hbits⟩ := packFmt_eq bf
  have hadd2 := fadd_result (if bf then .b16 else .f16)
  have hmul2 := fmul_result (if bf then .b16 else .f16)
  rw [← hpack, hbits] at hadd2 hmul2
  exact ⟨two_of_fbin (exec_fadd s u d a b t) (fadd_result t), two_of_fbin (exec_fsub s u d a b t) (fsub_result t),
    two_of_fbin (exec_fmul s u d a b t) (fmul_result t), two_of_fbin (exec_fmin s u d a b t) fun x y => fminmax_result t x y false,
    two_of_fbin (exec_fmax s u d a b t) fun x y => fminmax_result t x y true, lanes_ffma s d a b c,
    two_of_packed2 (exec_hadd2 s u d a b bf) hadd2, two_of_packed2 (exec_hmul2 s u d a b bf) hmul2,
    lanes_of_packed3 (exec_hfma2F16 s d a b c) (ffma_result .f16), lanes_of_packed3 (exec_hfma2B16 s d a b c) (ffma_result .b16)⟩

end Sys2Proof.Machine

/-!
Special functions (O10). Every one begins alike, and only its values differ. A root is that of its stand-in, a number on the same side
as the root of every magnitude and of every midpoint of two.
-/

namespace Sys2Proof.Machine

open Sys2Proof.Claims

/-! ## A special function begins (R134) -/

/-- With an entry of the queue free a special function begins, and its values are those of its function of each code. -/
theorem begins_sfu {s : State} {i : Instr} {u : Bool} {d a : Reg} {f : Bool} {sf : Nat → Nat} {p : Nat → Nat → Prop}
    (hroom : (s.sfuQueue s.co.core).length < 16) (h : exec i s = s.sfu u d a f sf)
    (hnan : ∀ x, fNaN Fmt.f32 x = true → sf x = Fmt.f32.quiet x)
    (hp : ∀ x < 2 ^ 32, fNaN Fmt.f32 x = false → p x (sf x % 2 ^ 32)) :
    ∃ g : Word → Word, Begins s i 1 .sfu f ((s.co.targets u).map (regKey s.co.v.wdepth s.co.S d))
      ((s.co.targets u).map (fun l => (regKey s.co.v.wdepth s.co.S d l, g (s.co.get a (s.co.source u l))))) ∧
      ∀ x, (∀ q, firstNaN Fmt.f32 [x.toNat] = some q → (g x).toNat = q) ∧
        (fNaN Fmt.f32 x.toNat = false → p x.toNat (g x).toNat) := by
  refine ⟨fun x => BitVec.ofNat 32 (sf x.toNat), ?_, fun x => ⟨fun q hq => ?_, fun hx => ?_⟩⟩
  · rw [Begins, h, State.sfu]
    dsimp only
    rw [if_neg (Nat.not_le.mpr hroom)]
    rfl
  · have hlt : q < 2 ^ 32 := firstNaN_lt hq
    rw [firstNaN_one] at hq
    split at hq
    next hx =>
      obtain rfl := Option.some.inj hq
      dsimp only
      rw [hnan _ hx, BitVec.toNat_ofNat, Nat.mod_eq_of_lt hlt]
    next => cases hq
  · rw [BitVec.toNat_ofNat]
    exact hp _ x.isLt hx

/-! ## The model's integer root -/

section Isqrt

theorem isqrtBits_spec {n : Nat} (k : Nat) {r : Nat} (hle : r * r ≤ n) (hlt : n < (r + 2 ^ k) * (r + 2 ^ k)) :
    isqrtBits n k r * isqrtBits n k r ≤ n ∧ n < (isqrtBits n k r + 1) * (isqrtBits n k r + 1) := by
  induction k generalizing r with
  | zero => exact ⟨hle, hlt⟩
  | succ k ih =>
    rw [isqrtBits]
    rw [Nat.pow_succ, Nat.mul_two, ← Nat.add_assoc] at hlt
    split
    next h => exact ih h hlt
    next h => exact ih hle (Nat.lt_of_not_le h)

theorem isqrt_eq_sqrt (n : Nat) : isqrt n = Nat.sqrt n := by
  have hpow : 2 ^ (Nat.log2 n + 1) ≤ 2 ^ (Nat.log2 n / 2 + 1) * 2 ^ (Nat.log2 n / 2 + 1) := by
    rw [← Nat.pow_add]
    exact Nat.pow_le_pow_right (by decide) (by omega)
  obtain ⟨hle, hlt⟩ := isqrtBits_spec (n := n) (Nat.log2 n / 2 + 1) (r := 0) (Nat.zero_le _)
    (by rw [Nat.zero_add]; exact Nat.lt_log2_self.trans_le hpow)
  exact Nat.eq_sqrt.mpr ⟨hle, hlt⟩

end Isqrt

/-! ## Magnitudes at a fine enough spacing -/

section Multiples

variable {f : Fmt} {x lo hi : ℚ} {e : Int}

theorem rep_multiple (hx : Rep f x) (h : e ≤ 1 - (f.bias : ℤ) - f.m ∨ 2 ^ (f.m + 1) * 2 ^ e ≤ x) : ∃ n : ℕ, x = n * 2 ^ e := by
  obtain ⟨n, k, hn, hk, rfl⟩ := hx
  refine ⟨_, mul_zpow_eq_units ?_ n⟩
  rcases h with h | h
  · exact h.trans hk
  · have hlt : (n : ℚ) * 2 ^ k < 2 ^ (f.m + 1) * 2 ^ k := by
      have hnq : (n : ℚ) < 2 ^ (f.m + 1) := by exact_mod_cast hn
      gcongr
    have hpow := lt_of_mul_lt_mul_left (h.trans_lt hlt) (by positivity)
    exact ((zpow_lt_zpow_iff_right₀ one_lt_two).mp hpow).le

/-- The neighbours of a magnitude that is many spacings up are multiples of the spacing. -/
theorem between_multiples (h : Between (Rep f) x lo hi) (hx : 2 ^ (f.m + 1) * 2 ^ e ≤ x) :
    ∃ j k : ℕ, lo = j * 2 ^ e ∧ hi = k * 2 ^ e := by
  obtain ⟨hlo, hhi, -, hlt, hadj⟩ := h
  have hfine : e ≤ 1 - (f.bias : ℤ) - f.m ∨ 2 ^ (f.m + 1) * 2 ^ e ≤ lo := by
    by_cases he : e ≤ 1 - (f.bias : ℤ) - f.m
    · exact .inl he
    · have hrep : Rep f (2 ^ (f.m + 1) * 2 ^ e) := by
        refine ⟨1, (f.m + 1 : ℕ) + e, Nat.one_lt_two_pow (by omega), by omega, ?_⟩
        rw [zpow_add₀ two_ne_zero, zpow_natCast, Nat.cast_one, one_mul]
      exact .inr ((hadj _ hrep).resolve_right (by linarith))
  obtain ⟨j, hj⟩ := rep_multiple hlo hfine
  obtain ⟨k, hk⟩ := rep_multiple hhi (hfine.imp_right fun h => by linarith)
  exact ⟨j, k, hj, hk⟩

end Multiples

/-! ## Rounding a stand-in (R133) -/

/-- The code of the magnitude nearest to the exact one, of which le says whether a magnitude is not above it. -/
def Nearest (f : Fmt) (le : ℚ → Prop) (r : Nat) : Prop := fNeg f r = false ∧ ∃ lo hi, Rep f lo ∧ Rep f hi ∧ le lo ∧ ¬le hi ∧
  (∀ q, Rep f q → q ≤ lo ∨ hi ≤ q) ∧ (le ((lo + hi) / 2) → fMag f r = hi ∨ (fMag f r = lo ∧ ∀ q, (lo + hi) / 2 < q → ¬le q)) ∧
  (¬le ((lo + hi) / 2) → fMag f r = lo)

/-- z stands in for the exact magnitude at the multiples of a spacing, below a representable bound. -/
structure StandsIn (f : Fmt) (le : ℚ → Prop) (e : Int) (z : ℚ) : Prop where
  le_iff (j : ℕ) : le (j * 2 ^ e) ↔ j * 2 ^ e ≤ z
  exact_of_eq (j : ℕ) : z = j * 2 ^ e → ∀ q, z < q → ¬le q
  fine : 2 ^ (f.m + 1) * 2 ^ (e + 1) ≤ z
  bounded : ∃ T, Rep f T ∧ T ≤ fTop f ∧ z < T

/-- The rounding of the stand-in is that of the exact magnitude. -/
theorem nearest_of_standsIn {f : Fmt} {le : ℚ → Prop} {e : Int} {z : ℚ} {c : Nat} (hz : StandsIn f le e z)
    (h : Rounds f .rn false false z 0 c) : Nearest f le c := by
  obtain ⟨-, hneg, lo, hi, y, hbetween, hpicks, hcode⟩ := h
  obtain ⟨j, k, hj, hk⟩ := between_multiples hbetween hz.fine
  obtain ⟨hlo, hhi, hle, hlt, hadj⟩ := hbetween
  obtain ⟨T, hT, htop, hzT⟩ := hz.bounded
  have hhiT : hi ≤ T := (hadj T hT).resolve_left (by linarith)
  have hfin : y ≤ fTop f := by
    rcases picks_eq_or hpicks with rfl | rfl <;> linarith
  rw [if_pos hfin] at hcode
  obtain ⟨-, -, rfl⟩ := hcode
  obtain ⟨hlower, hupper, htie⟩ := hpicks
  have hstep : (2 : ℚ) ^ (e + 1) = 2 * 2 ^ e := by rw [zpow_add_one₀ two_ne_zero, mul_comm]
  have hlo_le : le lo ↔ lo ≤ z := by
    have := hz.le_iff (2 * j)
    rwa [show ((2 * j : ℕ) : ℚ) * 2 ^ e = lo by rw [hj, hstep]; push_cast; ring] at this
  have hhi_le : le hi ↔ hi ≤ z := by
    have := hz.le_iff (2 * k)
    rwa [show ((2 * k : ℕ) : ℚ) * 2 ^ e = hi by rw [hk, hstep]; push_cast; ring] at this
  have hmid : (lo + hi) / 2 = (j + k : ℕ) * 2 ^ e := by
    rw [hj, hk, hstep]
    push_cast
    ring
  have hmid_le : le ((lo + hi) / 2) ↔ (lo + hi) / 2 ≤ z := by
    rw [hmid]
    exact hz.le_iff (j + k)
  refine ⟨hneg, lo, hi, hlo, hhi, hlo_le.mpr hle, hhi_le.not.mpr (not_le.mpr hlt), hadj, fun h => ?_, fun h => ?_⟩
  · rcases (hmid_le.mp h).lt_or_eq with hc | hc
    · exact .inl (hupper (by linarith))
    · rcases htie (by linarith) with ⟨-, -, hy⟩ | ⟨-, -, hy⟩
      · rw [hc]
        exact .inr ⟨hy, hz.exact_of_eq (j + k) (hc.symm.trans hmid)⟩
      · exact .inl hy
  · exact hlower (by linarith [not_le.mp (hmid_le.not.mp h)])

/-! ## The stand-in of a root -/

section Root

variable {p q K r : Nat}

/-- The square of a multiple of the spacing 2^-K, against p / q. -/
theorem multiple_sq_eq (j : Nat) : (j * 2 ^ (-(K : ℤ)) : ℚ) * (j * 2 ^ (-(K : ℤ))) * q = (j * j * q : ℕ) / (4 ^ K : ℕ) := by
  have hfour : (4 : ℚ) ^ K = 2 ^ K * 2 ^ K := by rw [← mul_pow]; norm_num
  rw [zpow_neg, zpow_natCast]
  push_cast
  rw [hfour]
  field_simp

theorem multiple_sq_le_iff (j : Nat) : (j * 2 ^ (-(K : ℤ)) : ℚ) * (j * 2 ^ (-(K : ℤ))) * q ≤ p ↔ j * j * q ≤ p * 4 ^ K := by
  rw [multiple_sq_eq, div_le_iff₀ (by positivity)]
  exact_mod_cast Iff.rfl

theorem le_multiple_sq_iff (j : Nat) : (p : ℚ) ≤ (j * 2 ^ (-(K : ℤ))) * (j * 2 ^ (-(K : ℤ))) * q ↔ p * 4 ^ K ≤ j * j * q := by
  rw [multiple_sq_eq, le_div_iff₀ (by positivity)]
  exact_mod_cast Iff.rfl

/-- The floor of the root, counted in spacings. -/
theorem sq_le_iff_le_isqrt (hq : 0 < q) (j : Nat) : j * j * q ≤ p * 4 ^ K ↔ j ≤ isqrt (p * 4 ^ K / q) := by
  rw [isqrt_eq_sqrt, Nat.le_sqrt, Nat.le_div_iff_mul_le hq]

/-- The spacing of the model's root is so fine that its floor has more bits than a significand. -/
theorem two_pow_le_isqrt (hp : 0 < p) (hq : 0 < q) : 2 ^ 25 ≤ isqrt (p * 4 ^ (2 * Nat.log2 q + 64) / q) := by
  rw [← sq_le_iff_le_isqrt hq]
  calc 2 ^ 25 * 2 ^ 25 * q ≤ 2 ^ 50 * 2 ^ (Nat.log2 q + 1) := Nat.mul_le_mul_left _ Nat.lt_log2_self.le
    _ ≤ 2 ^ (2 * (2 * Nat.log2 q + 64)) := by
      rw [← Nat.pow_add]
      exact Nat.pow_le_pow_right two_pos (by omega)
    _ = 4 ^ (2 * Nat.log2 q + 64) := Nat.pow_mul 2 2 _
    _ ≤ _ := Nat.le_mul_of_pos_left _ hp

/-- A number from the floor of the root up to the next multiple stands in for the root, if it is a multiple only where the root is. -/
theorem standsIn_root {z : ℚ} (hr : ∀ j : ℕ, j * j * q ≤ p * 4 ^ K ↔ j ≤ r) (hz : ∀ j : ℕ, (j * 2 ^ (-(K : ℤ)) : ℚ) ≤ z ↔ j ≤ r)
    (hexact : ∀ j : ℕ, z = j * 2 ^ (-(K : ℤ)) → p * 4 ^ K ≤ j * j * q) (hq : 0 < q) (hfine : 2 ^ 25 ≤ r) (hbound : p < 2 ^ 200 * q) :
    StandsIn Fmt.f32 (fun t => t * t * q ≤ p) (-(K : ℤ)) z where
  le_iff j := by rw [multiple_sq_le_iff, hr, hz]
  exact_of_eq j hj t ht := by
    have hroot := (le_multiple_sq_iff j).mpr (hexact j hj)
    have hz0 : 0 ≤ z := by rw [hj]; positivity
    have hqq : (0 : ℚ) < q := by exact_mod_cast hq
    rw [← hj] at hroot
    rw [not_le]
    calc (p : ℚ) ≤ z * z * q := hroot
      _ < t * t * q := by gcongr
  fine := by
    refine le_of_eq_of_le ?_ ((hz (2 ^ 25)).mpr hfine)
    rw [zpow_add_one₀ two_ne_zero]
    push_cast
    norm_num [Fmt.f32]
    ring
  bounded := by
    have hT (j : ℕ) (hj : j = 2 ^ 100 * 2 ^ K) : (j * 2 ^ (-(K : ℤ)) : ℚ) = 2 ^ 100 := by
      rw [hj, zpow_neg, zpow_natCast]
      push_cast
      exact mul_inv_cancel_right₀ (by positivity) _
    refine ⟨2 ^ 100, ⟨1, 100, by decide, by decide, by norm_num⟩, by norm_num [fTop, Fmt.f32, Fmt.bias], not_le.mp fun hge => ?_⟩
    have hle := (multiple_sq_le_iff _).mpr ((hr _).mpr ((hz _).mp ((hT _ rfl).trans_le hge)))
    rw [hT _ rfl] at hle
    have hbq : (p : ℚ) < 2 ^ 200 * q := by exact_mod_cast hbound
    norm_num at hle hbq
    linarith

theorem le_add_half_iff (r j : ℕ) : (j : ℚ) ≤ r + 1 / 2 ↔ j ≤ r := by
  rw [← mul_le_mul_iff_right₀ (zero_lt_two' ℚ), mul_add, mul_one_div_cancel two_ne_zero]
  norm_cast
  omega

theorem add_half_ne (r j : ℕ) : (r + 1 / 2 : ℚ) ≠ j := fun hj => by
  rw [← mul_right_inj' (two_ne_zero' ℚ), mul_add, mul_one_div_cancel two_ne_zero] at hj
  norm_cast at hj
  omega

/-- The model's root is the magnitude nearest to the exact one. -/
theorem nearest_rootRound (hp : 0 < p) (hq : 0 < q) (hbound : p < 2 ^ 200 * q) :
    Nearest Fmt.f32 (fun t => t * t * q ≤ p) (rootRound p q) := by
  have hfine := two_pow_le_isqrt hp hq
  rw [rootRound]
  generalize 2 * Nat.log2 q + 64 = K at *
  have hfloor := sq_le_iff_le_isqrt (p := p) (K := K) hq
  generalize isqrt (p * 4 ^ K / q) = r at *
  have hunit : (0 : ℚ) < 2 ^ (-(K : ℤ)) := by positivity
  have hinv : (2 : ℚ) ^ (-(K : ℤ)) = (2 ^ K)⁻¹ := by rw [zpow_neg, zpow_natCast]
  split
  next h =>
    have hz : (r : ℚ) / (2 ^ K : ℕ) = r * 2 ^ (-(K : ℤ)) := by
      rw [hinv]
      push_cast
      rfl
    refine nearest_of_standsIn (standsIn_root hfloor ?_ ?_ hq hfine hbound) (Fmt.rounds_round f32_std (Nat.two_pow_pos K).ne')
    · intro j
      rw [hz, mul_le_mul_iff_left₀ hunit, Nat.cast_le]
    · intro j hj
      rw [hz, mul_left_inj' hunit.ne', Nat.cast_inj] at hj
      rw [← hj, h]
  next h =>
    have hz : ((2 * r + 1 : ℕ) : ℚ) / (2 * 2 ^ K : ℕ) = (r + 1 / 2) * 2 ^ (-(K : ℤ)) := by
      rw [hinv]
      push_cast
      field_simp
    refine nearest_of_standsIn (standsIn_root hfloor ?_ ?_ hq hfine hbound)
      (Fmt.rounds_round f32_std (Nat.mul_pos two_pos (Nat.two_pow_pos K)).ne')
    · intro j
      rw [hz, mul_le_mul_iff_left₀ hunit, le_add_half_iff]
    · intro j hj
      rw [hz, mul_left_inj' hunit.ne'] at hj
      exact absurd hj (add_half_ne r j)

end Root

/-! ## The table of the special functions (R133, R134) -/

/-! What the table says of the result r of each function for an operand x that is no NaN; of a general operand it is said only where the
result is an exact value's rounding. -/

/-- FXP2: 1 of zero, and no value outside -1 to 1. -/
def Xp2Says (x r : Nat) : Prop :=
  (fMag Fmt.f32 x = 0 → fInf Fmt.f32 x = false → r = 0x3F800000) ∧
  (fInf Fmt.f32 x = true ∨ 1 < fMag Fmt.f32 x → r = 0x7FC00000)

/-- FLOG2: exact of a power of two. -/
def Log2Says (x r : Nat) : Prop :=
  (fMag Fmt.f32 x = 0 → fInf Fmt.f32 x = false → r = 0x7F800000 + 2 ^ 31) ∧
  (fNeg Fmt.f32 x = true → fInf Fmt.f32 x = true ∨ fMag Fmt.f32 x ≠ 0 → r = 0x7FC00000) ∧
  (fInf Fmt.f32 x = true → fNeg Fmt.f32 x = false → r = 0x7F800000) ∧
  (∀ k : ℤ, fInf Fmt.f32 x = false → fVal Fmt.f32 x = 2 ^ k →
    fInf Fmt.f32 r = false ∧ fNaN Fmt.f32 r = false ∧ fVal Fmt.f32 r = k)

/-- FRCP: the rounded reciprocal. -/
def RcpSays (x r : Nat) : Prop :=
  (fInf Fmt.f32 x = true → r = if fNeg Fmt.f32 x then 2 ^ 31 else 0) ∧
  (fInf Fmt.f32 x = false → fMag Fmt.f32 x = 0 → r = 0x7F800000 + if fNeg Fmt.f32 x then 2 ^ 31 else 0) ∧
  (fInf Fmt.f32 x = false → fMag Fmt.f32 x ≠ 0 →
    Rounds Fmt.f32 .rn false (fNeg Fmt.f32 x) (1 / fMag Fmt.f32 x) 0 r)

/-- FRSQ: the magnitude nearest to the reciprocal root. -/
def RsqSays (x r : Nat) : Prop :=
  (fInf Fmt.f32 x = false → fMag Fmt.f32 x = 0 → r = 0x7F800000 + if fNeg Fmt.f32 x then 2 ^ 31 else 0) ∧
  (fNeg Fmt.f32 x = true → fInf Fmt.f32 x = true ∨ fMag Fmt.f32 x ≠ 0 → r = 0x7FC00000) ∧
  (fInf Fmt.f32 x = true → fNeg Fmt.f32 x = false → r = 0) ∧
  (fInf Fmt.f32 x = false → fNeg Fmt.f32 x = false → fMag Fmt.f32 x ≠ 0 →
    Nearest Fmt.f32 (fun t => t * t * fMag Fmt.f32 x ≤ 1) r)

/-- FSQRT: the magnitude nearest to the root. -/
def SqrtSays (x r : Nat) : Prop :=
  (fInf Fmt.f32 x = false → fMag Fmt.f32 x = 0 → r = x) ∧
  (fNeg Fmt.f32 x = true → fInf Fmt.f32 x = true ∨ fMag Fmt.f32 x ≠ 0 → r = 0x7FC00000) ∧
  (fInf Fmt.f32 x = true → fNeg Fmt.f32 x = false → r = 0x7F800000) ∧
  (fInf Fmt.f32 x = false → fNeg Fmt.f32 x = false → fMag Fmt.f32 x ≠ 0 →
    Nearest Fmt.f32 (fun t => t * t ≤ fMag Fmt.f32 x) r)

/-- FSINPI: zero of whole numbers. -/
def SinPiSays (x r : Nat) : Prop :=
  (fInf Fmt.f32 x = true → r = 0x7FC00000) ∧
  (fInf Fmt.f32 x = false → (∃ n : ℕ, fMag Fmt.f32 x = n) → r = if fNeg Fmt.f32 x then 2 ^ 31 else 0)

/-- FCOSPI: zero of odd numbers of halves. -/
def CosPiSays (x r : Nat) : Prop :=
  (fInf Fmt.f32 x = true → r = 0x7FC00000) ∧
  (fInf Fmt.f32 x = false → (∃ n : ℕ, fMag Fmt.f32 x = n + 1 / 2) → r = 0)

/-- FTANH: its limits, and zero of zero. -/
def TanhSays (x r : Nat) : Prop :=
  (fInf Fmt.f32 x = true → r = 0x3F800000 + if fNeg Fmt.f32 x then 2 ^ 31 else 0) ∧
  (fInf Fmt.f32 x = false → fMag Fmt.f32 x = 0 → r = x)

/-! ## The functions of a number (R133, R134) -/

section Functions

theorem f32Neg_mod (neg : Bool) : f32Neg neg 0 % 2 ^ 32 = (if neg then 2 ^ 31 else 0) ∧
    f32Neg neg f32Inf % 2 ^ 32 = 0x7F800000 + (if neg then 2 ^ 31 else 0) ∧
    f32Neg neg f32One % 2 ^ 32 = 0x3F800000 + (if neg then 2 ^ 31 else 0) := by
  cases neg <;> exact ⟨rfl, rfl, rfl⟩

theorem f32_round_mod (neg : Bool) (a : Nat) {b : Nat} (hb : b ≠ 0) :
    Fmt.f32.round .rn false neg a b 0 % 2 ^ 32 = Fmt.f32.round .rn false neg a b 0 :=
  Nat.mod_eq_of_lt (Fmt.rounds_round f32_std hb).1

theorem rootRound_mod (p q : Nat) : rootRound p q % 2 ^ 32 = rootRound p q := by
  rw [rootRound]
  split
  · exact f32_round_mod _ _ (Nat.two_pow_pos _).ne'
  · exact f32_round_mod _ _ (Nat.mul_pos two_pos (Nat.two_pow_pos _)).ne'

/-- A number above 1 has both bounds above the unit. -/
theorem fxOf_gt_one {n : Nat} {x : Int} (h : (1 : ℚ) < n * 2 ^ x) : fxOne < (fxOf n x).2 ∧ fxOne < (fxOf n x).1 + 1 := by
  obtain ⟨-, hq⟩ := pow2_pos (x + 160)
  have hqq : (0 : ℚ) < (pow2 (x + 160)).2 := by exact_mod_cast hq
  have hgt : fxOne * (pow2 (x + 160)).2 < n * (pow2 (x + 160)).1 := by
    have hx : (n : ℚ) * (pow2 (x + 160)).1 / (pow2 (x + 160)).2 = n * 2 ^ x * 2 ^ 160 := by
      rw [mul_div_assoc, pow2_div, zpow_add₀ two_ne_zero, ← mul_assoc]
      rfl
    have hlt : ((fxOne : ℕ) : ℚ) < n * (pow2 (x + 160)).1 / (pow2 (x + 160)).2 := by
      rw [hx, fxOne]
      push_cast
      linarith
    rw [lt_div_iff₀ hqq] at hlt
    exact_mod_cast hlt
  rw [fxOf]
  dsimp only
  generalize fxOne = w at *
  generalize (pow2 (x + 160)).2 = q at *
  generalize n * (pow2 (x + 160)).1 = m at *
  have hle : w ≤ m / q := (Nat.le_div_iff_mul_le hq).mpr hgt.le
  refine ⟨?_, Nat.lt_succ_of_le hle⟩
  split
  next h =>
    refine hle.lt_of_ne fun hw => hgt.ne ?_
    rw [hw, Nat.div_mul_cancel (Nat.dvd_of_mod_eq_zero h)]
  next h => exact Nat.lt_succ_of_le hle

/-- A whole number of halves, as the integers of its code have it. -/
theorem fNum_of_halves {f : Fmt} {x k : Nat} (hx : fPow f x ≤ 0) (h : 2 * fMag f x = k) : 2 * fNum f x = k * 2 ^ (-fPow f x).toNat := by
  have hpow : (2 : ℚ) ^ fPow f x * (2 ^ (-fPow f x).toNat : ℕ) = 1 := by
    push_cast
    rw [← zpow_natCast, Int.toNat_of_nonneg (by omega), ← zpow_add₀ two_ne_zero, add_neg_cancel, zpow_zero]
  have hq : (2 * fNum f x : ℚ) = k * (2 ^ (-fPow f x).toNat : ℕ) := by
    rw [← h, fMag_eq_num, mul_assoc, mul_assoc, hpow, mul_one]
  exact_mod_cast hq

variable {x : Nat} (hn : fNaN Fmt.f32 x = false)
include hn

theorem value_of_zero (hi : fInf Fmt.f32 x = false) (h0 : fMag Fmt.f32 x = 0) :
    Fmt.f32.value x = .num (fNeg Fmt.f32 x) 0 (fPow Fmt.f32 x) := by
  rw [Fmt.value_of_finite f32_std hn hi, (fMag_eq_zero_iff x).mp h0]

theorem value_of_negative (hneg : fNeg Fmt.f32 x = true) (h : fInf Fmt.f32 x = true ∨ fMag Fmt.f32 x ≠ 0) :
    Fmt.f32.value x = .inf true ∨ ∃ n e, n ≠ 0 ∧ Fmt.f32.value x = .num true n e := by
  cases hi : fInf Fmt.f32 x with
  | true => exact .inl (by rw [Fmt.value_of_inf f32_std hn hi, hneg])
  | false =>
    have h0 := mt (fMag_eq_zero_iff x).mpr (h.resolve_left (Bool.eq_false_iff.mp hi))
    exact .inr ⟨_, _, h0, by rw [Fmt.value_of_finite f32_std hn hi, hneg]⟩

theorem sfXp2_spec : Xp2Says x (sfXp2 x % 2 ^ 32) := by
  refine ⟨fun h0 hi => ?_, fun h => ?_⟩
  · rw [sfXp2, value_of_zero hn hi h0]
    rfl
  · cases hi : fInf Fmt.f32 x with
    | true =>
      rw [sfXp2, Fmt.value_of_inf f32_std hn hi]
      rfl
    | false =>
      replace h : 1 < fMag Fmt.f32 x := h.resolve_left (Bool.eq_false_iff.mp hi)
      have h0 : fNum Fmt.f32 x ≠ 0 := fun h0 => by
        rw [(fMag_eq_zero_iff x).mpr h0] at h
        linarith
      rw [fMag_eq_num] at h
      obtain ⟨hhi, hlo⟩ := fxOf_gt_one h
      rw [sfXp2, Fmt.value_of_finite f32_std hn hi]
      dsimp only
      rw [if_neg h0, decide_eq_true hhi, decide_eq_true hlo]
      rfl

theorem sfRcp_spec : RcpSays x (sfRcp x % 2 ^ 32) := by
  obtain ⟨hzero, hinf, -⟩ := f32Neg_mod (fNeg Fmt.f32 x)
  refine ⟨fun hi => ?_, fun hi h0 => ?_, fun hi h0 => ?_⟩
  · rw [sfRcp, Fmt.value_of_inf f32_std hn hi]
    exact hzero
  · rw [sfRcp, value_of_zero hn hi h0]
    exact hinf
  · have hnum := mt (fMag_eq_zero_iff x).mpr h0
    have hden : fNum Fmt.f32 x * (pow2 (fPow Fmt.f32 x)).1 ≠ 0 := Nat.mul_ne_zero hnum (pow2_pos _).1.ne'
    have h := Fmt.rounds_round f32_std (mode := .rn) (sat := false) (neg := fNeg Fmt.f32 x) (d := 0) (a := (pow2 (fPow Fmt.f32 x)).2) hden
    rw [sfRcp, Fmt.value_of_finite f32_std hn hi]
    dsimp only
    rw [if_neg hnum, f32_round_mod _ _ hden, fMag_eq_num, ← pow2_div, ← mul_div_assoc, one_div_div]
    push_cast at h
    exact h

/-- The range of the nonzero numbers. -/
theorem fMag_f32_range (h0 : fMag Fmt.f32 x ≠ 0) : (2 : ℚ) ^ (-149 : ℤ) ≤ fMag Fmt.f32 x ∧ fMag Fmt.f32 x < 2 ^ (129 : ℤ) := by
  obtain ⟨hlo, hhi⟩ := fMag_bounds f32_std rfl hn h0
  rw [← zpow_natCast, Fmt.least, ← zpow_add₀ two_ne_zero] at hhi
  exact ⟨hlo, hhi⟩

/-- The exponent of a power of two is that of its integer and its power. -/
theorem num_of_zpow {k : Int} (h : fVal Fmt.f32 x = 2 ^ k) : fNeg Fmt.f32 x = false ∧
    fNum Fmt.f32 x = 2 ^ Nat.log2 (fNum Fmt.f32 x) ∧ (Nat.log2 (fNum Fmt.f32 x) : ℤ) + fPow Fmt.f32 x = k ∧ k.natAbs ≤ 2 ^ 23 := by
  have hpos : (0 : ℚ) < 2 ^ k := by positivity
  have hneg : fNeg Fmt.f32 x = false := by
    rw [Bool.eq_false_iff]
    intro hneg
    have hmag : 0 ≤ fMag Fmt.f32 x := by rw [fMag_eq_num]; positivity
    rw [fVal, if_pos hneg] at h
    linarith
  have hmag : fMag Fmt.f32 x = 2 ^ k := by rw [← h, fVal, hneg, if_neg Bool.false_ne_true]
  have h0 : fMag Fmt.f32 x ≠ 0 := by rw [hmag]; exact hpos.ne'
  obtain ⟨hlo, hhi⟩ := fMag_f32_range hn h0
  obtain ⟨hle, hlt⟩ := fMag_log2 h0
  rw [hmag] at hle hlt hlo hhi
  have hk : (Nat.log2 (fNum Fmt.f32 x) : ℤ) + fPow Fmt.f32 x = k := by
    have h1 := (zpow_le_zpow_iff_right₀ (one_lt_two (α := ℚ))).mp hle
    have h2 := (zpow_lt_zpow_iff_right₀ (one_lt_two (α := ℚ))).mp hlt
    omega
  refine ⟨hneg, ?_, hk, ?_⟩
  · rw [fMag_eq_num, ← hk, zpow_add₀ two_ne_zero, mul_left_inj' (by positivity), zpow_natCast] at hmag
    exact_mod_cast hmag
  · have h1 := (zpow_le_zpow_iff_right₀ (one_lt_two (α := ℚ))).mp hlo
    have h2 := (zpow_lt_zpow_iff_right₀ (one_lt_two (α := ℚ))).mp hhi
    omega

theorem sfLog2_spec : Log2Says x (sfLog2 x % 2 ^ 32) := by
  refine ⟨fun h0 hi => ?_, fun hneg h => ?_, fun hi hneg => ?_, fun k hi hk => ?_⟩
  · rw [sfLog2, value_of_zero hn hi h0]
    rfl
  · rcases value_of_negative hn hneg h with hv | ⟨n, e, h0, hv⟩
    · rw [sfLog2, hv]
      rfl
    · rw [sfLog2, hv]
      dsimp only
      rw [if_neg h0]
      rfl
  · rw [sfLog2, Fmt.value_of_inf f32_std hn hi, hneg]
    rfl
  · obtain ⟨hneg, hnum, hpow, hle⟩ := num_of_zpow hn hk
    have hrounds := Fmt.rounds_roundD f32_std (mode := .rn) (sat := false) (neg := decide (k < 0)) (d := 0) k.natAbs 0
    have hcode : sfLog2 x % 2 ^ 32 = Fmt.f32.roundD .rn false (decide (k < 0)) k.natAbs 0 0 := by
      rw [sfLog2, Fmt.value_of_finite f32_std hn hi, hneg]
      dsimp only
      rw [if_neg (by rw [hnum]; exact (Nat.two_pow_pos _).ne'), if_neg Bool.false_ne_true, if_pos hnum, hpow]
      exact Nat.mod_eq_of_lt hrounds.1
    obtain ⟨hrep, htop⟩ := fType_integers .f32 hle
    rw [zpow_zero, mul_one] at hrounds
    obtain ⟨hn', hi', hmag⟩ := rounds_eq_of_rep hrounds hrep htop
    rw [hcode]
    refine ⟨hi', hn', ?_⟩
    rw [fVal, hrounds.2.1, hmag, Nat.cast_natAbs, Int.cast_abs]
    simp only [decide_eq_true_eq]
    split
    next h => rw [abs_of_neg (by exact_mod_cast h), neg_neg]
    next h => exact abs_of_nonneg (by exact_mod_cast Int.not_lt.mp h)

/-- The roots of a number, of the integers that its code is the quotient of. -/
theorem nearest_roots (h0 : fMag Fmt.f32 x ≠ 0) :
    let p := fNum Fmt.f32 x * (pow2 (fPow Fmt.f32 x)).1
    let q := (pow2 (fPow Fmt.f32 x)).2
    Nearest Fmt.f32 (fun t => t * t ≤ fMag Fmt.f32 x) (rootRound p q) ∧
    Nearest Fmt.f32 (fun t => t * t * fMag Fmt.f32 x ≤ 1) (rootRound q p) := by
  obtain ⟨hlo, hhi⟩ := fMag_f32_range hn h0
  obtain ⟨hp, hq⟩ := pow2_pos (fPow Fmt.f32 x)
  have hnum : 0 < fNum Fmt.f32 x * (pow2 (fPow Fmt.f32 x)).1 := Nat.mul_pos (Nat.pos_of_ne_zero (mt (fMag_eq_zero_iff x).mpr h0)) hp
  have hmag : fMag Fmt.f32 x = (fNum Fmt.f32 x * (pow2 (fPow Fmt.f32 x)).1 : ℕ) / ((pow2 (fPow Fmt.f32 x)).2 : ℕ) := by
    rw [fMag_eq_num, ← pow2_div, Nat.cast_mul, mul_div_assoc]
  dsimp only
  generalize fNum Fmt.f32 x * (pow2 (fPow Fmt.f32 x)).1 = p at *
  generalize (pow2 (fPow Fmt.f32 x)).2 = q at *
  have hpq : (0 : ℚ) < p := by exact_mod_cast hnum
  have hqq : (0 : ℚ) < q := by exact_mod_cast hq
  rw [hmag] at hlo hhi
  constructor
  · have hbound : p < 2 ^ 200 * q := by
      have hlt : (p : ℚ) < 2 ^ 200 * q := ((div_lt_iff₀ hqq).mp hhi).trans (by gcongr; norm_num)
      exact_mod_cast hlt
    simp only [hmag, le_div_iff₀ hqq]
    exact nearest_rootRound hnum hq hbound
  · have hbound : q < 2 ^ 200 * p := by
      have hle := (le_div_iff₀ hqq).mp hlo
      have hlt : (q : ℚ) < 2 ^ 200 * p := by
        norm_num at hle ⊢
        linarith
      exact_mod_cast hlt
    simp only [hmag, ← mul_div_assoc, div_le_one hqq]
    exact nearest_rootRound hq hnum hbound

theorem sfSqrt_spec (hx : x < 2 ^ 32) : SqrtSays x (sfSqrt x % 2 ^ 32) := by
  refine ⟨fun hi h0 => ?_, fun hneg h => ?_, fun hi hneg => ?_, fun hi hneg h0 => ?_⟩
  · rw [sfSqrt, value_of_zero hn hi h0]
    dsimp only
    rw [if_pos rfl, Nat.mod_mod, Nat.mod_eq_of_lt hx]
  · rcases value_of_negative hn hneg h with hv | ⟨n, e, h0, hv⟩
    · rw [sfSqrt, hv]
      rfl
    · rw [sfSqrt, hv]
      dsimp only
      rw [if_neg h0]
      rfl
  · rw [sfSqrt, Fmt.value_of_inf f32_std hn hi, hneg]
    rfl
  · rw [sfSqrt, Fmt.value_of_finite f32_std hn hi, hneg]
    dsimp only
    rw [if_neg (mt (fMag_eq_zero_iff x).mpr h0), if_neg Bool.false_ne_true, rootRound_mod]
    exact (nearest_roots hn h0).1

theorem sfRsq_spec : RsqSays x (sfRsq x % 2 ^ 32) := by
  refine ⟨fun hi h0 => ?_, fun hneg h => ?_, fun hi hneg => ?_, fun hi hneg h0 => ?_⟩
  · rw [sfRsq, value_of_zero hn hi h0]
    exact (f32Neg_mod _).2.1
  · rcases value_of_negative hn hneg h with hv | ⟨n, e, h0, hv⟩
    · rw [sfRsq, hv]
      rfl
    · rw [sfRsq, hv]
      dsimp only
      rw [if_neg h0]
      rfl
  · rw [sfRsq, Fmt.value_of_inf f32_std hn hi, hneg]
    rfl
  · rw [sfRsq, Fmt.value_of_finite f32_std hn hi, hneg]
    dsimp only
    rw [if_neg (mt (fMag_eq_zero_iff x).mpr h0), if_neg Bool.false_ne_true, rootRound_mod]
    exact (nearest_roots hn h0).2

theorem sfSinPi_spec : SinPiSays x (sfSinPi x % 2 ^ 32) := by
  refine ⟨fun hi => ?_, fun hi ⟨n, hmag⟩ => ?_⟩
  · rw [sfSinPi, Fmt.value_of_inf f32_std hn hi]
    rfl
  · have hcode : sfSinPi x = f32Neg (fNeg Fmt.f32 x) 0 := by
      rw [sfSinPi, Fmt.value_of_finite f32_std hn hi]
      dsimp only
      by_cases hpow : 0 ≤ fPow Fmt.f32 x
      · rw [if_pos (by rw [decide_eq_true hpow, Bool.or_true])]
      · have hhalves := fNum_of_halves (f := Fmt.f32) (x := x) (k := 2 * n) (by omega) (by rw [hmag, Nat.cast_mul, Nat.cast_ofNat])
        have hnum : fNum Fmt.f32 x % 2 ^ (-fPow Fmt.f32 x).toNat = 0 := by
          rw [Nat.mul_assoc] at hhalves
          rw [Nat.eq_of_mul_eq_mul_left two_pos hhalves, Nat.mul_mod_left]
        rw [if_pos hnum, ite_self]
    rw [hcode]
    exact (f32Neg_mod _).1

theorem sfCosPi_spec : CosPiSays x (sfCosPi x % 2 ^ 32) := by
  refine ⟨fun hi => ?_, fun hi ⟨n, hmag⟩ => ?_⟩
  · rw [sfCosPi, Fmt.value_of_inf f32_std hn hi]
    rfl
  · have h0 : fNum Fmt.f32 x ≠ 0 := fun h0 => by
      rw [(fMag_eq_zero_iff x).mpr h0] at hmag
      linarith [Nat.cast_nonneg (α := ℚ) n]
    have hpow : fPow Fmt.f32 x ≤ 0 := by
      by_contra hpos
      obtain ⟨m, hm⟩ := whole_fMag (Int.not_le.mp hpos).le
      have hodd : (2 * m : ℚ) = 2 * n + 1 := by linarith
      norm_cast at hodd
      omega
    have hhalves := fNum_of_halves (f := Fmt.f32) (x := x) (k := 2 * n + 1) hpow (by rw [hmag]; push_cast; ring)
    have hturn : 2 * fNum Fmt.f32 x + 2 ^ (-fPow Fmt.f32 x).toNat = (n + 1) * 2 ^ ((-fPow Fmt.f32 x).toNat + 1) := by
      rw [hhalves, Nat.pow_succ]
      ring
    have hzero : (n + 1) * 2 ^ ((-fPow Fmt.f32 x).toNat + 1) % 2 ^ ((-fPow Fmt.f32 x).toNat + 1 + 1) %
        2 ^ ((-fPow Fmt.f32 x).toNat + 1) = 0 := by
      rw [Nat.mod_mod_of_dvd _ (Nat.pow_dvd_pow 2 (Nat.le_succ _)), Nat.mul_mod_left]
    rw [sfCosPi, Fmt.value_of_finite f32_std hn hi]
    dsimp only
    rw [if_neg h0, if_neg (Int.not_lt.mpr hpow), Nat.add_sub_cancel, hturn, if_pos hzero, Nat.zero_mod]

theorem sfTanh_spec (hx : x < 2 ^ 32) : TanhSays x (sfTanh x % 2 ^ 32) := by
  refine ⟨fun hi => ?_, fun hi h0 => ?_⟩
  · rw [sfTanh, Fmt.value_of_inf f32_std hn hi]
    exact (f32Neg_mod _).2.2
  · rw [sfTanh, value_of_zero hn hi h0]
    dsimp only
    rw [if_pos rfl, Nat.mod_mod, Nat.mod_eq_of_lt hx]

end Functions

/-- Settles O10: every special function begins alike, and its values are those of the function of a NaN, of the table's last column, of
the exact reciprocal and of the root's stand-in. -/
theorem specialFunctionsBegin : Obligations.SpecialFunctionsBegin := by
  intro s u d a f hroom
  have hnan (x : Nat) (hx : fNaN Fmt.f32 x = true) := Fmt.value_of_nan f32_std hx
  exact ⟨begins_sfu (p := Xp2Says) hroom (exec_fxp2 s u d a f) (fun x hx => by rw [sfXp2, hnan x hx]) fun x _ hx => sfXp2_spec hx,
    begins_sfu (p := Log2Says) hroom (exec_flog2 s u d a f) (fun x hx => by rw [sfLog2, hnan x hx]) fun x _ hx => sfLog2_spec hx,
    begins_sfu (p := RcpSays) hroom (exec_frcp s u d a f) (fun x hx => by rw [sfRcp, hnan x hx]) fun x _ hx => sfRcp_spec hx,
    begins_sfu (p := RsqSays) hroom (exec_frsq s u d a f) (fun x hx => by rw [sfRsq, hnan x hx]) fun x _ hx => sfRsq_spec hx,
    begins_sfu (p := SqrtSays) hroom (exec_fsqrt s u d a f) (fun x hx => by rw [sfSqrt, hnan x hx]) fun x hlt hx => sfSqrt_spec hx hlt,
    begins_sfu (p := SinPiSays) hroom (exec_fsinpi s u d a f) (fun x hx => by rw [sfSinPi, hnan x hx]) fun x _ hx => sfSinPi_spec hx,
    begins_sfu (p := CosPiSays) hroom (exec_fcospi s u d a f) (fun x hx => by rw [sfCosPi, hnan x hx]) fun x _ hx => sfCosPi_spec hx,
    begins_sfu (p := TanhSays) hroom (exec_ftanh s u d a f) (fun x hx => by rw [sfTanh, hnan x hx]) fun x hlt hx => sfTanh_spec hx hlt⟩

end Sys2Proof.Machine

/-!
Where a transfer of control goes (O11, O58). A transfer ends its clause: the cohort goes on at a clause start with t0 to t3 left 0 and every
other register as it was (R20, R47, R144).
-/

namespace Sys2Proof.Machine

open Sys2Proof.Claims

/-! ## The end of a clause (R20, R47, R144) -/

section Clauses

variable {s : State} {i : Instr} {pc : Nat}

/-- The end of a clause leaves t0 to t3 at 0, and every other register. -/
theorem Cohort.goto_get (c : Cohort) (pc k : Nat) :
    Tab.get 0 (c.goto pc).v.regs k = if 768 ≤ k ∧ k < 1024 then 0 else Tab.get 0 c.v.regs k := by
  rw [Cohort.goto, Tab.get_filter_key 0 (fun k => !(decide (768 ≤ k) && decide (k < 1024)))]
  by_cases h : 768 ≤ k ∧ k < 1024
  · simp [h]
  · rw [if_neg h, if_pos (by simp only [Bool.not_eq_true', Bool.and_eq_false_iff, decide_eq_false_iff_not]; omega)]

/-- No ring entry is one of t0 to t3. -/
theorem Cohort.goto_get_ring (c : Cohort) (pc : Nat) {k : Nat} (hk : 1024 ≤ k) :
    Tab.get 0 (c.goto pc).v.regs k = Tab.get 0 c.v.regs k := by
  rw [Cohort.goto_get, if_neg (by omega)]

theorem at_goto {t : State} {c : Cohort} (h : t.co = c.goto pc) : At t pc := by
  rw [At, h]
  exact ⟨rfl, rfl, rfl, rfl⟩

theorem jumps_of_jump (h : exec i s = .next (s.jump pc)) : Jumps s i pc := ⟨_, h, s.co.goto_get pc⟩

/-- The address of the next clause counts modulo 2^64. -/
theorem jumps_nextClause (h : Jumps s i s.co.nextClause) : Jumps s i (s.co.hdr + 4 * clauseWords s.co.header) := by
  rw [Jumps] at h ⊢
  rwa [show s.co.nextClause % 2 ^ 64 = (s.co.hdr + 4 * clauseWords s.co.header) % 2 ^ 64 from Nat.mod_mod _ _] at h

end Clauses

/-! ## Branches (R145, R147, R148) -/

section Branches

variable {s : State} {i : Instr} {u : Bool} {m a : Reg} {k : BrCond} {o : BitVec 15}

/-- The target of format B is 4 times the offset from the clause's header (R50, R147). -/
theorem Cohort.target_eq (c : Cohort) (o : BitVec 15) : c.target o = (BitVec.ofInt 64 (c.hdr + 4 * o.toInt)).toNat := by
  have hshift : o.signExtend 64 <<< 2 = BitVec.ofInt 64 (4 * o.toInt) := by
    rw [BitVec.shiftLeft_eq_mul_twoPow, BitVec.ofInt_mul, BitVec.mul_comm]
    rfl
  rw [Cohort.target, hshift, BitVec.ofInt_add, BitVec.ofInt_natCast]

/-- The active lanes agree on a condition that holds in none of them or in all (R145). -/
theorem Cohort.disagree_of_agree {c : Cohort} {x : Mask} (hu : u = true → x = 0 ∨ x = c.rd.exec) : c.disagree u x = false :=
  Bool.eq_false_iff.mpr fun hd => by
    obtain ⟨hut, h0, h1⟩ := (c.disagree_iff u x).mp hd
    exact (hu hut).elim h0 h1

/-- A branch on which the active lanes agree, or need not, goes where its condition says. -/
theorem State.branch_of_agree (hu : u = true → k = .always ∨ s.co.branchMask m = 0 ∨ s.co.branchMask m = s.co.rd.exec) :
    s.branch u m k o =
      .next (s.jump (if BrCond.test k (s.co.branchMask m) s.co.rd.exec then s.co.target o else s.co.nextClause)) := by
  by_cases hk : k = .always
  · subst hk
    rfl
  · have hd : s.co.disagree u (s.co.branchMask m) = false := Cohort.disagree_of_agree fun hut => (hu hut).resolve_left hk
    rw [State.branch, if_neg hk]
    simp only [hd, Bool.false_eq_true, if_false, State.fall]
    split <;> rfl

/-- Such a branch is a jump; p says whether its condition holds. -/
theorem jumps_branch (h : exec i s = s.branch u m k o)
    (hu : u = true → k = .always ∨ s.co.branchMask m = 0 ∨ s.co.branchMask m = s.co.rd.exec) {p : Bool}
    (hp : p = BrCond.test k (s.co.branchMask m) s.co.rd.exec) :
    Jumps s i (if p then (BitVec.ofInt 64 (s.co.hdr + 4 * o.toInt)).toNat else s.co.hdr + 4 * clauseWords s.co.header) := by
  have hj := jumps_of_jump (h.trans (State.branch_of_agree hu))
  rw [← hp, Cohort.target_eq] at hj
  cases p with
  | true => exact hj
  | false => exact jumps_nextClause hj

theorem jumps_brx (ht : (s.co.ugetPair a).toNat % 4 = 0) (ha : u = true → ∀ l ∈ s.co.active, s.co.getPair a l = s.co.ugetPair a) :
    Jumps s (.brx u a) (s.co.ugetPair a).toNat := by
  refine jumps_of_jump ?_
  rw [exec_brx, execBrx, s.co.indirect_of_agree ha, if_neg (not_not.mpr ht)]

end Branches

/-! ## EXIT and YIELD (R167, R168) -/

theorem reaches_exit (s : State) : Reaches s .exit (fun t => At t s.co.nextClause ∧ t.co.v.live = s.co.v.live &&& ~~~s.co.rd.exec ∧
    t.co.v.exec = s.co.v.exec &&& t.co.v.live ∧ (t.co.exited = true ↔ t.co.v.live = 0) ∧ t.mem = s.mem ∧ t.cohorts = s.cohorts) :=
  ⟨_, exec_exit s, at_goto rfl, rfl, rfl, beq_iff_eq, rfl, rfl⟩

theorem reaches_yield (s : State) : Reaches s .yieldI (fun t => At t s.co.nextClause ∧ t.co.y = true ∧ t.mem = s.mem ∧
    t.cohorts = s.cohorts ∧ t.co.v.exec = s.co.v.exec ∧
    ∀ key, 1024 ≤ key → Tab.get 0 t.co.v.regs key = Tab.get 0 s.co.v.regs key) :=
  ⟨_, exec_yieldI s, ⟨rfl, rfl, rfl, rfl⟩, rfl, rfl, rfl, rfl, fun _ hk => s.co.goto_get_ring s.co.nextClause hk⟩

/-- Settles O11: each branch is a jump to where its condition sends it. -/
theorem branchesAndExit : Obligations.BranchesAndExit := by
  refine ⟨fun s u m a k o => ⟨fun hu => ?_, jumps_brx⟩, fun s => ⟨reaches_exit s, reaches_yield s⟩⟩
  exact ⟨jumps_branch (exec_bra s u m k o) hu (by cases k <;> rfl), jumps_branch (exec_brc s u m k o) hu (by cases k <;> rfl)⟩

/-! ## The words of YIELD and NOP (R168) -/

/-- A word of opcode op, whose field below bit 24 is n. -/
theorem fields_low24 {op n : Nat} (hop : op < 128) (hn : n < 2 ^ 24) :
    fld (op * 2 ^ 24 + n) 24 7 = op ∧ fld (op * 2 ^ 24 + n) 0 24 = n := by
  simp only [fld]
  omega

theorem need_eq_ok {c : Bool} {sub : Nat} {k : Decoded} {i : Instr} (h : need c sub k = .ok i) : c = true ∧ k = .ok i := by
  cases c with
  | true => exact ⟨rfl, h⟩
  | false => nomatch h

/-- A word of YIELD or NOP with a bit set below bit 24 is no instruction. -/
theorem low_of_decodeWord {op n : Nat} (hop : op = 0x41 ∨ op = 0x44) (hn : n < 2 ^ 24) {ls : List Nat} {i : Instr}
    (h : decodeWord (op * 2 ^ 24 + n) ls = .ok i) : n = 0 := by
  obtain ⟨hf, hlow⟩ := fields_low24 (op := op) (by omega) hn
  rcases hop with rfl | rfl
  all_goals
    simp only [decodeWord, hf, decCtl, hlow] at h
    exact beq_iff_eq.mp (need_eq_ok (need_eq_ok h).2).1

/-- Settles O58: the encodings by the decoder's tests of their fields, the effects as O6 and O11 have them. -/
theorem yieldAndNop : Obligations.YieldAndNop := by
  refine ⟨rfl, rfl, fun n ls h0 hn => ⟨fun i h => ?_, fun i h => ?_⟩, rfl, fun s => ⟨exec_nop s, reaches_yield s⟩⟩
  · exact h0.ne' (low_of_decodeWord (.inl rfl) hn h)
  · exact h0.ne' (low_of_decodeWord (.inr rfl) hn h)

end Sys2Proof.Machine

/-!
The window ring (R149, R152). A position of the ring is a key of the register map, and positions less than S apart have different keys; what
a move of the window, a join record and a link group write is said position by position.
-/

namespace Sys2Proof.Machine

open Sys2Proof.Claims

/-! ## Positions and their keys (R17, R152) -/

section Positions

variable {S wd wd' p q k l m n key : Nat}

theorem le_posKey : 1024 ≤ posKey S p l := by
  unfold posKey
  omega

theorem posKey_inj (hl : l < 64) (hm : m < 64) : posKey S p l = posKey S q m ↔ p % S = q % S ∧ l = m := by
  unfold posKey
  omega

theorem posKey_lane_inj : posKey S p l = posKey S p m ↔ l = m := by
  unfold posKey
  omega

theorem posKey_add_ring : posKey S (p + S) l = posKey S p l := by
  rw [posKey, posKey, Nat.add_mod_right]

theorem posKey_mod (hl : l < 64) : posKey S p l % 64 = l := by
  unfold posKey
  omega

/-- Positions less than S apart lie in different ring entries. -/
theorem posKey_ne (hpq : p < q) (hq : q < p + S) (hl : l < 64) (hm : m < 64) : posKey S p l ≠ posKey S q m := by
  intro h
  have hmod : (q - p) % S = 0 := Nat.sub_mod_eq_zero_of_mod_eq ((posKey_inj hl hm).mp h).1.symm
  rw [Nat.mod_eq_of_lt (by omega)] at hmod
  omega

/-- A window register lies at its position above v0. -/
theorem regKey_window {r : Reg} (hr : r.toNat < 48) : regKey wd S r l = posKey S (wd + r.toNat) l := by
  rw [regKey, regSlot, if_pos hr, posKey]

theorem regOf_window (c : Cohort) {r : Reg} (hr : r.toNat < 48) : regOf c r l = c.posGet (c.v.wdepth + r.toNat) l := by
  rw [regOf, regKey_window hr, Cohort.posGet]

/-- How far above v0 at window depth wd the ring entry of a key lies. -/
def windowIndex (S wd key : Nat) : Nat := (key / 64 - 16 + S - wd % S) % S

theorem windowIndex_posKey (hS : 0 < S) (hl : l < 64) : windowIndex S wd (posKey S (wd + k) l) = k % S := by
  have hentry : posKey S (wd + k) l / 64 - 16 = (wd % S + k % S) % S := by
    rw [← Nat.add_mod, posKey]
    omega
  have hwd := Nat.mod_lt wd hS
  have hk := Nat.mod_lt k hS
  rw [windowIndex, hentry]
  rcases Nat.lt_or_ge (wd % S + k % S) S with h | h
  · rw [Nat.mod_eq_of_lt h, show wd % S + k % S + S - wd % S = k % S + S by omega, Nat.add_mod_right, Nat.mod_mod]
  · rw [Nat.mod_eq_sub_mod h, Nat.mod_eq_of_lt (a := wd % S + k % S - S) (by omega),
      show wd % S + k % S - S + S - wd % S = k % S by omega, Nat.mod_mod]

/-- The key of a ring entry is that of its position in the window. -/
theorem posKey_windowIndex (hlo : 1024 ≤ key) (hhi : key < (16 + S) * 64) : posKey S (wd + windowIndex S wd key) (key % 64) = key := by
  have hS : 0 < S := by omega
  have hwd := Nat.mod_lt wd hS
  have hentry : key / 64 - 16 < S := by omega
  have hpos : (wd + windowIndex S wd key) % S = key / 64 - 16 := by
    rw [Nat.add_mod, windowIndex, Nat.mod_mod]
    rcases Nat.lt_or_ge (key / 64 - 16) (wd % S) with h | h
    · rw [Nat.mod_eq_of_lt (a := key / 64 - 16 + S - wd % S) (by omega),
        show wd % S + (key / 64 - 16 + S - wd % S) = key / 64 - 16 + S by omega, Nat.add_mod_right, Nat.mod_eq_of_lt hentry]
    · rw [show key / 64 - 16 + S - wd % S = key / 64 - 16 - wd % S + S by omega, Nat.add_mod_right,
        Nat.mod_eq_of_lt (a := key / 64 - 16 - wd % S) (by omega),
        show wd % S + (key / 64 - 16 - wd % S) = key / 64 - 16 by omega, Nat.mod_eq_of_lt hentry]
  rw [posKey, hpos]
  omega

theorem moveKey_eq : moveKey S wd wd' key = if key < 1024 then none
    else if windowIndex S wd key < 48 then some (posKey S (wd' + windowIndex S wd key) (key % 64)) else none := rfl

/-- A move takes a window register to the place of the same register at the new depth (R149). -/
theorem moveKey_eq_some : moveKey S wd wd' key = some n ↔
    1024 ≤ key ∧ windowIndex S wd key < 48 ∧ posKey S (wd' + windowIndex S wd key) (key % 64) = n := by
  rw [moveKey_eq]
  split
  · next h => exact ⟨nofun, fun ⟨hlo, _⟩ => absurd h (Nat.not_lt.mpr hlo)⟩
  · next h =>
    split
    · next hk => exact ⟨fun he => ⟨Nat.le_of_not_lt h, hk, Option.some.inj he⟩, fun ⟨_, _, he⟩ => congrArg some he⟩
    · next hk => exact ⟨nofun, fun ⟨_, hlt, _⟩ => absurd hlt hk⟩

end Positions

/-! ## Maps written entry by entry -/

section Entries

variable {α : Type} {d : α}

/-- A key after some entries have been written holds x, where every entry of the key does, and where one is written or x stood there. -/
theorem Tab.get_foldl_set [DecidableEq α] {n : Nat} {x : α} {ws : List (Nat × α)} {t : Tab α} (hw : ∀ e ∈ ws, e.1 = n → e.2 = x)
    (ht : Tab.get d t n = x ∨ ∃ e ∈ ws, e.1 = n) : Tab.get d (ws.foldl (fun t e => Tab.set d t e.1 e.2) t) n = x := by
  induction ws generalizing t with
  | nil => exact ht.resolve_right (by simp)
  | cons e ws ih =>
    obtain ⟨he, hw⟩ := List.forall_mem_cons.mp hw
    refine ih hw ?_
    rw [Tab.get_set]
    by_cases hn : n = e.1
    · exact .inl ((if_pos hn).trans (he hn.symm))
    · rw [if_neg hn]
      refine ht.imp_right fun ⟨y, hy, hyn⟩ => ⟨y, (List.mem_cons.mp hy).resolve_left fun h => hn (h ▸ hyn.symm), hyn⟩

theorem Tab.get_eq_or_mem (t : Tab α) (n : Nat) : Tab.get d t n = d ∨ (n, Tab.get d t n) ∈ t := by
  induction t with
  | nil => exact .inl rfl
  | cons e t ih =>
    obtain ⟨k, v⟩ := e
    by_cases h : k = n
    · simp [Tab.get, h]
    · simp only [Tab.get, if_neg h]
      exact ih.imp_right (List.mem_cons_of_mem _)

theorem Tab.le_of_mem_okAbove [DecidableEq α] {b : Nat} {t : Tab α} (ht : Tab.okAbove d b t = true) {e : Nat × α} (he : e ∈ t) :
    b ≤ e.1 := by
  induction t generalizing b with
  | nil => cases he
  | cons y t ih =>
    obtain ⟨k, v⟩ := y
    simp only [Tab.okAbove, Bool.and_eq_true, decide_eq_true_eq] at ht
    rcases List.mem_cons.mp he with rfl | he
    · exact ht.1.1
    · have := ih ht.2 he
      omega

/-- A map in canonical form lists a key once. -/
theorem Tab.get_of_mem [DecidableEq α] {t : Tab α} (ht : Tab.ok d t = true) {n : Nat} {x : α} (h : (n, x) ∈ t) : Tab.get d t n = x := by
  have above (b : Nat) (hb : Tab.okAbove d b t = true) : Tab.get d t n = x := by
    clear ht
    induction t generalizing b with
    | nil => cases h
    | cons y t ih =>
      obtain ⟨k, v⟩ := y
      simp only [Tab.okAbove, Bool.and_eq_true, decide_eq_true_eq] at hb
      rcases List.mem_cons.mp h with h | h
      · cases h
        exact if_pos rfl
      · have hk : k + 1 ≤ n := Tab.le_of_mem_okAbove hb.2 h
        exact (if_neg (by omega)).trans (ih h _ hb.2)
  exact above 0 ht

end Entries

/-! ## What the window operations write (R149, R159) -/

section Window

variable (c : Cohort) {p q k l m : Nat}

theorem Cohort.posGet_posSet (p l : Nat) (w : Word) (q m : Nat) :
    (c.posSet p l w).posGet q m = if posKey c.S q m = posKey c.S p l then w else c.posGet q m := Tab.get_set _ _ _ _ _

theorem Cohort.posGet_goto (pc p l : Nat) : (c.goto pc).posGet p l = c.posGet p l := c.goto_get_ring pc le_posKey

/-- Whether a key is that of a ring entry under the windows at the cohort's depth and at wd'. -/
def Cohort.underWindows (c : Cohort) (wd' key : Nat) : Bool :=
  !decide (key < 1024) && (decide (windowIndex c.S c.v.wdepth key < 48) || decide (windowIndex c.S wd' key < 48))

theorem Cohort.moveWindow_regs (wd' : Nat) : (c.moveWindow wd').v.regs =
    (c.v.regs.filterMap (fun e => (moveKey c.S c.v.wdepth wd' e.1).map (fun k => (k, e.2)))).foldl (fun t e => Tab.set 0 t e.1 e.2)
      (c.v.regs.filter (fun e => !c.underWindows wd' e.1)) := rfl

/-- A move of the window keeps the value of every window register (R149). -/
theorem Cohort.posGet_moveWindow (hS : 48 ≤ c.S) (hkeys : ∀ e ∈ c.v.regs, e.1 < (16 + c.S) * 64) (hok : Tab.ok 0 c.v.regs = true)
    (wd' : Nat) (hk : k < 48) (hl : l < 64) : (c.moveWindow wd').posGet (wd' + k) l = c.posGet (c.v.wdepth + k) l := by
  have hindex (wd : Nat) : windowIndex c.S wd (posKey c.S (wd + k) l) = k := by
    rw [windowIndex_posKey (by omega) hl, Nat.mod_eq_of_lt (by omega)]
  rw [Cohort.posGet, Cohort.moveWindow_regs]
  refine Tab.get_foldl_set (fun e he hn => ?_) ?_
  · obtain ⟨y, hy, hm⟩ := List.mem_filterMap.mp he
    obtain ⟨n, hmove, rfl⟩ := Option.map_eq_some_iff.mp hm
    obtain ⟨hlo, hlt, hpos⟩ := moveKey_eq_some.mp hmove
    have hsame : posKey c.S (wd' + windowIndex c.S c.v.wdepth y.1) (y.1 % 64) = posKey c.S (wd' + k) l := hpos.trans hn
    have hwin : windowIndex c.S c.v.wdepth y.1 = k := by
      have := congrArg (windowIndex c.S wd') hsame
      rwa [windowIndex_posKey (by omega) (Nat.mod_lt _ (by decide)), Nat.mod_eq_of_lt (by omega), hindex wd'] at this
    have hkey := posKey_windowIndex (wd := c.v.wdepth) hlo (hkeys y hy)
    rw [hwin, ((posKey_inj (Nat.mod_lt _ (by decide)) hl).mp hsame).2] at hkey
    rw [Cohort.posGet, hkey]
    exact (Tab.get_of_mem hok hy).symm
  · rcases Tab.get_eq_or_mem (d := 0) c.v.regs (posKey c.S (c.v.wdepth + k) l) with h | h
    · have hunder : c.underWindows wd' (posKey c.S (wd' + k) l) = true := by
        simp [Cohort.underWindows, hindex, hk, le_posKey]
      refine .inl (Eq.trans ?_ h.symm)
      rw [Tab.get_filter_key 0 (fun key => !c.underWindows wd' key)]
      exact if_neg (ne_true_of_eq_false (congrArg not hunder))
    · refine .inr ⟨(posKey c.S (wd' + k) l, c.posGet (c.v.wdepth + k) l), List.mem_filterMap.mpr ⟨_, h, ?_⟩, rfl⟩
      rw [moveKey_eq_some.mpr ⟨le_posKey, (hindex _).trans_lt hk, rfl⟩, hindex, posKey_mod hl]
      rfl

/-- Whether a key is that of a register that clearing those at index lo up to hi makes 0. -/
def Cohort.cleared (c : Cohort) (lo hi key : Nat) : Bool :=
  if key < 1024 then false
  else decide (lo ≤ windowIndex c.S c.v.wdepth key) && decide (windowIndex c.S c.v.wdepth key < hi) &&
    (c.v.live.getLsbD (key % 64) || !c.launched.getLsbD (key % 64))

theorem Cohort.clearRegs_regs (lo hi : Nat) :
    (c.clearRegs lo hi).v.regs = c.v.regs.filter (fun e => !c.cleared lo hi e.1) := rfl

/-- Clearing makes a register 0 in the lanes that are not exited. -/
theorem Cohort.posGet_clearRegs (lo hi : Nat) (hk : k < c.S) (hl : l < 64) :
    (c.clearRegs lo hi).posGet (c.v.wdepth + k) l =
      if lo ≤ k ∧ k < hi ∧ (c.v.live.getLsbD l || !c.launched.getLsbD l) = true then 0 else c.posGet (c.v.wdepth + k) l := by
  have hindex : windowIndex c.S c.v.wdepth (posKey c.S (c.v.wdepth + k) l) = k := by
    rw [windowIndex_posKey (by omega) hl, Nat.mod_eq_of_lt hk]
  rw [Cohort.posGet, Cohort.clearRegs_regs]
  refine (Tab.get_filter_key 0 (fun key => !c.cleared lo hi key) c.v.regs (posKey c.S (c.v.wdepth + k) l)).trans ?_
  rw [Cohort.cleared, if_neg (Nat.not_lt.mpr le_posKey), hindex, posKey_mod hl]
  generalize (c.v.live.getLsbD l || !c.launched.getLsbD l) = out
  have hdead : (decide (lo ≤ k) && decide (k < hi) && out) = decide (lo ≤ k ∧ k < hi ∧ out = true) := by simp [Bool.and_assoc]
  rw [hdead]
  by_cases h : lo ≤ k ∧ k < hi ∧ out = true
  · rw [decide_eq_true h, if_pos h]
    rfl
  · rw [decide_eq_false h, if_neg h]
    rfl

/-- A window register is written in some lanes: its position holds the values there. -/
theorem Cohort.posGet_setLanes_self {r : Reg} (hr : r.toNat < 48) (f : Nat → Word) {ls : List Nat} (hl : l ∈ ls) :
    (c.setLanes r f ls).posGet (c.v.wdepth + r.toNat) l = f l := by
  have h := c.setLanes_in r f ls l hl
  rw [regKey_window hr] at h
  rwa [Cohort.posGet, (c.setLanes_shape r f ls).2]

/-- Other positions keep their values. -/
theorem Cohort.posGet_setLanes_of_ne {r : Reg} (hr : r.toNat < 48) (f : Nat → Word) {ls : List Nat}
    (h : ∀ m ∈ ls, posKey c.S p l ≠ posKey c.S (c.v.wdepth + r.toNat) m) : (c.setLanes r f ls).posGet p l = c.posGet p l := by
  have hout := c.setLanes_out r f ls (posKey c.S p l) fun m hm => by
    rw [regKey_window hr]
    exact h m hm
  rwa [Cohort.posGet, (c.setLanes_shape r f ls).2]

end Window

end Sys2Proof.Machine

/-!
The join depth (R149). Faults, spills and what lands on the way leave the join depth as it is; only trap entry sets it, to 0 (R163). So a
BRD that has counted one more record has pushed it.
-/

namespace Sys2Proof.Machine

open Sys2Proof.Claims

/-! ## What lands (R43, R135, R155) -/

section Landing

variable (c : Cohort)

theorem Cohort.land_jd (clause : Nat) (w : Nat × Word) : (c.land clause w).jd = c.jd := by
  unfold Cohort.land
  repeat' split
  all_goals rfl

theorem Cohort.complete_jd (id : Nat) (ws : List (Nat × Word)) : (c.complete id ws).jd = c.jd := by
  unfold Cohort.complete
  split
  · next o _ => exact List.foldlRecOn (motive := fun x : Cohort => x.jd = c.jd) ws _ rfl fun x h w _ => (x.land_jd o.clause w).trans h
  · rfl

theorem Cohort.completeAll_jd (os : List Op) : (os.foldl (fun c o => c.complete o.id o.writes) c).jd = c.jd :=
  List.foldlRecOn (motive := fun x : Cohort => x.jd = c.jd) os _ rfl fun x h o _ => (x.complete_jd o.id o.writes).trans h

theorem Cohort.landSfu_jd : c.landSfu.jd = c.jd := c.completeAll_jd _

theorem Cohort.landAt_jd (p n : Nat) : (c.landAt p n).jd = c.jd := c.completeAll_jd _

theorem Cohort.askedToStop_jd : c.askedToStop.jd = c.jd := by
  unfold Cohort.askedToStop
  repeat' split
  · rfl
  · exact c.landSfu_jd
  · rfl

end Landing

/-! ## Records and reports of a fault (R351, R356, R358, R364) -/

section Reports

variable (s : State)

theorem State.askTeam_jd (key : Nat) : (s.askTeam key).co.jd = s.co.jd := by
  unfold State.askTeam
  dsimp only
  split
  · exact s.co.askedToStop_jd
  · rfl

theorem State.beginEnd_jd (ctx cause : Nat) : (s.beginEnd ctx cause).co.jd = s.co.jd := by
  unfold State.beginEnd
  dsimp only
  split
  · rfl
  · refine List.foldlRecOn (motive := fun q : State => q.co.jd = s.co.jd) _ _ rfl fun q h t _ => ?_
    split
    · exact h
    all_goals exact ((q.setTeam _).askTeam_jd _).trans h

theorem State.sendMsi_co (addr data : Nat) : (s.sendMsi addr data).co = s.co := by
  unfold State.sendMsi
  repeat' split
  · rfl
  · exact s.write_co _
  · rfl

theorem State.slotAt_co {ctx va : Nat} {r : State × Nat} (h : s.slotAt ctx va = some r) : r.1.co = s.co := by
  unfold State.slotAt at h
  split at h
  · cases h
  · split at h
    · cases h
      exact (backstage_setAD s _ _).co
    · cases h

theorem State.logSlots_co {ctx head : Nat} {chunks : List (List Byte)} {t : State} (h : s.logSlots ctx head chunks = some t) :
    t.co = s.co := by
  induction chunks generalizing s head with
  | nil =>
    cases h
    rfl
  | cons ch chunks ih =>
    unfold State.logSlots at h
    dsimp only at h
    split at h
    · cases h
    · next u pa hu => exact (ih _ h).trans ((u.write_co _).trans (s.slotAt_co hu))

theorem State.logPut_jd (r : FaultRec) (diag : List Byte) : (s.logPut r diag).1.co.jd = s.co.jd := by
  unfold State.logPut
  dsimp only
  refine iteInduction (motive := fun r : State × Bool => r.1.co.jd = s.co.jd) (fun _ => rfl) fun _ => ?_
  refine iteInduction (motive := fun r : State × Bool => r.1.co.jd = s.co.jd) (fun _ => rfl) fun _ => ?_
  generalize hslots : State.logSlots _ _ _ _ = q
  cases q with
  | none => exact iteInduction (motive := fun r : State × Bool => r.1.co.jd = s.co.jd) (fun _ => State.beginEnd_jd _ _ _) fun _ => rfl
  | some u =>
    have hco : u.co = s.co := State.logSlots_co s.nextSeq.2 hslots
    exact congrArg Cohort.jd hco

theorem State.ctxMsi_jd (ctx : Nat) : (s.ctxMsi ctx).co.jd = s.co.jd := by
  unfold State.ctxMsi
  dsimp only
  repeat' split
  · exact congrArg Cohort.jd (s.sendMsi_co _ _)
  · rfl
  · exact (State.beginEnd_jd _ _ _).trans (s.logPut_jd _ _)

theorem State.log_jd (r : FaultRec) (diag : List Byte) : (s.log r diag).co.jd = s.co.jd := by
  unfold State.log
  dsimp only
  split
  · exact (State.ctxMsi_jd _ _).trans (s.logPut_jd r diag)
  · exact s.logPut_jd r diag

theorem State.logLl_jd (c : Cohort) (pc : Nat) (f : FaultInfo) : (s.logLl c pc f).co.jd = s.co.jd := by
  unfold State.logLl
  split
  · exact s.log_jd _ _
  · rfl

theorem State.report_jd (die : Nat) (r : FaultRec) : (s.report die r).co.jd = s.co.jd := by
  unfold State.report
  dsimp only
  repeat' split
  any_goals rfl
  all_goals exact State.ctxMsi_jd _ _

/-- What is reported and logged of a team fault of a cohort. -/
def State.noteFault (s : State) (c : Cohort) (pc : Nat) (f : FaultInfo) : State :=
  let t := if toBuffer f then s.report (dieOf c.core) (FaultRec.of c pc { f with ft := f.ft }) else s
  if f.cause = causeLongLatency then t.logLl c pc f else t

theorem State.noteFault_jd (c : Cohort) (pc : Nat) (f : FaultInfo) : (s.noteFault c pc f).co.jd = s.co.jd := by
  have hreport : (if toBuffer f then s.report (dieOf c.core) (FaultRec.of c pc { f with ft := f.ft }) else s).co.jd = s.co.jd := by
    split
    · exact s.report_jd _ _
    · rfl
  unfold State.noteFault
  dsimp only
  split
  · exact (State.logLl_jd _ _ _ _).trans hreport
  · exact hreport

/-- A team fault leaves its cohort's join depth. -/
theorem State.teamFault_jd (f : FaultInfo) (pc : Nat) : (s.teamFault f pc).co.jd = s.co.jd := by
  have hnote (c : Cohort) (hc : c.jd = s.co.jd) : (({ s with co := c } : State).noteFault c pc f).co.jd = s.co.jd :=
    (State.noteFault_jd _ c pc f).trans hc
  unfold State.teamFault
  dsimp only
  generalize State.team? _ _ = q
  cases q with
  | none =>
    refine hnote _ ?_
    exact s.co.landSfu_jd
  | some t =>
    cases h : t.status
    all_goals
      simp only [h]
      refine hnote _ ?_
      exact s.co.landSfu_jd

end Reports

/-! ## Spills (R153, R155, R156) -/

section Spills

variable (s : State)

theorem State.waitFor_co (i : Option Instr) : (s.waitFor i).co = s.co := by
  unfold State.waitFor
  dsimp only
  repeat' split
  all_goals rfl

theorem State.spillGroup_jd : s.spillGroup.1.co.jd = s.co.jd := by
  unfold State.spillGroup
  split
  · exact congrArg Cohort.jd (s.waitFor_co _)
  · dsimp only
    split
    · rfl
    · have hl := (backstage_lookup s (s.co.landAt s.co.P 4) ((s.co.landAt s.co.P 4).spillAt (s.co.landAt s.co.P 4).P) .write
        (1000 + (s.co.landAt s.co.P 4).P)).co
      generalize s.lookup _ _ _ _ = r at hl
      obtain ⟨t, e⟩ := r
      cases e with
      | error f => exact congrArg Cohort.jd hl
      | ok l =>
        dsimp only
        split
        · exact congrArg Cohort.jd hl
        · exact s.co.landAt_jd _ _

theorem State.spills_jd (n : Nat) : (s.spills n).1.co.jd = s.co.jd := by
  induction n generalizing s with
  | zero => rfl
  | succ n ih =>
    have hg := s.spillGroup_jd
    unfold State.spills
    generalize s.spillGroup = r at hg
    obtain ⟨t, e⟩ := r
    cases e with
    | none => exact (ih t).trans hg
    | some f => exact hg

theorem State.openWindow_jd (n : Nat) : (s.openWindow n).1.co.jd = s.co.jd := by
  have hs := s.spills_jd ((s.co.v.wdepth + n + 48 - s.co.S - s.co.P + 3) / 4)
  unfold State.openWindow State.spillFor
  generalize State.spills _ s = r at hs
  obtain ⟨t, e⟩ := r
  cases e with
  | some f => exact hs
  | none =>
    dsimp only
    split
    · exact (congrArg Cohort.jd (t.waitFor_co _)).trans hs
    · exact (t.co.landAt_jd _ _).trans hs

end Spills

end Sys2Proof.Machine

/-!
Traps (O14). Trap entry makes the interrupted cohort into that of the handler: the resumption point saved, the frame above the interrupted
one, and the old exec as the handler's argument (R163). The return undoes it but for trapcause and trappc (R165).
-/

namespace Sys2Proof.Machine

open Sys2Proof.Claims

/-! ## Window registers -/

section WindowRegisters

variable {S wd l m : Nat} {r q : Reg}

/-- Two window registers lie in different ring entries. -/
theorem regKey_ne_of_lt (hS : 48 ≤ S) (hq : q.toNat < 48) (h : r.toNat < q.toNat) (hl : l < 64) (hm : m < 64) :
    regKey wd S q l ≠ regKey wd S r m := by
  rw [regKey_window hq, regKey_window (h.trans hq)]
  exact (posKey_ne (by omega) (by omega) hm hl).symm

theorem regOf_goto (c : Cohort) (pc l : Nat) (hr : r.toNat < 48) : regOf (c.goto pc) r l = regOf c r l := by
  rw [regOf_window _ hr, regOf_window _ hr]
  exact c.posGet_goto pc _ l

end WindowRegisters

/-! ## The handler's argument (R163) -/

section Argument

variable (c : Cohort) (e : Mask)

/-- The cohort once a mask has been handed to its handler in v0, or in v0:v1 at W = 64. -/
def Cohort.handMask : Cohort :=
  (c.setLanes 0 (fun _ => loOf e) c.livel).setLanes 1 (fun _ => if c.W = 64 then hiOf e else 0) c.livel

theorem Cohort.handMask_eq : (if c.W = 64 then c.uniformPair 0 e else (c.uniform 0 (loOf e)).uniform 1 0) = c.handMask e := by
  have hlivel : (c.uniform 0 (loOf e)).livel = c.livel := by
    rw [Cohort.uniform, Cohort.setLanes_eq]
    exact (lanes_of_regs c _).2
  have hpair : c.uniformPair 0 e = (c.uniform 0 (loOf e)).uniform 1 (hiOf e) := rfl
  by_cases h : c.W = 64
  · rw [if_pos h, hpair, Cohort.uniform, hlivel, Cohort.handMask, if_pos h, Cohort.uniform]
  · rw [if_neg h, Cohort.uniform, hlivel, Cohort.handMask, if_neg h, Cohort.uniform]

theorem Cohort.handMask_frame : ∃ regs, c.handMask e = { c with v := { c.v with regs := regs } } := by
  rw [Cohort.handMask, Cohort.setLanes_eq, Cohort.setLanes_eq]
  exact ⟨_, rfl⟩

variable {c} {l : Nat}

theorem Cohort.regOf_handMask (hS : Shape c) (hl : l ∈ c.livel) : regOf (c.handMask e) 0 l = loOf e ∧
    regOf (c.handMask e) 1 l = (if c.W = 64 then hiOf e else 0) ∧
    ∀ r : Reg, 2 ≤ r.toNat → r.toNat < 48 → regOf (c.handMask e) r l = regOf c r l := by
  obtain ⟨h48, hW⟩ := hS
  have hlane {m : Nat} (hm : m ∈ c.livel) : m < 64 := ((mem_lanesIn _ _ _).mp hm).1.trans_le hW
  obtain ⟨hwd, hring⟩ := c.setLanes_shape 0 (fun _ => loOf e) c.livel
  refine ⟨?_, regOf_setLanes_self hl, fun r h2 hr => ?_⟩
  · rw [Cohort.handMask, regOf_setLanes_of_ne fun m hm => ?_, regOf_setLanes_self hl]
    rw [hwd, hring]
    exact (regKey_ne_of_lt h48 (by decide) (by decide) (hlane hm) (hlane hl)).symm
  · rw [Cohort.handMask, regOf_setLanes_of_ne fun m hm => ?_, regOf_setLanes_of_ne fun m hm => ?_]
    · exact regKey_ne_of_lt h48 hr (by show 0 < _; omega) (hlane hl) (hlane hm)
    · rw [hwd, hring]
      exact regKey_ne_of_lt h48 hr (by show 1 < _; omega) (hlane hl) (hlane hm)

end Argument

/-! ## Trap entry (R162 to R164) -/

section Entry

variable {s s1 : State} {f : FaultInfo} {cause sub word pc resume vec : Nat} {mid : Bool}

/-- The resumption point of a cohort (R163). -/
def Cohort.resumption (c : Cohort) (pc resume : Nat) (mid : Bool) : Saved :=
  { hdr := resume, mid := mid, words := if mid then c.words else [], idx := if mid then c.idx else 0, clause := c.clause,
    temps := if mid then c.v.regs.filter (fun x => isTemp x.1) else [], sw := c.v.sw, k := c.v.k, jd := c.jd,
    calld := c.calld, trappc := BitVec.ofNat 64 pc }

/-- A cohort that enters its handler, above the frame that a fault has interrupted (R163). -/
def Cohort.enterHandler (c : Cohort) (f : FaultInfo) (pc : Nat) (sv : Saved) : Cohort :=
  { c with
    handler := some sv, jd := 0, calld := 0, pre := none
    v := { c.v with
      trapcause := BitVec.ofNat 16 (256 * f.sub + f.cause), trappc := BitVec.ofNat 64 pc
      wdepth := c.v.wdepth + 48, exec := c.v.live } }

/-- The frame of the handler: its registers are 0. -/
def Cohort.handlerFrame (c : Cohort) (f : FaultInfo) (pc : Nat) (sv : Saved) : Cohort := (c.enterHandler f pc sv).clearRegs 0 48

theorem Cohort.regOf_handlerFrame (c : Cohort) (f : FaultInfo) (pc : Nat) (sv : Saved) (hS : 48 ≤ c.S) {l : Nat} (hl : l < 64)
    (hlive : c.v.live.getLsbD l = true) {r : Reg} (hr : r.toNat < 48) : regOf (c.handlerFrame f pc sv) r l = 0 := by
  rw [regOf_window _ hr]
  have hclear := (c.enterHandler f pc sv).posGet_clearRegs 0 48 (k := r.toNat) (Nat.lt_of_lt_of_le hr hS) hl
  exact hclear.trans (if_pos ⟨Nat.zero_le _, hr, Bool.or_eq_true_iff.mpr (.inl hlive)⟩)

/-- The cohort at its handler's vector, with the exec of the interrupted frame handed over. -/
def Cohort.trapTo (c : Cohort) (f : FaultInfo) (pc vec : Nat) (sv : Saved) : Cohort :=
  ((c.handlerFrame f pc sv).handMask c.v.exec).goto vec

theorem Cohort.trapTo_frame (c : Cohort) (f : FaultInfo) (pc vec : Nat) (sv : Saved) : ∃ regs, c.trapTo f pc vec sv =
    ({ c.enterHandler f pc sv with v := { (c.enterHandler f pc sv).v with regs := regs } } : Cohort).goto vec := by
  obtain ⟨regs, hframe⟩ := (c.handlerFrame f pc sv).handMask_frame c.v.exec
  rw [Cohort.trapTo, hframe]
  exact ⟨_, rfl⟩

/-- The handler's v0, or v0:v1, is the old exec, and its other registers are 0. -/
theorem Cohort.regOf_trapTo (c : Cohort) (f : FaultInfo) (pc vec : Nat) (sv : Saved) {l : Nat} (hl : l ∈ lanesIn c.v.live c.W)
    (hW : c.W ≤ 64) (hS : 48 ≤ c.S) : regOf (c.trapTo f pc vec sv) 0 l = loOf c.v.exec ∧
      regOf (c.trapTo f pc vec sv) 1 l = (if c.W = 64 then hiOf c.v.exec else 0) ∧
      ∀ r : Reg, 2 ≤ r.toNat → r.toNat < 48 → regOf (c.trapTo f pc vec sv) r l = 0 := by
  obtain ⟨h0, h1, hrest⟩ := Cohort.regOf_handMask (c := c.handlerFrame f pc sv) c.v.exec ⟨hS, hW⟩ hl
  obtain ⟨hlW, hlive⟩ := (mem_lanesIn _ _ _).mp hl
  refine ⟨(regOf_goto _ _ _ (by decide)).trans h0, (regOf_goto _ _ _ (by decide)).trans h1, fun r h2 hr => ?_⟩
  exact (regOf_goto _ _ _ hr).trans ((hrest r h2 hr).trans (c.regOf_handlerFrame f pc sv hS (hlW.trans_le hW) hlive hr))

/-- Trap entry where no command is to write registers of the cohort and the spill that it needs has gone well. -/
theorem State.enterTrap_of_open (hr : s.regEntries = []) (ho : s.openWindow 48 = (s1, none)) :
    s.enterTrap f word pc resume mid =
      { s1 with co := s1.co.trapTo f pc s.co.vector (s1.co.resumption pc resume mid), lastFault := some f } := by
  rw [State.enterTrap, hr, Cohort.trapTo, ← Cohort.handMask_eq]
  simp only [List.head?_nil, ho]
  rfl

/-- What a cohort that has come to a handler's vector holds: s1 is the state once the spill has been made. -/
def TrapEntered (s1 : State) (vec cause sub pc hdr : Nat) (mid : Bool) (t : State) : Prop :=
  t.co.v.trapcause = BitVec.ofNat 16 (256 * sub + cause) ∧ t.co.v.trappc = BitVec.ofNat 64 pc ∧
  t.co.v.wdepth = s1.co.v.wdepth + 48 ∧ t.co.v.exec = s1.co.v.live ∧ t.co.jd = 0 ∧ t.co.calld = 0 ∧
  (∃ sv, t.co.handler = some sv ∧ sv.hdr = hdr ∧ sv.mid = mid ∧ sv.trappc = BitVec.ofNat 64 pc ∧ sv.jd = s1.co.jd ∧
    sv.calld = s1.co.calld ∧ sv.sw = s1.co.v.sw ∧ sv.k = s1.co.v.k ∧
    (mid = true → sv.words = s1.co.words ∧ sv.idx = s1.co.idx ∧
      ∀ key, 768 ≤ key → key < 1024 → Tab.get 0 sv.temps key = Tab.get 0 s1.co.v.regs key)) ∧
  At t vec ∧
  (∀ l ∈ lanesIn s1.co.v.live s1.co.W, s1.co.W ≤ 64 → 48 ≤ s1.co.S →
    regOf t.co 0 l = loOf s1.co.v.exec ∧ regOf t.co 1 l = (if s1.co.W = 64 then hiOf s1.co.v.exec else 0) ∧
    ∀ r : Reg, 2 ≤ r.toNat → r.toNat < 48 → regOf t.co r l = 0) ∧
  t.mem = s1.mem ∧ t.cohorts = s1.cohorts

/-- Mid-clause, t0 to t3 are saved. -/
theorem Cohort.resumption_mid (c : Cohort) (pc resume : Nat) (h : mid = true) :
    (c.resumption pc resume mid).words = c.words ∧ (c.resumption pc resume mid).idx = c.idx ∧
      ∀ key, 768 ≤ key → key < 1024 → Tab.get 0 (c.resumption pc resume mid).temps key = Tab.get 0 c.v.regs key := by
  subst h
  refine ⟨rfl, rfl, fun key hlo hhi => ?_⟩
  exact (Tab.get_filter_key 0 isTemp _ key).trans (if_pos (by simp [isTemp, hlo, hhi]))

theorem trapEntered_enterTrap (hr : s.regEntries = []) (ho : s.openWindow 48 = (s1, none)) :
    TrapEntered s1 s.co.vector cause sub pc resume mid (s.enterTrap (flt cause sub) word pc resume mid) := by
  rw [State.enterTrap_of_open hr ho]
  obtain ⟨regs, hframe⟩ := s1.co.trapTo_frame (flt cause sub) pc s.co.vector (s1.co.resumption pc resume mid)
  refine ⟨?_, ?_, ?_, ?_, ?_, ?_, ⟨s1.co.resumption pc resume mid, ?_, rfl, rfl, rfl, rfl, rfl, rfl, rfl, s1.co.resumption_mid pc resume⟩,
    at_goto rfl, fun l hl hW hS => s1.co.regOf_trapTo _ _ _ _ hl hW hS, rfl, rfl⟩
  all_goals
    dsimp only
    rw [hframe]
    rfl

theorem reaches_trap {code : Byte} (hd : s.co.landSfu.delivers 0x03 = true)
    (hr : ({ s with co := s.co.landSfu } : State).regEntries = [])
    (ho : ({ s with co := s.co.landSfu } : State).openWindow 48 = (s1, none)) : Reaches s (.trap code)
      (TrapEntered s1 s.co.landSfu.vector 0x03 code.toNat s.co.landSfu.nextClause s.co.landSfu.nextClause false) := by
  have hraise : s.raise (flt causeSoftTrap code.toNat) = ({ s with co := s.co.landSfu } : State).enterTrap (flt causeSoftTrap code.toNat)
      s.co.wordAddr s.co.landSfu.nextClause s.co.landSfu.nextClause false := by
    rw [State.raise, if_neg (stops_softTrap _).1, State.takeFault]
    exact (if_pos hd).trans (if_pos rfl)
  have hentered := trapEntered_enterTrap (cause := causeSoftTrap) (sub := code.toNat) (word := s.co.wordAddr)
    (pc := s.co.landSfu.nextClause) (resume := s.co.landSfu.nextClause) (mid := false) hr ho
  rw [← hraise] at hentered
  exact ⟨_, exec_trap s code, hentered⟩

theorem reaches_trapEntry {cause sub : Byte} (hd : s.co.landSfu.delivers cause.toNat = true)
    (hr : ({ s with co := s.co.landSfu } : State).regEntries = [])
    (ho : ({ s with co := s.co.landSfu } : State).openWindow 48 = (s1, none)) : Reaches s (.trapEntry cause sub)
      (TrapEntered s1 s.co.landSfu.vector cause.toNat sub.toNat s.co.landSfu.wordAddr s.co.landSfu.hdr s.co.landSfu.mid) := by
  have hentered := trapEntered_enterTrap (cause := cause.toNat) (sub := sub.toNat) (word := s.co.landSfu.wordAddr)
    (pc := s.co.landSfu.wordAddr) (resume := s.co.landSfu.hdr) (mid := s.co.landSfu.mid) hr ho
  exact ⟨_, (exec_trapEntry s cause sub).trans (if_pos hd), hentered⟩

end Entry

/-! ## The return from a handler (R165) -/

section Return

variable {s s1 : State} {sv : Saved}

/-- The mask that a handler returns: its v0, or v0:v1 at W = 64, in the lowest lane that is not exited. -/
def Cohort.returnMask (c : Cohort) : Mask := if c.W = 64 then c.getPair 0 c.lowestLive else (c.get 0 c.lowestLive).setWidth 64

theorem execEret_of_refill (hh : s.co.handler = some sv) (hc : s.co.calld = 0) (hj : s.co.jd = 0)
    (hpc : s.co.v.trappc = sv.trappc ∨ s.co.v.trappc.toNat % 4 = 0) (ho : s.refillTo (s.co.v.wdepth - 48) = (s1, none))
    (hs : s1.co.v.trappc = s.co.v.trappc) : execEret s = .next (s1.leaveTrap s.co.returnMask sv) := by
  have hgood : (s1.co.v.trappc != sv.trappc && s1.co.v.trappc.toNat % 4 != 0) = false := by
    rw [hs]
    rcases hpc with h | h <;> simp [h]
  simp only [execEret, hj, hh, hc, ho, hgood, bne_self_eq_false, Bool.false_eq_true, if_false]
  rfl

/-- The cohort that has left its handler, with the interrupted frame's depth, counts and exec again. -/
def Cohort.leaveHandler (c : Cohort) (e : Mask) (sv : Saved) : Cohort :=
  ({ c with
    handler := none, jd := sv.jd, calld := sv.calld
    v := { c.v with wdepth := c.v.wdepth - 48, sw := sv.sw, k := sv.k } } : Cohort).setExec e

/-- The cohort at the saved point within a clause, its t0 to t3 restored. -/
def Cohort.atWord (c : Cohort) (sv : Saved) : Cohort :=
  { c.goto sv.hdr with
    mid := true, words := sv.words, idx := sv.idx, clause := sv.clause
    v := { (c.goto sv.hdr).v with regs := sv.temps.foldl (fun t x => Tab.set 0 t x.1 x.2) (c.goto sv.hdr).v.regs } }

variable {e : Mask}

theorem State.leaveTrap_chosen (h : s.co.v.trappc ≠ sv.trappc) :
    s.leaveTrap e sv = { s with co := (s.co.leaveHandler e sv).goto s.co.v.trappc.toNat } := if_neg h

theorem State.leaveTrap_word (h : s.co.v.trappc = sv.trappc) (hm : sv.mid = true) :
    s.leaveTrap e sv = { s with co := (s.co.leaveHandler e sv).atWord sv } := (if_pos h).trans (if_pos hm)

theorem State.leaveTrap_clause (h : s.co.v.trappc = sv.trappc) (hm : sv.mid = false) :
    s.leaveTrap e sv = { s with co := (s.co.leaveHandler e sv).goto sv.hdr } :=
  (if_pos h).trans (if_neg (Bool.eq_false_iff.mp hm))

/-- What a cohort that has left its handler holds, wherever it goes on: s is the state once the refill has been made. -/
def HandlerLeft (s : State) (e : Mask) (sv : Saved) (t : State) : Prop :=
  t.co.handler = none ∧ t.co.jd = sv.jd ∧ t.co.calld = sv.calld ∧ t.co.v.sw = sv.sw ∧ t.co.v.k = sv.k ∧
    t.co.v.wdepth = s.co.v.wdepth - 48 ∧ t.co.v.exec = e &&& s.co.v.live &&& BitVec.ofNat 64 (2 ^ s.co.W - 1) ∧
    t.co.v.trapcause = s.co.v.trapcause ∧ t.co.v.trappc = s.co.v.trappc

theorem handlerLeft_leaveTrap (s : State) (e : Mask) (sv : Saved) : HandlerLeft s e sv (s.leaveTrap e sv) := by
  by_cases h : s.co.v.trappc = sv.trappc
  · cases hm : sv.mid with
    | true =>
      rw [State.leaveTrap_word h hm]
      exact ⟨rfl, rfl, rfl, rfl, rfl, rfl, rfl, rfl, rfl⟩
    | false =>
      rw [State.leaveTrap_clause h hm]
      exact ⟨rfl, rfl, rfl, rfl, rfl, rfl, rfl, rfl, rfl⟩
  · rw [State.leaveTrap_chosen h]
    exact ⟨rfl, rfl, rfl, rfl, rfl, rfl, rfl, rfl, rfl⟩

/-- A handler that has left trappc alone returns to the saved point. -/
theorem State.leaveTrap_saved (h : s.co.v.trappc = sv.trappc) :
    (s.leaveTrap e sv).co.hdr = sv.hdr % 2 ^ 64 ∧ (s.leaveTrap e sv).co.mid = sv.mid := by
  cases hm : sv.mid with
  | true =>
    rw [State.leaveTrap_word h hm]
    exact ⟨rfl, rfl⟩
  | false =>
    rw [State.leaveTrap_clause h hm]
    exact ⟨rfl, rfl⟩

/-- Restoring t0 to t3 brings back what was saved of them. -/
theorem Cohort.atWord_temps (c : Cohort) (hok : Tab.ok 0 sv.temps = true) {key : Nat} (hlo : 768 ≤ key) (hhi : key < 1024) :
    Tab.get 0 (c.atWord sv).v.regs key = Tab.get 0 sv.temps key := by
  refine Tab.get_foldl_set (fun y hy hk => ?_) ?_
  · subst hk
    exact (Tab.get_of_mem hok hy).symm
  · rcases Tab.get_eq_or_mem (d := 0) sv.temps key with h0 | h0
    · exact .inl ((c.goto_get _ _).trans ((if_pos ⟨hlo, hhi⟩).trans h0.symm))
    · exact .inr ⟨_, h0, rfl⟩

/-- Within a clause the cohort goes on at the word, with t0 to t3 as saved. -/
theorem State.leaveTrap_mid (h : s.co.v.trappc = sv.trappc) (hm : sv.mid = true) :
    (s.leaveTrap e sv).co.words = sv.words ∧ (s.leaveTrap e sv).co.idx = sv.idx ∧
      (Tab.ok 0 sv.temps = true → ∀ key, 768 ≤ key → key < 1024 →
        Tab.get 0 (s.leaveTrap e sv).co.v.regs key = Tab.get 0 sv.temps key) := by
  rw [State.leaveTrap_word h hm]
  exact ⟨rfl, rfl, fun hok _ hlo hhi => (s.co.leaveHandler e sv).atWord_temps hok hlo hhi⟩

theorem State.at_leaveTrap (h : s.co.v.trappc ≠ sv.trappc) : At (s.leaveTrap e sv) s.co.v.trappc.toNat := by
  rw [State.leaveTrap_chosen h]
  exact at_goto rfl

end Return

/-- Settles O14: entry makes the handler's frame, and the return goes back to the saved point or to a clause of the handler's choice. -/
theorem trapsAndReturns : Obligations.TrapsAndReturns := by
  refine ⟨fun s s1 cause sub code hr ho => ⟨fun hd => reaches_trap hd hr ho, fun hd => reaches_trapEntry hd hr ho⟩, ?_⟩
  intro s s1 sv hh hc hj hpc ho hs
  obtain ⟨hhandler, hjd, hcalld, hsw, hk, hwd, hexec, hcause, htrappc⟩ := handlerLeft_leaveTrap s1 s.co.returnMask sv
  refine ⟨_, (exec_eret s).trans (execEret_of_refill hh hc hj hpc ho hs), hhandler, hjd, hcalld, hsw, hk, hwd, hexec, hcause, htrappc,
    fun h => ?_, fun h => ?_⟩
  · obtain ⟨hhdr, hmid⟩ := State.leaveTrap_saved (e := s.co.returnMask) (hs.trans h)
    refine ⟨hhdr, hmid, fun hm => ?_⟩
    obtain ⟨hwords, hidx, htemps⟩ := State.leaveTrap_mid (e := s.co.returnMask) (hs.trans h) hm
    exact ⟨hwords, hidx, fun _ => htemps⟩
  · exact hs ▸ State.at_leaveTrap (fun he => h (hs.symm.trans he))

end Sys2Proof.Machine

/-!
Divergence (O12). A join record is read as it was pushed, and pushing or popping one moves the window registers with it (R149 to R151).
-/

namespace Sys2Proof.Machine

open Sys2Proof.Claims

/-! ## The join depth after a fault -/

section Depth

variable (s : State)

/-- Trap entry leaves the join depth, or makes it 0 in the handler. -/
theorem State.enterTrap_jd (f : FaultInfo) (word pc resume : Nat) (mid : Bool) :
    (s.enterTrap f word pc resume mid).co.jd = s.co.jd ∨ (s.enterTrap f word pc resume mid).co.jd = 0 := by
  cases hr : s.regEntries with
  | cons e es =>
    rw [State.enterTrap, hr]
    exact .inl (congrArg Cohort.jd (s.waitFor_co _))
  | nil =>
    have hopen := s.openWindow_jd 48
    rcases ho : s.openWindow 48 with ⟨t, _ | g⟩
    · obtain ⟨regs, hframe⟩ := t.co.trapTo_frame f pc s.co.vector (t.co.resumption pc resume mid)
      rw [State.enterTrap_of_open hr ho, hframe]
      exact .inr rfl
    · rw [ho] at hopen
      rw [State.enterTrap, hr]
      simp only [List.head?_nil, ho]
      split
      · exact .inl hopen
      · exact .inl ((t.teamFault_jd g word).trans hopen)

theorem State.raise_jd (f : FaultInfo) (hf : f.cause ≠ 0) : (s.raise f).co.jd = s.co.jd ∨ (s.raise f).co.jd = 0 := by
  rw [State.raise, if_neg hf, State.takeFault]
  rw [← s.co.landSfu_jd]
  dsimp only
  split
  · split <;> exact State.enterTrap_jd _ _ _ _ _ _
  · exact .inl (State.teamFault_jd _ _ _)

end Depth

/-! ## Join records (R149) -/

section Records

variable (c : Cohort)

theorem Cohort.topRecord_goto (pc : Nat) : (c.goto pc).topRecord = c.topRecord := by
  simp only [Cohort.topRecord, Cohort.posGet_goto]
  rfl

/-- A target below 2^64 is held in two lanes. -/
theorem pairOf_ofNat {n : Nat} (h : n < 2 ^ 64) : (pairOf (BitVec.ofNat 32 n) (BitVec.ofNat 32 (n / 2 ^ 32))).toNat = n := by
  rw [← loOf_ofNat, ← hiOf_ofNat, pairOf_halves, BitVec.toNat_ofNat, Nat.mod_eq_of_lt h]

@[simp] theorem Cohort.posSet_S (p l : Nat) (w : Word) : (c.posSet p l w).S = c.S := rfl
@[simp] theorem Cohort.posSet_wdepth (p l : Nat) (w : Word) : (c.posSet p l w).v.wdepth = c.v.wdepth := rfl
@[simp] theorem Cohort.posSet_jd (p l : Nat) (w : Word) : (c.posSet p l w).jd = c.jd := rfl
@[simp] theorem Cohort.posSet_nextClause (p l : Nat) (w : Word) : (c.posSet p l w).nextClause = c.nextClause := rfl
@[simp] theorem Cohort.moveWindow_S (d : Nat) : (c.moveWindow d).S = c.S := rfl
@[simp] theorem Cohort.moveWindow_wdepth (d : Nat) : (c.moveWindow d).v.wdepth = d := rfl
@[simp] theorem Cohort.moveWindow_jd (d : Nat) : (c.moveWindow d).jd = c.jd := rfl
@[simp] theorem Cohort.moveWindow_nextClause (d : Nat) : (c.moveWindow d).nextClause = c.nextClause := rfl

/-- A push moves v0 up by 4, and leaves the place of the cohort. -/
theorem Cohort.pushRecord_frame (r : JoinRec) : (c.pushRecord r).v.wdepth = c.v.wdepth + 4 ∧ (c.pushRecord r).jd = c.jd ∧
    (c.pushRecord r).nextClause = c.nextClause := by
  simp [Cohort.pushRecord]

/-- The record pushed is the top record. -/
theorem Cohort.topRecord_pushRecord {r : JoinRec} (h : r.target < 2 ^ 64) : (c.pushRecord r).topRecord = r := by
  have htarget : (pairOf (BitVec.ofNat 32 r.target) (BitVec.ofNat 32 (r.target / 4294967296))).toNat = r.target := pairOf_ofNat h
  have hjoined : ((if r.joined = true then 2#32 else 1#32) == 2#32) = r.joined := by cases r.joined <;> rfl
  simp [Cohort.topRecord, Cohort.pushRecord, Cohort.posGet_posSet, posKey_lane_inj, pairOf_halves, htarget, hjoined]

theorem Cohort.topRecord_joinRecord : c.joinRecord.topRecord = { c.topRecord with joined := true } := by
  simp [Cohort.topRecord, Cohort.joinRecord, Cohort.posGet_posSet, posKey_lane_inj]

/-- A push keeps the value of every window register (R149). -/
theorem Cohort.posGet_pushRecord (hS : 52 ≤ c.S) (hkeys : ∀ e ∈ c.v.regs, e.1 < (16 + c.S) * 64) (hok : Tab.ok 0 c.v.regs = true)
    (r : JoinRec) {k l : Nat} (hk : k < 48) (hl : l < 64) :
    (c.pushRecord r).posGet (c.v.wdepth + 4 + k) l = c.posGet (c.v.wdepth + k) l := by
  have hne (m : Nat) (hm : m < 64) : posKey c.S (c.v.wdepth + 4 + k) l ≠ posKey c.S c.v.wdepth m :=
    (posKey_ne (by omega) (by omega) hm hl).symm
  simp only [Cohort.pushRecord, Cohort.posGet_posSet, Cohort.posSet_S, Cohort.moveWindow_S]
  simp [hne]
  exact c.posGet_moveWindow (by omega) hkeys hok _ hk hl

end Records

/-! ## BRD (R150) -/

section Brd

variable {s s1 t : State} {u : Bool} {m : Reg} {k : BrCond} {o : BitVec 15}

/-- A cohort with one record more in its frame, and with exec as it goes on. -/
def Cohort.deeper (c : Cohort) (e : Mask) : Cohort := { c with jd := c.jd + 1, v := { c.v with exec := e } }

theorem Cohort.topRecord_deeper (c : Cohort) (e : Mask) : (c.deeper e).topRecord = c.topRecord := rfl
theorem Cohort.posGet_deeper (c : Cohort) (e : Mask) (p l : Nat) : (c.deeper e).posGet p l = c.posGet p l := rfl
theorem Cohort.deeper_frame (c : Cohort) (e : Mask) : (c.deeper e).v.wdepth = c.v.wdepth ∧ (c.deeper e).jd = c.jd + 1 ∧
    (c.deeper e).nextClause = c.nextClause := ⟨rfl, rfl, rfl⟩

/-- The lanes that a BRD takes, and those that it does not. -/
def Cohort.taken (c : Cohort) (m : Reg) (k : BrCond) : Mask := takenSet k (c.branchMask m) c.rd.exec
def Cohort.rest (c : Cohort) (m : Reg) (k : BrCond) : Mask := c.rd.exec &&& ~~~c.taken m k

/-- The cohort of a BRD that every active lane takes, and of one that some do not take: c is as the BRD found it, and c1 as the spill left
it. -/
def Cohort.takeAll (c c1 : Cohort) (o : BitVec 15) : Cohort :=
  ((c1.pushRecord ⟨c.rd.exec, 0, 0, true⟩).deeper c.rd.exec).goto (c.target o)
def Cohort.divide (c c1 : Cohort) (m : Reg) (k : BrCond) (o : BitVec 15) : Cohort :=
  let q := (c1.pushRecord ⟨c.rd.exec, c.taken m k, c.target o, false⟩).deeper (c.rest m k)
  q.goto q.nextClause

theorem Cohort.topRecord_takeAll (c c1 : Cohort) (o : BitVec 15) : (c.takeAll c1 o).topRecord = ⟨c.rd.exec, 0, 0, true⟩ := by
  rw [Cohort.takeAll, Cohort.topRecord_goto, Cohort.topRecord_deeper, Cohort.topRecord_pushRecord _ (Nat.two_pow_pos 64)]

/-- A push at a BRD moves v0 up by 4 and counts a record. -/
theorem Cohort.pushed_frame (c : Cohort) (r : JoinRec) (e : Mask) (pc : Nat) :
    (((c.pushRecord r).deeper e).goto pc).v.wdepth = c.v.wdepth + 4 ∧ (((c.pushRecord r).deeper e).goto pc).jd = c.jd + 1 := by
  obtain ⟨hwd, hjd, -⟩ := c.pushRecord_frame r
  generalize c.pushRecord r = q at hwd hjd ⊢
  exact ⟨hwd, congrArg (· + 1) hjd⟩

theorem Cohort.divide_eq (c c1 : Cohort) (m : Reg) (k : BrCond) (o : BitVec 15) : c.divide c1 m k o =
    ((c1.pushRecord ⟨c.rd.exec, c.taken m k, c.target o, false⟩).deeper (c.rest m k)).goto c1.nextClause := by
  rw [Cohort.divide, (Cohort.deeper_frame _ _).2.2, (c1.pushRecord_frame _).2.2]

theorem Cohort.topRecord_divide (c c1 : Cohort) (m : Reg) (k : BrCond) (o : BitVec 15) :
    (c.divide c1 m k o).topRecord = ⟨c.rd.exec, c.taken m k, c.target o, false⟩ := by
  have htarget : c.target o < 2 ^ 64 := BitVec.isLt _
  rw [Cohort.divide_eq, Cohort.topRecord_goto, Cohort.topRecord_deeper, Cohort.topRecord_pushRecord _ htarget]

/-- Where the active lanes agree, or need not, and there is room for a record, BRD pushes one. -/
theorem execBrd_of_open (hd : s.co.disagree u (s.co.branchMask m) = false) (hl : ¬(s.co.lim < s.co.v.wdepth + 4 ∨ s.co.jd = 65535))
    (ho : s.openWindow 4 = (s1, none)) : execBrd u m k o s =
      .next (if s.co.rest m k = 0 then { s1 with co := s.co.takeAll s1.co o } else { s1 with co := s.co.divide s1.co m k o }) := by
  obtain ⟨hw, hj⟩ := not_or.mp hl
  simp only [execBrd, hd, hw, hj, ho, Bool.false_eq_true, if_false]
  by_cases hrest : s.co.rest m k = 0
  · rw [if_pos hrest]
    have hnone : s.co.rd.exec &&& ~~~takenSet k (s.co.branchMask m) s.co.rd.exec = 0 := hrest
    rw [if_pos hnone, Cohort.takeAll]
    generalize s1.co.pushRecord _ = q
    rfl
  · rw [if_neg hrest]
    have hsome : ¬s.co.rd.exec &&& ~~~takenSet k (s.co.branchMask m) s.co.rd.exec = 0 := hrest
    rw [if_neg hsome, Cohort.divide, Cohort.taken]
    generalize s1.co.pushRecord _ = q
    rfl

/-- A BRD whose spill has gone well pushes a record, or faults. -/
theorem execBrd_cases (ho : s.openWindow 4 = (s1, none)) : (∃ f, f.cause ≠ 0 ∧ execBrd u m k o s = .next (s.raise f)) ∨
    execBrd u m k o s = .next { s1 with co := s.co.takeAll s1.co o } ∨
    execBrd u m k o s = .next { s1 with co := s.co.divide s1.co m k o } := by
  cases hd : s.co.disagree u (s.co.branchMask m) with
  | true => exact .inl ⟨_, (stops_uniformity 1).1, execBrd_of_disagree hd⟩
  | false =>
    by_cases hl : s.co.lim < s.co.v.wdepth + 4 ∨ s.co.jd = 65535
    · exact .inl ⟨_, stops_windowLimit.1, execBrd_of_limit hd hl⟩
    · rw [execBrd_of_open hd hl ho]
      split
      · exact .inr (.inl rfl)
      · exact .inr (.inr rfl)

/-- A BRD that has counted a record has pushed it, and so has kept the window. -/
theorem pushed_of_brd (ho : s.openWindow 4 = (s1, none)) (ht : exec (.brd u m k o) s = .next t) (hjd : t.co.jd = s1.co.jd + 1) :
    ∃ r e pc, t.co = ((s1.co.pushRecord r).deeper e).goto pc := by
  have hopen : s1.co.jd = s.co.jd := by
    have h := s.openWindow_jd 4
    rwa [ho] at h
  rw [exec_brd] at ht
  rcases execBrd_cases (u := u) (m := m) (k := k) (o := o) ho with ⟨f, hf, h⟩ | h | h
  · rw [h] at ht
    cases ht
    rcases s.raise_jd f hf with h | h <;> omega
  · rw [h] at ht
    cases ht
    exact ⟨_, _, _, rfl⟩
  · rw [h] at ht
    cases ht
    exact ⟨_, _, _, s.co.divide_eq s1.co m k o⟩

theorem regOf_of_brd (hkeys : ∀ e ∈ s1.co.v.regs, e.1 < (16 + s1.co.S) * 64) (hok : Tab.ok 0 s1.co.v.regs = true) (hS : 52 ≤ s1.co.S)
    (ho : s.openWindow 4 = (s1, none)) (ht : exec (.brd u m k o) s = .next t) (hjd : t.co.jd = s1.co.jd + 1) (r : Reg) (l : Nat)
    (hr : r.toNat < 48) (hl : l < 64) : regOf t.co r l = regOf s1.co r l := by
  obtain ⟨rec, e, pc, hco⟩ := pushed_of_brd ho ht hjd
  rw [hco, regOf_goto _ _ _ hr, regOf_window _ hr, regOf_window _ hr, Cohort.posGet_deeper,
    (Cohort.deeper_frame _ e).1, (s1.co.pushRecord_frame rec).1]
  exact s1.co.posGet_pushRecord hS hkeys hok rec hr hl

theorem reaches_brd (hu : u = true → s.co.branchMask m = 0 ∨ s.co.branchMask m = s.co.rd.exec)
    (hw : s.co.v.wdepth + 4 ≤ s.co.lim) (hj : s.co.jd < 65535) (ho : s.openWindow 4 = (s1, none)) :
    Reaches s (.brd u m k o) (fun t => t.co.v.wdepth = s1.co.v.wdepth + 4 ∧ t.co.jd = s1.co.jd + 1 ∧
      (s.co.rest m k = 0 → At t (s.co.target o) ∧ t.co.v.exec = s.co.rd.exec ∧
        t.co.topRecord.joined = true ∧ t.co.topRecord.restore = s.co.rd.exec) ∧
      (s.co.rest m k ≠ 0 → At t s1.co.nextClause ∧ t.co.v.exec = s.co.rest m k ∧
        t.co.topRecord = ⟨s.co.rd.exec, s.co.taken m k, s.co.target o, false⟩)) := by
  have hexec := (exec_brd s u m k o).trans (execBrd_of_open (k := k) (o := o) (Cohort.disagree_of_agree hu) (by omega) ho)
  by_cases hrest : s.co.rest m k = 0
  · obtain ⟨hwd, hjd⟩ := s1.co.pushed_frame ⟨s.co.rd.exec, 0, 0, true⟩ s.co.rd.exec (s.co.target o)
    have htop := s.co.topRecord_takeAll s1.co o
    refine ⟨_, hexec.trans (congrArg _ (if_pos hrest)), hwd, hjd, fun _ => ⟨at_goto rfl, rfl, ?_, ?_⟩, fun h => absurd hrest h⟩
    · exact congrArg JoinRec.joined htop
    · exact congrArg JoinRec.restore htop
  · obtain ⟨hwd, hjd⟩ := s1.co.pushed_frame ⟨s.co.rd.exec, s.co.taken m k, s.co.target o, false⟩ (s.co.rest m k) s1.co.nextClause
    have htop := s.co.topRecord_divide s1.co m k o
    rw [Cohort.divide_eq] at hexec htop
    exact ⟨_, hexec.trans (congrArg _ (if_neg hrest)), hwd, hjd, fun h => absurd h hrest, fun _ => ⟨at_goto rfl, rfl, htop⟩⟩

end Brd

/-! ## JOIN (R151) -/

section Join

variable {s s1 : State}

/-- A target that is no multiple of 4 stops a cohort whose handler does not take the fault (R38). -/
theorem State.raise_misaligned (s : State) (target : Nat) (hd : s.co.landSfu.delivers 0x04 = false) :
    (s.raise { flt causeMisaligned 0 with addr := target }).lastFault = some { flt 0x04 0 with addr := target } ∧
      (s.raise { flt causeMisaligned 0 with addr := target }).co.halted = true := by
  obtain ⟨h0, hl, hb⟩ := stops_misaligned target
  obtain ⟨hfault, hhalted, -⟩ := s.raise_stops _ h0 hb hl hd
  exact ⟨hfault, hhalted⟩

/-- JOIN once its record is resident. -/
theorem execJoin_of_refill (hj : s.co.jd ≠ 0) (ho : s.refillTo (s.co.v.wdepth - 4) = (s1, none)) : execJoin s =
    if s1.co.topRecord.joined then
      .next { s1 with co := ({ s1.co.popRecord with jd := s1.co.jd - 1 }).setExec s1.co.topRecord.restore }.fall
    else if s1.co.topRecord.target % 4 != 0 then .next (s1.raise { flt causeMisaligned 0 with addr := s1.co.topRecord.target })
    else .next ({ s1 with co := s1.co.joinRecord.setExec s1.co.topRecord.pending }.jump s1.co.topRecord.target) := by
  simp only [execJoin, hj, ho, if_false]

theorem Cohort.topRecord_setExec (c : Cohort) (m : Mask) : (c.setExec m).topRecord = c.topRecord := rfl

/-- The masks of a record count for the lanes that have not exited (R28). -/
def Cohort.cut (c : Cohort) (m : Mask) : Mask := m &&& c.v.live &&& BitVec.ofNat 64 (2 ^ c.W - 1)

theorem reaches_join (hj : s.co.jd ≠ 0) (ho : s.refillTo (s.co.v.wdepth - 4) = (s1, none)) : let r := s1.co.topRecord
    Reaches s .join (fun t =>
      (r.joined = false → r.target % 4 = 0 → At t r.target ∧ t.co.v.exec = s1.co.cut r.pending ∧ t.co.jd = s1.co.jd ∧
        t.co.v.wdepth = s1.co.v.wdepth ∧ t.co.topRecord = { r with joined := true }) ∧
      (r.joined = true → At t s1.co.nextClause ∧ t.co.v.exec = s1.co.cut r.restore ∧ t.co.jd = s1.co.jd - 1 ∧
        t.co.v.wdepth = s1.co.v.wdepth - 4) ∧
      (r.joined = false → r.target % 4 ≠ 0 → s1.co.landSfu.delivers 0x04 = false →
        t.lastFault = some { flt 0x04 0 with addr := r.target } ∧ t.co.halted = true)) := by
  intro r
  have hexec := (exec_join s).trans (execJoin_of_refill hj ho)
  cases hjoined : r.joined with
  | true =>
    refine ⟨_, hexec.trans (if_pos hjoined), nofun, fun _ => ?_, nofun⟩
    exact ⟨at_goto rfl, rfl, rfl, rfl⟩
  | false =>
    have hopen := hexec.trans (if_neg (Bool.eq_false_iff.mp hjoined))
    by_cases ht : r.target % 4 = 0
    · refine ⟨_, hopen.trans (if_neg (by simp [r, ht])), fun _ _ => ?_, nofun, fun _ h => absurd ht h⟩
      refine ⟨at_goto rfl, rfl, rfl, rfl, ?_⟩
      exact (Cohort.topRecord_goto _ _).trans ((Cohort.topRecord_setExec _ _).trans s1.co.topRecord_joinRecord)
    · refine ⟨_, hopen.trans (if_pos (bne_iff_ne.mpr ht)), fun _ h => absurd h ht, nofun, fun _ _ hd => ?_⟩
      exact s1.raise_misaligned r.target hd

end Join

/-- Settles O12: BRD pushes the record that JOIN then takes up, and the window moves with it. -/
theorem divergenceAndJoin : Obligations.DivergenceAndJoin := by
  refine ⟨fun s s1 u m k o hk => ?_, fun s s1 t u m k o => regOf_of_brd, fun s s1 hj ho => reaches_join hj ho⟩
  intro c x taken rest target hu hw hj _ ho
  have htarget : s.co.target o = target := s.co.target_eq o
  have htaken : s.co.taken m k = taken := by cases k <;> rfl
  have hbrd := reaches_brd (k := k) (o := o) hu hw hj ho
  rw [htarget, Cohort.rest, htaken] at hbrd
  exact hbrd

end Sys2Proof.Machine

/-!
Calls and returns (O13). A call writes its link group below the new v0, slides the window over the caller's registers and clears what comes
into it (R159); a return reads the group back (R160).
-/

namespace Sys2Proof.Machine

open Sys2Proof.Claims

/-! ## The link group (R159) -/

section Link

variable (c : Cohort) {i j k n l ret : Nat}

theorem toNat_code (h : j < 48) : (BitVec.ofNat 6 j).toNat = j := by
  rw [BitVec.toNat_ofNat, Nat.mod_eq_of_lt (by omega)]

/-- What the positions from v0 up hold after window register j has been written in some lanes. -/
theorem Cohort.posGet_setLanes (hS : 48 ≤ c.S) (hj : j < 48) (f : Nat → Word) {ls : List Nat} (hls : ∀ m ∈ ls, m < 64) (hi : i < c.S)
    (hl : l < 64) : (c.setLanes (BitVec.ofNat 6 j) f ls).posGet (c.v.wdepth + i) l =
      if i = j ∧ l ∈ ls then f l else c.posGet (c.v.wdepth + i) l := by
  have hcode := toNat_code hj
  by_cases h : i = j ∧ l ∈ ls
  · obtain ⟨rfl, hmem⟩ := h
    rw [if_pos ⟨rfl, hmem⟩]
    have := c.posGet_setLanes_self (r := BitVec.ofNat 6 i) (hcode.trans_lt hj) f hmem
    rwa [hcode] at this
  · rw [if_neg h]
    refine c.posGet_setLanes_of_ne (hcode.trans_lt hj) f fun m hm => ?_
    rw [hcode]
    rcases Nat.lt_trichotomy i j with hij | rfl | hij
    · exact posKey_ne (by omega) (by omega) hl (hls m hm)
    · exact fun he => h ⟨rfl, ((posKey_inj hl (hls m hm)).mp he).2 ▸ hm⟩
    · exact (posKey_ne (by omega) (by omega) (hls m hm) hl).symm

theorem Cohort.link_frame (k ret : Nat) : ∃ regs, c.link k ret = { c with v := { c.v with regs := regs } } := by
  simp only [Cohort.link, Cohort.setLanes_eq]
  exact ⟨_, rfl⟩

/-- The link group lies in the four positions below the new v0, in the active and inactive lanes; other positions keep their values. -/
theorem Cohort.posGet_link (hS : Shape c) (hk4 : 4 ≤ k) (hk : k < 48) (ret : Nat) (hi : i < c.S) (hl : l < 64) :
    (c.link k ret).posGet (c.v.wdepth + i) l =
      if i = k - 1 ∧ l ∈ c.livel then 0
      else if i = k - 2 ∧ l ∈ c.livel then BitVec.ofNat 32 c.jd
      else if i = k - 3 ∧ l ∈ c.livel then BitVec.ofNat 32 (ret / 2 ^ 32 % 2 ^ 25 + k / 4 * 2 ^ 25)
      else if i = k - 4 ∧ l ∈ c.livel then BitVec.ofNat 32 ret
      else c.posGet (c.v.wdepth + i) l := by
  have hlive : ∀ m ∈ c.livel, m < 64 := fun m hm => ((mem_lanesIn _ _ _).mp hm).1.trans_le hS.2
  have write (q : Cohort) (hq : q.v.wdepth = c.v.wdepth ∧ q.S = c.S) (j : Nat) (hj : j < 48) (f : Nat → Word) :
      (q.setLanes (BitVec.ofNat 6 j) f c.livel).posGet (c.v.wdepth + i) l =
        if i = j ∧ l ∈ c.livel then f l else q.posGet (c.v.wdepth + i) l := by
    rw [← hq.1]
    exact q.posGet_setLanes (hq.2.symm ▸ hS.1) hj f hlive (hq.2.symm ▸ hi) hl
  have shape (q : Cohort) (hq : q.v.wdepth = c.v.wdepth ∧ q.S = c.S) (r : Reg) (f : Nat → Word) :
      (q.setLanes r f c.livel).v.wdepth = c.v.wdepth ∧ (q.setLanes r f c.livel).S = c.S := by
    obtain ⟨hwd, hring⟩ := q.setLanes_shape r f c.livel
    exact ⟨hwd.trans hq.1, hring.trans hq.2⟩
  have h4 := shape c ⟨rfl, rfl⟩ (BitVec.ofNat 6 (k - 4)) (fun _ => BitVec.ofNat 32 ret)
  have h3 := shape _ h4 (BitVec.ofNat 6 (k - 3)) (fun _ => BitVec.ofNat 32 (ret / 2 ^ 32 % 2 ^ 25 + k / 4 * 2 ^ 25))
  have h2 := shape _ h3 (BitVec.ofNat 6 (k - 2)) (fun _ => BitVec.ofNat 32 c.jd)
  rw [Cohort.link, write _ h2 (k - 1) (by omega), write _ h3 (k - 2) (by omega), write _ h4 (k - 3) (by omega),
    write c ⟨rfl, rfl⟩ (k - 4) (by omega)]

end Link

/-! ## The callee (R159) -/

section Callee

variable (c : Cohort) {i x k n l : Nat}

/-- The cohort of a callee whose window lies k registers above that of its caller. -/
def Cohort.slide (c : Cohort) (k : Nat) : Cohort :=
  { c with jd := 0, calld := c.calld + 1, v := { c.v with wdepth := c.v.wdepth + k } }

/-- The cohort at the start of a callee: the link group is written, and the registers that come into the window are 0. -/
def Cohort.callee (c : Cohort) (k ret : Nat) : Cohort := ((c.link k ret).slide k).clearRegs (48 - k) 48

theorem Cohort.callee_frame (k ret : Nat) : ∃ regs, c.callee k ret =
    { c with jd := 0, calld := c.calld + 1, v := { c.v with wdepth := c.v.wdepth + k, regs := regs } } := by
  obtain ⟨regs, h⟩ := c.link_frame k ret
  rw [Cohort.callee, h]
  exact ⟨_, rfl⟩

/-- The ring of the callee: the positions of its new registers are 0 in the lanes that are not exited, the others are as the link left
them. -/
theorem Cohort.posGet_callee (ret : Nat) (hx : x < c.S) (hl : l < 64) : (c.callee k ret).posGet (c.v.wdepth + k + x) l =
    if 48 - k ≤ x ∧ x < 48 ∧ (c.v.live.getLsbD l || !c.launched.getLsbD l) = true then 0
    else (c.link k ret).posGet (c.v.wdepth + k + x) l := by
  obtain ⟨regs, h⟩ := c.link_frame k ret
  rw [Cohort.callee, h]
  exact Cohort.posGet_clearRegs (Cohort.slide { c with v := { c.v with regs := regs } } k) (48 - k) 48 hx hl

theorem Cohort.posGet_add_ring (p l : Nat) : c.posGet (p + c.S) l = c.posGet p l := by
  rw [Cohort.posGet, posKey_add_ring, Cohort.posGet]

/-- The link group is not cleared: it lies a whole ring less 4 positions above the new v0. -/
theorem Cohort.posGet_callee_below (hS : 52 ≤ c.S) (ret : Nat) (hi : 1 ≤ i) (hi4 : i ≤ 4) (hk : 4 ≤ k) (hl : l < 64) :
    (c.callee k ret).posGet (c.v.wdepth + k - i) l = (c.link k ret).posGet (c.v.wdepth + (k - i)) l := by
  obtain ⟨regs, hcallee⟩ := c.callee_frame k ret
  obtain ⟨regs', hlink⟩ := c.link_frame k ret
  have hring : (c.callee k ret).S = c.S ∧ (c.link k ret).S = c.S := by
    rw [hcallee, hlink]
    exact ⟨rfl, rfl⟩
  have hpos : c.v.wdepth + k - i + c.S = c.v.wdepth + k + (c.S - i) := by omega
  rw [← Cohort.posGet_add_ring, hring.1, hpos, c.posGet_callee ret (by omega) hl, if_neg (by omega), ← hpos]
  rw [← hring.2, Cohort.posGet_add_ring, Nat.add_sub_assoc (by omega)]

theorem Cohort.regOf_callee (hx : x < 48) (ret pc : Nat) :
    regOf ((c.callee k ret).goto pc) (BitVec.ofNat 6 x) l = (c.callee k ret).posGet (c.v.wdepth + k + x) l := by
  obtain ⟨regs, hcallee⟩ := c.callee_frame k ret
  have hcode := toNat_code hx
  rw [regOf_goto _ _ _ (hcode.trans_lt hx), regOf_window _ (hcode.trans_lt hx), hcode, hcallee]

/-- The callee's v0 to v(47 - k) are the caller's vk to v47. -/
theorem Cohort.regOf_callee_kept (hS : Shape c) (hk : 4 ≤ k) (hx : x + k < 48) (ret pc : Nat) (hl : l < 64) :
    regOf ((c.callee k ret).goto pc) (BitVec.ofNat 6 x) l = regOf c (BitVec.ofNat 6 (x + k)) l := by
  obtain ⟨h48, hW⟩ := hS
  have hcode := toNat_code hx
  rw [regOf_window _ (hcode.trans_lt hx), hcode, c.regOf_callee (by omega), c.posGet_callee ret (by omega) hl, if_neg (by omega),
    Nat.add_assoc, Nat.add_comm k x, c.posGet_link ⟨h48, hW⟩ hk (by omega) ret (by omega) hl, if_neg (by omega), if_neg (by omega),
    if_neg (by omega), if_neg (by omega)]

/-- The link group of a call with a shift of 4 * n registers. -/
theorem Cohort.linkGroup_callee (h1 : 1 ≤ n) (h11 : n ≤ 11) (hS : 52 ≤ c.S) (hW : c.W ≤ 64) (ret : Nat) (hl : l ∈ c.livel) :
    (c.callee (4 * n) ret).posGet (c.v.wdepth + 4 * n - 4) l = BitVec.ofNat 32 ret ∧
    (c.callee (4 * n) ret).posGet (c.v.wdepth + 4 * n - 3) l = BitVec.ofNat 32 (ret / 2 ^ 32 % 2 ^ 25 + n * 2 ^ 25) ∧
    (c.callee (4 * n) ret).posGet (c.v.wdepth + 4 * n - 2) l = BitVec.ofNat 32 c.jd ∧
    (c.callee (4 * n) ret).posGet (c.v.wdepth + 4 * n - 1) l = 0 := by
  have hl64 : l < 64 := ((mem_lanesIn _ _ _).mp hl).1.trans_le hW
  have below (i : Nat) (hi : 1 ≤ i) (hi4 : i ≤ 4) := c.posGet_callee_below hS ret hi hi4 (k := 4 * n) (by omega) hl64
  have link (i : Nat) (hi : i < 48) := c.posGet_link ⟨by omega, hW⟩ (k := 4 * n) (by omega) (by omega) ret (i := i) (by omega) hl64
  rw [below 4 (by omega) (by omega), below 3 (by omega) (by omega), below 2 (by omega) (by omega), below 1 (by omega) (by omega),
    link _ (by omega), link _ (by omega), link _ (by omega), link _ (by omega), Nat.mul_div_cancel_left n (by decide)]
  refine ⟨?_, ?_, ?_, if_pos ⟨rfl, hl⟩⟩
  · rw [if_neg (by omega), if_neg (by omega), if_neg (by omega), if_pos ⟨rfl, hl⟩]
  · rw [if_neg (by omega), if_neg (by omega), if_pos ⟨rfl, hl⟩]
  · rw [if_neg (by omega), if_pos ⟨rfl, hl⟩]

end Callee

/-! ## CALL and CALLX (R158, R159) -/

section Call

variable {s s1 : State} {u : Bool} {n : Nat} {o : BitVec 15} {a : Reg} {target k : Nat}

theorem State.callTo_of_open (hl : s.co.v.wdepth + k ≤ s.co.lim) (ho : s.openWindow k = (s1, none)) :
    s.callTo k target = .next { s1 with co := (s1.co.callee k s1.co.nextClause).goto target } := by
  rw [State.callTo, if_neg (Nat.not_lt.mpr hl)]
  simp only [ho]
  rfl

/-- The cohort has been called at a target, with a shift of 4 * n registers: s1 is the state once the spill has been made. -/
def Called (s1 : State) (n target : Nat) (t : State) : Prop :=
  At t target ∧ t.co.v.wdepth = s1.co.v.wdepth + 4 * n ∧ t.co.jd = 0 ∧ t.co.calld = s1.co.calld + 1 ∧ t.co.v.exec = s1.co.v.exec ∧
  (∀ l ∈ s1.co.livel, t.co.posGet (s1.co.v.wdepth + 4 * n - 4) l = BitVec.ofNat 32 s1.co.nextClause ∧
    t.co.posGet (s1.co.v.wdepth + 4 * n - 3) l = BitVec.ofNat 32 (s1.co.nextClause / 2 ^ 32 % 2 ^ 25 + n * 2 ^ 25) ∧
    t.co.posGet (s1.co.v.wdepth + 4 * n - 2) l = BitVec.ofNat 32 s1.co.jd ∧ t.co.posGet (s1.co.v.wdepth + 4 * n - 1) l = 0) ∧
  (∀ (r : Nat) (l : Nat), r + 4 * n < 48 → l < 64 →
    regOf t.co (BitVec.ofNat 6 r) l = regOf s1.co (BitVec.ofNat 6 (r + 4 * n)) l) ∧
  (∀ (r : Nat) (l : Nat), 48 - 4 * n ≤ r → r < 48 → l < 64 → (s1.co.v.live.getLsbD l || !s1.co.launched.getLsbD l) = true →
    regOf t.co (BitVec.ofNat 6 r) l = 0)

theorem called_callee (h1 : 1 ≤ n) (h11 : n ≤ 11) (hS : 52 ≤ s1.co.S) (hW : s1.co.W ≤ 64) (target : Nat) :
    Called s1 n target { s1 with co := (s1.co.callee (4 * n) s1.co.nextClause).goto target } := by
  obtain ⟨regs, hframe⟩ := s1.co.callee_frame (4 * n) s1.co.nextClause
  have hshape : Shape s1.co := ⟨by omega, hW⟩
  refine ⟨at_goto rfl, ?_, ?_, ?_, ?_, fun l hl => ?_, fun r l hr hl => ?_, fun r l hr hr48 hl hout => ?_⟩
  iterate 4
    rw [hframe]
    rfl
  · simp only [Cohort.posGet_goto]
    exact s1.co.linkGroup_callee h1 h11 hS hW s1.co.nextClause hl
  · exact s1.co.regOf_callee_kept hshape (by omega) hr s1.co.nextClause target hl
  · exact (s1.co.regOf_callee hr48 _ _).trans ((s1.co.posGet_callee _ (by omega) hl).trans (if_pos ⟨hr, hr48, hout⟩))

theorem reaches_call (h1 : 1 ≤ n) (h11 : n ≤ 11) (hS : 52 ≤ s1.co.S) (hW : s1.co.W ≤ 64) (hl : s.co.v.wdepth + 4 * n ≤ s.co.lim)
    (ho : s.openWindow (4 * n) = (s1, none)) :
    Reaches s (.call u (BitVec.ofNat 6 n) o) (Called s1 n (BitVec.ofInt 64 (s.co.hdr + 4 * o.toInt)).toNat) := by
  refine ⟨_, ?_, called_callee h1 h11 hS hW _⟩
  rw [exec_call, execCall, toNat_code (by omega), ← Cohort.target_eq]
  exact State.callTo_of_open hl ho

theorem reaches_callx (h1 : 1 ≤ n) (h11 : n ≤ 11) (hS : 52 ≤ s1.co.S) (hW : s1.co.W ≤ 64) (hl : s.co.v.wdepth + 4 * n ≤ s.co.lim)
    (ho : s.openWindow (4 * n) = (s1, none)) (ht : (s.co.ugetPair a).toNat % 4 = 0)
    (ha : u = true → ∀ l ∈ s.co.active, s.co.getPair a l = s.co.ugetPair a) :
    Reaches s (.callx u a (BitVec.ofNat 5 n)) (Called s1 n (s.co.ugetPair a).toNat) := by
  have h5 : (BitVec.ofNat 5 n).toNat = n := by rw [BitVec.toNat_ofNat, Nat.mod_eq_of_lt (by omega)]
  refine ⟨_, ?_, called_callee h1 h11 hS hW _⟩
  rw [exec_callx, execCallx, s.co.indirect_of_agree ha, if_neg (not_not.mpr ht)]
  dsimp only
  rw [h5]
  exact State.callTo_of_open hl ho

end Call

/-! ## RET (R160) -/

section Ret

variable {s s2 : State}

/-- RET once its link group and the caller's frame are resident. -/
theorem execRet_of_refill (hj : s.co.jd = 0) (hc : s.co.calld ≠ 0) (ho : s.refillLink = (s2, none)) : execRet s =
    if s2.co.linkOf.1 % 4 != 0 then .next (s2.raise { flt causeMisaligned 0 with addr := s2.co.linkOf.1 })
    else .next ({ s2 with co := { s2.co with
      jd := s2.co.linkOf.2.2, calld := s2.co.calld - 1
      v := { s2.co.v with wdepth := s2.co.v.wdepth - s2.co.linkOf.2.1 } } }.jump s2.co.linkOf.1) := by
  simp only [execRet, hj, hc, ho, bne_self_eq_false, Bool.false_eq_true, if_false]

/-- A return address is a multiple of 4 when its low word is: it is extended from bit 56. -/
theorem signExtend_mod_four (hi lo : Nat) :
    ((BitVec.ofNat 57 (hi * 2 ^ 32 + lo)).signExtend 64).toNat % 4 = lo % 4 := by
  rw [BitVec.toNat_signExtend, BitVec.toNat_setWidth, BitVec.toNat_ofNat]
  split <;> omega

theorem Cohort.linkOf_mod_four (c : Cohort) : c.linkOf.1 % 4 = (c.posGet (c.v.wdepth - 4) c.lowestLive).toNat % 4 :=
  signExtend_mod_four _ _

theorem reaches_ret (hj : s.co.jd = 0) (hc : s.co.calld ≠ 0) (ho : s.refillLink = (s2, none))
    (ht : (s2.co.posGet (s2.co.v.wdepth - 4) s2.co.lowestLive).toNat % 4 = 0) : Reaches s .ret (fun t =>
      At t s2.co.linkOf.1 ∧ t.co.jd = s2.co.linkOf.2.2 ∧ t.co.v.wdepth = s2.co.v.wdepth - s2.co.linkOf.2.1 ∧
      t.co.calld = s2.co.calld - 1 ∧ t.co.v.exec = s2.co.v.exec ∧
      ∀ key, 1024 ≤ key → Tab.get 0 t.co.v.regs key = Tab.get 0 s2.co.v.regs key) := by
  have hexec := (exec_ret s).trans (execRet_of_refill hj hc ho)
  rw [s2.co.linkOf_mod_four, ht] at hexec
  exact ⟨_, hexec, at_goto rfl, rfl, rfl, rfl, rfl, fun _ hkey => Cohort.goto_get_ring _ _ hkey⟩

theorem reaches_ret_misaligned (hj : s.co.jd = 0) (hc : s.co.calld ≠ 0) (ho : s.refillLink = (s2, none))
    (ht : (s2.co.posGet (s2.co.v.wdepth - 4) s2.co.lowestLive).toNat % 4 ≠ 0) (hd : s2.co.landSfu.delivers 0x04 = false) :
    Reaches s .ret (fun t => t.lastFault = some { flt 0x04 0 with addr := s2.co.linkOf.1 } ∧ t.co.halted = true) := by
  have hexec := (exec_ret s).trans (execRet_of_refill hj hc ho)
  rw [s2.co.linkOf_mod_four] at hexec
  exact ⟨_, hexec.trans (if_pos (bne_iff_ne.mpr ht)), s2.raise_misaligned _ hd⟩

end Ret

/-- Settles O13: a call makes the callee's cohort, whose link group the return reads. -/
theorem callsAndReturns : Obligations.CallsAndReturns := by
  refine ⟨fun s s1 u n o a h1 h11 hS hW => ?_, fun s s2 hj hc ho => ?_⟩
  · intro c k ret p called hl ho
    exact ⟨reaches_call h1 h11 hS hW hl ho, reaches_callx h1 h11 hS hW hl ho⟩
  · exact ⟨reaches_ret hj hc ho, reaches_ret_misaligned hj hc ho⟩

end Sys2Proof.Machine

/-!
Three claims about lane memory that fail (O17, O21, O23), each in a state that the machine does not come to by itself but that the claim
admits: a line of an L1 that does not hold 64 bytes, and a parked cohort whose word begins below the control range and ends in it.
-/

namespace Sys2Proof.Machine

open Sys2Proof.Claims

/-! ## A line of the L1 that does not hold 64 bytes -/

/-- A line with every sector valid, and with no bytes. -/
def emptyLine : L1Line := { L1Line.init with valid := 15, data := [] }

/-- Lane 0 of a cohort is to store register 2, which holds 1, at address 0x3000; a page table maps every low address to itself, and the core
holds the line as one with no bytes. -/
def storesToEmptyLine : State :=
  { State.reset with
    mem := [(0x1000, 0x01), (0x1001, 0x08), (0x2000, 0xDF)]
    ctxs := [(0, { Ctx.init with root := 0xA000000000000001 })]
    cores := [(0, { Core.init with l1 := [(0xC0, emptyLine)] })]
    co := { Cohort.init with v := { View.init with exec := 1, regs := [(regKey 0 64 2 0, 1)] } } }

/-- The byte that the store is to: its page is normal memory. -/
def storedByte : Resolved :=
  { pas := [0x3000], next := none
    leaf := some { pa := 0x3000, r := true, w := true, x := true, u := true, pbmt := 0, so := false, efmt := 0, bgeo := 0, size := 4,
                   mig := false, dirty := true } }

/-- The store's access, resolved. -/
def storeResolved : State × Except FaultInfo (List (Nat × Nat × Resolved)) :=
  resolveLanes storesToEmptyLine.co .plain (sizeBytes .b) .write false
    (storesToEmptyLine.co.active.map (fun l => (l, storesToEmptyLine.co.laneAddr 0 0 (some 0x3000) l))) storesToEmptyLine

theorem storeResolved_eq : storeResolved = (storeResolved.1, .ok [(0, 0x3000, storedByte)]) := by decide +kernel

theorem quiet_storeResolved : Quiet storeResolved.1 := by decide +kernel

/-- What core 0 reads at 0x3000 in the next state. -/
def nearNext : Out → Option Byte
  | .next q => some (q.nearByte 0 0x3000)
  | .fault _ | .refused _ => none

theorem nearNext_storesToEmptyLine : nearNext (exec (.st false 2 0 0 .b (some 0x3000)) storesToEmptyLine) = some 0 := by decide +kernel

/-- Refutes O17: a core that holds a line as one of no bytes does not have the byte 1 that its cohort has stored to the line: it reads 0
there. That a line of the L1 holds 64 bytes is asked of a load (Agrees), but not of a store (Quiet). -/
theorem not_storesPerform : ¬ Obligations.StoresPerform := by
  intro h
  obtain ⟨q, hq, -, -, -, near⟩ :=
    (h storesToEmptyLine storeResolved.1 [(0, 0x3000, storedByte)] false 2 0 0 .b (some 0x3000)).1.1 storeResolved_eq
  have stored := near quiet_storeResolved (by decide) 0x3000
  have read : nearNext (.next q) = some 0 := hq ▸ nearNext_storesToEmptyLine
  rw [nearNext, Option.some_inj, show (0 : Nat) = storesToEmptyLine.co.core from rfl, stored] at read
  exact absurd read (by decide +kernel)

/-- The last byte below the control range (R394, R395): a word that begins here does not begin in the range, and lies in it but for one byte. -/
def lastBelow : Nat := 0x3EFFFFFFFFFF

/-- A cohort that has parked at a word, in a machine that is as after reset but for the byte at which the control range begins. -/
def parkedBelow (w : Wait) (x : Byte) : State :=
  { State.reset with mem := [(0x3F0000000000, x)], co := { Cohort.init with wait := some w } }

/-- What a read of the 8 bytes from there finds: the byte of memory, and seven that no register gives. -/
def straddlingWord : DWord := BitVec.ofNat 64 (leNat (0 :: (List.range 7).map (fun i => Config.deviceByte 0 (0x3F0000000000 + i))))

section Parked

variable (w : Wait) (x : Byte)

theorem waitWord_parkedBelow :
    (parkedBelow w x).waitWord (parkedBelow w x).co false lastBelow true = (parkedBelow w x, straddlingWord) := rfl

theorem quiet_parkedBelow : Quiet (parkedBelow w x) := ⟨by simp [parkedBelow, State.core, State.reset, Tab.get, Core.init],
  by simp [parkedBelow, State.cluster, State.reset, Tab.get, Cluster.init], rfl⟩

theorem heldBy_parkedBelow : (parkedBelow w x).heldBy (wordAt lastBelow 8).pas false = none := rfl

theorem poisonRead_parkedBelow : (parkedBelow w x).poisonRead (parkedBelow w x).co.core .plain true 0 (wordAt lastBelow 8) = none := rfl

/-- As the home slices hold it, the word is the byte at which the control range begins, shifted by one byte. -/
theorem bytes_parkedBelow : leNat ((parkedBelow w x).bytes lastBelow 8) = 256 * x.toNat := by
  simp [State.bytes, State.byte, parkedBelow, lastBelow, leNat, Tab.get, List.range_succ, memDefault]

/-- The parked cohort reads its word again: nothing holds it, and it is not poisoned. -/
theorem reread_parkedBelow (hw : w.word = some (0, lastBelow, 8)) (k : Cohort → Wait → State → State) :
    (parkedBelow w x).reread 0 k = k (parkedBelow w x).co w (parkedBelow w x) := by
  have hc : (parkedBelow w x).cohort? 0 = some (parkedBelow w x).co := rfl
  have hwait : (parkedBelow w x).co.wait = some w := rfl
  simp only [State.reread, hc, hwait, hw, heldBy_parkedBelow, poisonRead_parkedBelow]

end Parked

/-- The end of a wait of the focused cohort. -/
theorem State.wakeAt_co (s : State) (pa : Nat) (d : Reg) (status : Nat) : (s.wakeAt s.co pa d status).co = s.co.wake d status := by
  have hid : (s.dropLines s.co.core [pa / 64]).co.id = (s.co.wake d status).id := by
    rw [(backstage_dropLines s s.co.core [pa / 64]).co, Cohort.wake, Cohort.uniform, Cohort.setLanes_eq]
  rw [State.wakeAt, State.setCohort, if_pos hid]

/-- The cohort parks with a WAITA until the word is 0. -/
def waitsForZero (x : Byte) : State := parkedBelow (.waita 0 lastBelow true .eq 0 0 none) x

/-- It is woken by the word that its read finds, whatever memory holds. -/
theorem exec_waitaWake_waitsForZero (x : Byte) : exec (.waitaWake 0) (waitsForZero x) =
    .next (if straddlingWord = 0 then (waitsForZero x).wakeAt (waitsForZero x).co lastBelow 0 0 else waitsForZero x) := by
  rw [exec_waitaWake, execWaitaWake, State.retest, waitsForZero, reread_parkedBelow _ _ rfl]
  simp [Wait.isWaita, State.waitTest, waitWord_parkedBelow, waitCond, show (parkedBelow _ x).co.strong = false from rfl]

/-- Refutes O21: a WAITA that has parked at a word whose first byte lies below the control range, and whose other bytes lie in it, is not
woken by what memory holds there: those bytes are free (log entry 13). The claim asks this only of the first byte. -/
theorem not_waitsAndWakes : ¬ Obligations.WaitsAndWakes := by
  rintro ⟨-, ends, -⟩
  have clean (x : Byte) := (ends (waitsForZero x) 0 lastBelow true .eq 0 0 none (quiet_parkedBelow _ x)).1 rfl ⟨by decide, rfl, rfl⟩
  by_cases hz : straddlingWord = 0
  · obtain ⟨-, stays, -⟩ := clean 1
    obtain ⟨q, hq, hco, -⟩ := stays (by simp [waitsForZero, bytes_parkedBelow, wordHolds])
    rw [show (waitsForZero 1).co.id = 0 from rfl, exec_waitaWake_waitsForZero, if_pos hz] at hq
    cases hq
    exact absurd ((congrArg Cohort.wait (State.wakeAt_co _ _ _ _)).symm.trans (congrArg Cohort.wait hco)) nofun
  · obtain ⟨wakes, -, -⟩ := clean 0
    obtain ⟨q, hq, hco, -⟩ := wakes (by simp [waitsForZero, bytes_parkedBelow, wordHolds])
    rw [show (waitsForZero 0).co.id = 0 from rfl, exec_waitaWake_waitsForZero, if_neg hz] at hq
    cases hq
    exact absurd (congrArg Cohort.wait hco) nofun

/-- The cohort has posted a call, and waits for its answer. -/
def waitsForAnswer (x : Byte) : State := parkedBelow (.sysAnswer 0 lastBelow 0 0) x

/-- The answer is the word that its read finds, whatever memory holds. -/
theorem exec_syscAnswer_waitsForAnswer (x : Byte) : exec (.syscAnswer 0) (waitsForAnswer x) =
    .next (if straddlingWord = 0 then waitsForAnswer x
      else ((waitsForAnswer x).dropLines 0 [lastBelow / 64]).sysDone 0 0 0 straddlingWord) := by
  rw [exec_syscAnswer, execSyscAnswer, waitsForAnswer, reread_parkedBelow _ _ rfl]
  simp only [waitWord_parkedBelow]
  rfl

theorem ugetPair_parkedBelow (w : Wait) (x : Byte) : ((parkedBelow w x).co.ugetPair 0).toNat = 0 := by
  simp [parkedBelow, Cohort.ugetPair, Cohort.getPair, Cohort.get, Cohort.rd, Cohort.init, View.init, Tab.get, pairOf]

/-- An answer ends the wait. -/
theorem State.sysDone_wait (s : State) (d : Reg) (op : Nat) (ans : DWord) : (s.sysDone s.co.id d op ans).co.wait = none := by
  have hc : s.cohort? s.co.id = some s.co := if_pos rfl
  have hco := (backstage_acquire s s.co .pkg).co
  simp only [State.sysDone, hc, State.modCohort, hco, if_true]
  rfl

/-- Refutes O23: a call whose answer word begins below the control range, and lies in it but for that byte, is not answered by what memory
holds there: those bytes are free (log entry 13). The claim asks this only of the first byte. -/
theorem not_callsAndBreakpoints : ¬ Obligations.CallsAndBreakpoints := by
  rintro ⟨calls, -⟩
  have answer (x : Byte) := (calls (waitsForAnswer x) State.reset State.reset ⟨[lastBelow], none, none⟩ 0 0 false 0 0 0).2.2.1 0
    (by rw [waitsForAnswer, ugetPair_parkedBelow]; rfl) (quiet_parkedBelow _ x) (by decide) rfl rfl
  by_cases hz : straddlingWord = 0
  · obtain ⟨q, hq, hco, -⟩ := (answer 1).1 (by simp [waitsForAnswer, bytes_parkedBelow])
    rw [show (waitsForAnswer 1).co.id = 0 from rfl, exec_syscAnswer_waitsForAnswer, if_pos hz] at hq
    cases hq
    exact absurd (congrArg Cohort.wait hco) nofun
  · obtain ⟨q, hq, hco, -⟩ := (answer 0).2 (by simp [waitsForAnswer, bytes_parkedBelow])
    rw [show (waitsForAnswer 0).co.id = 0 from rfl, exec_syscAnswer_waitsForAnswer, if_neg hz] at hq
    cases hq
    exact absurd ((State.sysDone_wait ((waitsForAnswer 0).dropLines 0 [lastBelow / 64]) 0 0 straddlingWord).symm.trans
      (congrArg Cohort.wait hco)) nofun

end Sys2Proof.Machine

/-!
What goes on between a core and the home slices (R222, R223, R307 to R310, R345): which parts of the machine it leaves alone, and that it
changes no byte of memory where the core and its cluster hold no store that memory lacks.
-/

namespace Sys2Proof.Machine

open Sys2Proof.Claims

/-! ## Sparse maps -/

section Tables

variable {α : Type}

theorem Tab.mem_of_find {t : Tab α} {n : Nat} {x : α} (h : Tab.find t n = some x) : (n, x) ∈ t := by
  induction t with
  | nil => cases h
  | cons e t ih =>
    obtain ⟨k, v⟩ := e
    by_cases hk : k = n
    · simp_all [Tab.find]
    · exact List.mem_cons_of_mem _ (ih (by simpa [Tab.find, hk] using h))

theorem Tab.mem_of_mem_erase {t : Tab α} {n : Nat} {e : Nat × α} (h : e ∈ t.erase n) : e ∈ t := by
  induction t with
  | nil => exact h
  | cons a t ih =>
    obtain ⟨k, v⟩ := a
    by_cases hk : k = n
    · exact List.mem_cons_of_mem _ (ih (by simpa [Tab.erase, hk] using h))
    · rw [Tab.erase, if_neg hk] at h
      exact (List.mem_cons.mp h).elim (fun h => h ▸ List.mem_cons_self) fun h => List.mem_cons_of_mem _ (ih h)

theorem Tab.mem_of_mem_put {t : Tab α} {n : Nat} {x : α} {e : Nat × α} (h : e ∈ t.put n x) : e = (n, x) ∨ e ∈ t := by
  induction t with
  | nil => exact .inl (List.mem_singleton.mp h)
  | cons a t ih =>
    obtain ⟨k, v⟩ := a
    unfold Tab.put at h
    split at h
    · exact (List.mem_cons.mp h).elim (fun h => .inr (h ▸ List.mem_cons_self)) fun h => (ih h).imp_right (List.mem_cons_of_mem _)
    · split at h
      · exact (List.mem_cons.mp h).imp_right (List.mem_cons_of_mem _)
      · exact List.mem_cons.mp h

/-- The keys of a map rise. -/
abbrev Tab.Rising (t : Tab α) : Prop := (t.map Prod.fst).Pairwise (· < ·)

theorem Tab.rising_erase {t : Tab α} (h : t.Rising) (n : Nat) : (t.erase n).Rising := by
  induction t with
  | nil => exact h
  | cons a t ih =>
    obtain ⟨k, v⟩ := a
    obtain ⟨hlt, ht⟩ := List.pairwise_cons.mp h
    by_cases hk : k = n
    · simpa [Tab.erase, hk] using ih ht
    · rw [Tab.erase, if_neg hk]
      refine List.pairwise_cons.mpr ⟨fun m hm => ?_, ih ht⟩
      obtain ⟨e, he, rfl⟩ := List.mem_map.mp hm
      exact hlt _ (List.mem_map_of_mem (Tab.mem_of_mem_erase he))

theorem Tab.rising_put {t : Tab α} (h : t.Rising) (n : Nat) (x : α) : (t.put n x).Rising := by
  induction t with
  | nil => exact List.pairwise_singleton _ _
  | cons a t ih =>
    obtain ⟨k, v⟩ := a
    obtain ⟨hlt, ht⟩ := List.pairwise_cons.mp h
    unfold Tab.put
    split
    · next hk =>
      refine List.pairwise_cons.mpr ⟨fun m hm => ?_, ih ht⟩
      obtain ⟨e, he, rfl⟩ := List.mem_map.mp hm
      rcases Tab.mem_of_mem_put he with rfl | he
      · exact hk
      · exact hlt _ (List.mem_map_of_mem he)
    · next hk =>
      split
      · next he => exact he ▸ h
      · exact List.pairwise_cons.mpr ⟨fun m hm => by
          rcases List.mem_cons.mp hm with rfl | hm
          · omega
          · have := hlt m hm
            omega, h⟩

theorem Tab.rising_filterMap {t : Tab α} (h : t.Rising) {f : Nat × α → Option (Nat × α)} (hf : ∀ e x, f e = some x → x.1 = e.1) :
    Tab.Rising (t.filterMap f) := by
  rw [Tab.Rising, List.pairwise_map] at h ⊢
  exact h.filterMap f fun e e' hlt x hx y hy => by rwa [hf e x hx, hf e' y hy]

/-- What is read after every entry has been changed under its key: a change of what was read. -/
theorem Tab.get_map_rel {R : α → α → Prop} {d : α} (hd : R d d) {g : Nat × α → Nat × α} (hk : ∀ e, (g e).1 = e.1)
    (hg : ∀ e, R e.2 (g e).2) (t : Tab α) (n : Nat) : R (Tab.get d t n) (Tab.get d (t.map g) n) := by
  induction t with
  | nil => exact hd
  | cons e t ih =>
    obtain ⟨k, v⟩ := e
    have hkey : g (k, v) = (k, (g (k, v)).2) := Prod.ext (hk _) rfl
    rw [List.map_cons, hkey]
    by_cases h : k = n
    · simpa [Tab.get, h] using hg (n, v)
    · simpa [Tab.get, h] using ih

end Tables

/-! ## What the levels leave alone -/

/-- A machine without the parts that a write to memory changes. -/
def State.rest (s : State) : State := { s with mem := [], poison := [], cores := [], clusters := [], ctxs := [], harts := [] }
/-- The same without the package sequencer, and the event by which it stores its mark. -/
def State.gist (s : State) : State := { s.rest with seq := 0, agenda := [] }

section Gist

variable {s t : State} (h : t.gist = s.gist)
include h

theorem State.co_of_gist : t.co = s.co := (congrArg State.co h :)
theorem State.fresh_of_gist : t.fresh = s.fresh := (congrArg State.fresh h :)
theorem State.tick_of_gist : t.tick = s.tick := (congrArg State.tick h :)
theorem State.lastFault_of_gist : t.lastFault = s.lastFault := (congrArg State.lastFault h :)

end Gist

/-- From s to t nothing but memory and what caches it has changed; the keys of a cluster's cache rise still where they did. -/
structure Beside (s t : State) : Prop where
  rest : t.rest = s.rest
  rising : ∀ n, (s.cluster n).cc.Rising → (t.cluster n).cc.Rising

/-- Besides, every line of an L1 is one that it held. -/
structure Beyond (s t : State) : Prop extends Beside s t where
  sheds : ∀ n, ∀ e ∈ (t.core n).l1, e ∈ (s.core n).l1

/-- A core and its cluster hold no store that memory lacks. -/
structure Settled (core : Nat) (s : State) : Prop where
  l1 : ∀ e ∈ (s.core core).l1, e.2.own = 0
  cc : ∀ e ∈ (s.cluster (clusterOf core)).cc, e.2.data = []
  wc : (s.core core).wc = []

/-- From s to t nothing but memory and what caches it has changed; where a core and its cluster held no store that memory lacks, they hold
none, and memory is as it was. -/
structure Levels (core : Nat) (s t : State) : Prop extends Beside s t where
  still : Settled core s → Settled core t ∧ t.mem = s.mem

theorem settled_iff_quiet (s : State) : Settled s.co.core s ↔ Quiet s :=
  ⟨fun ⟨h, k, w⟩ => ⟨h, k, w⟩, fun ⟨h, k, w⟩ => ⟨h, k, w⟩⟩

section Relations

variable {core : Nat} {s t u : State}

theorem Beside.refl (s : State) : Beside s s := ⟨rfl, fun _ h => h⟩
theorem Beside.trans (h : Beside s t) (k : Beside t u) : Beside s u := ⟨k.rest.trans h.rest, fun n hn => k.rising n (h.rising n hn)⟩
theorem Beside.gist (h : Beside s t) : t.gist = s.gist := congrArg (fun r => { r with seq := 0, agenda := [] }) h.rest
theorem Beside.co (h : Beside s t) : t.co = s.co := (congrArg State.co h.rest :)
theorem Beside.seq (h : Beside s t) : t.seq = s.seq := (congrArg State.seq h.rest :)

theorem Beyond.refl (s : State) : Beyond s s := ⟨.refl s, fun _ _ h => h⟩
theorem Beyond.trans (h : Beyond s t) (k : Beyond t u) : Beyond s u :=
  ⟨h.toBeside.trans k.toBeside, fun n e he => h.sheds n e (k.sheds n e he)⟩
theorem Beyond.foldl {α : Type} {f : State → α → State} (hf : ∀ s x, Beyond s (f s x)) (l : List α) (s : State) :
    Beyond s (l.foldl f s) := by
  induction l generalizing s with
  | nil => exact .refl s
  | cons x l ih => exact (hf s x).trans (ih _)

theorem Levels.refl (core : Nat) (s : State) : Levels core s s := ⟨.refl s, fun h => ⟨h, rfl⟩⟩
theorem Levels.trans (h : Levels core s t) (k : Levels core t u) : Levels core s u :=
  ⟨h.toBeside.trans k.toBeside, fun hs => ⟨(k.still (h.still hs).1).1, (k.still (h.still hs).1).2.trans (h.still hs).2⟩⟩
theorem Levels.foldl {α : Type} {f : State → α → State} (hf : ∀ s x, Levels core s (f s x)) (l : List α) (s : State) :
    Levels core s (l.foldl f s) := by
  induction l generalizing s with
  | nil => exact .refl core s
  | cons x l ih => exact (hf s x).trans (ih _)

end Relations

section Moves

variable (s : State)

theorem beside_modCore (n : Nat) (f : Core → Core) : Beside s (s.modCore n f) := ⟨rfl, fun _ h => h⟩

theorem levels_modCore (core n : Nat) (f : Core → Core) (hl : ∀ c : Core, (∀ e ∈ c.l1, e.2.own = 0) → ∀ e ∈ (f c).l1, e.2.own = 0)
    (hw : ∀ c : Core, c.wc = [] → (f c).wc = []) : Levels core s (s.modCore n f) := by
  refine ⟨beside_modCore s n f, fun h => ⟨⟨?_, h.cc, ?_⟩, rfl⟩⟩
  all_goals rw [State.core_modCore]; split
  · next hn => exact hl _ (hn ▸ h.l1)
  · exact h.l1
  · next hn => exact hw _ (hn ▸ h.wc)
  · exact h.wc

theorem beyond_modCluster (n : Nat) (f : Cluster → Cluster) (hr : ∀ q : Cluster, q.cc.Rising → (f q).cc.Rising) :
    Beyond s (s.modCluster n f) := by
  refine ⟨⟨rfl, fun m => ?_⟩, fun _ _ h => h⟩
  rw [State.cluster_modCluster]
  split
  · next h => exact h ▸ hr _
  · exact id

/-- A change of a cluster's cache that puts no accepted byte into it. -/
theorem levels_modCluster (core n : Nat) (f : Cluster → Cluster) (hr : ∀ q : Cluster, q.cc.Rising → (f q).cc.Rising)
    (hd : ∀ q : Cluster, (∀ e ∈ q.cc, e.2.data = []) → ∀ e ∈ (f q).cc, e.2.data = []) : Levels core s (s.modCluster n f) := by
  refine ⟨(beyond_modCluster s n f hr).toBeside, fun h => ⟨⟨h.l1, ?_, h.wc⟩, rfl⟩⟩
  rw [State.cluster_modCluster]
  split
  · next hn => exact hd _ (hn ▸ h.cc)
  · exact h.cc

/-! Memory -/

theorem beyond_markSectors (line : Nat) (m bad : BitVec 4) : Beyond s (s.markSectors line m bad) := ⟨⟨rfl, fun _ h => h⟩, fun _ _ h => h⟩

theorem Cluster.mem_written {lines : List Nat} {q : Cluster} {e : Nat × CcLine} (h : e ∈ (q.written lines).cc) :
    ∃ x ∈ q.cc, e.1 = x.1 ∧ e.2.data = x.2.data := by
  unfold Cluster.written at h
  split at h
  · exact ⟨e, h, rfl, rfl⟩
  · obtain ⟨x, hx, he⟩ := List.mem_filterMap.mp h
    refine ⟨x, hx, ?_⟩
    split at he
    · split at he
      · cases he
      · cases he; exact ⟨rfl, rfl⟩
    · cases he; exact ⟨rfl, rfl⟩

theorem Cluster.rising_written {lines : List Nat} {q : Cluster} (h : q.cc.Rising) : (q.written lines).cc.Rising := by
  unfold Cluster.written
  split
  · exact h
  · refine Tab.rising_filterMap h fun e x hx => ?_
    split at hx
    · split at hx
      · cases hx
      · cases hx; rfl
    · cases hx; rfl

theorem Core.mem_written {src : Option (Nat × Nat)} {lines : List Nat} {c : Core} {e : Nat × L1Line} (h : e ∈ (c.written src lines).l1) :
    e ∈ c.l1 := by
  unfold Core.written at h
  dsimp only at h
  split at h
  · exact h
  · exact (List.mem_filter.mp h).1

/-- What a write does to a cluster (R308). -/
theorem State.cluster_write (x : Nat × Byte) (l : List (Nat × Byte)) (n : Nat) :
    (s.write (x :: l)).cluster n = (s.cluster n).written (linesOf (x :: l)) := by
  unfold State.write State.writeBy
  dsimp only
  rw [State.pokes_eq]
  refine (Tab.get_map_rel (R := fun a b : Cluster => b = a.written (linesOf (x :: l))) rfl
    (g := fun e => (e.1, e.2.written (linesOf (x :: l)))) (fun _ => rfl) (fun _ => rfl) _ n).trans ?_
  split <;> rfl

/-- What a write does to a core (R223, R254). -/
theorem State.core_write (x : Nat × Byte) (l : List (Nat × Byte)) (n : Nat) :
    (s.write (x :: l)).core n = (s.core n).written none (linesOf (x :: l)) := by
  unfold State.write State.writeBy
  dsimp only
  rw [State.pokes_eq]
  refine (Tab.get_map_rel (R := fun a b : Core => b = a.written none (linesOf (x :: l))) rfl
    (g := fun e => (e.1, e.2.written none (linesOf (x :: l)))) (fun _ => rfl) (fun _ => rfl) _ n).trans ?_
  split <;> rfl

theorem State.rest_write (cells : List (Nat × Byte)) : (s.write cells).rest = s.rest := by
  cases cells with
  | nil => rfl
  | cons x l =>
    unfold State.write State.writeBy
    dsimp only
    rw [State.pokes_eq]
    split <;> rfl

theorem beyond_write (cells : List (Nat × Byte)) : Beyond s (s.write cells) := by
  refine ⟨⟨s.rest_write cells, fun n h => ?_⟩, fun n e he => ?_⟩
  all_goals cases cells
  · exact h
  · exact State.cluster_write s _ _ n ▸ Cluster.rising_written h
  · exact he
  · exact Core.mem_written (State.core_write s _ _ n ▸ he)

/-- A write puts no store into a cache. -/
theorem Settled.write {core : Nat} {s : State} (h : Settled core s) (cells : List (Nat × Byte)) : Settled core (s.write cells) := by
  cases cells with
  | nil => exact h
  | cons x l =>
    refine ⟨fun e he => h.l1 e ((beyond_write s _).sheds core e he), fun e he => ?_, ?_⟩
    · rw [State.cluster_write] at he
      obtain ⟨y, hy, -, hd⟩ := Cluster.mem_written he
      exact hd.trans (h.cc y hy)
    · rw [State.core_write]
      exact h.wc

/-! The cluster cache (R307 to R309) -/

theorem beyond_ownLine (cl line : Nat) : Beyond s (s.ownLine cl line) := by
  unfold State.ownLine
  split
  · exact .refl s
  · split
    · exact .refl s
    · exact ((beyond_write s _).trans (beyond_markSectors _ _ _ _)).trans (beyond_modCluster _ _ _ fun _ h => Tab.rising_put h _ _)

/-- A line of which the cache has accepted nothing that is not performed needs no ownership. -/
theorem State.ownLine_of_empty {cl line : Nat} (h : ∀ e ∈ (s.cluster cl).cc, e.2.data = []) : s.ownLine cl line = s := by
  unfold State.ownLine
  split
  · rfl
  · next e he => exact if_pos (List.isEmpty_iff.mpr (h _ (Tab.mem_of_find he)))

theorem levels_ownLine (core line : Nat) : Levels core s (s.ownLine (clusterOf core) line) :=
  ⟨(beyond_ownLine s _ _).toBeside, fun h => by rw [s.ownLine_of_empty h.cc]; exact ⟨h, rfl⟩⟩

theorem beyond_ccRoom (cl line site : Nat) : Beyond s (s.ccRoom cl line site) := by
  unfold State.ccRoom
  dsimp only
  split
  · exact .refl s
  · split
    · exact (beyond_ownLine s _ _).trans (beyond_modCluster _ _ _ fun _ h => Tab.rising_erase h _)
    · exact .refl s

theorem levels_ccRoom (core line site : Nat) : Levels core s (s.ccRoom (clusterOf core) line site) := by
  unfold State.ccRoom
  dsimp only
  split
  · exact .refl core s
  · split
    · exact (levels_ownLine s _ _).trans (levels_modCluster _ _ _ _ (fun _ h => Tab.rising_erase h _) fun _ h e he =>
        h e (Tab.mem_of_mem_erase he))
    · exact .refl core s

theorem levels_ccShare (core cl line : Nat) : Levels core s (s.ccShare cl line) := by
  have kept (n : Nat) := Tab.get_map_rel (d := Cluster.init)
    (R := fun a b : Cluster => (a.cc.Rising → b.cc.Rising) ∧ ((∀ e ∈ a.cc, e.2.data = []) → ∀ e ∈ b.cc, e.2.data = [])) ⟨id, id⟩
    (g := fun e => if e.1 = cl then e
      else (e.1, { e.2 with cc := e.2.cc.map (fun l => if l.1 = line then (l.1, { l.2 with owned := false, dirty := 0 }) else l) }))
    (fun e => by split <;> rfl) (fun e => by
      split
      · exact ⟨id, id⟩
      · refine ⟨fun h => ?_, fun h x hx => ?_⟩
        · rwa [Tab.Rising, List.map_map, List.map_congr_left (g := Prod.fst) fun a _ => by
            simp only [Function.comp_apply]; split <;> rfl]
        · obtain ⟨y, hy, rfl⟩ := List.mem_map.mp hx
          split <;> exact h y hy) s.clusters n
  exact ⟨⟨rfl, fun n => (kept n).1⟩, fun h => ⟨⟨h.l1, (kept _).2 h.cc, h.wc⟩, rfl⟩⟩

/-- A change of a line of a cluster's cache that accepts no byte. -/
theorem levels_modCc (core cl line : Nat) (f : CcLine → CcLine) (hf : ∀ e, (f e).data = e.data) : Levels core s (s.modCc cl line f) :=
  levels_modCluster s core cl _ (fun _ h => Tab.rising_put h _ _) fun q h e he => by
    rcases Tab.mem_of_mem_put he with rfl | he
    · rw [hf]
      rcases Tab.get_eq_or_mem (d := CcLine.init) q.cc line with hg | hg
      · rw [hg]; rfl
      · exact h _ hg
    · exact h e he

theorem levels_ccFill (core line : Nat) (sectors : BitVec 4) (low : Bool) : Levels core s (s.ccFill (clusterOf core) line sectors low) :=
  ((levels_ccRoom s core line 7301).trans (levels_ccShare _ core _ line)).trans (levels_modCc _ core _ line _ fun _ => rfl)

theorem beyond_dropReg (cl : Nat) (lines : List Nat) : Beyond s (s.dropReg cl lines) := by
  refine ⟨⟨rfl, fun _ h => h⟩, fun n => Tab.get_map_rel (d := Core.init) (R := fun a b : Core => ∀ e ∈ b.l1, e ∈ a.l1)
    (fun _ h => h) (fun _ => by split <;> rfl) (fun e => ?_) s.cores n⟩
  split
  · exact fun _ h => (List.mem_filter.mp h).1
  · exact fun _ h => h

theorem beyond_ccTake (cl line : Nat) (cells : List (Nat × Byte)) (bad : BitVec 4) : Beyond s (s.ccTake cl line cells bad) := by
  have put (t : State) (f : CcLine → CcLine) : Beyond t (t.modCc cl line f) := beyond_modCluster t cl _ fun _ h => Tab.rising_put h _ _
  unfold State.ccTake
  dsimp only
  refine (beyond_ccRoom s cl line 7302).trans ?_
  split
  · exact ((beyond_write _ _).trans (beyond_markSectors _ _ _ _)).trans (put _ _)
  · exact put _ _

theorem beyond_ccAccept (cl : Nat) (cells : List (Nat × Byte)) (bad : Nat → BitVec 4) : Beyond s (s.ccAccept cl cells bad) :=
  (beyond_dropReg s _ _).trans (.foldl (fun t _ => beyond_ccTake t _ _ _ _) _ _)

theorem beyond_flushCluster (cl : Nat) : Beyond s (s.flushCluster cl) := .foldl (fun t _ => beyond_ownLine t _ _) _ _

theorem levels_flushCluster (core : Nat) : Levels core s (s.flushCluster (clusterOf core)) := .foldl (fun t _ => levels_ownLine t _ _) _ _

/-! The first-level cache (R222, R223) -/

theorem State.writeBack_of_clean {core : Nat} (lines : List Nat) (h : ∀ e ∈ (s.core core).l1, e.2.own = 0) : s.writeBack core lines = s := by
  have none_mine : (s.core core).l1.filter (fun e => lines.contains e.1 && e.2.own != 0) = [] :=
    List.filter_eq_nil_iff.mpr fun e he => by simp [h e he]
  exact if_pos (List.isEmpty_iff.mpr none_mine)

theorem levels_writeBack (core : Nat) (lines : List Nat) : Levels core s (s.writeBack core lines) := by
  refine ⟨?_, fun h => by rw [s.writeBack_of_clean lines h.l1]; exact ⟨h, rfl⟩⟩
  unfold State.writeBack
  dsimp only
  split
  · exact .refl s
  · exact (beyond_ccAccept s _ _ _).toBeside.trans (beside_modCore _ _ _)

theorem levels_dropLines (core : Nat) (lines : List Nat) : Levels core s (s.dropLines core lines) :=
  (levels_writeBack s core lines).trans (levels_modCore _ core core _ (fun _ h e he => h e (List.mem_filter.mp he).1) fun _ h => h)

theorem levels_publish (core : Nat) (lines : List Nat) : Levels core s (s.publish core lines) :=
  (levels_writeBack s core lines).trans (.foldl (fun t _ => levels_ownLine t _ _) _ _)

theorem levels_past (core : Nat) (lines : List Nat) : Levels core s (s.past core lines) :=
  (levels_publish s core lines).trans (levels_dropLines _ core lines)

/-- A line is clean or dirty as before with other bytes and marks. -/
theorem levels_mapL1 (core n : Nat) (g : Nat × L1Line → Nat × L1Line) (hg : ∀ e, e.2.own = 0 → (g e).2.own = 0) :
    Levels core s (s.modCore n (fun k => { k with l1 := k.l1.map g })) :=
  levels_modCore s core n _ (fun _ h e he => by
    obtain ⟨x, hx, rfl⟩ := List.mem_map.mp he
    exact hg x (h x hx)) fun _ h => h

theorem levels_tagLines (core : Nat) (lines : List Nat) (r : Nat) : Levels core s (s.tagLines core lines r) :=
  levels_mapL1 s core core _ fun e h => by split <;> exact h

/-! The combining buffer (R345), releases and acquires (R336, R337) -/

theorem State.drainThose_of_empty {core : Nat} (mine : WcLine → Bool) (h : (s.core core).wc = []) : s.drainThose core mine = s := by
  simp [State.drainThose, h]

theorem beside_drainLine (core : Nat) (w : WcLine) : Beside s (s.drainLine core w) :=
  (levels_past s core [w.line]).toBeside.trans (beyond_write _ _).toBeside

theorem levels_drainThose (core : Nat) (mine : WcLine → Bool) : Levels core s (s.drainThose core mine) := by
  refine ⟨?_, fun h => by rw [s.drainThose_of_empty mine h.wc]; exact ⟨h, rfl⟩⟩
  have drained (l : List WcLine) (t : State) : Beside t (l.foldl (State.drainLine core) t) := by
    induction l generalizing t with
    | nil => exact .refl t
    | cons w l ih => exact (beside_drainLine t core w).trans (ih _)
  unfold State.drainThose
  dsimp only
  split
  · exact (beside_modCore s core _).trans (drained _ _)
  · exact .refl s

theorem levels_release (c : Cohort) (sc : Scope) : Levels c.core s (s.release c sc) := by
  unfold State.release
  dsimp only
  have drained : Levels c.core s (s.drainWc c.core (some c.id)) := levels_drainThose s _ _
  have back := drained.trans (levels_writeBack _ c.core ((s.drainWc c.core (some c.id)).core c.core).dirtyLines)
  split
  · exact drained
  · split
    · exact back.trans (levels_tagLines _ _ _ _)
    · exact (back.trans (levels_flushCluster _ _)).trans (levels_tagLines _ _ _ _)

theorem levels_acquire (c : Cohort) (sc : Scope) : Levels c.core s (s.acquire c sc) := by
  unfold State.acquire
  refine levels_modCore s c.core c.core _ (fun k h e he => ?_) fun _ h => h
  obtain ⟨x, hx, he⟩ := List.mem_filterMap.mp he
  have hown := h x hx
  split at he
  · split at he
    · cases he
    · cases he; exact hown
  · cases he; exact hown

end Moves

/-! ## Orderings (R190, R338) -/

section Orderings

variable (s : State) (c : Cohort)

theorem State.gist_ticket : s.ticket.gist = s.gist := rfl

theorem Settled.ticket {core : Nat} {s : State} (h : Settled core s) : Settled core s.ticket := ⟨h.l1, h.cc, h.wc⟩

theorem State.gist_before (o : MOrd) (sc : Scope) : (s.before c o sc).gist = s.gist := by
  have released : (if MOrd.releases o then s.release c sc else s).gist = s.gist := by
    split
    · exact (levels_release s c sc).gist
    · rfl
  unfold State.before
  dsimp only
  split <;> exact released

theorem Settled.before {s : State} {c : Cohort} (h : Settled c.core s) (o : MOrd) (sc : Scope) :
    Settled c.core (s.before c o sc) ∧ (s.before c o sc).mem = s.mem := by
  have released : Settled c.core (if MOrd.releases o then s.release c sc else s) ∧ (if MOrd.releases o then s.release c sc else s).mem = s.mem := by
    split
    · exact (levels_release s c sc).still h
    · exact ⟨h, rfl⟩
  unfold State.before
  dsimp only
  split
  · exact ⟨released.1.ticket, released.2⟩
  · exact released

theorem levels_after (o : MOrd) (sc : Scope) : Levels c.core s (s.after c o sc) := by
  unfold State.after
  split
  · exact levels_acquire s c sc
  · exact .refl _ s

end Orderings

end Sys2Proof.Machine

/-!
Accesses of lanes (R170 to R173, R200, R217): the resolution of one changes no cohort; one that lies in its cohort's share of the scratchpad
needs no translation, and its bytes are those of the share.
-/

namespace Sys2Proof.Machine

open Sys2Proof.Claims

/-! ## Little-endian numbers and written bytes -/

theorem leNat_natLe (n v : Nat) : leNat (natLe n v) = v % 2 ^ (8 * n) := by
  induction n generalizing v with
  | zero => simp [natLe, leNat, Nat.mod_one]
  | succ n ih =>
    rw [natLe, leNat, ih, BitVec.toNat_ofNat, Nat.mul_add, Nat.add_comm (8 * n), pow_add]
    exact (Nat.mod_mul (x := v) (a := 2 ^ 8) (b := 2 ^ (8 * n))).symm

section Bytes

variable (s : State)

/-- A write leaves each byte as its last cell has it. -/
theorem State.byte_write_eq_byteAfter (cells : List (Nat × Byte)) (a : Nat) : (s.write cells).byte a = s.byteAfter cells a := by
  rw [State.byte_write]
  induction cells generalizing s with
  | nil => rfl
  | cons x cells ih =>
    rw [State.pokes, ih, State.byteAfter, State.byteAfter, List.reverse_cons, List.find?_append]
    cases cells.reverse.find? (fun y => y.1 == a) with
    | some y => rfl
    | none =>
      by_cases h : x.1 = a
      · simp [h]
      · simp [h, Ne.symm h]

theorem State.byteAfter_congr {s t : State} (h : t.mem = s.mem) (cells : List (Nat × Byte)) (a : Nat) :
    t.byteAfter cells a = s.byteAfter cells a := by
  simp only [State.byteAfter, State.byte, h]

theorem State.byteAfter_of_not_mem {cells : List (Nat × Byte)} {a : Nat} (h : ∀ x ∈ cells, x.1 ≠ a) : s.byteAfter cells a = s.byte a := by
  rw [← State.byte_write_eq_byteAfter, State.byte_write_out _ _ _ h]

/-- Bytes put down at distinct places are read back. -/
theorem State.map_byteAfter_zip {pas : List Nat} {bs : List Byte} (hn : pas.Nodup) (hl : pas.length = bs.length) :
    pas.map (s.byteAfter (pas.zip bs)) = bs := by
  refine List.ext_getElem (by simpa using hl) fun i hi hb => ?_
  have hp : i < pas.length := by simpa using hi
  have hz : i < (pas.zip bs).length := by simp [hp, hb]
  rw [List.getElem_map, ← State.byte_write_eq_byteAfter, State.byte_write]
  refine State.byte_pokes_in _ s _ _ (List.getElem_zip (h := hz) ▸ List.getElem_mem hz) fun e he hea => ?_
  obtain ⟨j, hj, rfl⟩ := List.getElem_of_mem he
  rw [List.getElem_zip] at hea ⊢
  have hij : j = i := (List.Nodup.getElem_inj_iff hn).mp hea
  subst hij
  rfl

end Bytes

/-! ## Resolution keeps every cohort -/

section Resolution

variable (s : State) (c : Cohort)

theorem backstage_resolvePages (va n : Nat) (k : AccessKind) (p : Path) (site : Nat) :
    Backstage s (resolvePages s c va n k p site).1 := by
  have first := backstage_lookup s c va k site
  unfold resolvePages
  dsimp only
  generalize s.lookup c va k site = r at first
  obtain ⟨t, e⟩ := r
  dsimp only at first
  split
  · exact .refl s
  · exact .refl s
  · split
    · exact .refl s
    · cases e with
      | error f => exact first
      | ok l =>
        dsimp only
        split
        · split <;> exact first
        · have second := first.trans (backstage_lookup t c ((va + (n - 1)) % 2 ^ 64 / 4096 * 4096) k (site + 1))
          generalize t.lookup c _ k (site + 1) = r at second
          obtain ⟨u, e⟩ := r
          cases e with
          | error f => exact second
          | ok l2 =>
            dsimp only
            split <;> exact second

theorem backstage_resolveBy (va n : Nat) (k : AccessKind) (p : Path) (site : Nat) : Backstage s (resolveBy s c va n k p site).1 := by
  have pages := backstage_resolvePages s c va n k p site
  unfold resolveBy
  generalize resolvePages s c va n k p site = r at pages
  obtain ⟨t, e⟩ := r
  split
  · exact .refl s
  · cases e with
    | error f => exact pages
    | ok r =>
      dsimp only
      split <;> exact pages

theorem backstage_resolveShare (x n : Nat) (k : AccessKind) : Backstage s (resolveShare s c x n k).1 := by
  unfold resolveShare
  split <;> exact .refl s

theorem backstage_resolveLanes (p : Path) (n : Nat) (k : AccessKind) (share : Bool) (lanes : List (Nat × Nat)) :
    Backstage s (resolveLanes c p n k share lanes s).1 := by
  induction lanes generalizing s with
  | nil => exact .refl s
  | cons e rest ih =>
    obtain ⟨l, a⟩ := e
    have one : Backstage s (if share then resolveShare s c a n k else resolveBy s c a n k p (4 * l)).1 := by
      split
      · exact backstage_resolveShare s c a n k
      · exact backstage_resolveBy s c a n k p (4 * l)
    unfold resolveLanes
    generalize (if share then resolveShare s c a n k else resolveBy s c a n k p (4 * l)) = r at one
    obtain ⟨t, e⟩ := r
    have all := one.trans (ih t)
    cases e with
    | error f => exact one
    | ok r =>
      dsimp only
      split
      · exact one
      · generalize resolveLanes c p n k share rest t = q at all
        obtain ⟨u, e⟩ := q
        cases e <;> exact all

theorem backstage_resolveAtomics (n : Nat) (lanes : List (Nat × Nat)) : Backstage s (resolveAtomics c n lanes s).1 := by
  induction lanes generalizing s with
  | nil => exact .refl s
  | cons e rest ih =>
    obtain ⟨l, a⟩ := e
    have one : Backstage s (resolve s c a n .write (4 * l)).1 := backstage_resolveBy s c a n .write .plain (4 * l)
    unfold resolveAtomics
    generalize resolve s c a n .write (4 * l) = r at one
    obtain ⟨t, e⟩ := r
    have all := one.trans (ih t)
    split
    · exact .refl s
    · split
      · exact .refl s
      · cases e with
        | error f => exact one
        | ok r =>
          dsimp only
          split
          · exact one
          · exact one
          · generalize resolveAtomics c n rest t = q at all
            obtain ⟨u, e⟩ := q
            cases e <;> exact all

end Resolution

/-! ## The share of the scratchpad (R171, R172, R182, R217) -/

/-- An access of n bytes from offset x of a cohort's share. -/
def shareAccess (c : Cohort) (x n : Nat) : Resolved := { pas := ShareBytes c x n, leaf := none, next := none }

section Share

variable {s : State} {c : Cohort} {va n x : Nat}

theorem windowBad_of_inShare (h : InShare false c va n x) (k : AccessKind) : windowBad s c va n k = none := by
  obtain ⟨hsize, hwin, y, hlast⟩ := h
  unfold windowBad
  simp only [hwin, hlast, Window.code]
  exact if_pos hsize

theorem resolveBy_of_inShare (h : InShare false c va n x) (k : AccessKind) (p : Path) (site : Nat) :
    resolveBy s c va n k p site = (s, .ok (shareAccess c x n)) := by
  have pages : resolvePages s c va n k p site = (s, .ok (shareAccess c x n)) := by
    obtain ⟨-, hwin, -⟩ := h
    unfold resolvePages
    simp only [hwin]
    rfl
  have aligned : (shareAccess c x n).misaligned va n = false := Bool.and_false _
  simp only [resolveBy, windowBad_of_inShare h, pages, aligned, Bool.false_eq_true, if_false]

theorem resolveShare_of_inShare (h : InShare true c va n x) (k : AccessKind) :
    resolveShare s c va n k = (s, .ok (shareAccess c x n)) := by
  obtain ⟨hsize, rfl⟩ := h
  exact if_pos hsize

theorem State.poisonRead_of_unmarked (hu : s.unmarked = true) (core : Nat) (p : Path) (past : Bool) (va : Nat) (r : Resolved) :
    s.poisonRead core p past va r = none := by
  simp [State.poisonRead, State.marked, hu]

theorem State.accessBad_of_unmarked (hu : s.unmarked = true) {k : AccessKind} (hh : ∀ pas, s.heldBy pas (k = .write) = none) (core : Nat)
    (p : Path) (va : Nat) (r : Resolved) : s.accessBad core p k va r = none := by
  simp only [State.accessBad, hh]
  cases k with
  | write => simp [State.poisonStore, hu]
  | read | fetch => exact State.poisonRead_of_unmarked hu ..

/-- Lanes whose accesses lie in the share, with no poison and no command under way. -/
theorem resolveLanes_of_inShare {share : Bool} {k : AccessKind} (p : Path) {lanes : List Nat} {addr at_ : Nat → Nat}
    (h : ∀ l ∈ lanes, InShare share c (addr l) n (at_ l)) (hu : s.unmarked = true) (hh : ∀ pas, s.heldBy pas (k = .write) = none) :
    resolveLanes c p n k share (lanes.map (fun l => (l, addr l))) s =
      (s, .ok (lanes.map (fun l => (l, addr l, shareAccess c (at_ l) n)))) := by
  induction lanes with
  | nil => rfl
  | cons l lanes ih =>
    obtain ⟨hl, hrest⟩ := List.forall_mem_cons.mp h
    have one : (if share then resolveShare s c (addr l) n k else resolveBy s c (addr l) n k p (4 * l)) =
        (s, .ok (shareAccess c (at_ l) n)) := by
      cases share with
      | true => exact resolveShare_of_inShare hl k
      | false => exact resolveBy_of_inShare hl k p _
    simp only [List.map_cons, resolveLanes, one, State.accessBad_of_unmarked hu hh, ih hrest]

theorem resolveAtomics_of_inShare {lanes : List (Nat × Nat)} {at_ : Nat → Nat}
    (h : ∀ e ∈ lanes, e.2 % n = 0 ∧ InShare false c e.2 n (at_ e.1)) (hu : s.unmarked = true) (hh : ∀ pas, s.heldBy pas true = none) :
    resolveAtomics c n lanes s = (s, .ok (lanes.map (fun e => (e.1, e.2, shareAccess c (at_ e.1) n)))) := by
  induction lanes with
  | nil => rfl
  | cons e lanes ih =>
    obtain ⟨⟨halign, hshare⟩, hrest⟩ := List.forall_mem_cons.mp h
    have one : resolve s c e.2 n .write (4 * e.1) = (s, .ok (shareAccess c (at_ e.1) n)) := resolveBy_of_inShare hshare _ _ _
    have hwin := hshare.2.1
    simp only [List.map_cons, resolveAtomics, halign, hwin, one, hh, State.poisonRead_of_unmarked hu, ih hrest, bne_self_eq_false,
      Bool.false_eq_true, if_false]

/-- A share's bytes lie at distinct places. -/
theorem nodup_shareBytes (c : Cohort) (x n : Nat) : (ShareBytes c x n).Nodup := by
  refine List.Nodup.map (fun i j h => ?_) List.nodup_range
  simp only [slotAddr] at h
  omega

theorem length_shareBytes (c : Cohort) (x n : Nat) : (ShareBytes c x n).length = n := by
  simp [ShareBytes]

theorem plain_shareAccess (c : Cohort) (x n : Nat) : Plain (shareAccess c x n) := fun _ h => absurd h List.not_mem_nil

end Share

end Sys2Proof.Machine

/-!
Atomics (O19). What comes before the lanes are performed, and what comes after, moves only what the levels hold; the lanes are performed on
memory, one after the other.
-/

namespace Sys2Proof.Machine

open Sys2Proof.Claims

/-! ## The lanes over memory (R188) -/

section Lanes

variable {s t : State} {n : Nat} {g : Nat → Nat → Nat}

/-- What the lanes do depends on memory alone, and on the tick where a page names the control range. -/
theorem State.atomLanes_congr (hm : t.mem = s.mem) (ht : t.tick = s.tick) (rs : List (Nat × Nat × Resolved)) (cells : List (Nat × Byte)) :
    t.atomLanes n g rs cells = s.atomLanes n g rs cells := by
  induction rs generalizing cells with
  | nil => rfl
  | cons e rs ih =>
    obtain ⟨l, a, r⟩ := e
    have bytes : t.byteAfter cells = s.byteAfter cells := funext (State.byteAfter_congr hm cells)
    simp only [State.atomLanes, ht, bytes, ih]

/-- Every byte that the lanes write is one of their accesses. -/
theorem State.mem_atomLanes {rs : List (Nat × Nat × Resolved)} {cells : List (Nat × Byte)} {x : Nat × Byte}
    (h : x ∈ (s.atomLanes n g rs cells).2) : x ∈ cells ∨ ∃ e ∈ rs, x.1 ∈ e.2.2.pas := by
  induction rs generalizing cells with
  | nil => exact .inl h
  | cons e rs ih =>
    obtain ⟨l, a, r⟩ := e
    rcases ih h with h | ⟨e, he, hx⟩
    · refine (List.mem_append.mp h).imp_right fun h => ⟨_, List.mem_cons_self, ?_⟩
      exact (List.of_mem_zip (List.mem_ite_nil_left.mp h).2).1
    · exact .inr ⟨e, List.mem_cons_of_mem _ he, hx⟩

/-- One lane, on a page that does not name the control range, replaces the value that memory holds. -/
theorem State.atomLanes_single {l a : Nat} {r : Resolved} (hp : Plain r) : s.atomLanes n g [(l, a, r)] [] =
    ([(l, leNat (r.pas.map s.byte))], r.pas.zip (natLe n (g l (leNat (r.pas.map s.byte))))) := by
  have bytes : s.byteAfter [] = s.byte := rfl
  cases hl : r.leaf with
  | none => simp [State.atomLanes, hl, bytes]
  | some q =>
    have leaf : q ∈ r.leaves := by
      unfold Resolved.leaves Resolved.parts
      cases r.next <;> simp [hl]
    simp [State.atomLanes, hl, (hp q leaf).2, bytes]

end Lanes

/-! ## Before and after the lanes (R174, R188, R310) -/

/-- The ordering and the scope of an atomic: on a strongly ordered page .sc, and beyond normal memory .pkg. -/
def atomOrd (rs : List (Nat × Nat × Resolved)) (o : MOrd) : MOrd := if (rs.flatMap (fun e => e.2.2.leaves)).any (fun l => l.so) then .sc else o
def atomScope (rs : List (Nat × Nat × Resolved)) (sc : Scope) : Scope :=
  if (rs.flatMap (fun e => e.2.2.leaves)).any (fun l => !l.normal) then .pkg else sc

/-- The buffered stores of an atomic's cohort that come before it. -/
def State.atomDrain (t : State) (c : Cohort) (rs : List (Nat × Nat × Resolved)) : State :=
  if (rs.flatMap (fun e => e.2.2.leaves)).any (fun l => !l.normal) then t.drainWc c.core (some c.id)
  else t.drainThose c.core (fun w => w.co == c.id && (atomLines rs).contains w.line)
/-- The state in which an atomic's lanes are performed. -/
def State.atomBefore (t : State) (c : Cohort) (rs : List (Nat × Nat × Resolved)) (o : MOrd) (sc : Scope) : State :=
  ((t.before c (atomOrd rs o) (atomScope rs sc)).atomDrain c rs).past c.core (awayLines (atomLines rs))
/-- What comes after the lanes: a cluster's cache that performs them owns their lines. -/
def State.atomAfter (t : State) (c : Cohort) (rs : List (Nat × Nat × Resolved)) (o : MOrd) (sc : Scope) : State :=
  (if scopeRank c.pair (atomScope rs sc) < 2 then t.ccHold (clusterOf c.core) (awayLines (atomLines rs)) else t).after c (atomOrd rs o)
    (atomScope rs sc)
/-- The values that are to land in the destination of an atomic. -/
def Cohort.atomWrites (c : Cohort) (d : Option Reg) (n : Nat) (olds : List (Nat × Nat)) : List (Nat × Word) :=
  match d with
  | none => []
  | some d => olds.flatMap (fun e => (regKey c.v.wdepth c.S d e.1, (BitVec.ofNat 32 e.2 : Word)) ::
      (if n = 8 then [(regKey c.v.wdepth c.S (d + 1) e.1, (BitVec.ofNat 32 (e.2 / 2 ^ 32) : Word))] else []))

section Around

variable (t : State) (c : Cohort) (rs : List (Nat × Nat × Resolved)) (o : MOrd) (sc : Scope)

theorem levels_atomDrain : Levels c.core t (t.atomDrain c rs) := by
  unfold State.atomDrain
  split <;> exact levels_drainThose t c.core _

theorem State.gist_atomBefore : (t.atomBefore c rs o sc).gist = t.gist :=
  (((levels_atomDrain _ c rs).trans (levels_past _ c.core _)).gist).trans (t.gist_before c _ _)

theorem Settled.atomBefore {t : State} {c : Cohort} (h : Settled c.core t) :
    Settled c.core (t.atomBefore c rs o sc) ∧ (t.atomBefore c rs o sc).mem = t.mem := by
  have ordered := h.before (c := c) (atomOrd rs o) (atomScope rs sc)
  have past := ((levels_atomDrain _ c rs).trans (levels_past _ c.core (awayLines (atomLines rs)))).still ordered.1
  exact ⟨past.1, past.2.trans ordered.2⟩

theorem levels_ccHold (core : Nat) (lines : List Nat) : Levels core t (t.ccHold (clusterOf core) lines) := by
  unfold State.ccHold
  refine .foldl (fun q line => ?_) lines t
  exact ((levels_ccRoom q core line 7304).trans (levels_ccShare _ core (clusterOf core) line)).trans
    (levels_modCc _ core (clusterOf core) line _ fun _ => rfl)

theorem levels_atomAfter : Levels c.core t (t.atomAfter c rs o sc) := by
  unfold State.atomAfter
  refine .trans ?_ (levels_after _ c _ _)
  split
  · exact levels_ccHold t c.core _
  · exact .refl _ t

end Around

/-! ## An atomic performed -/

section Performed

variable {s t : State} {rs : List (Nat × Nat × Resolved)} {f : Bool} {dest : Option Reg} {n : Nat} {o : MOrd} {sc : Scope} {words : Nat}
  {lanes : List (Nat × Nat)} {g : Nat → Nat → Nat} {i : Instr}

/-- The operation of an atomic whose lanes have been performed in a state, with what they give. -/
def State.atomEnd (b : State) (c : Cohort) (rs : List (Nat × Nat × Resolved)) (f : Bool) (dest : Option Reg) (n : Nat) (o : MOrd) (sc : Scope)
    (words : Nat) (r : List (Nat × Nat) × List (Nat × Byte)) : State :=
  let ws := c.atomWrites dest n r.1
  let (op, t) := ((b.write r.2).atomAfter c rs o sc).startOp .atomic (c.flagOf f) (ws.map Prod.fst) ws
  t.lane (fun c => c.addReads op rs) words

theorem State.atomOp_of_resolved (hr : resolveAtomics s.co n lanes s = (t, .ok rs)) : s.atomOp f dest n o sc words lanes g =
    .next ((t.atomBefore s.co rs o sc).atomEnd s.co rs f dest n o sc words ((t.atomBefore s.co rs o sc).atomLanes n g rs [])) := by
  simp only [State.atomOp, hr, State.atomEnd, State.atomAfter, State.atomBefore, State.atomDrain, atomOrd, atomScope, Cohort.atomWrites]
  rfl

theorem opens_atomEnd (b : State) (c : Cohort) (r : List (Nat × Nat) × List (Nat × Byte)) (hb : b.gist = t.gist) :
    Opens t (b.atomEnd c rs f dest n o sc words r) words .atomic (c.flagOf f) (c.atomWrites dest n r.1) := by
  have whole : ((b.write r.2).atomAfter c rs o sc).gist = t.gist :=
    (levels_atomAfter (b.write r.2) c rs o sc).toBeside.gist.trans ((beyond_write b r.2).toBeside.gist.trans hb)
  have hco := State.co_of_gist whole
  have hfresh := State.fresh_of_gist whole
  simp [State.atomEnd, Opens, State.startOp, Cohort.addReads, Cohort.past, Cohort.addOp, hco, hfresh]

theorem mem_atomEnd (b : State) (c : Cohort) (r : List (Nat × Nat) × List (Nat × Byte)) :
    (b.atomEnd c rs f dest n o sc words r).mem = ((b.write r.2).atomAfter c rs o sc).mem := by
  simp [State.atomEnd, State.startOp]

/-- Where the core and its cluster hold no store that memory lacks, the lanes change memory, and nothing else does. -/
theorem byte_atomEnd {b : State} {c : Cohort} (h : Settled c.core b) (r : List (Nat × Nat) × List (Nat × Byte)) (a : Nat) :
    (b.atomEnd c rs f dest n o sc words r).byte a = b.byteAfter r.2 a := by
  obtain ⟨-, after⟩ := (levels_atomAfter (b.write r.2) c rs o sc).still (h.write r.2)
  rw [← State.byte_write_eq_byteAfter, State.byte, State.byte, mem_atomEnd, after]

/-- An atomic whose lanes have been resolved: they are performed on memory. -/
theorem reaches_atomOp (hi : exec i s = s.atomOp f dest n o sc words lanes g) (hr : resolveAtomics s.co n lanes s = (t, .ok rs))
    (hq : Quiet t) : Reaches s i (fun u => Opens t u words .atomic (s.co.flagOf f) (s.co.atomWrites dest n (t.atomLanes n g rs []).1) ∧
      ∀ a, u.byte a = t.byteAfter (t.atomLanes n g rs []).2 a) := by
  have hco : t.co = s.co := by
    have := (backstage_resolveAtomics s s.co n lanes).co
    rwa [hr] at this
  have settled : Settled s.co.core t := hco ▸ (settled_iff_quiet t).mpr hq
  obtain ⟨before, hmem⟩ := settled.atomBefore rs o sc
  have hgist := t.gist_atomBefore s.co rs o sc
  have same := State.atomLanes_congr (n := n) (g := g) hmem (State.tick_of_gist hgist) rs []
  refine ⟨_, hi.trans (State.atomOp_of_resolved hr), ?_, fun a => ?_⟩
  · rw [same]
    exact opens_atomEnd _ _ _ hgist
  · rw [same, byte_atomEnd before, State.byteAfter_congr hmem]

/-- No byte outside the lanes' accesses changes. -/
theorem byte_of_not_mem_atomLanes {u : State} (hu : ∀ a, u.byte a = t.byteAfter (t.atomLanes n g rs []).2 a) {a : Nat}
    (ha : ∀ e ∈ rs, a ∉ e.2.2.pas) : u.byte a = t.byte a := by
  rw [hu, State.byteAfter_of_not_mem]
  rintro x hx rfl
  obtain h | ⟨e, he, hxe⟩ := State.mem_atomLanes hx
  · cases h
  · exact ha e he hxe

/-- One lane's bytes after it hold what it has put there. -/
theorem leNat_atomLanes_single {u : State} {l va : Nat} {r : Resolved}
    (hu : ∀ a, u.byte a = t.byteAfter (t.atomLanes n g [(l, va, r)] []).2 a)
    (hp : Plain r) (hl : r.pas.length = n) (hn : r.pas.Nodup) :
    leNat (r.pas.map u.byte) = g l (leNat (r.pas.map t.byte)) % 2 ^ (8 * n) := by
  have bytes : r.pas.map u.byte = natLe n (g l (leNat (r.pas.map t.byte))) := by
    rw [← t.map_byteAfter_zip hn (hl.trans (length_natLe n _).symm)]
    exact List.map_congr_left fun b _ => by rw [hu, State.atomLanes_single hp]
  rw [bytes, leNat_natLe]

/-- An atomic whose lanes lie in the share: it completes, and one lane's value goes from its bytes to its destination. -/
theorem reaches_atomOp_of_inShare (hi : exec i s = s.atomOp f dest n o sc words lanes g) {at_ : Nat → Nat}
    (h : ∀ e ∈ lanes, e.2 % n = 0 ∧ InShare false s.co e.2 n (at_ e.1)) (hu : s.unmarked = true) (hh : ∀ pas, s.heldBy pas true = none)
    (hq : Quiet s) : Reaches s i (fun u => ∃ ws, Opens s u words .atomic (s.co.flagOf f) ws ∧ (dest = none → ws = []) ∧
      (∀ a, (∀ e ∈ lanes, a ∉ ShareBytes s.co (at_ e.1) n) → u.byte a = s.byte a) ∧
      ∀ l va, lanes = [(l, va)] →
        let old := leNat ((ShareBytes s.co (at_ l) n).map s.byte)
        leNat ((ShareBytes s.co (at_ l) n).map u.byte) = g l old % 2 ^ (8 * n) ∧
        ∀ d, dest = some d → ws = (regKey s.co.v.wdepth s.co.S d l, (BitVec.ofNat 32 old : Word)) ::
          (if n = 8 then [(regKey s.co.v.wdepth s.co.S (d + 1) l, (BitVec.ofNat 32 (old / 2 ^ 32) : Word))] else [])) := by
  obtain ⟨u, hexec, hopens, hbyte⟩ := reaches_atomOp hi (resolveAtomics_of_inShare h hu hh) hq
  refine ⟨u, hexec, _, hopens, ?_, fun a ha => ?_, ?_⟩
  · rintro rfl
    rfl
  · refine byte_of_not_mem_atomLanes hbyte fun e he => ?_
    obtain ⟨x, hx, rfl⟩ := List.mem_map.mp he
    exact ha x hx
  · rintro l va rfl
    have plain := plain_shareAccess s.co (at_ l) n
    refine ⟨leNat_atomLanes_single hbyte plain (length_shareBytes ..) (nodup_shareBytes ..), ?_⟩
    rintro d rfl
    rw [List.map_cons, List.map_nil, State.atomLanes_single plain]
    exact List.append_nil _

end Performed

/-! ## The operations (R187) -/

theorem State.atom_eq (s : State) (f : Bool) (d b v : Reg) (q : AtomQual) (h : DWord → DWord → DWord → DWord) :
    s.atom f d b v q h = s.atomOp f (some d) (if q.w64 then 8 else 4) q.ord q.scope 2
      (s.co.active.map (fun l => (l, (s.co.getPair b l + q.off.signExtend 64).toNat)))
      (fun l m => (h (BitVec.ofNat 64 m) (if q.w64 then s.co.getPair v l else (s.co.get v l).setWidth 64)
        (if q.w64 then s.co.getPair d l else (s.co.get d l).setWidth 64)).toNat) := rfl

theorem atomLt_eq (q : AtomQual) (x y : DWord) : atomLt q x y =
    if q.sgn then (if q.w64 then decide (x.toInt < y.toInt) else decide ((loOf x).toInt < (loOf y).toInt)) else decide (x.toNat < y.toNat) := by
  unfold atomLt
  simp only [BitVec.slt_eq_decide, BitVec.lt_def]

theorem Fmt.value_mod (f : Fmt) (c : Nat) : f.value (c % (2 * f.sign)) = f.value c := by
  unfold Fmt.value
  rw [Nat.mod_mod]

theorem Fmt.quiet_mod (f : Fmt) (c : Nat) : f.quiet (c % (2 * f.sign)) = f.quiet c := by
  unfold Fmt.quiet
  rw [Nat.mod_mod]

/-- A sum sees the codes of its operands, not the bits above them. -/
theorem Fmt.add_mod (f : Fmt) (a b : Nat) : f.add (a % (2 * f.sign)) (b % (2 * f.sign)) = f.add a b := by
  unfold Fmt.add
  rw [f.value_mod, f.value_mod, f.quiet_mod, f.quiet_mod, Nat.mod_mod, Nat.mod_mod]

/-- The sum of AFADD, in the lower half of a value. -/
def sum32 (m x : DWord) : DWord := BitVec.ofNat 64 (Fmt.f32.add m.toNat x.toNat)

theorem adds_sum32 (m x : DWord) : Adds (fType .f32) 0x7FC00000 (m.toNat % 2 ^ 32) (x.toNat % 2 ^ 32) (sum32 m x).toNat := by
  obtain ⟨hadds, hlt⟩ := fadd_result .f32 (m.toNat % 2 ^ 32) (x.toNat % 2 ^ 32)
  have low : (fmtOf .f32).add (m.toNat % 2 ^ 32) (x.toNat % 2 ^ 32) = Fmt.f32.add m.toNat x.toNat := Fmt.add_mod Fmt.f32 m.toNat x.toNat
  have code : Fmt.f32.add m.toNat x.toNat < 2 ^ 32 := low ▸ hlt
  have value : (sum32 m x).toNat = Fmt.f32.add m.toNat x.toNat := Nat.mod_eq_of_lt (code.trans (by decide))
  rw [value, ← low]
  exact hadds

/-- Settles O19: the lanes of every atomic run over memory, once what comes before them has left memory as it was. -/
theorem atomicsPerform : Obligations.AtomicsPerform := by
  unfold Obligations.AtomicsPerform
  intro s t rs f d b v q c n val less performed near both each
  have atomic {i : Instr} {n words : Nat} {o : MOrd} {sc : Scope} {lanes : List (Nat × Nat)} {dest : Option Reg} {g : Nat → Nat → Nat}
      (hi : exec i s = s.atomOp f dest n o sc words lanes g) : both i n words lanes dest g := by
    refine ⟨fun hr hq => ?_, fun _ h hu hh hq => reaches_atomOp_of_inShare hi h hu hh hq⟩
    obtain ⟨u, hexec, hopens, hbyte⟩ := reaches_atomOp hi hr hq
    refine ⟨u, hexec, by cases dest <;> exact hopens, hbyte, fun a => byte_of_not_mem_atomLanes hbyte, ?_⟩
    rintro l va r rfl plain hl hn
    exact ⟨by rw [State.atomLanes_single plain], leNat_atomLanes_single hbyte plain hl hn⟩
  have lessThan : less = atomLt q := funext fun x => funext fun y => (atomLt_eq q x y).symm
  have perLane {i : Instr} {h : DWord → DWord → DWord → DWord} (hi : exec i s = s.atom f d b v q h) : each i h := by
    show both i n 2 (c.active.map (fun l => (l, (c.getPair b l + q.off.signExtend 64).toNat))) (some d)
      (fun l m => (h (BitVec.ofNat 64 m) (val v l) (val d l)).toNat)
    exact atomic (hi.trans (s.atom_eq f d b v q h))
  clear_value each both
  refine ⟨perLane rfl, ?_, ?_, perLane rfl, perLane rfl, perLane rfl, perLane rfl, perLane rfl, ⟨sum32, perLane rfl, adds_sum32⟩,
    atomic (exec_evsig ..)⟩
  · rw [lessThan]
    exact perLane rfl
  · rw [lessThan]
    exact perLane rfl

end Sys2Proof.Machine

/-!
Translations and their queries (O22). A walk that ends well sets a bit in memory and fills two TLBs; nothing of a cohort changes.
-/

namespace Sys2Proof.Machine

open Sys2Proof.Claims

/-! ## What a translation leaves unchanged (R348, R349) -/

section Frame

variable (s : State)

theorem State.gist_write (cells : List (Nat × Byte)) : (s.write cells).gist = s.gist := (beyond_write s cells).toBeside.gist

theorem State.gist_setAD (w : Walked) (k : AccessKind) : (setAD s w k).gist = s.gist := by
  unfold setAD
  extract_lets _ _ add base
  split
  · rfl
  · split <;> exact s.gist_write _

theorem State.gist_tlbFill (core ctx vpn : Nat) (l : Leaf) : (s.tlbFill core ctx vpn l).gist = s.gist := rfl

theorem State.gist_translate (core : Option Nat) (ctx va : Nat) (k : AccessKind) (site : Nat) :
    (translate s core ctx va k site).1.gist = s.gist := by
  unfold translate
  dsimp only
  split
  · split <;> rfl
  · split
    · rfl
    · split
      · rfl
      · cases core <;> exact s.gist_setAD ..

end Frame

/-! ## TLBQ (R196) -/

section Query

variable {s t : State} {f : Bool} {d a : Reg} {x va : Nat}

/-- A query whose answer is known opens an operation that is to land it in a pair of every active and inactive lane. -/
theorem tlbq_opens (h : s.tlbq s.co (s.co.ugetPair a).toNat = (t, x)) (ht : t.gist = s.gist) :
    Reaches s (.tlbq f d a) (fun q => q.co.idx = s.co.idx + 1 ∧ q.co.v.regs = s.co.v.regs ∧ ∃ ws, q.co.v.ops = s.co.v.ops ++
      [{ id := s.fresh, kind := .maint, flag := s.co.flagOf f, clause := s.co.clause, keys := ws.map Prod.fst, writes := ws }] ∧
      ws = s.co.livel.flatMap (fun l => [(regKey s.co.v.wdepth s.co.S d l, loOf (BitVec.ofNat 64 x)),
        (regKey s.co.v.wdepth s.co.S (d + 1) l, hiOf (BitVec.ofNat 64 x))])) := by
  have hco := State.co_of_gist ht
  have hfresh := State.fresh_of_gist ht
  refine ⟨_, (exec_tlbq s f d a).trans (by simp only [execTlbq, h]; rfl), ?_, ?_, _, ?_, rfl⟩ <;>
    simp [State.startOp, Cohort.past, Cohort.addOp, hco, hfresh]

/-- A permission bit of the answer, for a leaf that is not migrating. -/
theorem permit_isOk (l : Leaf) (k : AccessKind) : (permit { l with mig := false } k).isOk = ((l.u && l.pbmt != 3) && (match k with
    | .read => l.r
    | .write => l.w && areaOf l.pa != .flash
    | .fetch => l.x)) := by
  cases k <;> grind [permit, Except.toBool]

theorem tlbqOf_eq (l : Leaf) (va : Nat) : tlbqOf l va =
    1 + (if (l.u && l.pbmt != 3) && l.r then 2 ^ 1 else 0) + (if (l.u && l.pbmt != 3) && l.w && areaOf l.pa != .flash then 2 ^ 2 else 0) +
      (if (l.u && l.pbmt != 3) && l.x then 2 ^ 3 else 0) + (if l.mig then 2 ^ 4 else 0) + l.pbmt * 2 ^ 5 + (if l.so then 2 ^ 7 else 0) +
      l.efmt * 2 ^ 8 + (l.pa + va % 4096) / 4096 % 2 ^ 38 * 2 ^ 12 + l.bgeo * 2 ^ 50 + l.size * 2 ^ 52 := by
  simp only [tlbqOf, permit_isOk, bitsOf, Nat.shiftRight_eq_div_pow, Bool.and_assoc]

end Query

/-- Settles O22: in each window, and for each end of the walk, what the query finds is what its pair is to take. -/
theorem translationQueries : Obligations.TranslationQueries := by
  unfold Obligations.TranslationQueries
  intro s f d a hS c va answers bit
  have answered {t : State} {x : Nat} (h : s.tlbq c va = (t, x)) (ht : t.gist = s.gist) : answers x := tlbq_opens h ht
  refine ⟨fun x hx => answered (t := s) ?_ rfl, fun x hx => answered (t := s) ?_ rfl, fun hwin hheld => ⟨fun e he hcause => ?_, fun w hw => ?_⟩,
    fun hd => uniformPair_of_eq hS hd rfl⟩
  · simp only [State.tlbq, hx]
  · simp only [State.tlbq, hx, bitsOf, Nat.shiftRight_eq_div_pow]
    rfl
  · refine answered (t := s) ?_ rfl
    simp only [State.tlbq, hwin, hheld, he, ite_self, hcause]
    rfl
  · refine answered (t := (setAD s w .read).tlbFill c.core c.ctx (va / 4096) w.leaf) ?_ ((State.gist_tlbFill ..).trans (s.gist_setAD w .read))
    simp only [State.tlbq, hwin, hheld, hw, tlbqOf_eq]
    rfl

end Sys2Proof.Machine

/-!
Fetches through the caches (R181, R222, R223, R307): what a read leaves unchanged, and that where the core's copies agree with memory it
reads what memory holds and the copies agree still.
-/

namespace Sys2Proof.Machine

open Sys2Proof.Claims

/-! ## Bytes of a number, entries of a list -/

/-- A byte of a little-endian number. -/
theorem byte_of_leNat {bs : List Byte} {i : Nat} (h : i < bs.length) : BitVec.ofNat 8 (leNat bs / 256 ^ i) = bs[i] := by
  induction bs generalizing i with
  | nil => cases h
  | cons b bs ih =>
    have low := b.isLt
    cases i with
    | zero =>
      rw [leNat, pow_zero, Nat.div_one]
      exact BitVec.eq_of_toNat_eq (by rw [BitVec.toNat_ofNat, List.getElem_cons_zero]; omega)
    | succ i =>
      rw [leNat, pow_succ', ← Nat.div_div_eq_div_mul, Nat.add_mul_div_left _ _ (by decide), Nat.div_eq_of_lt low, Nat.zero_add]
      exact ih (Nat.lt_of_succ_lt_succ h)

theorem leNat_lt (bs : List Byte) : leNat bs < 256 ^ bs.length := by
  induction bs with
  | nil => exact Nat.one_pos
  | cons b bs ih =>
    have low := b.isLt
    rw [leNat, List.length_cons, pow_succ']
    omega

theorem Tab.get_map_self {α : Type} (d : α) (g : Nat → α) {us : List Nat} {u : Nat} (h : u ∈ us) :
    Tab.get d (us.map (fun u => (u, g u))) u = g u := by
  induction us with
  | nil => cases h
  | cons v us ih =>
    by_cases hv : v = u
    · simp [Tab.get, hv]
    · simpa [Tab.get, hv] using ih ((List.mem_cons.mp h).resolve_left (Ne.symm hv))

/-! ## A core whose copies agree with memory -/

/-- Every valid sector of a core's L1 and every unit of its read-only caches is as memory has it, and what it has stored is in memory. -/
structure AgreesAt (core : Nat) (s : State) : Prop where
  l1 : ∀ e ∈ (s.core core).l1, e.2.data.length = 64 ∧
    ∀ n < 4, e.2.valid.getLsbD n = true → e.2.sector n = s.bytes (64 * e.1 + 16 * n) 16
  ro : ∀ e ∈ (s.core core).ro ++ (s.core core).cst, e.2 = BitVec.ofNat 32 (s.readN (4 * e.1) 4)
  settled : Settled core s

theorem agreesAt_iff_agrees (s : State) : AgreesAt s.co.core s ↔ Agrees s :=
  ⟨fun ⟨h, k, w⟩ => ⟨h, k, (settled_iff_quiet s).mp w⟩, fun ⟨h, k, w⟩ => ⟨h, k, (settled_iff_quiet s).mpr w⟩⟩

/-- From s to t only caches and what a release may write have changed; where the core's copies agreed with memory they agree still, and
memory is as it was. -/
structure Fetches (core : Nat) (s t : State) : Prop where
  gist : t.gist = s.gist
  agrees : AgreesAt core s → AgreesAt core t ∧ t.mem = s.mem

section Relations

variable {core : Nat} {s t u : State}

theorem State.byte_of_mem (h : t.mem = s.mem) : t.byte = s.byte := funext fun _ => congrArg (Tab.get memDefault · _) h
theorem State.bytes_of_mem (h : t.mem = s.mem) (a n : Nat) : t.bytes a n = s.bytes a n := by rw [State.bytes, State.byte_of_mem h]; rfl
theorem State.readN_of_mem (h : t.mem = s.mem) (a n : Nat) : t.readN a n = s.readN a n := congrArg leNat (State.bytes_of_mem h a n)

theorem Fetches.refl (core : Nat) (s : State) : Fetches core s s := ⟨rfl, fun h => ⟨h, rfl⟩⟩
theorem Fetches.trans (h : Fetches core s t) (k : Fetches core t u) : Fetches core s u :=
  ⟨k.gist.trans h.gist, fun hs => ⟨(k.agrees (h.agrees hs).1).1, (k.agrees (h.agrees hs).1).2.trans (h.agrees hs).2⟩⟩

/-- The levels' moves keep a core's copies where they put no line into its L1 and leave its read-only caches. -/
theorem fetches_of_levels (h : Levels core s t) (hl : Settled core s → ∀ e ∈ (t.core core).l1, e ∈ (s.core core).l1)
    (hr : Settled core s → (t.core core).ro = (s.core core).ro ∧ (t.core core).cst = (s.core core).cst) : Fetches core s t := by
  refine ⟨h.gist, fun ⟨l1, ro, settled⟩ => ?_⟩
  obtain ⟨settled', mem⟩ := h.still settled
  obtain ⟨hro, hcst⟩ := hr settled
  refine ⟨⟨fun e he => ?_, fun e he => ?_, settled'⟩, mem⟩
  · simpa only [State.bytes_of_mem mem] using l1 e (hl settled e he)
  · rw [State.readN_of_mem mem]
    exact ro e (by rwa [hro, hcst] at he)

/-- A core that holds no store of its own has every byte as memory has it. -/
theorem Settled.nearByte (h : Settled core s) : s.nearByte core = s.byte := by
  funext pa
  have beyond : s.clByte (clusterOf core) pa = s.byte pa := by
    unfold State.clByte
    split
    · next e he => rw [h.cc _ (Tab.mem_of_find he)]; rfl
    · rfl
  unfold State.nearByte
  split
  · next e he =>
    have clean : e.own = 0 := h.l1 _ (Tab.mem_of_find he)
    simp [clean, beyond]
  · exact beyond

theorem Settled.nearBytes (h : Settled core s) (a n : Nat) : s.nearBytes core a n = s.bytes a n := by
  rw [State.nearBytes, h.nearByte]; rfl

theorem Settled.nearN (h : Settled core s) (a n : Nat) : s.nearN core a n = s.readN a n := congrArg leNat (h.nearBytes a n)

end Relations

/-! ## The first-level cache (R222, R223) -/

section L1

variable (s : State) (core : Nat)

theorem State.dropLines_of_clean {core : Nat} (lines : List Nat) (h : ∀ e ∈ (s.core core).l1, e.2.own = 0) :
    s.dropLines core lines = s.modCore core (fun c => { c with l1 := c.l1.filter (fun e => !lines.contains e.1) }) := by
  rw [State.dropLines, s.writeBack_of_clean lines h]

theorem fetches_dropLines (lines : List Nat) : Fetches core s (s.dropLines core lines) := by
  refine fetches_of_levels (levels_dropLines s core lines) (fun h e he => ?_) (fun h => ?_)
  all_goals rw [s.dropLines_of_clean lines h.l1, State.core_modCore, if_pos rfl] at *
  · exact (List.mem_filter.mp he).1
  · exact ⟨rfl, rfl⟩

theorem fetches_l1Room (line : Nat) : Fetches core s (s.l1Room core line) := by
  unfold State.l1Room
  dsimp only
  split
  · exact .refl core s
  · split
    · exact fetches_dropLines s core _
    · exact .refl core s

theorem State.cores_ccRoom_of_settled {core : Nat} (h : Settled core s) (line site : Nat) :
    (s.ccRoom (clusterOf core) line site).cores = s.cores := by
  unfold State.ccRoom
  dsimp only
  split
  · rfl
  · split
    · rw [State.ccEvict, s.ownLine_of_empty h.cc]; rfl
    · rfl

theorem fetches_ccFill (line : Nat) (sectors : BitVec 4) (low : Bool) : Fetches core s (s.ccFill (clusterOf core) line sectors low) := by
  have same (h : Settled core s) : (s.ccFill (clusterOf core) line sectors low).core core = s.core core :=
    congrArg (Tab.get Core.init · core) (s.cores_ccRoom_of_settled h line 7301)
  exact fetches_of_levels (levels_ccFill s core line sectors low) (fun h e he => same h ▸ he) fun h => same h ▸ ⟨rfl, rfl⟩

section Fill

variable {e : L1Line} {k n : Nat} {mark : Bool} {bs : List Byte} (he : e.data.length = 64) (hk : k < 4) (hb : bs.length = 16)
include he hk hb

/-- A line with a sector filled has 64 bytes still. -/
theorem L1Line.length_fill : (e.fill k mark bs).data.length = 64 := by
  simp [L1Line.fill, he, hb]
  omega

/-- The bytes of a line with a sector filled. -/
theorem L1Line.getElem?_fill (i : Nat) : (e.fill k mark bs).data[i]? = if i / 16 = k then bs[i % 16]? else e.data[i]? := by
  have front : (e.data.take (16 * k) ++ bs).length = 16 * k + 16 := by
    simp [he, hb]
    omega
  have start : (e.data.take (16 * k)).length = 16 * k := by
    simp [he]
    omega
  have data : (e.fill k mark bs).data = e.data.take (16 * k) ++ bs ++ e.data.drop (16 * k + 16) := rfl
  rw [data]
  by_cases hin : i / 16 = k
  · rw [if_pos hin, List.getElem?_append_left (by omega), List.getElem?_append_right (by omega), start]
    congr 1
    omega
  · rw [if_neg hin]
    by_cases hi : i < 16 * k
    · rw [List.getElem?_append_left (by omega), List.getElem?_append_left (by omega), List.getElem?_take, if_pos hi]
    · rw [List.getElem?_append_right (by omega), front, List.getElem?_drop]
      congr 1
      omega

theorem L1Line.sector_fill_same : (e.fill k mark bs).sector k = bs := by
  refine List.ext_getElem? fun i => ?_
  rw [L1Line.sector, List.getElem?_take]
  split
  · rw [List.getElem?_drop, L1Line.getElem?_fill he hk hb, if_pos (by omega)]
    congr 1
    omega
  · exact (List.getElem?_eq_none (by omega)).symm

theorem L1Line.sector_fill_other (hne : n ≠ k) : (e.fill k mark bs).sector n = e.sector n := by
  refine List.ext_getElem? fun i => ?_
  rw [L1Line.sector, L1Line.sector, List.getElem?_take, List.getElem?_take]
  split
  · rw [List.getElem?_drop, List.getElem?_drop, L1Line.getElem?_fill he hk hb, if_neg (by omega)]
  · rfl

end Fill

theorem L1Line.valid_fill_other (e : L1Line) {k n : Nat} (mark : Bool) (bs : List Byte) (hne : n ≠ k) :
    (e.fill k mark bs).valid.getLsbD n = e.valid.getLsbD n := by
  have other : (BitVec.ofNat 4 (2 ^ k)).getLsbD n = false := by
    rw [BitVec.getLsbD_ofNat, Nat.testBit_two_pow, decide_eq_false hne.symm, Bool.and_false]
  rw [L1Line.fill, BitVec.getLsbD_or, other, Bool.or_false]

/-- A sector that comes from memory agrees with it. -/
theorem AgreesAt.fill {s : State} {core : Nat} (h : AgreesAt core s) (sec : Nat) (mark : Bool) :
    AgreesAt core (s.modCore core (fun c => { c with l1 := Tab.put c.l1 (sec / 4) ((Tab.get L1Line.init c.l1 (sec / 4)).fill (sec % 4)
      mark (s.nearBytes core (16 * sec) 16)) })) := by
  obtain ⟨l1, ro, settled⟩ := h
  have old : (Tab.get L1Line.init (s.core core).l1 (sec / 4)).own = 0 ∧ (Tab.get L1Line.init (s.core core).l1 (sec / 4)).data.length = 64 ∧
      ∀ n < 4, (Tab.get L1Line.init (s.core core).l1 (sec / 4)).valid.getLsbD n = true →
        (Tab.get L1Line.init (s.core core).l1 (sec / 4)).sector n = s.bytes (64 * (sec / 4) + 16 * n) 16 := by
    rcases Tab.get_eq_or_mem (d := L1Line.init) (s.core core).l1 (sec / 4) with hg | hg
    · rw [hg]
      exact ⟨rfl, rfl, fun n _ hn => absurd hn (by simp [L1Line.init])⟩
    · exact ⟨settled.l1 _ hg, l1 _ hg⟩
  obtain ⟨own, length, valid⟩ := old
  have near : (s.nearBytes core (16 * sec) 16).length = 16 := by simp [State.nearBytes]
  have hk : sec % 4 < 4 := Nat.mod_lt _ (by decide)
  refine ⟨fun e he => ?_, ?_, ⟨fun e he => ?_, settled.cc, ?_⟩⟩
  all_goals simp only [State.core_modCore, if_pos] at *
  · rcases Tab.mem_of_mem_put he with rfl | he
    · refine ⟨L1Line.length_fill length hk near, fun n hn hv => ?_⟩
      by_cases hne : n = sec % 4
      · rw [hne, L1Line.sector_fill_same length hk near, settled.nearBytes, show 16 * sec = 64 * (sec / 4) + 16 * (sec % 4) by omega]
        rfl
      · rw [L1Line.sector_fill_other length hk near hne]
        exact valid n hn (by rwa [L1Line.valid_fill_other _ _ _ hne] at hv)
    · exact l1 e he
  · exact ro
  · rcases Tab.mem_of_mem_put he with rfl | he
    · exact own
    · exact settled.l1 e he
  · exact settled.wc

theorem fetches_fillSector (sec : Nat) (low : Bool) : Fetches core s (s.fillSector core sec low) := by
  have filled (t : State) (mark : Bool) : Fetches core t (t.modCore core (fun c =>
      { c with l1 := Tab.put c.l1 (sec / 4) ((Tab.get L1Line.init c.l1 (sec / 4)).fill (sec % 4) mark (t.nearBytes core (16 * sec) 16)) })) :=
    ⟨rfl, fun h => ⟨h.fill sec mark, rfl⟩⟩
  exact ((fetches_l1Room s core (sec / 4)).trans (fetches_ccFill _ core (sec / 4) _ low)).trans (filled _ _)

theorem fetches_needSector (sec : Nat) (low : Bool) : Fetches core s (s.needSector core sec low) := by
  unfold State.needSector
  split
  · split
    · exact .refl core s
    · exact fetches_fillSector s core sec low
  · exact fetches_fillSector s core sec low

theorem fetches_l1Sector (sec site : Nat) (low : Bool) : Fetches core s (s.l1Sector core sec site low).1 := by
  unfold State.l1Sector
  dsimp only
  split
  · exact fetches_fillSector s core sec low
  · split
    · exact fetches_fillSector s core sec low
    · split
      · exact .refl core s
      · split
        · exact .refl core s
        · exact fetches_fillSector s core sec low

/-- A core whose copies agree with memory reads a sector as memory has it. -/
theorem AgreesAt.l1Sector {s : State} {core : Nat} (h : AgreesAt core s) (sec site : Nat) (low : Bool) :
    (s.l1Sector core sec site low).2 = s.bytes (16 * sec) 16 := by
  have now := h.settled.nearBytes (16 * sec) 16
  unfold State.l1Sector
  dsimp only
  split
  · exact now
  · next e he =>
    split
    · exact now
    · next hv =>
      have old : e.sector (sec % 4) = s.bytes (64 * (sec / 4) + 16 * (sec % 4)) 16 :=
        (h.l1 _ (Tab.mem_of_find he)).2 _ (Nat.mod_lt _ (by decide)) (by simpa using hv)
      rw [if_pos (old.trans (by rw [now]; congr 1; omega))]
      exact now

end L1

/-! ## The read-only caches (R180, R181) -/

section Ro

variable (s : State) (core : Nat)

theorem AgreesAt.putRo {s : State} {core : Nat} (h : AgreesAt core s) (k : Bool) (u : Nat) :
    AgreesAt core (s.modCore core (fun c => c.putRo k u (BitVec.ofNat 32 (s.nearN core (4 * u) 4)))) := by
  obtain ⟨l1, ro, settled⟩ := h
  have new : BitVec.ofNat 32 (s.nearN core (4 * u) 4) = BitVec.ofNat 32 (s.readN (4 * u) 4) := by rw [settled.nearN]
  refine ⟨?_, fun e he => ?_, ⟨?_, settled.cc, ?_⟩⟩
  all_goals simp only [State.core_modCore, if_pos] at *
  · cases k <;> exact l1
  · cases k
    · rcases List.mem_append.mp he with he | he
      · rcases Tab.mem_of_mem_put he with rfl | he
        · exact new
        · exact ro e (List.mem_append_left _ he)
      · exact ro e (List.mem_append_right _ he)
    · rcases List.mem_append.mp he with he | he
      · exact ro e (List.mem_append_left _ he)
      · rcases Tab.mem_of_mem_put he with rfl | he
        · exact new
        · exact ro e (List.mem_append_right _ he)
  · cases k <;> exact settled.l1
  · cases k <;> exact settled.wc

theorem fetches_roUnit (k : Bool) (u site : Nat) : Fetches core s (s.roUnit core k u site).1 := by
  have put : Fetches core s (s.modCore core (fun c => c.putRo k u (BitVec.ofNat 32 (s.nearN core (4 * u) 4)))) :=
    ⟨rfl, fun h => ⟨h.putRo k u, rfl⟩⟩
  unfold State.roUnit
  dsimp only
  split
  · exact put
  · split
    · exact .refl core s
    · split
      · exact .refl core s
      · exact put

/-- A core whose copies agree with memory reads a unit as memory has it. -/
theorem AgreesAt.roUnit {s : State} {core : Nat} (h : AgreesAt core s) (k : Bool) (u site : Nat) :
    (s.roUnit core k u site).2 = BitVec.ofNat 32 (s.readN (4 * u) 4) := by
  have now := congrArg (BitVec.ofNat 32) (h.settled.nearN (4 * u) 4)
  unfold State.roUnit
  dsimp only
  split
  · exact now
  · next old he =>
    have held : (u, old) ∈ (s.core core).ro ++ (s.core core).cst := by
      cases k
      · exact List.mem_append_left _ (Tab.mem_of_find he)
      · exact List.mem_append_right _ (Tab.mem_of_find he)
    rw [if_pos ((h.ro _ held).trans now.symm)]
    exact now

end Ro

/-! ## Bytes read unit by unit -/

/-- Units read in turn, each with what it gives. -/
def readUnits {β : Type} (f : State → Nat → State × β) (us : List Nat) (s : State) : State × Tab β :=
  us.foldl (fun t u => ((f t.1 u).1, t.2 ++ [(u, (f t.1 u).2)])) (s, [])

section Units

variable {β : Type} {f : State → Nat → State × β} {core : Nat}

theorem readUnits_append (us : List Nat) (u : Nat) (s : State) : readUnits f (us ++ [u]) s =
    ((f (readUnits f us s).1 u).1, (readUnits f us s).2 ++ [(u, (f (readUnits f us s).1 u).2)]) := by
  rw [readUnits, List.foldl_append]
  rfl

theorem fetches_readUnits (hf : ∀ s u, Fetches core s (f s u).1) (us : List Nat) (s : State) : Fetches core s (readUnits f us s).1 := by
  induction us using List.reverseRecOn with
  | nil => exact .refl core s
  | append_singleton us u ih =>
    rw [readUnits_append]
    exact ih.trans (hf _ u)

/-- Units that are read as memory has them. -/
theorem AgreesAt.readUnits {s : State} (h : AgreesAt core s) (hf : ∀ s u, Fetches core s (f s u).1) {g : Nat → β}
    (hg : ∀ t, AgreesAt core t → t.mem = s.mem → ∀ u, (f t u).2 = g u) (us : List Nat) :
    (Machine.readUnits f us s).2 = us.map (fun u => (u, g u)) := by
  induction us using List.reverseRecOn with
  | nil => rfl
  | append_singleton us u ih =>
    obtain ⟨agrees, mem⟩ := (fetches_readUnits hf us s).agrees h
    rw [readUnits_append, ih, hg _ agrees mem, List.map_append]
    rfl

theorem fetches_l1Bytes (s : State) (core site : Nat) (low : Bool) (pas : List Nat) : Fetches core s (s.l1Bytes core site low pas).1 :=
  fetches_readUnits (f := fun t sec => t.l1Sector core sec site low) (fun t sec => fetches_l1Sector t core sec site low) _ s

theorem fetches_roBytes (s : State) (core : Nat) (k : Bool) (site : Nat) (pas : List Nat) : Fetches core s (s.roBytes core k site pas).1 :=
  fetches_readUnits (f := fun t u => t.roUnit core k u site) (fun t u => fetches_roUnit t core k u site) _ s

theorem State.getD_bytes (s : State) (a n i : Nat) (h : i < n) : (s.bytes a n).getD i 0 = s.byte (a + i) := by
  simp [State.bytes, h]

/-- A core whose copies agree with memory loads through its L1 what memory holds. -/
theorem AgreesAt.l1Bytes {s : State} {core : Nat} (h : AgreesAt core s) (site : Nat) (low : Bool) (pas : List Nat) :
    (s.l1Bytes core site low pas).2 = pas.map s.byte := by
  have read := h.readUnits (f := fun t sec => t.l1Sector core sec site low) (fun t sec => fetches_l1Sector t core sec site low)
    (g := fun sec => s.bytes (16 * sec) 16) (fun t ht hm sec => (ht.l1Sector sec site low).trans (State.bytes_of_mem hm _ _))
    ((pas.map (fun a => a / 16)).eraseDups)
  refine List.map_congr_left fun a ha => ?_
  refine (congrArg (fun l => (Tab.get [] l (a / 16)).getD (a % 16) 0) read).trans ?_
  rw [Tab.get_map_self [] _ (List.mem_eraseDups.mpr (List.mem_map_of_mem ha)), s.getD_bytes _ _ _ (Nat.mod_lt _ (by decide)), Nat.div_add_mod]

/-- A core whose copies agree with memory loads through its read-only caches what memory holds. -/
theorem AgreesAt.roBytes {s : State} {core : Nat} (h : AgreesAt core s) (k : Bool) (site : Nat) (pas : List Nat) :
    (s.roBytes core k site pas).2 = pas.map s.byte := by
  have read := h.readUnits (f := fun t u => t.roUnit core k u site) (fun t u => fetches_roUnit t core k u site)
    (g := fun u => BitVec.ofNat 32 (s.readN (4 * u) 4)) (fun t ht hm u => (ht.roUnit k u site).trans (by rw [State.readN_of_mem hm]))
    ((pas.map (fun a => a / 4)).eraseDups)
  refine List.map_congr_left fun a ha => ?_
  refine (congrArg (fun l => BitVec.ofNat 8 ((Tab.get 0 l (a / 4)).toNat / 256 ^ (a % 4))) read).trans ?_
  have length : (s.bytes (4 * (a / 4)) 4).length = 4 := by simp [State.bytes]
  have small : s.readN (4 * (a / 4)) 4 < 2 ^ 32 := (leNat_lt _).trans_le (by rw [length]; decide)
  rw [Tab.get_map_self 0 _ (List.mem_eraseDups.mpr (List.mem_map_of_mem ha)), BitVec.toNat_ofNat, Nat.mod_eq_of_lt small, State.readN,
    byte_of_leNat (by rw [length]; exact Nat.mod_lt _ (by decide))]
  simp [State.bytes, Nat.div_add_mod]

end Units

end Sys2Proof.Machine

/-!
Loads (O16). Each lane reads its access page by page; what the read does to the caches leaves the cohort as it was.
-/

namespace Sys2Proof.Machine

open Sys2Proof.Claims

/-! ## What comes before an access to a page (R174, R178) -/

section First

variable (s : State) (c : Cohort)

theorem State.gist_orderedFirst (l : Option Leaf) : (s.orderedFirst c l).gist = s.gist := by
  unfold State.orderedFirst
  split
  · split
    · exact (levels_acquire _ c .pkg).gist.trans ((State.gist_ticket _).trans (levels_release s c .pkg).gist)
    · split
      · exact (levels_drainThose s c.core _).gist
      · rfl
  · rfl

theorem levels_aliasFirst (l : Option Leaf) (pas : List Nat) : Levels c.core s (s.aliasFirst c l pas) := by
  have drained : Levels c.core s (if l.any Leaf.combining then s
      else s.drainThose c.core (fun w => w.co == c.id && ((pas.map (fun a => a / 64)).eraseDups).contains w.line)) := by
    split
    · exact .refl _ s
    · exact levels_drainThose s c.core _
  unfold State.aliasFirst
  dsimp only
  split
  · exact drained
  · exact drained.trans (levels_past _ c.core _)

/-- Bytes that lie on chip, or on a normal page that does not name the control range. -/
def PlainPart (part : Option Leaf × List Nat) : Prop := ∀ l, part.1 = some l → l.normal = true ∧ areaOf l.pa ≠ .control

/-- With nothing buffered, nothing comes before an access to such bytes. -/
theorem State.first_of_plain {s : State} {c : Cohort} {part : Option Leaf × List Nat} (hp : PlainPart part) (hw : (s.core c.core).wc = []) :
    (s.orderedFirst c part.1).aliasFirst c part.1 part.2 = s := by
  have ordered : s.orderedFirst c part.1 = s := by
    unfold State.orderedFirst
    split
    · next l hl =>
      have normal := (hp l hl).1
      simp only [Leaf.normal, Bool.and_eq_true, beq_iff_eq, Bool.not_eq_eq_eq_not, Bool.not_true] at normal
      simp [normal]
    · rfl
  have normal : part.1.elim true Leaf.normal = true := by
    cases hl : part.1 with
    | none => rfl
    | some l => exact (hp l hl).1
  rw [ordered, State.aliasFirst]
  simp only [s.drainThose_of_empty _ hw, ite_self, normal, if_true]

theorem plainPart_of_mem {r : Resolved} (h : Plain r) {part : Option Leaf × List Nat} (hp : part ∈ r.parts) : PlainPart part :=
  fun l hl => h l (List.mem_filterMap.mpr ⟨part, hp, hl⟩)

theorem Resolved.flatMap_parts (r : Resolved) : r.parts.flatMap Prod.snd = r.pas := by
  unfold Resolved.parts
  cases r.next with
  | none => exact List.append_nil _
  | some x => simp

end First

/-! ## Fetches -/

section Fetch

variable (s : State) (c : Cohort) (p : Machine.Path)

theorem State.gist_fetchPart (part : Option Leaf × List Nat) (site : Nat) : (s.fetchPart c p part site).1.gist = s.gist := by
  have first := (levels_aliasFirst (s.orderedFirst c part.1) c part.1 part.2).gist.trans (s.gist_orderedFirst c part.1)
  unfold State.fetchPart
  dsimp only
  split
  · exact first
  · split
    · rfl
    · split
      · cases p
        · exact (fetches_l1Bytes _ c.core site false part.2).gist.trans first
        · exact (fetches_l1Bytes _ c.core site true part.2).gist.trans first
        · exact (fetches_roBytes _ c.core false site part.2).gist.trans first
        · exact (fetches_roBytes _ c.core true site part.2).gist.trans first
      · split <;> exact first

theorem State.gist_fetchParts (site : Nat) (parts : List (Option Leaf × List Nat)) :
    (State.fetchParts c p site parts s).1.gist = s.gist := by
  induction parts generalizing s with
  | nil => rfl
  | cons part parts ih => exact (ih _).trans (s.gist_fetchPart c p part site)

/-- On-chip bytes are read as memory has them, and nothing else happens. -/
theorem State.fetchPart_onchip {s : State} {c : Cohort} (pas : List Nat) (site : Nat) (hw : (s.core c.core).wc = []) :
    s.fetchPart c p (none, pas) site = (s, pas.map s.byte) := by
  have first : (s.orderedFirst c none).aliasFirst c none pas = s := State.first_of_plain (part := (none, pas)) (fun _ h => by cases h) hw
  simp only [State.fetchPart, first]

/-- A core whose copies agree with memory reads plain bytes as memory has them. -/
theorem AgreesAt.fetchPart {s : State} {c : Cohort} (h : AgreesAt c.core s) {part : Option Leaf × List Nat} (hp : PlainPart part)
    (site : Nat) : (AgreesAt c.core (s.fetchPart c p part site).1 ∧ (s.fetchPart c p part site).1.mem = s.mem) ∧
      (s.fetchPart c p part site).2 = part.2.map s.byte := by
  have first := State.first_of_plain hp h.settled.wc
  unfold State.fetchPart
  rw [first]
  dsimp only
  split
  · exact ⟨⟨h, rfl⟩, rfl⟩
  · next l hl =>
    have normal := (hp l hl).1
    simp only [Leaf.normal, Bool.and_eq_true, beq_iff_eq] at normal
    rw [if_neg (hp l hl).2]
    split
    · cases p
      · exact ⟨(fetches_l1Bytes s c.core site false part.2).agrees h, h.l1Bytes site false part.2⟩
      · exact ⟨(fetches_l1Bytes s c.core site true part.2).agrees h, h.l1Bytes site true part.2⟩
      · exact ⟨(fetches_roBytes s c.core false site part.2).agrees h, h.roBytes false site part.2⟩
      · exact ⟨(fetches_roBytes s c.core true site part.2).agrees h, h.roBytes true site part.2⟩
    · rw [if_neg (by simp [Leaf.combining, normal])]
      exact ⟨⟨h, rfl⟩, rfl⟩

theorem AgreesAt.fetchParts {s : State} {c : Cohort} (h : AgreesAt c.core s) (site : Nat) {parts : List (Option Leaf × List Nat)}
    (hp : ∀ part ∈ parts, PlainPart part) :
    (AgreesAt c.core (State.fetchParts c p site parts s).1 ∧ (State.fetchParts c p site parts s).1.mem = s.mem) ∧
      (State.fetchParts c p site parts s).2 = (parts.flatMap Prod.snd).map s.byte := by
  induction parts generalizing s with
  | nil => exact ⟨⟨h, rfl⟩, rfl⟩
  | cons part parts ih =>
    obtain ⟨hpart, hparts⟩ := List.forall_mem_cons.mp hp
    obtain ⟨⟨agrees, mem⟩, value⟩ := h.fetchPart p hpart site
    obtain ⟨⟨agrees', mem'⟩, value'⟩ := ih agrees hparts
    refine ⟨⟨agrees', mem'.trans mem⟩, ?_⟩
    rw [List.flatMap_cons, List.map_append, ← value, ← State.byte_of_mem mem, ← value']
    rfl

end Fetch

/-! ## The lanes -/

section Lanes

variable (s : State) (c : Cohort) (p : Machine.Path)

theorem State.readLanes_frame (rs : List (Nat × Nat × Resolved)) : (State.readLanes c p rs s).1.gist = s.gist ∧
    (State.readLanes c p rs s).2.map Prod.fst = rs.map Prod.fst := by
  induction rs generalizing s with
  | nil => exact ⟨rfl, rfl⟩
  | cons e rs ih =>
    obtain ⟨l, a, r⟩ := e
    obtain ⟨gist, keys⟩ := ih (s.fetchBytes c p r (1000 + l)).1
    exact ⟨gist.trans (s.gist_fetchParts c p (1000 + l) r.parts), congrArg (l :: ·) keys⟩

/-- The lanes' accesses read as memory has them. -/
def State.lanesBytes (s : State) (rs : List (Nat × Nat × Resolved)) : List (Nat × List Byte) := rs.map (fun e => (e.1, e.2.2.pas.map s.byte))

theorem AgreesAt.readLanes {s : State} {c : Cohort} (h : AgreesAt c.core s) {rs : List (Nat × Nat × Resolved)} (hp : ∀ e ∈ rs, Plain e.2.2) :
    (State.readLanes c p rs s).1.mem = s.mem ∧ (State.readLanes c p rs s).2 = s.lanesBytes rs := by
  induction rs generalizing s with
  | nil => exact ⟨rfl, rfl⟩
  | cons e rs ih =>
    obtain ⟨l, a, r⟩ := e
    obtain ⟨hr, hrs⟩ := List.forall_mem_cons.mp hp
    obtain ⟨⟨agrees, mem⟩, value⟩ := h.fetchParts p (1000 + l) fun part => plainPart_of_mem hr
    obtain ⟨mem', values⟩ := ih agrees hrs
    refine ⟨mem'.trans mem, congrArg₂ (fun bs more => (l, bs) :: more) (value.trans (by rw [r.flatMap_parts])) (values.trans ?_)⟩
    rw [State.lanesBytes, State.byte_of_mem mem]

/-- Lanes that lie in the share read its bytes, and nothing else happens. -/
theorem State.readLanes_share {s : State} {c : Cohort} (hw : (s.core c.core).wc = []) {lanes : List Nat} (addr at_ : Nat → Nat) (n : Nat) :
    State.readLanes c p (lanes.map (fun l => (l, addr l, shareAccess c (at_ l) n))) s =
      (s, lanes.map (fun l => (l, (ShareBytes c (at_ l) n).map s.byte))) := by
  induction lanes with
  | nil => rfl
  | cons l lanes ih =>
    have one : s.fetchBytes c p (shareAccess c (at_ l) n) (1000 + l) = (s, (ShareBytes c (at_ l) n).map s.byte) := by
      have part := State.fetchPart_onchip (s := s) p (ShareBytes c (at_ l) n) (1000 + l) hw
      have whole : (shareAccess c (at_ l) n).parts = [(none, ShareBytes c (at_ l) n)] := rfl
      simp only [State.fetchBytes, whole, State.fetchParts, part, List.append_nil]
    simp only [List.map_cons, State.readLanes, one, ih]

end Lanes

/-! ## A load begun (R177) -/

section Load

variable {s t : State} {p : Machine.Path} {share f sx : Bool} {d : Reg} {size : MSize} {words : Nat} {lanes : List (Nat × Nat)}
  {takes : Nat → List Nat} {rs : List (Nat × Nat × Resolved)} {i : Instr}

/-- The registers that take the lanes' values. -/
def Cohort.loadWrites (c : Cohort) (d : Reg) (size : MSize) (sx : Bool) (takes : Nat → List Nat) (got : List (Nat × List Byte)) :
    List (Nat × Word) :=
  got.flatMap (fun e => (takes e.1).flatMap (fun l => (List.range (sizeRegs size)).map (fun i =>
    (regKey c.v.wdepth c.S (d + BitVec.ofNat 6 i) l, loadedWord (sizeBytes size) sx e.2 i))))

/-- A value of an access size, extended as asked. -/
theorem loadedWord_eq (size : MSize) (sx : Bool) (bs : List Byte) (i : Nat) : loadedWord (sizeBytes size) sx bs i =
    let v := leNat ((bs.drop (4 * i)).take 4)
    if sx && sizeBytes size < 4 then BitVec.ofInt 32 ((BitVec.ofNat (8 * sizeBytes size) v).toInt) else BitVec.ofNat 32 v := by
  cases size <;> cases sx <;> simp [loadedWord, sizeBytes, BitVec.signExtend]

/-- A load whose lanes resolve opens an operation on their registers. -/
theorem reaches_loadOp (hi : exec i s = s.loadOp p share f d size sx words lanes takes)
    (hr : resolveLanes s.co p (sizeBytes size) .read share lanes s = (t, .ok rs)) {u : State} {got : List (Nat × List Byte)}
    (hg : State.readLanes s.co p rs t = (u, got)) :
    Reaches s i (fun q => Opens t q words .load (s.co.flagOf f) (s.co.loadWrites d size sx takes got) ∧ q.mem = u.mem) := by
  have gist : u.gist = t.gist := by
    have := (t.readLanes_frame s.co p rs).1
    rwa [hg] at this
  have hco := State.co_of_gist gist
  have hfresh := State.fresh_of_gist gist
  refine ⟨_, hi.trans (by simp only [State.loadOp, hr, hg]; rfl), ?_, ?_⟩
  · simp [Opens, State.startOp, Cohort.addReads, Cohort.past, Cohort.addOp, hco, hfresh, Cohort.loadWrites]
  · simp [State.startOp]

theorem map_fst_loadWrites (c : Cohort) {got : List (Nat × List Byte)} (h : got.map Prod.fst = rs.map Prod.fst) :
    (c.loadWrites d size sx takes got).map Prod.fst = loadKeys c d size takes rs := by
  have keys : loadKeys c d size takes rs = (rs.map Prod.fst).flatMap (fun n => (takes n).flatMap (fun l =>
      (List.range (sizeRegs size)).map (fun i => regKey c.v.wdepth c.S (d + BitVec.ofNat 6 i) l))) := by rw [List.flatMap_map]; rfl
  rw [keys, ← h, List.flatMap_map, Cohort.loadWrites]
  simp only [List.map_flatMap, List.map_map, Function.comp_def]

theorem map_snd_loadWrites (c : Cohort) (got : List (Nat × List Byte)) : (c.loadWrites d size sx takes got).map Prod.snd =
    got.flatMap (fun e => (takes e.1).flatMap (fun _ => (List.range (sizeRegs size)).map (loadedWord (sizeBytes size) sx e.2))) := by
  rw [Cohort.loadWrites]
  simp only [List.map_flatMap, List.map_map, Function.comp_def]

end Load

/-- Settles O16: a load reads each lane's access page by page, and the copies that its core reads agree with memory. -/
theorem loadsBegin : Obligations.LoadsBegin := by
  unfold Obligations.LoadsBegin
  intro s t rs f d b x size off sx c n value begun near both
  have word (bs : List Byte) : loadedWord n sx bs = value bs := funext (loadedWord_eq size sx bs)
  have loads {i : Instr} {p : Machine.Path} {share : Bool} {lanes : List Nat} {takes : Nat → List Nat}
      (hi : exec i s = s.loadOp p share f d size sx (wordsM off) (lanes.map (fun l => (l, c.laneAddr b x off l))) takes) :
      both i p share lanes takes := by
    refine ⟨fun hr => ?_, fun at_ hin hu hh hw => ?_⟩
    · obtain ⟨q, hexec, hopens, hmem⟩ := reaches_loadOp hi hr (u := (State.readLanes c p rs t).1) (got := (State.readLanes c p rs t).2) rfl
      refine ⟨q, hexec, _, hopens, map_fst_loadWrites c (t.readLanes_frame c p rs).2, fun hagrees hplain => ?_⟩
      have hco : t.co = c := by
        have := (backstage_resolveLanes s c p n .read share (lanes.map (fun l => (l, c.laneAddr b x off l)))).co
        rwa [hr] at this
      have agrees : AgreesAt c.core t := hco ▸ (agreesAt_iff_agrees t).mpr hagrees
      obtain ⟨mem, bytes⟩ := agrees.readLanes p hplain
      refine ⟨hmem.trans mem, ?_⟩
      rw [map_snd_loadWrites, bytes, State.lanesBytes, List.flatMap_map]
      simp only [← word]
      rfl
    · have resolved := resolveLanes_of_inShare (k := .read) p hin hu hh
      obtain ⟨q, hexec, hopens, hmem⟩ := reaches_loadOp hi resolved (State.readLanes_share p hw _ at_ n)
      refine ⟨q, hexec, hmem, ?_⟩
      rw [Cohort.loadWrites, List.flatMap_map] at hopens
      simp only [← word]
      exact hopens
  clear_value both
  exact ⟨loads rfl, loads rfl, loads rfl, loads rfl, loads rfl, loads rfl⟩

end Sys2Proof.Machine

/-!
Prefetches, cache maintenance and fences (O20).
-/

namespace Sys2Proof.Machine

open Sys2Proof.Claims

/-! ## Prefetches (R186) -/

section Prefetch

variable (s : State) (c : Cohort)

theorem State.gist_quietPage (va : Nat) : (s.quietPage c va).1.gist = s.gist := by
  have walked := s.gist_translate (some c.core) c.ctx va .read 950
  unfold State.quietPage
  generalize translate s (some c.core) c.ctx va .read 950 = r at walked
  obtain ⟨t, e⟩ := r
  cases e <;> exact walked

theorem State.gist_prefLines (vas : List Nat) : (State.prefLines c vas s).1.gist = s.gist := by
  induction vas generalizing s with
  | nil => rfl
  | cons va vas ih =>
    unfold State.prefLines
    split
    · exact ih s
    · exact ih s
    · exact (ih _).trans (s.gist_quietPage c va)

theorem State.gist_foldl {α : Type} {f : State → α → State} (hf : ∀ s x, (f s x).gist = s.gist) (l : List α) :
    (l.foldl f s).gist = s.gist := by
  induction l generalizing s with
  | nil => rfl
  | cons x l ih => exact (ih _).trans (hf s x)

theorem State.gist_prefLine (lv : CacheLevel) (line : Nat) : (s.prefLine c lv line).gist = s.gist := by
  unfold State.prefLine
  split
  · rfl
  · cases lv with
    | l1 => exact State.gist_foldl s (fun t i => (fetches_needSector t c.core (4 * line + i) false).gist) _
    | cluster => exact (levels_ccFill s c.core line 15 false).gist
    | llc => rfl

end Prefetch

/-! ## Maintenance (R195) -/

section Maintenance

variable (s : State) (c : Cohort)

theorem beside_modCores (cores : List Nat) (f : Core → Core) : Beside s (cores.foldl (fun s n => s.modCore n f) s) := by
  induction cores generalizing s with
  | nil => exact .refl s
  | cons n cores ih => exact (beside_modCore s n f).trans (ih _)

theorem State.gist_maintLine (inv : Bool) (va : Nat) : (s.maintLine c inv va).gist = s.gist := by
  have page := s.gist_quietPage c va
  unfold State.maintLine
  split
  · rfl
  · rfl
  · dsimp only
    split
    · exact page
    · split
      · exact ((levels_dropLines _ c.core _).toBeside.trans (beside_modCores _ _ _)).gist.trans page
      · exact ((levels_writeBack _ c.core _).trans (levels_tagLines _ c.core _ 1)).gist.trans page

/-- What a change of every core of a list that keeps the L1s leaves in an L1. -/
theorem State.l1_modCores (cores : List Nat) (f : Core → Core) (hf : ∀ k, (f k).l1 = k.l1) (n : Nat) :
    ((cores.foldl (fun s n => s.modCore n f) s).core n).l1 = (s.core n).l1 := by
  induction cores generalizing s with
  | nil => rfl
  | cons m cores ih =>
    rw [List.foldl_cons, ih, State.core_modCore]
    split
    · next h => rw [h, hf]
    · rfl

theorem Tab.find_eq_none {α : Type} {t : Tab α} {n : Nat} (h : ∀ e ∈ t, e.1 ≠ n) : Tab.find t n = none := by
  cases he : Tab.find t n with
  | none => rfl
  | some x => exact absurd rfl (h _ (Tab.mem_of_find he))

/-- A line that is dropped leaves the L1. -/
theorem State.find_dropLines (core line : Nat) : Tab.find ((s.dropLines core [line]).core core).l1 line = none := by
  refine Tab.find_eq_none fun e he => ?_
  rw [State.dropLines, State.core_modCore, if_pos rfl] at he
  simpa using (List.mem_filter.mp he).2

/-- An entry of an L1 whose lines have been written back: it is clean, or it is an old one, clean if it is of these lines. -/
theorem State.mem_writeBack {core : Nat} {lines : List Nat} {e : Nat × L1Line} (h : e ∈ ((s.writeBack core lines).core core).l1) :
    e.2.own = 0 ∨ e ∈ (s.core core).l1 ∧ e.1 ∉ lines := by
  have picked {x : Nat × L1Line} (hline : x.1 ∈ lines) (hown : ¬x.2.own = 0) : (lines.contains x.1 && x.2.own != 0) = true :=
    Bool.and_eq_true_iff.mpr ⟨List.contains_iff_mem.mpr hline, bne_iff_ne.mpr hown⟩
  unfold State.writeBack at h
  dsimp only at h
  split at h
  · next hnone =>
    have clean := List.filter_eq_nil_iff.mp (List.isEmpty_iff.mp hnone) e h
    by_cases hown : e.2.own = 0
    · exact .inl hown
    · exact .inr ⟨h, fun hline => clean (picked hline hown)⟩
  · rw [State.core_modCore, if_pos rfl] at h
    obtain ⟨x, hx, rfl⟩ := List.mem_map.mp h
    have old := (beyond_ccAccept s _ _ _).sheds core x hx
    split
    · exact .inl rfl
    · next hkeep =>
      by_cases hown : x.2.own = 0
      · exact .inl hown
      · exact .inr ⟨old, fun hline => hkeep (picked hline hown)⟩

/-- An entry of an L1 whose lines have been tagged: what it was, and the tag of its lines. -/
theorem State.mem_tagLines {core : Nat} {lines : List Nat} {r : Nat} {e : Nat × L1Line} (h : e ∈ ((s.tagLines core lines r).core core).l1) :
    ∃ x ∈ (s.core core).l1, x.1 = e.1 ∧ x.2.own = e.2.own ∧ (e.1 ∈ lines → e.2.tag = rankTag r ∧ e.2.reg = true) := by
  rw [State.tagLines, State.core_modCore, if_pos rfl] at h
  obtain ⟨x, hx, rfl⟩ := List.mem_map.mp h
  refine ⟨x, hx, ?_⟩
  split
  · exact ⟨rfl, rfl, fun _ => ⟨rfl, rfl⟩⟩
  · next hline => exact ⟨rfl, rfl, fun hmem => absurd (by simpa using hmem) hline⟩

/-- CINV: the line of a page that translates leaves the L1. -/
theorem State.find_maintLine_inv {s t : State} {c : Cohort} {va : Nat} {p : Leaf} (hw : windowOf va = .glob)
    (hp : s.quietPage c va = (t, some p)) :
    Tab.find ((s.maintLine c true va).core c.core).l1 ((p.pa + va % 4096) / 64) = none := by
  unfold State.maintLine
  simp only [hw, hp, if_true]
  rw [State.l1_modCores _ _ (fun k => k.keepRo _) fun _ => rfl]
  exact t.find_dropLines c.core _

/-- CWB: the line of a page that translates is clean, with scope tag cluster. -/
theorem State.mem_maintLine_back {s t : State} {c : Cohort} {va : Nat} {p : Leaf} (hw : windowOf va = .glob)
    (hp : s.quietPage c va = (t, some p)) {e : Nat × L1Line} (he : e ∈ ((s.maintLine c false va).core c.core).l1)
    (hline : e.1 = (p.pa + va % 4096) / 64) : e.2.own = 0 ∧ e.2.tag = .cluster ∧ e.2.reg = true := by
  unfold State.maintLine at he
  simp only [hw, hp, Bool.false_eq_true, if_false] at he
  obtain ⟨x, hx, hkey, hown, htag⟩ := State.mem_tagLines _ he
  refine ⟨?_, htag (by simp [hline])⟩
  obtain h | ⟨-, h⟩ := State.mem_writeBack t hx
  · exact hown ▸ h
  · exact absurd (by simp [hkey, hline]) h

end Maintenance

/-! ## Begun and gone on -/

section Begun

variable {s t : State} {i : Instr} {kind : OpKind} {flag : Option Nat} {n : Nat}

/-- An operation without registers, begun once the levels have moved. -/
theorem reaches_startOp (hi : exec i s = .next ((t.startOp kind flag [] []).2.lane id n)) (ht : t.gist = s.gist) :
    Reaches s i (fun q => (q.co.idx = s.co.idx + n ∧ q.co.v.regs = s.co.v.regs ∧ q.co.halted = s.co.halted ∧ q.lastFault = s.lastFault) ∧
      (q.mem = t.mem ∧ q.cores = t.cores) ∧
      q.co.v.ops = s.co.v.ops ++ [{ id := s.fresh, kind := kind, flag := flag, clause := s.co.clause, keys := [], writes := [] }]) := by
  have hco := State.co_of_gist ht
  have hfresh := State.fresh_of_gist ht
  have hlast := State.lastFault_of_gist ht
  refine ⟨_, hi, ?_⟩
  simp [State.startOp, Cohort.past, Cohort.addOp, hco, hfresh, hlast]

end Begun

theorem Tab.find_of_mem_of_rising {α : Type} {t : Tab α} (h : t.Rising) {e : Nat × α} (he : e ∈ t) : Tab.find t e.1 = some e.2 := by
  induction t with
  | nil => cases he
  | cons a t ih =>
    obtain ⟨hlt, ht⟩ := List.pairwise_cons.mp h
    rcases List.mem_cons.mp he with rfl | he
    · exact if_pos rfl
    · exact (if_neg (Nat.ne_of_lt (hlt _ (List.mem_map_of_mem he)))).trans (ih ht he)

/-- Every entry of a cluster's cache after a write is one of before, with its cells. -/
theorem State.mem_cluster_write {s : State} {cells : List (Nat × Byte)} {cl : Nat} {e : Nat × CcLine}
    (h : e ∈ ((s.write cells).cluster cl).cc) : ∃ x ∈ (s.cluster cl).cc, e.1 = x.1 ∧ e.2.data = x.2.data := by
  cases cells with
  | nil => exact ⟨e, h, rfl, rfl⟩
  | cons x l =>
    rw [State.cluster_write] at h
    exact Cluster.mem_written h

/-! ## What a release leaves behind (R223, R309, R336) -/

section Release

variable (s : State)

/-- A line of which a cluster's cache gains the ownership keeps no cell that it has accepted; the others keep theirs. -/
theorem State.data_ownLine {cl line : Nat} (hr : (s.cluster cl).cc.Rising) {e : Nat × CcLine} (he : e ∈ ((s.ownLine cl line).cluster cl).cc) :
    (∃ x ∈ (s.cluster cl).cc, x.1 = e.1 ∧ (e.2.data = x.2.data ∨ e.2.data = [])) ∧ (e.1 = line → e.2.data = []) := by
  unfold State.ownLine at he
  split at he
  · next hnone =>
    refine ⟨⟨e, he, rfl, .inl rfl⟩, fun hline => ?_⟩
    rw [← hline, Tab.find_of_mem_of_rising hr he] at hnone
    cases hnone
  · next x hx =>
    split at he
    · next hempty =>
      refine ⟨⟨e, he, rfl, .inl rfl⟩, fun hline => ?_⟩
      rw [← hline, Tab.find_of_mem_of_rising hr he] at hx
      cases hx
      exact List.isEmpty_iff.mp hempty
    · have written := (beyond_write s (x.data.map (fun y => (64 * line + y.1, y.2)))).trans
        (beyond_markSectors _ line (sectorBits (x.data.map Prod.fst)) x.bad)
      rw [State.cluster_modCluster, if_pos rfl] at he
      obtain rfl | ⟨he, hne⟩ := Tab.mem_put_of_rising (written.rising cl hr) he
      · exact ⟨⟨(line, x), Tab.mem_of_find hx, rfl, .inr rfl⟩, fun _ => rfl⟩
      · obtain ⟨y, hy, hkey, hdata⟩ := State.mem_cluster_write he
        exact ⟨⟨y, hy, hkey.symm, .inl hdata⟩, fun hline => absurd hline hne⟩

theorem State.data_ownLines {cl : Nat} (lines : List Nat) (hr : (s.cluster cl).cc.Rising) {e : Nat × CcLine}
    (he : e ∈ ((lines.foldl (fun s line => s.ownLine cl line) s).cluster cl).cc) :
    (∃ x ∈ (s.cluster cl).cc, x.1 = e.1 ∧ (e.2.data = x.2.data ∨ e.2.data = [])) ∧ (e.1 ∈ lines → e.2.data = []) := by
  induction lines generalizing s with
  | nil => exact ⟨⟨e, he, rfl, .inl rfl⟩, fun h => absurd h List.not_mem_nil⟩
  | cons line lines ih =>
    obtain ⟨⟨x, hx, hkey, hdata⟩, hlines⟩ := ih (s.ownLine cl line) ((beyond_ownLine s cl line).rising cl hr) he
    obtain ⟨⟨y, hy, hkey', hdata'⟩, hline⟩ := s.data_ownLine hr hx
    refine ⟨⟨y, hy, hkey'.trans hkey, ?_⟩, fun hmem => ?_⟩
    · rcases hdata with h | h
      · rwa [h]
      · exact .inr h
    · rcases List.mem_cons.mp hmem with h | h
      · exact hdata.elim (fun h' => h'.trans (hline (hkey.trans h))) id
      · exact hlines h

theorem State.data_flushCluster (cl : Nat) (hr : (s.cluster cl).cc.Rising) : ∀ e ∈ ((s.flushCluster cl).cluster cl).cc, e.2.data = [] := by
  intro e he
  obtain ⟨⟨x, hx, hkey, -⟩, hlines⟩ := s.data_ownLines ((s.cluster cl).cc.map Prod.fst) hr he
  exact hlines (hkey ▸ List.mem_map_of_mem hx)

end Release

/-! ## Fences (R181, R190, R336 to R338) -/

section Fence

variable (s : State) (c : Cohort)

/-- A release leaves its cohort no buffered store. -/
theorem State.wc_release (sc : Scope) : ∀ w ∈ ((s.release c sc).core c.core).wc, w.co ≠ c.id := by
  have drained := (drainThose_buffer s c.core (fun w => w.co == c.id)).2
  unfold State.release
  dsimp only
  have back := backstage_writeBack (s.drainWc c.core (some c.id)) c.core ((s.drainWc c.core (some c.id)).core c.core).dirtyLines
  intro w hw
  refine beq_eq_false_iff_ne.mp (drained w ?_)
  split at hw
  · exact hw
  · refine back.wc c.core w ?_
    split at hw
    · exact (backstage_tagLines _ c.core _ _).wc c.core w hw
    · exact (backstage_flushCluster _ _).wc c.core w ((backstage_tagLines _ c.core _ _).wc c.core w hw)

/-- A release beyond the core leaves no byte of its L1 that is not written back. -/
theorem State.own_release (sc : Scope) (hsc : scopeRank c.pair sc ≠ 0) : ∀ e ∈ ((s.release c sc).core c.core).l1, e.2.own = 0 := by
  unfold State.release
  dsimp only
  rw [if_neg hsc]
  intro e he
  obtain ⟨x, hx, -, hown, -⟩ := State.mem_tagLines _ he
  have back : x ∈ (((s.drainWc c.core (some c.id)).writeBack c.core ((s.drainWc c.core (some c.id)).core c.core).dirtyLines).core c.core).l1 := by
    split at hx
    · exact hx
    · exact (beyond_flushCluster _ _).sheds c.core x hx
  rw [← hown]
  obtain h | ⟨hold, hline⟩ := State.mem_writeBack _ back
  · exact h
  · by_contra hne
    exact hline (List.mem_map.mpr ⟨x, List.mem_filter.mpr ⟨hold, bne_iff_ne.mpr hne⟩, rfl⟩)

/-- A release at the scope of a die or the package leaves no byte in the cluster's cache that is not performed for every agent. -/
theorem State.data_release (sc : Scope) (hsc : 2 ≤ scopeRank c.pair sc) (hr : (s.cluster (clusterOf c.core)).cc.Rising) :
    ∀ e ∈ ((s.release c sc).cluster (clusterOf c.core)).cc, e.2.data = [] := by
  have drained : Levels c.core s (s.drainWc c.core (some c.id)) := levels_drainThose s _ _
  have back := drained.trans (levels_writeBack _ c.core ((s.drainWc c.core (some c.id)).core c.core).dirtyLines)
  unfold State.release
  dsimp only
  rw [if_neg (by omega), if_neg (by omega)]
  exact State.data_flushCluster _ _ (back.rising _ hr)

/-- An acquire leaves no clean line of narrower scope. -/
theorem State.mem_acquire (sc : Scope) : ∀ e ∈ ((s.acquire c sc).core c.core).l1,
    (scopeRank c.pair sc ≤ scopeRank false e.2.tag ∨ e.2.own ≠ 0) ∧ ∃ x ∈ (s.core c.core).l1, x.2.own = e.2.own := by
  intro e he
  rw [State.acquire, State.core_modCore, if_pos rfl] at he
  obtain ⟨x, hx, hxe⟩ := List.mem_filterMap.mp he
  split at hxe
  · split at hxe
    · cases hxe
    · next hown =>
      cases hxe
      exact ⟨.inr (by simpa using hown), x, hx, rfl⟩
  · next hrank =>
    cases hxe
    exact ⟨.inl (by omega), _, hx, rfl⟩

/-- The sequencer is used by .sc alone. -/
theorem State.seq_before (o : MOrd) (sc : Scope) : (s.before c o sc).seq = if o = .sc then (s.seq + 1) % 2 ^ 64 else s.seq := by
  have released : (if MOrd.releases o then s.release c sc else s).seq = s.seq := by
    split
    · exact (levels_release s c sc).seq
    · rfl
  unfold State.before
  dsimp only
  split
  · rw [State.ticket, State.nextSeq, released]
  · exact released

/-- What an ordering that releases leaves before it is performed: what the release leaves. -/
theorem State.before_of_releases {o : MOrd} (ho : o = .rel ∨ o = .ar ∨ o = .sc) (sc : Scope) :
    (s.before c o sc).cores = (s.release c sc).cores ∧ (s.before c o sc).clusters = (s.release c sc).clusters := by
  rcases ho with rfl | rfl | rfl <;> exact ⟨rfl, rfl⟩

/-- What the acquire half changes: lines of its core's L1, and those that stay hold the same stores. -/
theorem State.after_frame (o : MOrd) (sc : Scope) : (s.after c o sc).clusters = s.clusters ∧
    (∀ w ∈ ((s.after c o sc).core c.core).wc, w ∈ (s.core c.core).wc) ∧
    ∀ e ∈ ((s.after c o sc).core c.core).l1, ∃ x ∈ (s.core c.core).l1, x.2.own = e.2.own := by
  unfold State.after
  split
  · exact ⟨rfl, (backstage_acquire s c sc).wc c.core, fun e he => (s.mem_acquire c sc e he).2⟩
  · exact ⟨rfl, fun _ h => h, fun e he => ⟨e, he, rfl⟩⟩

/-- The read-only caches of some cores emptied. -/
theorem State.dropRo_frame (cores : List Nat) (n : Nat) :
    let t := cores.foldl State.dropRo s
    (t.core n).l1 = (s.core n).l1 ∧ (t.core n).wc = (s.core n).wc ∧
      (n ∈ cores → (t.core n).ro = [] ∧ (t.core n).cst = []) ∧
      ((s.core n).ro = [] ∧ (s.core n).cst = [] → (t.core n).ro = [] ∧ (t.core n).cst = []) := by
  induction cores generalizing s with
  | nil => exact ⟨rfl, rfl, fun h => absurd h List.not_mem_nil, id⟩
  | cons m cores ih =>
    obtain ⟨l1, wc, ro, keep⟩ := ih (s.dropRo m)
    have one : ((s.dropRo m).core n).l1 = (s.core n).l1 ∧ ((s.dropRo m).core n).wc = (s.core n).wc ∧
        (n = m ∨ (s.core n).ro = [] ∧ (s.core n).cst = [] → ((s.dropRo m).core n).ro = [] ∧ ((s.dropRo m).core n).cst = []) := by
      rw [State.dropRo, State.core_modCore]
      by_cases h : n = m
      · rw [if_pos h]
        exact ⟨h ▸ rfl, h ▸ rfl, fun _ => ⟨rfl, rfl⟩⟩
      · rw [if_neg h]
        exact ⟨rfl, rfl, fun hn => hn.resolve_left h⟩
    obtain ⟨l1', wc', ro'⟩ := one
    refine ⟨l1.trans l1', wc.trans wc', fun hn => ?_, fun hn => keep (ro' (.inr hn))⟩
    exact (List.mem_cons.mp hn).elim (fun h => keep (ro' (.inl h))) ro

/-- The state of a fence before it is pending. -/
def State.fenced (s : State) (o : MOrd) (sc : Scope) (ro : Bool) : State :=
  let t := (s.before s.co o sc).after s.co o sc
  if ro then s.co.teamCores.foldl State.dropRo t else t

/-- What a fence has done when it is pending. -/
theorem State.fenced_frame (o : MOrd) (sc : Scope) (ro : Bool) :
    let t := (s.before s.co o sc).after s.co o sc
    let q := s.fenced o sc ro
    q.gist = s.gist ∧ q.seq = t.seq ∧ q.mem = t.mem ∧ q.clusters = t.clusters ∧ (q.core s.co.core).l1 = (t.core s.co.core).l1 ∧
      (q.core s.co.core).wc = (t.core s.co.core).wc ∧ (ro = true → ∀ k ∈ s.co.teamCores, (q.core k).ro = [] ∧ (q.core k).cst = []) := by
  intro t q
  have gist : t.gist = s.gist := (levels_after _ s.co o sc).gist.trans (s.gist_before s.co o sc)
  have dropped (cores : List Nat) (u : State) : (cores.foldl State.dropRo u).gist = u.gist ∧ (cores.foldl State.dropRo u).seq = u.seq ∧
      (cores.foldl State.dropRo u).mem = u.mem ∧ (cores.foldl State.dropRo u).clusters = u.clusters := by
    induction cores generalizing u with
    | nil => exact ⟨rfl, rfl, rfl, rfl⟩
    | cons m cores ih => exact ih (u.dropRo m)
  have emptied := t.dropRo_frame s.co.teamCores
  obtain ⟨gist', seq, mem, clusters⟩ := dropped s.co.teamCores t
  cases ro with
  | false => exact ⟨gist, rfl, rfl, rfl, rfl, rfl, nofun⟩
  | true => exact ⟨gist'.trans gist, seq, mem, clusters, (emptied _).1, (emptied _).2.1, fun _ k hk => (emptied k).2.2.1 hk⟩

end Fence

/-! ## The instructions -/

section Instructions

variable {s : State} {f inv : Bool} {a b x : Reg} {lv : CacheLevel} {off : Option Word}

/-- The state of a maintenance before it is begun. -/
def State.maintained (s : State) (inv : Bool) (a b : Reg) : State :=
  let va := (s.co.ugetPair a).toNat
  (List.range ((va % 64 + (s.co.uget b).toNat + 63) / 64)).foldl
    (fun t i => t.maintLine s.co inv ((va / 64 * 64 + 64 * i) % 2 ^ 64)) s

theorem State.gist_maintained (s : State) (inv : Bool) (a b : Reg) : (s.maintained inv a b).gist = s.gist :=
  State.gist_foldl s (fun t _ => t.gist_maintLine s.co inv _) _

theorem State.maintain_of_zero (h : s.co.uget b = 0) : s.maintain f inv a b = .next (s.lane id 1) := by
  simp [State.maintain, h]

theorem State.maintain_of_ne_zero (h : s.co.uget b ≠ 0) :
    s.maintain f inv a b = .next (((s.maintained inv a b).startOp .maint (s.co.flagOf f) [] []).2.lane id 1) := by
  have nonzero : (s.co.uget b).toNat ≠ 0 := fun h0 => h (BitVec.eq_of_toNat_eq h0)
  simp only [State.maintain, nonzero, if_false]
  rfl

/-- A range within one line is maintained as that line. -/
theorem State.maintained_of_one (h : 1 ≤ (s.co.uget b).toNat) (hl : (s.co.ugetPair a).toNat % 64 + (s.co.uget b).toNat ≤ 64) :
    s.maintained inv a b = s.maintLine s.co inv ((s.co.ugetPair a).toNat / 64 * 64) := by
  have once : ((s.co.ugetPair a).toNat % 64 + (s.co.uget b).toNat + 63) / 64 = 1 := by omega
  have small := (s.co.ugetPair a).isLt
  have start : ((s.co.ugetPair a).toNat / 64 * 64 + 64 * 0) % 2 ^ 64 = (s.co.ugetPair a).toNat / 64 * 64 := by omega
  unfold State.maintained
  dsimp only
  rw [once, List.range_one, List.foldl_cons, List.foldl_nil, start]

/-- The state of a prefetch before it is begun. -/
def State.prefetched (s : State) (b x : Reg) (lv : CacheLevel) (off : Option Word) : State :=
  let r := State.prefLines s.co (s.co.active.map (fun l => s.co.laneAddr b x off l)) s
  r.2.foldl (fun t line => t.prefLine s.co lv line) r.1

theorem State.gist_prefetched (s : State) (b x : Reg) (lv : CacheLevel) (off : Option Word) : (s.prefetched b x lv off).gist = s.gist :=
  (State.gist_foldl _ (fun t line => t.gist_prefLine s.co lv line) _).trans (s.gist_prefLines s.co _)

theorem State.prefetched_of_none (h : s.co.active = []) : s.prefetched b x lv off = s := by
  simp [State.prefetched, h, State.prefLines]

theorem exec_pref_of_free (h : ∀ t ls, State.prefLines s.co (s.co.active.map (fun l => s.co.laneAddr b x off l)) s = (t, ls) →
    t.heldBy (ls.map (fun l => 64 * l)) false = none) :
    exec (.pref f b x lv off) s = .next (((s.prefetched b x lv off).startOp .pref (s.co.flagOf f) [] []).2.lane id (wordsM off)) := by
  rw [exec_pref, execPref, State.prefetched]
  generalize hp : State.prefLines s.co (s.co.active.map (fun l => s.co.laneAddr b x off l)) s = r
  obtain ⟨t, ls⟩ := r
  simp only [h t ls hp]

end Instructions

/-- Settles O20: an access ahead of need, maintenance and fences move only what the levels hold. -/
theorem cachesAndFences : Obligations.CachesAndFences := by
  unfold Obligations.CachesAndFences
  refine ⟨?_, ?_⟩
  · intro s f a b x l off c va one goes began none_
    refine ⟨fun free => ?_, fun hb => ?_, fun hb => ⟨?_, ?_⟩⟩
    · obtain ⟨q, hexec, hgoes, ⟨mem, cores⟩, hops⟩ := reaches_startOp (exec_pref_of_free free) (s.gist_prefetched a x l off)
      refine ⟨q, hexec, hgoes, fun hactive => ?_, hops⟩
      rw [mem, cores, State.prefetched_of_none hactive]
      exact ⟨rfl, rfl⟩
    · have idle {i : Instr} {inv : Bool} (hi : exec i s = s.maintain f inv a b) : none_ i :=
        ⟨_, hi.trans (State.maintain_of_zero hb), ⟨rfl, rfl, rfl, rfl⟩, rfl, rfl, rfl⟩
      exact ⟨idle rfl, idle rfl⟩
    · obtain ⟨q, hexec, hgoes, ⟨-, cores⟩, hops⟩ := reaches_startOp (i := .cinv f a b) (State.maintain_of_ne_zero hb)
        (s.gist_maintained true a b)
      refine ⟨q, hexec, hgoes, fun ⟨hn, hl, hw⟩ t p hp => ?_, hops⟩
      rw [State.core, cores, State.maintained_of_one hn hl]
      exact State.find_maintLine_inv hw hp
    · obtain ⟨q, hexec, hgoes, ⟨-, cores⟩, hops⟩ := reaches_startOp (i := .cwb f a b) (State.maintain_of_ne_zero hb)
        (s.gist_maintained false a b)
      refine ⟨q, hexec, hgoes, fun ⟨hn, hl, hw⟩ t p hp e he hline => ?_, hops⟩
      rw [State.core, cores, State.maintained_of_one hn hl] at he
      exact State.mem_maintLine_back hw hp he hline
  · intro s o sc ro c releases
    obtain ⟨gist, seq, mem, clusters, l1, wc, emptied⟩ := s.fenced_frame o sc ro
    obtain ⟨afterClusters, afterWc, afterL1⟩ := (s.before c o sc).after_frame c o sc
    refine ⟨{ s.fenced o sc ro with co := { (s.fenced o sc ro).co with fence := true, idx := (s.fenced o sc ro).co.idx + 1 } }, rfl, ?_,
      fun hq => ?_, fun hrel => ⟨fun w hw => ?_, fun hsc e he => ?_, fun hsc hr n e he => ?_⟩, fun hacq => ?_, ?_, emptied⟩
    · show { (s.fenced o sc ro).co with fence := true, idx := (s.fenced o sc ro).co.idx + 1 } = _
      rw [State.co_of_gist gist]
    · have settled := ((settled_iff_quiet s).mpr hq).before o sc
      exact mem.trans (((levels_after _ c o sc).still settled.1).2.trans settled.2)
    · refine s.wc_release c sc w ?_
      have := afterWc w (wc ▸ hw)
      rwa [State.core, ((s.before_of_releases c hrel sc).1)] at this
    · obtain ⟨x, hx, hown⟩ := afterL1 e (l1 ▸ he)
      rw [← hown]
      refine s.own_release c sc ?_ x (by rwa [State.core, (s.before_of_releases c hrel sc).1] at hx)
      rcases hsc with rfl | rfl | rfl | ⟨rfl, hpair⟩ <;> simp [scopeRank, *]
    · have data := s.data_release c sc (by rcases hsc with rfl | rfl <;> simp [scopeRank]) hr
      refine data (n, e) (Tab.mem_of_find ?_)
      rw [← he]
      show _ = Tab.find (Tab.get Cluster.init (s.fenced o sc ro).clusters _).cc n
      rw [clusters, afterClusters, (s.before_of_releases c hrel sc).2]
      rfl
    · intro e he
      have after : (s.before c o sc).after c o sc = (s.before c o sc).acquire c sc := by
        rcases hacq with rfl | rfl | rfl <;> rfl
      exact ((s.before c o sc).mem_acquire c sc e (after ▸ l1 ▸ he)).1
    · exact seq.trans ((levels_after _ c o sc).seq.trans (s.seq_before c o sc))

end Sys2Proof.Machine

/-!
Accesses that are not allowed (O60): the checks before an access, and what a team fault reports to its fault buffer.
-/

namespace Sys2Proof.Machine

open Sys2Proof.Claims

/-! ## The checks (R171, R172, R200, R201, R347, R348) -/

section Checks

variable {s : State} {c : Cohort} {l : Leaf} {k : AccessKind} {va n x site b : Nat}

theorem permit_read_denied (h : (l.u && l.r) = false) : permit l .read = .error ⟨0x07, 2, 0⟩ := by
  have denied : (!l.u || !l.r) = true := by rw [← Bool.not_and, h]; rfl
  simp only [permit, denied, if_true]
  rfl

theorem permit_write_denied (h : (l.u && l.w) = false ∨ areaOf l.pa = .flash) : permit l .write = .error ⟨0x07, 1, 0⟩ := by
  have denied : (!l.u || !l.w || areaOf l.pa == .flash) = true := by
    rcases h with h | h
    · rw [← Bool.not_and, h]; rfl
    · simp [h]
  simp only [permit, denied, if_true]
  rfl

theorem permit_fetch_denied (h : (l.u && l.x) = false) : permit l .fetch = .error ⟨0x07, 7, 0⟩ := by
  have denied : (!l.u || !l.x) = true := by rw [← Bool.not_and, h]; rfl
  simp only [permit, denied, if_true]
  rfl

theorem permit_read_typed (hu : l.u = true) (hr : l.r = true) (h : l.pbmt = 3) : permit l .read = .error ⟨0x07, 6, 0⟩ := by
  simp [permit, hu, hr, h, causeProtection]

theorem permit_read_migrating (hu : l.u = true) (hr : l.r = true) (hp : l.pbmt ≠ 3) (h : l.mig = true) :
    permit l .read = .error ⟨0x09, 1, l.pa / 65536⟩ := by
  simp [permit, hu, hr, hp, h, causeLongLatency]

theorem walkRoot_of_not_canonical (h0 : va / 2 ^ 56 ≠ 0) (h255 : va / 2 ^ 56 ≠ 255) (root : DWord) :
    walkRoot s root va = .error ⟨0x06, 3, 0⟩ := by
  have outside : canonical va = false := by
    rw [canonical, beq_false_of_ne h0, beq_false_of_ne h255]
    rfl
  simp [walkRoot, walkOf, outside, causeNotPresent]

/-- An access that its window refuses translates nothing. -/
theorem resolve_of_windowBad {f : FaultInfo} (h : windowBad s c va n k = some f) : resolve s c va n k site = (s, .error f) := by
  simp only [resolve, resolveBy, h]

theorem windowBad_beyond (hw : windowOf va = .loc x) {y : Nat} (hl : windowOf ((va + (n - 1)) % 2 ^ 64) = .loc y) (h : c.shareSize < x + n) :
    windowBad s c va n k = some (fltAt 0x07 4 (va + (c.shareSize - x)) k) := by
  have far : ¬x + n ≤ c.shareSize := by omega
  unfold windowBad
  simp only [hw, hl, Window.code]
  exact if_neg far

theorem windowBad_straddle (h : (windowOf va).code ≠ (windowOf ((va + (n - 1)) % 2 ^ 64)).code) :
    windowBad s c va n k = some (fltAt 0x05 0 va k) := by
  unfold windowBad
  exact if_pos (bne_iff_ne.mpr h)

theorem resolve_spill (hw : windowOf va = .glob) (hl : windowOf ((va + (n - 1)) % 2 ^ 64) = .glob) (hb : s.spillByte c.ctx va n = some b) :
    resolve s c va n .write site = (s, .error (fltAt 0x07 3 b .write)) := by
  have inside : windowBad s c va n .write = none := by
    unfold windowBad
    simp only [hw, hl]
    rfl
  simp only [resolve, resolveBy, inside, resolvePages, hw, hb]
  rfl

end Checks

/-! ## What leaves the dies and a halted cohort alone (R298, R358, R359, R364) -/

/-- From s to t the dies are as they were, and so is the focused cohort where it has halted. -/
structure Spares (s t : State) : Prop where
  dies : t.dies = s.dies
  co : s.co.halted = true → t.co = s.co

section Spared

variable (s : State)

theorem Spares.refl (s : State) : Spares s s := ⟨rfl, fun _ => rfl⟩

theorem Spares.trans {s t u : State} (h : Spares s t) (k : Spares t u) : Spares s u :=
  ⟨k.dies.trans h.dies, fun hs => (k.co (by rw [h.co hs, hs])).trans (h.co hs)⟩

theorem Spares.foldl {α : Type} {f : State → α → State} (hf : ∀ s x, Spares s (f s x)) (l : List α) (s : State) : Spares s (l.foldl f s) := by
  induction l generalizing s with
  | nil => exact .refl s
  | cons x l ih => exact (hf s x).trans (ih _)

theorem spares_of_gist {s t : State} (h : t.gist = s.gist) : Spares s t := ⟨(congrArg State.dies h :), fun _ => State.co_of_gist h⟩

theorem spares_write (cells : List (Nat × Byte)) : Spares s (s.write cells) := spares_of_gist (s.gist_write cells)

theorem spares_askTeam (key : Nat) : Spares s (s.askTeam key) := by
  refine ⟨rfl, fun h => ?_⟩
  show (if s.co.team == key then s.co.askedToStop else s.co) = s.co
  simp [Cohort.askedToStop, h]

theorem spares_beginEnd (ctx cause : Nat) : Spares s (s.beginEnd ctx cause) := by
  unfold State.beginEnd
  dsimp only
  split
  · exact .refl s
  · refine .trans (t := s.modCtx ctx _) ⟨rfl, fun _ => rfl⟩ (.foldl (fun t m => ?_) _ _)
    split
    · exact .refl t
    all_goals exact .trans (t := t.setTeam _) ⟨rfl, fun _ => rfl⟩ (spares_askTeam _ _)

theorem spares_sendMsi (addr data : Nat) : Spares s (s.sendMsi addr data) := by
  unfold State.sendMsi
  split
  · exact .refl s
  · split
    · exact spares_write s _
    · exact ⟨rfl, fun _ => rfl⟩

theorem spares_slotAt {s t : State} {ctx va pa : Nat} (h : s.slotAt ctx va = some (t, pa)) : Spares s t := by
  unfold State.slotAt at h
  split at h
  · cases h
  · split at h
    · cases h
      exact spares_of_gist (s.gist_setAD _ _)
    · cases h

theorem spares_logSlots {s t : State} {ctx head : Nat} {body : List (List Byte)} (h : s.logSlots ctx head body = some t) : Spares s t := by
  induction body generalizing s head with
  | nil => cases h; exact .refl _
  | cons ch body ih =>
    unfold State.logSlots at h
    dsimp only at h
    split at h
    · cases h
    · next u pa hu => exact ((spares_slotAt hu).trans (spares_write u _)).trans (ih h)

theorem spares_logPut (r : FaultRec) (diag : List Byte) : Spares s (s.logPut r diag).1 := by
  have numbered : Spares s s.nextSeq.2 := ⟨rfl, fun _ => rfl⟩
  unfold State.logPut
  generalize s.nextSeq = q at numbered
  obtain ⟨q, t⟩ := q
  dsimp -zeta only
  extract_lets x two lost size place pads need usedSlots diagAt r' body
  refine numbered.trans ?_
  split
  · exact ⟨rfl, fun _ => rfl⟩
  · split
    · exact ⟨rfl, fun _ => rfl⟩
    · split
      · split
        · refine .trans ?_ (spares_beginEnd _ _ _)
          exact ⟨rfl, fun _ => rfl⟩
        · exact ⟨rfl, fun _ => rfl⟩
      · next u hu => exact (spares_logSlots hu).trans ⟨rfl, fun _ => rfl⟩

theorem spares_ctxMsi (ctx : Nat) : Spares s (s.ctxMsi ctx) := by
  unfold State.ctxMsi
  dsimp only
  split
  · exact spares_sendMsi s _ _
  · split
    · exact .refl s
    · exact (spares_logPut s _ _).trans (spares_beginEnd _ _ _)

theorem spares_logLl (c : Cohort) (pc : Nat) (f : FaultInfo) : Spares s (s.logLl c pc f) := by
  unfold State.logLl
  split
  · unfold State.log
    dsimp only
    split
    · exact (spares_logPut s _ _).trans (spares_ctxMsi _ _)
    · exact spares_logPut s _ _
  · exact .refl s

end Spared

/-! ## The record of a cohort's fault (R356) -/

section Record

variable (c : Cohort) (pc : Nat) (f : FaultInfo)

/-- The record of a cohort that stops at a fault: its skid is that of a halt request on its way. -/
def Cohort.stopRec : FaultRec := FaultRec.of { c with skid := c.skid && c.asked } pc f

theorem Cohort.stopRec_land (clause : Nat) (w : Nat × Word) : (c.land clause w).stopRec pc f = c.stopRec pc f := by
  unfold Cohort.land
  split
  · rfl
  · split
    · split
      · rfl
      · split
        · next sv hsv =>
          split
          · simp only [Cohort.stopRec, FaultRec.of, hsv, Option.isSome_some]
          · rfl
        · rfl
    · rfl

theorem Cohort.stopRec_complete (id : Nat) (ws : List (Nat × Word)) : (c.complete id ws).stopRec pc f = c.stopRec pc f := by
  unfold Cohort.complete
  split
  · next o _ =>
    exact List.foldlRecOn (motive := fun x : Cohort => x.stopRec pc f = c.stopRec pc f) ws _ rfl
      fun x h w _ => (x.stopRec_land pc f o.clause w).trans h
  · rfl

theorem Cohort.stopRec_landSfu : c.landSfu.stopRec pc f = c.stopRec pc f :=
  List.foldlRecOn (motive := fun x : Cohort => x.stopRec pc f = c.stopRec pc f) _ _ rfl
    fun x h o _ => (x.stopRec_complete pc f o.id o.writes).trans h

end Record

/-! ## Reports to a fault buffer (R351, R352) -/

section Report

variable {s : State} {die : Nat} {r : FaultRec}

/-- The fault buffer of a context on a die. -/
def State.faultBuf (s : State) (die ctx : Nat) : FaultBuf := Tab.get FaultBuf.init (s.die die).fbufs ctx

theorem State.faultBuf_of_dies {s t : State} (h : t.dies = s.dies) (die ctx : Nat) : t.faultBuf die ctx = s.faultBuf die ctx := by
  rw [State.faultBuf, State.die, h]
  rfl

/-- A fault buffer replaced. -/
def State.putBuf (s : State) (die ctx : Nat) (b : FaultBuf) : State := s.modDie die (fun d => { d with fbufs := Tab.put d.fbufs ctx b })

theorem State.faultBuf_putBuf (s : State) (die ctx : Nat) (b : FaultBuf) : (s.putBuf die ctx b).faultBuf die ctx = b := by
  rw [State.faultBuf, State.putBuf, State.die_modDie, if_pos rfl, Tab.get_put, if_pos rfl]

/-- An entry of the same page. -/
def FaultRec.samePage (r x : FaultRec) : Bool := x.addr / 4096 == r.addr / 4096

/-- A record that merges into an entry. -/
def FaultRec.merge (r x : FaultRec) : FaultRec := { x with waiters := (x.waiters + 1) % 2 ^ 16, flags := x.flags ||| r.flags % 8 }

theorem State.report_eq : s.report die r = if ((s.faultBuf die r.ctx).ents.any (fun e => e.any r.samePage)) = true then
      s.putBuf die r.ctx { s.faultBuf die r.ctx with
        ents := (s.faultBuf die r.ctx).ents.map (fun e => e.map (fun x => if r.samePage x then r.merge x else x)) }
    else match takeFree { r with seq := s.seq, waiters := 1 } (s.faultBuf die r.ctx).ents with
      | some es => (s.nextSeq.2.putBuf die r.ctx { s.faultBuf die r.ctx with ents := es }).ctxMsi r.ctx
      | none =>
        let b := { s.faultBuf die r.ctx with drop := true, drops := min 65535 ((s.faultBuf die r.ctx).drops + 1) }
        if (s.faultBuf die r.ctx).drop then s.putBuf die r.ctx b else (s.putBuf die r.ctx b).ctxMsi r.ctx := by
  unfold State.report
  refine if_congr (Iff.of_eq (congrArg (· = true) (congrArg (List.any _) (funext fun e => ?_)))) ?_ rfl
  · cases e <;> rfl
  · refine congrArg (fun es => s.putBuf die r.ctx { s.faultBuf die r.ctx with ents := es }) (List.map_congr_left fun e _ => ?_)
    cases e with
    | none => rfl
    | some x => exact (apply_ite some (r.samePage x = true) (r.merge x) x).symm

theorem takeFree_of_first {es : List (Option FaultRec)} {i : Nat} (hi : es[i]? = some none) (hj : ∀ j < i, es[j]? ≠ some none) :
    takeFree r es = some (es.set i (some r)) := by
  induction es generalizing i with
  | nil => cases hi
  | cons e es ih =>
    cases i with
    | zero =>
      cases hi
      rfl
    | succ i =>
      cases e with
      | none => exact absurd rfl (hj 0 (Nat.succ_pos i))
      | some x =>
        rw [takeFree, ih hi fun j hlt => hj (j + 1) (Nat.succ_lt_succ hlt)]
        rfl

theorem takeFree_of_full {es : List (Option FaultRec)} (h : ∀ x ∈ es, x ≠ none) : takeFree r es = none := by
  induction es with
  | nil => rfl
  | cons e es ih =>
    obtain ⟨he, hes⟩ := List.forall_mem_cons.mp h
    cases e with
    | none => exact absurd rfl he
    | some x => rw [takeFree, ih hes]; rfl

theorem State.mem_pokes_congr {s t : State} (h : t.mem = s.mem) (cells : List (Nat × Byte)) : (t.pokes cells).mem = (s.pokes cells).mem := by
  induction cells generalizing s t with
  | nil => exact h
  | cons x cells ih => exact ih (by rw [State.setByte, State.setByte, h])

theorem State.mem_sendMsi_congr {s t : State} (h : t.mem = s.mem) (addr data : Nat) : (t.sendMsi addr data).mem = (s.sendMsi addr data).mem := by
  unfold State.sendMsi
  split
  · exact h
  · split
    · rw [State.writeN, State.writeN, State.write_mem, State.write_mem, State.mem_pokes_congr h]
    · exact h

/-- An interrupt of a context, where no sector is marked in memory. -/
theorem State.mem_ctxMsi {s t : State} (hp : t.poison = []) (hm : t.mem = s.mem) (hx : t.ctxs = s.ctxs) (ctx : Nat) :
    (t.ctxMsi ctx).mem = (s.sendMsi (s.ctx ctx).msiAddr (s.ctx ctx).msiData).mem := by
  have clean : t.msiPoison ctx = none := by
    simp [State.msiPoison, State.poisonIn, hp]
  have same : t.ctx ctx = s.ctx ctx := by rw [State.ctx, hx]; rfl
  unfold State.ctxMsi
  simp only [clean, same]
  exact State.mem_sendMsi_congr hm _ _

theorem State.co_report (h : s.co.halted = true) : (s.report die r).co = s.co := by
  rw [State.report_eq]
  split
  · rfl
  · split
    · exact (spares_ctxMsi _ _).co h
    · dsimp only
      split
      · rfl
      · exact (spares_ctxMsi _ _).co h

/-- A fault of a page of which the buffer has an entry merges into it. -/
theorem State.report_merges {x : FaultRec} (hx : some x ∈ (s.faultBuf die r.ctx).ents) (hp : r.samePage x = true) :
    (s.report die r).mem = s.mem ∧ (s.report die r).faultBuf die r.ctx = { s.faultBuf die r.ctx with
      ents := (s.faultBuf die r.ctx).ents.map (fun e => e.map (fun x => if r.samePage x then r.merge x else x)) } := by
  rw [State.report_eq, if_pos (List.any_eq_true.mpr ⟨some x, hx, hp⟩)]
  exact ⟨rfl, s.faultBuf_putBuf ..⟩

section NewPage

variable (hnew : ¬∃ x, some x ∈ (s.faultBuf die r.ctx).ents ∧ r.samePage x = true)
include hnew

theorem State.no_samePage : ¬(s.faultBuf die r.ctx).ents.any (fun e => e.any r.samePage) = true := by
  intro h
  obtain ⟨e, he, hp⟩ := List.any_eq_true.mp h
  cases e with
  | none => cases hp
  | some x => exact hnew ⟨x, he, hp⟩

/-- A fault of another page takes the lowest free entry, and the context has its interrupt. -/
theorem State.report_takes {i : Nat} (hi : (s.faultBuf die r.ctx).ents[i]? = some none)
    (hj : ∀ j < i, (s.faultBuf die r.ctx).ents[j]? ≠ some none) :
    (s.report die r).faultBuf die r.ctx = { s.faultBuf die r.ctx with
      ents := (s.faultBuf die r.ctx).ents.set i (some { r with seq := s.seq, waiters := 1 }) } ∧
    (s.poison = [] → (s.report die r).mem = (s.sendMsi (s.ctx r.ctx).msiAddr (s.ctx r.ctx).msiData).mem) := by
  rw [State.report_eq, if_neg (State.no_samePage hnew), takeFree_of_first hi hj]
  refine ⟨(State.faultBuf_of_dies (spares_ctxMsi _ _).dies _ _).trans (State.faultBuf_putBuf ..), fun hp => ?_⟩
  exact State.mem_ctxMsi (s := s) (t := s.nextSeq.2.putBuf die r.ctx _) hp rfl rfl _

/-- Where no entry is free the fault is dropped and counted, and the first one so dropped interrupts. -/
theorem State.report_drops (hfull : ∀ x ∈ (s.faultBuf die r.ctx).ents, x ≠ none) :
    (s.report die r).faultBuf die r.ctx = { s.faultBuf die r.ctx with drop := true, drops := min 65535 ((s.faultBuf die r.ctx).drops + 1) } ∧
    ((s.faultBuf die r.ctx).drop = false → s.poison = [] →
      (s.report die r).mem = (s.sendMsi (s.ctx r.ctx).msiAddr (s.ctx r.ctx).msiData).mem) ∧
    ((s.faultBuf die r.ctx).drop = true → (s.report die r).mem = s.mem) := by
  rw [State.report_eq, if_neg (State.no_samePage hnew), takeFree_of_full hfull]
  dsimp only
  split
  · next h => exact ⟨State.faultBuf_putBuf .., fun h' => absurd (h.symm.trans h') Bool.noConfusion, fun _ => rfl⟩
  · next h =>
    refine ⟨(State.faultBuf_of_dies (spares_ctxMsi _ _).dies _ _).trans (State.faultBuf_putBuf ..), fun _ hp => ?_, fun h' => absurd h' h⟩
    exact State.mem_ctxMsi (s := s) (t := s.putBuf die r.ctx _) hp rfl rfl _

end NewPage

end Report

/-! ## Team faults (R298, R351) -/

section TeamFault

variable {s t : State} {f : FaultInfo} {pc : Nat}

/-- A cohort that stops at a fault. -/
def Cohort.stopAt (c : Cohort) (f : FaultInfo) (pc : Nat) : Cohort :=
  { c.landSfu with halted := true, asked := false, skid := c.landSfu.skid && c.landSfu.asked, fault := some f, faultAt := pc, pre := none }

/-- The state in which a team fault has been reported. -/
def State.faultNoted (s : State) (f : FaultInfo) (pc : Nat) : State :=
  let t : State := { s with co := s.co.stopAt f pc }
  let t := if toBuffer f then t.report (dieOf (s.co.stopAt f pc).core) (s.co.landSfu.stopRec pc f) else t
  if f.cause = causeLongLatency then t.logLl (s.co.stopAt f pc) pc f else t

/-- The team's status, and its other cohorts, are all that a team fault changes after its report. -/
theorem State.teamFault_frame : (s.teamFault f pc).co = (s.faultNoted f pc).co ∧ (s.teamFault f pc).mem = (s.faultNoted f pc).mem ∧
    (s.teamFault f pc).dies = (s.faultNoted f pc).dies := by
  unfold State.teamFault
  extract_lets landed stopping stopped reported u
  rw [show s.faultNoted f pc = u from rfl]
  split
  · exact ⟨rfl, rfl, rfl⟩
  · split <;> exact ⟨rfl, rfl, rfl⟩

theorem State.co_faultNoted : (s.faultNoted f pc).co = s.co.stopAt f pc := by
  have reported : (if toBuffer f then ({ s with co := s.co.stopAt f pc } : State).report (dieOf (s.co.stopAt f pc).core)
      (s.co.landSfu.stopRec pc f) else { s with co := s.co.stopAt f pc }).co = s.co.stopAt f pc := by
    split
    · exact State.co_report rfl
    · rfl
  unfold State.faultNoted
  dsimp only
  split
  · exact ((spares_logLl _ _ _ _).co (by rw [reported]; rfl)).trans reported
  · exact reported

theorem State.raise_eq (h0 : f.cause ≠ 0) (hd : s.co.landSfu.delivers f.cause = false) :
    s.raise f = { ({ s with co := s.co.landSfu } : State).teamFault f s.co.wordAddr with lastFault := some f } := by
  simp [State.raise, State.takeFault, h0, hd]

/-- A fault that no handler takes stops its cohort. -/
theorem State.raise_halts (h0 : f.cause ≠ 0) (hd : s.co.landSfu.delivers f.cause = false) :
    (s.raise f).lastFault = some f ∧ (s.raise f).co.halted = true ∧ (s.raise f).co.fault = some f := by
  rw [State.raise_eq h0 hd]
  obtain ⟨hco, -, -⟩ := State.teamFault_frame (s := { s with co := s.co.landSfu }) (f := f) (pc := s.co.wordAddr)
  exact ⟨rfl, congrArg Cohort.halted (hco.trans State.co_faultNoted), congrArg Cohort.fault (hco.trans State.co_faultNoted)⟩

/-- A fault that goes to no record changes no byte. -/
theorem State.mem_raise (h0 : f.cause ≠ 0) (hd : s.co.landSfu.delivers f.cause = false) (hb : toBuffer f = false) (h9 : f.cause ≠ 9) :
    (s.raise f).mem = s.mem := by
  have plain : f.cause ≠ causeLongLatency := h9
  obtain ⟨-, hmem, -⟩ := State.teamFault_frame (s := { s with co := s.co.landSfu }) (f := f) (pc := s.co.wordAddr)
  rw [State.raise_eq h0 hd]
  refine hmem.trans ?_
  simp [State.faultNoted, hb, plain]

theorem cause_of_toBuffer (h : toBuffer f = true) : f.cause ≠ causeLongLatency := by
  intro hc
  simp [toBuffer, hc, causeNotPresent, causeWindowSpill, causeProtection, causeLongLatency] at h

/-- The state in which the focused cohort has stopped at a fault of its word. -/
def State.stopped (s : State) (f : FaultInfo) : State := { s with co := s.co.landSfu.stopAt f s.co.wordAddr }

/-- A fault of R351 leaves memory and the dies as its report does. -/
theorem State.raise_reports (h0 : f.cause ≠ 0) (hd : s.co.landSfu.delivers f.cause = false) (hb : toBuffer f = true) :
    let v := (s.stopped f).report (dieOf s.co.core) (s.co.stopRec s.co.wordAddr f)
    (s.raise f).mem = v.mem ∧ (s.raise f).dies = v.dies := by
  intro v
  obtain ⟨-, hmem, hdies⟩ := State.teamFault_frame (s := { s with co := s.co.landSfu }) (f := f) (pc := s.co.wordAddr)
  have record : s.co.landSfu.landSfu.stopRec s.co.wordAddr f = s.co.stopRec s.co.wordAddr f := by
    rw [Cohort.stopRec_landSfu, Cohort.stopRec_landSfu]
  have die : dieOf (s.co.landSfu.stopAt f s.co.wordAddr).core = dieOf s.co.core := congrArg FaultRec.die record
  have noted : ({ s with co := s.co.landSfu } : State).faultNoted f s.co.wordAddr = v := by
    simp only [State.faultNoted, hb, if_true, if_neg (cause_of_toBuffer hb), die, record]
    rfl
  rw [State.raise_eq h0 hd]
  exact ⟨hmem.trans (congrArg State.mem noted), hdies.trans (congrArg State.dies noted)⟩

end TeamFault

/-! ## Lane accesses that fault (R177) -/

section Lanes

variable {s t : State} {f : Bool} {d b x : Reg} {size : MSize} {off : Option Word} {g : FaultInfo}

theorem exec_ld_of_error (sx : Bool) (h : resolveLanes s.co .plain (sizeBytes size) .read false
    (s.co.active.map (fun l => (l, s.co.laneAddr b x off l))) s = (t, .error g)) : exec (.ld f d b x size off sx) s = .next (t.raise g) := by
  rw [exec_ld, execLd, State.loadM, State.loadOp]
  simp only [h]

theorem exec_st_of_error (h : resolveLanes s.co .plain (sizeBytes size) .write false
    (s.co.active.map (fun l => (l, s.co.laneAddr b x off l))) s = (t, .error g)) : exec (.st f d b x size off) s = .next (t.raise g) := by
  rw [exec_st, execSt, State.storeM]
  simp only [h]

end Lanes

/-- Settles O60: each refused access is the fault that its check names, and a lane access that is one stops its cohort and is reported. -/
theorem accessFaults : Obligations.AccessFaults := by
  unfold Obligations.AccessFaults
  intro s c l va n x site k why last
  refine ⟨?_, ?_, ?_, ?_, fun h0 h255 root => walkRoot_of_not_canonical h0 h255 root,
    fun hw hx _ hl => resolve_of_windowBad (windowBad_beyond hw hl hx),
    fun h => resolve_of_windowBad (windowBad_straddle h), fun hw hl b hb => resolve_spill hw hl hb, ?_⟩
  · rintro rfl h
    exact ⟨_, permit_read_denied h⟩
  · rintro rfl h
    exact ⟨_, permit_write_denied h⟩
  · rintro rfl h
    exact ⟨_, permit_fetch_denied h⟩
  · rintro rfl hu hr
    exact ⟨fun hp => ⟨_, permit_read_typed hu hr hp⟩, fun hp hm => ⟨_, permit_read_migrating hu hr hp hm⟩⟩
  · intro t g f d b y size off sx lanes taken
    have raised {i : Instr} (hi : exec i s = .next (t.raise g)) : taken i := by
      intro hd h0
      obtain ⟨hlast, hhalted, hfault⟩ := State.raise_halts h0 hd
      refine ⟨_, hi, hlast, hhalted, hfault, State.mem_raise h0 hd, fun hb => ?_⟩
      obtain ⟨hmem, hdies⟩ := State.raise_reports h0 hd hb
      have buf := State.faultBuf_of_dies hdies (dieOf t.co.core) t.co.ctx
      refine ⟨fun ⟨x, hx, hp⟩ => ?_, fun hnew => ⟨fun i hi hj => ?_, fun hfull => ?_⟩⟩
      · obtain ⟨mem, merged⟩ := State.report_merges (s := t.stopped g) (die := dieOf t.co.core)
          (r := t.co.stopRec t.co.wordAddr g) hx hp
        exact ⟨hmem.trans mem, buf.trans merged⟩
      · obtain ⟨taken, signals⟩ := State.report_takes (s := t.stopped g) (die := dieOf t.co.core)
          (r := t.co.stopRec t.co.wordAddr g) hnew hi hj
        exact ⟨buf.trans taken, fun hp => hmem.trans ((signals hp).trans (State.mem_sendMsi_congr (s := t) (t := t.stopped g) rfl _ _))⟩
      · obtain ⟨dropped, first, later⟩ := State.report_drops (s := t.stopped g) (die := dieOf t.co.core)
          (r := t.co.stopRec t.co.wordAddr g) hnew hfull
        exact ⟨buf.trans dropped,
          fun h hp => hmem.trans ((first h hp).trans (State.mem_sendMsi_congr (s := t) (t := t.stopped g) rfl _ _)), fun h => hmem.trans (later h)⟩
    clear_value taken
    exact ⟨fun hr => raised (exec_ld_of_error sx hr), fun hr => raised (exec_st_of_error hr)⟩

end Sys2Proof.Machine

/-!
What reset leaves (O57); engine commands as they are accepted, and copies (O24).
-/

namespace Sys2Proof.Machine

open Sys2Proof.Claims

/-- Settles O57: every part is unlisted after reset, and reads as its own state after reset. -/
theorem resetLeaves : Obligations.ResetLeaves := by
  refine ⟨fun _ => ⟨rfl, rfl, rfl, rfl, rfl⟩, fun _ => ⟨rfl, rfl, rfl, rfl, rfl⟩, fun _ => ⟨rfl, rfl, rfl⟩, rfl, rfl, fun _ => ⟨rfl, rfl⟩,
    fun _ _ => ⟨rfl, rfl⟩, rfl, fun _ => rfl, rfl, rfl, Memory.wf_reset⟩

/-! ## Acceptance (R226, R227) -/

/-- Entries of the scoreboard are taken of the cores alone. -/
theorem State.takeSb_frame {s u : State} {cmd : Nat} {ks : List Claim} (h : s.takeSb cmd ks = some u) : u = { s with cores := u.cores } := by
  induction ks generalizing s with
  | nil => cases h; rfl
  | cons k ks ih =>
    rw [State.takeSb] at h
    split at h
    · cases h
    · have later := ih h
      exact later

/-- A command as its acceptance names it, before what it is to do is put in. -/
def State.freshCmd (t : State) (kind : EngKind) : EngCmd :=
  { id := t.fresh, kind := kind, co := t.co.id, op := t.fresh, ctx := t.co.ctx, writes := [], regs := [], dest := [],
    dst := [], reads := [], poison := none, pages := [], status := 0, pc := t.co.wordAddr }

/-- What a command is to do leaves what its acceptance names. -/
def KeepsName (mk : EngCmd → EngCmd) : Prop := ∀ e, let m := mk e
  m.kind = e.kind ∧ m.co = e.co ∧ m.op = e.op ∧ m.ctx = e.ctx ∧ m.pc = e.pc

section Acceptance

variable {s t : State} {i : Instr} {kind : EngKind} {f : Bool} {ks : List Claim} {keys : List Nat} {n : Nat}

theorem accepts_of_accept {mk : EngCmd → EngCmd} {p : EngCmd → Prop} (h : exec i s = s.accept t kind f ks keys n mk) (hk : KeepsName mk)
    (hp : p (mk (t.freshCmd kind))) : Accepts s t i kind f ks keys n p := by
  intro hold u hu
  have frame := State.takeSb_frame hu
  have co : u.co = t.co.addOp
      { id := t.fresh, kind := .engine, flag := t.co.flagOf f, clause := t.co.clause, keys := keys, writes := [] } := by rw [frame]; rfl
  obtain ⟨hkind, hco, hop, hctx, hpc⟩ := hk (t.freshCmd kind)
  have next : exec i s = .next ((u.modCore t.co.core (fun k => { k with cmds := k.cmds ++ [mk (t.freshCmd kind)] })).lane id n) := by
    rw [h, State.accept]
    simp only [hold]
    dsimp only [State.startOp] at hu ⊢
    rw [hu]
    rfl
  refine ⟨_, next, _, hp, hkind, hco, hop, hctx, hpc, ?_, ?_, ?_, ?_, ?_, ?_⟩
  · simp [State.lane, State.core, State.modCore, State.setCore, Tab.get_put]
  · simp [State.lane, State.core, State.modCore, State.setCore, Tab.get_put]
  · simp [co, Cohort.past, Cohort.addOp]
  · simp [co, Cohort.past, Cohort.addOp]
  · rw [frame]; rfl
  · simp [co, Cohort.past, Cohort.addOp]

theorem accepts_of_copyGo {rs : List Rg} {src dst : List Piece} {writes : State → List (Nat × Byte)} {p : EngCmd → Prop}
    (h : exec i s = s.copyGo t f rs n src dst writes) (ho : t.owned (src ++ dst) = none)
    (hp : let u := t.gather t.co src dst
      p { u.freshCmd .copy with writes := writes u, dst := pieceMap dst, reads := pieceLines src, poison := u.piecePoison u.co.core src
                                pages := piecePages (src ++ dst) }) :
    Accepts s (t.gather t.co src dst) i .copy f (claimsOf s.co rs) [] n p := by
  rw [State.copyGo, ho] at h
  exact accepts_of_accept h (fun _ => ⟨rfl, rfl, rfl, rfl, rfl⟩) hp

end Acceptance

/-! ## The checks (R228) -/

theorem misalignedOf_eq_none {k : Nat} {xs : List (Nat × AccessKind)} {ns : List Nat} (hx : ∀ x ∈ xs, x.1 % k = 0) (hn : ∀ n ∈ ns, n % k = 0) :
    misalignedOf k xs ns = none := by
  have found : xs.find? (fun x => x.1 % k != 0) = none := List.find?_eq_none.mpr fun x h => by simp [hx x h]
  have any : ns.any (fun n => n % k != 0) = false := List.any_eq_false.mpr fun n h => by simp [hn n h]
  simp [misalignedOf, found, any]

/-! ## CPY and CPYG (R229, R231) -/

section Copy

variable {s t : State} {f : Bool} {d a b : Reg} {p : PBlock} {ps : List (List Piece)}

theorem exec_cpy_of_nothing (hn : (s.co.uget b).toNat = 0) (ha : (s.co.ugetPair a).toNat % 16 = 0) (hd : (s.co.ugetPair d).toNat % 16 = 0) :
    exec (.cpy f d a b) s = .next (s.lane id 1) := by
  rw [exec_cpy, execCpy]
  dsimp only
  rw [misalignedOf_eq_none (by simp [ha, hd]) (by simp [hn]), hn]
  rfl

theorem exec_cpy_of_checked (h0 : (s.co.uget b).toNat ≠ 0) (hn : (s.co.uget b).toNat % 16 = 0) (ha : (s.co.ugetPair a).toNat % 16 = 0)
    (hd : (s.co.ugetPair d).toNat % 16 = 0) (hl : (inLocal (s.co.ugetPair a).toNat || inLocal (s.co.ugetPair d).toNat) = true)
    {rs : List Rg} (hrs : rs = [{ grp := 0, share := false, va := (s.co.ugetPair a).toNat, len := (s.co.uget b).toNat, wr := false },
      { grp := 1, share := false, va := (s.co.ugetPair d).toNat, len := (s.co.uget b).toNat, wr := true }])
    (hc : checkRanges s s.co Own.plain rs = (t, .ok ps)) :
    exec (.cpy f d a b) s = s.copyGo t f rs 1 (ps.getD 0 []) (ps.getD 1 [])
      (fun t => (piecePas (ps.getD 1 [])).zip (t.pieceBytes (ps.getD 0 []))) := by
  subst hrs
  have own : ({ Own.plain with no01 := !(inLocal (s.co.ugetPair a).toNat || inLocal (s.co.ugetPair d).toNat) } : Own) = Own.plain := by
    rw [hl]; rfl
  rw [exec_cpy, execCpy]
  dsimp only
  rw [misalignedOf_eq_none (by simp [ha, hd]) (by simp [hn])]
  simp only [if_neg h0, own, hc]

/-- The rows that CPYG reads, one for each active lane. -/
def Cohort.gatherRow (c : Cohort) (a b : Reg) (p : PBlock) (l : Nat) : Nat :=
  ((c.ugetPair a).toNat + (c.get b l).toNat * wide p.h2 p.h3) % 2 ^ 64

/-- The bytes of the rows that CPYG has read, where they go. -/
def Cohort.gatheredRows (c : Cohort) (dpitch : Nat) (ps : List (List Piece)) (t : State) : List (Nat × Byte) :=
  (c.active.zip (ps.take c.active.length)).flatMap (fun x =>
    cellsFrom (((ps.getD c.active.length []).headD { va := 0, pa := 0, len := 0, leaf := none }).pa + x.1 * dpitch) (t.pieceBytes x.2))

section Gather

variable (hlo : 16 ≤ s.co.sub p.h1) (hhi : s.co.sub p.h1 ≤ 61440) (h0 : p.h0 = 0) (h6 : p.h6 = 0) (h7 : p.h7 = 0)
  (hlen : s.co.sub p.h1 % 16 = 0) (hpitch : wide p.h4 p.h5 % 16 = 0) (ha : (s.co.ugetPair a).toNat % 16 = 0)
  (hd : (s.co.ugetPair d).toNat % 16 = 0) (hrow : ∀ l ∈ s.co.active, s.co.gatherRow a b p l % 16 = 0)
include hlo hhi h0 h6 h7 hlen hpitch ha hd hrow

theorem exec_cpyg_of_aligned : exec (.cpyg f d a b p) s =
    match s.co.active.getLast? with
    | none => .next (s.lane id 5)
    | some h =>
      let rs : List Rg := s.co.active.map (fun l => { grp := 0, share := false, va := s.co.gatherRow a b p l, len := s.co.sub p.h1, wr := false }) ++
        [{ grp := 1, share := false, va := (s.co.ugetPair d).toNat, len := h * wide p.h4 p.h5 + s.co.sub p.h1, wr := true }]
      match checkRanges s s.co { Own.plain with no01 := !inLocal (s.co.ugetPair d).toNat } rs with
      | (t, .error e) => .next (t.raise e)
      | (t, .ok ps) =>
        s.copyGo t f rs 5 (ps.take s.co.active.length).flatten (ps.getD s.co.active.length []) (s.co.gatheredRows (wide p.h4 p.h5) ps) := by
  have aligned : misalignedOf 16 ([((s.co.ugetPair a).toNat, AccessKind.read)] ++
      s.co.active.map (fun l => (((s.co.ugetPair a).toNat + (s.co.get b l).toNat * wide p.h2 p.h3) % 2 ^ 64, .read)) ++
      [((s.co.ugetPair d).toNat, .write)]) [s.co.sub p.h1, wide p.h4 p.h5] = none := by
    refine misalignedOf_eq_none (fun x hx => ?_) (by simp [hlen, hpitch])
    simp only [List.mem_append, List.mem_singleton, List.mem_map] at hx
    rcases hx with (rfl | ⟨l, hl, rfl⟩) | rfl
    · exact ha
    · exact hrow l hl
    · exact hd
  have limits : (!(decide (16 ≤ s.co.sub p.h1) && decide (s.co.sub p.h1 ≤ 61440)) || p.h0 != 0 || p.h6 != 0 || p.h7 != 0) = false := by
    simp [hlo, hhi, h0, h6, h7]
  rw [exec_cpyg, execCpyg]
  dsimp only
  rw [aligned, limits]
  rfl

theorem exec_cpyg_of_nothing (h : s.co.active = []) : exec (.cpyg f d a b p) s = .next (s.lane id 5) := by
  rw [exec_cpyg_of_aligned hlo hhi h0 h6 h7 hlen hpitch ha hd hrow, h]
  rfl

theorem exec_cpyg_of_checked {h : Nat} (hlast : s.co.active.getLast? = some h) (hl : inLocal (s.co.ugetPair d).toNat = true) {rs : List Rg}
    (hrs : rs = s.co.active.map (fun l => { grp := 0, share := false, va := s.co.gatherRow a b p l, len := s.co.sub p.h1, wr := false }) ++
      [{ grp := 1, share := false, va := (s.co.ugetPair d).toNat, len := h * wide p.h4 p.h5 + s.co.sub p.h1, wr := true }])
    (hc : checkRanges s s.co Own.plain rs = (t, .ok ps)) : exec (.cpyg f d a b p) s =
      s.copyGo t f rs 5 (ps.take s.co.active.length).flatten (ps.getD s.co.active.length []) (s.co.gatheredRows (wide p.h4 p.h5) ps) := by
  subst hrs
  have own : ({ Own.plain with no01 := !inLocal (s.co.ugetPair d).toNat } : Own) = Own.plain := by rw [hl]; rfl
  rw [exec_cpyg_of_aligned hlo hhi h0 h6 h7 hlen hpitch ha hd hrow, hlast]
  simp only [own, hc]

end Gather

end Copy


/-! ## CPY2D (R230) -/

section Rows

variable {s t : State} {f : Bool} {d a : Reg} {p : PBlock} (hr1 : 1 ≤ s.co.sub p.h0) (hr2 : s.co.sub p.h0 ≤ 4096) (h7 : p.h7 = 0)
include hr1 hr2 h7

theorem exec_cpy2d_decode (h6 : p.h6 = 1) (hlo : 4 ≤ s.co.sub p.h1) (hhi : s.co.sub p.h1 ≤ 15360) (hlen : s.co.sub p.h1 % 4 = 0) :
    exec (.cpy2d f d a p) s =
      s.cpy2dDecode f (s.co.ugetPair d).toNat (s.co.ugetPair a).toNat (s.co.sub p.h0) (s.co.sub p.h1) (wide p.h2 p.h3) (wide p.h4 p.h5) false := by
  have limits : (!((decide (1 ≤ s.co.sub p.h0) && decide (s.co.sub p.h0 ≤ 4096)) && (decide (4 ≤ s.co.sub p.h1) &&
      decide (s.co.sub p.h1 ≤ 15360) && s.co.sub p.h1 % 4 == 0)) || p.h7 != 0) = false := by simp [hr1, hr2, hlo, hhi, hlen, h7]
  rw [exec_cpy2d, execCpy2d]
  dsimp only
  rw [if_pos h6, limits]

theorem exec_cpy2d_raw (h6 : p.h6 = 0) (hlo : 16 ≤ s.co.sub p.h1) (hhi : s.co.sub p.h1 ≤ 61440) : exec (.cpy2d f d a p) s =
    s.cpy2dRaw f (s.co.ugetPair d).toNat (s.co.ugetPair a).toNat (s.co.sub p.h0) (s.co.sub p.h1) (wide p.h2 p.h3) (wide p.h4 p.h5) false := by
  have limits : (!((decide (1 ≤ s.co.sub p.h0) && decide (s.co.sub p.h0 ≤ 4096)) && (decide (16 ≤ s.co.sub p.h1) &&
      decide (s.co.sub p.h1 ≤ 61440))) || p.h6 != 0 || p.h7 != 0) = false := by simp [hr1, hr2, hlo, hhi, h6, h7]
  have mode : p.h6 ≠ 1 := by rw [h6]; decide
  rw [exec_cpy2d, execCpy2d]
  dsimp only
  rw [if_neg mode, limits]

end Rows

section Raw

variable {s t : State} {dst src rows rowlen spitch dpitch : Nat}

theorem State.cpy2dRaw_of_checked (f : Bool) {ps : List (List Piece)} (hd : dst % 16 = 0) (hp : dpitch % 16 = 0) (hlen : rowlen % 16 = 0)
    (ha : src % 2 ^ 64 % 16 = 0) (hnext : 1 < rows → (src + spitch) % 2 ^ 64 % 16 = 0) (hl : (inLocal src || inLocal dst) = true)
    (hc : checkRanges s s.co Own.plain (rowRgs 0 false src spitch rowlen rows ++ rowRgs 1 true dst dpitch rowlen rows) = (t, .ok ps)) :
    s.cpy2dRaw f dst src rows rowlen spitch dpitch false =
      s.copyGo t f (rowRgs 0 false src spitch rowlen rows ++ rowRgs 1 true dst dpitch rowlen rows) 5 (ps.take rows).flatten (ps.drop rows).flatten
        (fun t => (List.range rows).flatMap (fun r => (piecePas ((ps.drop rows).getD r [])).zip (t.pieceBytes ((ps.take rows).getD r [])))) := by
  have own : ({ Own.plain with bad05 := false, no01 := !(inLocal src || inLocal dst) } : Own) = Own.plain := by rw [hl]; rfl
  have aligned : misalignedOf 16 ((if 1 < rows then [src, src + spitch] else [src]).map (fun x => (x % 2 ^ 64, AccessKind.read)) ++
      [(dst, .write)]) [rowlen, dpitch] = none := by
    refine misalignedOf_eq_none (fun x hx => ?_) (by simp [hlen, hp])
    split at hx
    · next h =>
      simp only [List.map_cons, List.map_nil, List.cons_append, List.nil_append, List.mem_cons, List.not_mem_nil, or_false] at hx
      rcases hx with rfl | rfl | rfl
      exacts [ha, hnext h, hd]
    · simp only [List.map_cons, List.map_nil, List.cons_append, List.nil_append, List.mem_cons, List.not_mem_nil, or_false] at hx
      rcases hx with rfl | rfl
      exacts [ha, hd]
  rw [State.cpy2dRaw]
  dsimp only
  rw [aligned]
  simp only [own, hc]

end Raw

/-- A decoding copy as its operands give it. -/
structure Decoding where
  dst : Nat
  va : Nat
  rows : Nat
  rowlen : Nat
  spitch : Nat
  dpitch : Nat

/-- What a decoding copy finds: its view, which lies in the pieces vp, the leaf and the kind of its elements, and the pieces qs of its ranges;
the states after the view, its leaf, and every range has translated. -/
structure Decoding.Found where
  afterView : State
  afterLeaf : State
  afterAll : State
  vp : List Piece
  lf : Option Leaf
  ek : EKind
  qs : List (List Piece)

section Decoding

variable (g : Decoding) (r : Decoding.Found)

def Decoding.Found.view : FView := r.afterView.viewOf r.vp
def Decoding.Found.scaled : Bool := r.ek.block && (leafAttr r.lf).2 != 0
def Decoding.Found.bl : Nat := blOf (leafAttr r.lf).2
def Decoding.viewRg : Rg := { grp := 2, share := false, va := g.va, len := 32, wr := false }
def Decoding.out : List Rg := rowRgs 1 true g.dst g.dpitch (4 * g.rowlen) g.rows
def Decoding.scales : List Rg :=
  if r.scaled then (List.range g.rows).flatMap (fun n => scaleRgs r.view r.bl 4 (n * g.spitch) g.rowlen) else []
def Decoding.ranges : List Rg :=
  g.out ++ (List.range g.rows).map (fun n => elemRg r.view r.ek 3 (n * g.spitch) g.rowlen) ++ g.scales r
/-- The pieces of the elements' codes, row by row. -/
def Decoding.codes : List (List Piece) := (r.qs.drop g.rows).take g.rows

/-- The FP32 values of the elements, row by row, where the rows go. -/
def Decoding.values (t : State) : List (Nat × Byte) :=
  let recs := ((g.scales r).map Rg.va).zip ((r.qs.drop (2 * g.rows)).map (fun p => leNat (t.pieceBytes p)))
  (List.range g.rows).flatMap (fun n =>
    (piecePas ((r.qs.take g.rows).getD n [])).zip ((List.range g.rowlen).flatMap (fun i =>
      natLe 4 (elemValue r.ek (codeIn r.ek (t.pieceBytes ((g.codes r).getD n [])) (n * g.spitch) (n * g.spitch + i))
        (if r.scaled then Tab.get 0 recs (scaleAddr r.view r.bl (n * g.spitch + i)) else 0)))))

/-- A decoding copy passes every check, and finds r. -/
structure Decoding.Passes (s : State) : Prop where
  source : g.va % 32 = 0
  target : g.dst % 16 = 0
  pitch : g.dpitch % 16 = 0
  here : inLocal g.dst = true
  ranges : rangesBad s s.co Own.plain (g.out ++ [g.viewRg]) = none
  pieces : piecesOf s s.co g.viewRg = (r.afterView, .ok r.vp)
  free : r.afterView.heldBy (piecePas r.vp) false = none
  clean : r.afterView.piecePoison s.co.core r.vp = none
  leaf : r.afterView.viewLeaf s.co r.view .read = (r.afterLeaf, .ok r.lf)
  kind : ekind (leafAttr r.lf).1 = some r.ek
  reserved : r.view.rsv = 0
  attr : attrBad (leafAttr r.lf).1 (leafAttr r.lf).2 = none
  scale : r.scaled = true → r.view.sbase % 2 = 0 ∧ scaleBad r.view r.bl = false
  all : rangesBad r.afterLeaf s.co Own.plain (g.ranges r) = none
  allPieces : allPieces s.co (g.ranges r) r.afterLeaf = (r.afterAll, .ok r.qs)
  unordered : orderedOf (r.vp :: r.qs) = none
  attrs : attrsOf (leafAttr r.lf).1 (leafAttr r.lf).2 (g.codes r).flatten = []

theorem State.cpy2dDecode_of_passes {s : State} (f : Bool) {g : Decoding} {r : Decoding.Found} (h : g.Passes r s) :
    s.cpy2dDecode f g.dst g.va g.rows g.rowlen g.spitch g.dpitch false =
      s.copyGo r.afterAll f (g.ranges r) 5 ((g.codes r).flatten ++ (r.qs.drop (2 * g.rows)).flatten ++ r.vp) (r.qs.take g.rows).flatten
        (g.values r) := by
  obtain ⟨source, target, pitch, here, ranges, pieces, free, clean, leaf, kind, reserved, attr, scale, all, allPieces, unordered, attrs⟩ := h
  have own : ({ Own.plain with bad05 := false, no01 := !inLocal g.dst } : Own) = Own.plain := by rw [here]; rfl
  have odd : (r.scaled && decide (r.view.sbase % 2 = 1)) = false := by
    cases h : r.scaled with
    | false => rfl
    | true => simp [(scale h).1]
  have bad : (r.scaled && scaleBad r.view r.bl) = false := by
    cases h : r.scaled with
    | false => rfl
    | true => simp [(scale h).2]
  unfold Decoding.ranges Decoding.scales Decoding.out Decoding.viewRg Decoding.Found.scaled Decoding.Found.view Decoding.Found.bl at *
  unfold State.cpy2dDecode
  dsimp only
  rw [misalignedOf_eq_none (by simp [source]) (by simp), misalignedOf_eq_none (by simp [target]) (by simp [pitch])]
  rw [Decoding.codes] at attrs
  simp only [firstOf, own, ranges, pieces, free, clean, leaf, Option.isSome_none, kind, odd, bad, reserved, attr, all, allPieces, attrs, unordered]
  rfl

end Decoding

/-- Settles O24: each copy passes its checks and is accepted with the bytes, or the values, that it is to write. -/
theorem copiesAreAccepted : Obligations.CopiesAreAccepted := by
  unfold Obligations.CopiesAreAccepted
  refine ⟨fun s t ps f d a b p => ?_, fun s t ps f d a p => ?_⟩
  · intro c dst src n rs go
    refine ⟨fun hn ha hd => onlyCo_of_lane (exec_cpy_of_nothing hn ha hd) rfl, ?_, ?_⟩
    · intro h0 hn ha hd hl hc ho
      exact accepts_of_copyGo (exec_cpy_of_checked h0 hn ha hd hl rfl hc) ho ⟨rfl, rfl, rfl, rfl, rfl⟩
    · intro rowlen spitch dpitch row hlo hhi h0 h6 h7 hlen hpitch ha hd hrow
      refine ⟨fun h => onlyCo_of_lane (exec_cpyg_of_nothing hlo hhi h0 h6 h7 hlen hpitch ha hd hrow h) rfl, fun h hlast hl hc ho => ?_⟩
      exact accepts_of_copyGo (exec_cpyg_of_checked hlo hhi h0 h6 h7 hlen hpitch ha hd hrow hlast hl rfl hc) ho ⟨rfl, rfl, rfl, rfl, rfl⟩
  · intro c dst src rows rowlen spitch dpitch rgs go hr1 hr2 h7 hd hpitch
    refine ⟨fun h6 hlo hhi hlen ha hnext hl hc ho => ?_, ?_⟩
    · have first : src % 2 ^ 64 % 16 = 0 := (congrArg (· % 16) (BitVec.toNat_mod_cancel _)).trans ha
      exact accepts_of_copyGo ((exec_cpy2d_raw hr1 hr2 h7 h6 hlo hhi).trans (State.cpy2dRaw_of_checked f hd hpitch hlen first hnext hl hc)) ho
        ⟨rfl, rfl, rfl⟩
    · intro t2 t3 lf ek vp qs h6 hlo hhi hlen ha hl out view hranges hpieces hfree hclean v hleaf hkind hrsv hattr scaled bl hscale scs rs hall hqs
        hord ep sp hattrs ho
      have passes : Decoding.Passes ⟨dst, src, rows, rowlen, spitch, dpitch⟩ ⟨t, t2, t3, vp, lf, ek, qs⟩ s :=
        ⟨ha, hd, hpitch, hl, hranges, hpieces, hfree, hclean, hleaf, hkind, hrsv, hattr, hscale, hall, hqs, hord, hattrs⟩
      exact accepts_of_copyGo ((exec_cpy2d_decode hr1 hr2 h7 h6 hlo hhi hlen).trans (State.cpy2dDecode_of_passes f passes)) ho ⟨rfl, rfl, rfl⟩

end Sys2Proof.Machine

/-!
Retirement of engine commands, and the query of the scoreboard (O26).
-/

namespace Sys2Proof.Machine

open Sys2Proof.Claims

/-! ## A cohort that is changed -/

theorem Tab.find_modify {α : Type} (t : Tab α) (n : Nat) (f : α → α) (m : Nat) :
    Tab.find (t.modify n f) m = if m = n then (Tab.find t m).map f else Tab.find t m := by
  induction t with
  | nil => simp [Tab.modify, Tab.find]
  | cons e t ih =>
    obtain ⟨k, v⟩ := e
    have step : Tab.find (Tab.modify ((k, v) :: t) n f) m = if k = m then some (if k = n then f v else v) else Tab.find (Tab.modify t n f) m := by
      by_cases h : k = n <;> simp [Tab.modify, Tab.find, h]
    rw [step, ih, Tab.find]
    by_cases hm : m = n
    · subst hm; by_cases hk : k = m <;> simp [hk]
    · by_cases hk : k = m <;> simp [hk, hm]

/-- The cohorts after one of them is changed, where the change keeps its identity. -/
theorem State.cohort?_modCohort_eq (s : State) {n : Nat} {f : Cohort → Cohort} (hf : ∀ c, (f c).id = c.id) (id : Nat) :
    (s.modCohort n f).cohort? id = if id = n then (s.cohort? id).map f else s.cohort? id := by
  unfold State.modCohort State.cohort?
  by_cases hn : s.co.id = n
  · by_cases hid : s.co.id = id
    · simp [hn, hf, ← hid]
    · simp [hn, hf, hn ▸ hid, Ne.symm (hn ▸ hid)]
  · by_cases hid : s.co.id = id
    · simp [hid, hid ▸ hn]
    · simp [hn, hid, Tab.find_modify]

/-! ## What a retirement lands (R149, R232) -/

section Landed

variable (c : Cohort)

/-- A word of another cohort's command lands, in a lane that has not exited. -/
def Cohort.takeReg (id : Nat) (c : Cohort) (r : Nat × Nat × Word) : Cohort :=
  if r.1 = id ∧ c.v.live.getLsbD (r.2.1 % 64) = true then { c with v := c.v.setKey r.2.1 r.2.2 } else c

/-- The words of a command that name a cohort land in it in order. -/
def Cohort.takeRegs (id : Nat) (rs : List (Nat × Nat × Word)) : Cohort := rs.foldl (Cohort.takeReg id) c

theorem Cohort.takeReg_frame (id : Nat) (r : Nat × Nat × Word) :
    (c.takeReg id r).id = c.id ∧ (c.takeReg id r).v.live = c.v.live ∧ (c.takeReg id r).v.ops = c.v.ops := by
  unfold Cohort.takeReg
  split <;> exact ⟨rfl, rfl, rfl⟩

theorem State.cohort?_landReg (s : State) (r : Nat × Nat × Word) (id : Nat) :
    (s.landReg r).cohort? id = (s.cohort? id).map (fun c => c.takeReg id r) := by
  rw [State.landReg, State.cohort?_modCohort_eq s (fun c => by split <;> rfl)]
  by_cases h : id = r.1
  · simp only [h, Cohort.takeReg, if_true, true_and]
  · have other : (fun c : Cohort => c.takeReg id r) = fun c => c := funext fun c => if_neg fun hr => h hr.1.symm
    rw [if_neg h, other, Option.map_id']

theorem State.cohort?_landRegs (rs : List (Nat × Nat × Word)) (s : State) (id : Nat) :
    (rs.foldl State.landReg s).cohort? id = (s.cohort? id).map (fun c => c.takeRegs id rs) := by
  induction rs generalizing s with
  | nil => simp [Cohort.takeRegs]
  | cons r rs ih => rw [List.foldl_cons, ih, State.cohort?_landReg, Option.map_map]; rfl

/-- Each register holds the last word for it. -/
theorem Cohort.get_takeRegs (id : Nat) (rs : List (Nat × Nat × Word)) (key : Nat) : Tab.get 0 (c.takeRegs id rs).v.regs key =
    match (rs.filter (fun r => r.1 == id && r.2.1 == key && c.v.live.getLsbD (key % 64))).getLast? with
    | some r => r.2.2
    | none => Tab.get 0 c.v.regs key := by
  induction rs generalizing c with
  | nil => rfl
  | cons r rs ih =>
    have later := ih (c.takeReg id r)
    rw [(c.takeReg_frame id r).2.1] at later
    rw [Cohort.takeRegs, List.foldl_cons]
    refine later.trans ?_
    by_cases h : (r.1 == id && r.2.1 == key && c.v.live.getLsbD (key % 64)) = true
    · rw [List.filter_cons, if_pos h, List.getLast?_cons]
      simp only [Bool.and_eq_true, beq_iff_eq] at h
      obtain ⟨⟨hid, hkey⟩, hlive⟩ := h
      have here : Tab.get 0 (c.takeReg id r).v.regs key = r.2.2 := by
        rw [Cohort.takeReg, if_pos ⟨hid, hkey ▸ hlive⟩]
        exact (Tab.get_set _ _ _ _ _).trans (if_pos hkey.symm)
      rw [here]
      cases (rs.filter _).getLast? <;> rfl
    · rw [List.filter_cons, if_neg h]
      have here : Tab.get 0 (c.takeReg id r).v.regs key = Tab.get 0 c.v.regs key := by
        rw [Cohort.takeReg]
        split
        · next hr =>
          have hne : key ≠ r.2.1 := fun hk => h (by simp [hr.1, hk, hr.2])
          exact (Tab.get_set _ _ _ _ _).trans (if_neg hne)
        · rfl
      rw [here]

/-- A value for a live lane is what its register holds, for t0-t3 where the clause that names it is in progress. -/
theorem Cohort.land_named {clause : Nat} {w : Nat × Word} (hl : c.v.live.getLsbD (w.1 % 64) = true)
    (ht : isTemp w.1 = true → c.mid = true ∧ clause = c.clause) : Tab.get 0 (c.land clause w).v.regs w.1 = w.2 := by
  cases h : isTemp w.1 with
  | false => exact c.land_self clause w hl h
  | true =>
    obtain ⟨hm, rfl⟩ := ht h
    have hset : Tab.get 0 (c.v.setKey w.1 w.2).regs w.1 = w.2 := (Tab.get_set _ _ _ _ _).trans (if_pos rfl)
    simpa [Cohort.land, hl, h, hm] using hset

theorem Cohort.land_progress (clause : Nat) (w : Nat × Word) : (c.land clause w).mid = c.mid ∧ (c.land clause w).clause = c.clause := by
  unfold Cohort.land
  repeat' split
  all_goals exact ⟨rfl, rfl⟩

theorem Cohort.landAll_named {clause : Nat} {ws : List (Nat × Word)} {w : Nat × Word} (hn : (ws.map Prod.fst).Nodup) (hw : w ∈ ws)
    (hl : c.v.live.getLsbD (w.1 % 64) = true) (ht : isTemp w.1 = true → c.mid = true ∧ clause = c.clause) :
    Tab.get 0 (c.landAll clause ws).v.regs w.1 = w.2 := by
  induction ws generalizing c with
  | nil => cases hw
  | cons x ws ih =>
    obtain ⟨hx, hn⟩ := List.nodup_cons.mp hn
    rcases List.mem_cons.mp hw with rfl | hw
    · have later : ∀ y ∈ ws, y.1 ≠ w.1 := fun y hy he => hx (he ▸ List.mem_map_of_mem hy)
      exact (Cohort.landAll_other _ clause ws later).trans (c.land_named hl ht)
    · obtain ⟨mid, cl⟩ := c.land_progress clause x
      exact ih _ hn hw ((congrArg (·.getLsbD (w.1 % 64)) (c.land_live clause x)).trans hl) (by rwa [mid, cl])

/-! An operation completes with the registers that it named. -/

theorem Cohort.completeAs_id (op : Nat) (ws : List (Nat × Word)) : (c.completeAs op ws).id = c.id := by
  unfold Cohort.completeAs
  split
  · exact c.complete_id _ _
  · rfl

theorem Cohort.op?_completeAs (op : Nat) (ws : List (Nat × Word)) : (c.completeAs op ws).op? op = none := by
  unfold Cohort.completeAs
  split
  · next o ho => rw [c.complete_of_op ho]; exact Cohort.op?_dropOp _ _
  · next ho => exact ho

theorem Cohort.completeAs_of_op {op : Nat} {o : Op} (h : c.op? op = some o) (ws : List (Nat × Word)) :
    c.completeAs op ws = (c.landAll o.clause (o.keys.zip (ws.map Prod.snd))).dropOp op := by
  simp only [Cohort.completeAs, h]
  exact c.complete_of_op h _

theorem Cohort.completeAs_nil_regs (op : Nat) : (c.completeAs op []).v.regs = c.v.regs := by
  cases h : c.op? op with
  | none => simp only [Cohort.completeAs, h]
  | some o => rw [c.completeAs_of_op h, List.map_nil, List.zip_nil_right]; rfl

end Landed

/-! ## Cores, entry by entry -/

/-- Every core is as q says. -/
def State.AllCores (q : Core → Prop) (s : State) : Prop := ∀ k ∈ s.cores, q k.2

section Cores

variable {q : Core → Prop} {s : State} (h : s.AllCores q)
include h

theorem State.AllCores.core (h0 : q Core.init) (n : Nat) : q (s.core n) := by
  rcases Tab.get_eq_or_mem (d := Core.init) s.cores n with hd | hm
  · rw [State.core, hd]; exact h0
  · exact h _ hm

theorem State.AllCores.modCore (h0 : q Core.init) (n : Nat) {f : Core → Core} (hf : ∀ c, q c → q (f c)) : (s.modCore n f).AllCores q := by
  intro k hk
  rcases Tab.mem_of_mem_put hk with rfl | hk
  · exact hf _ (h.core h0 n)
  · exact h k hk

theorem State.AllCores.map {g : Nat × Core → Nat × Core} (hg : ∀ e, q e.2 → q (g e).2) : State.AllCores q { s with cores := s.cores.map g } := by
  intro k hk
  obtain ⟨e, he, rfl⟩ := List.mem_map.mp hk
  exact hg e (h e he)

theorem State.AllCores.write (hq : ∀ c lines, q c → q (c.written none lines)) (cells : List (Nat × Byte)) : (s.write cells).AllCores q := by
  cases cells with
  | nil => exact h
  | cons x l =>
    unfold State.write State.writeBy
    dsimp only
    rw [State.pokes_eq]
    have mapped := h.map (g := fun e => (e.1, e.2.written none (linesOf (x :: l)))) fun e he => hq _ _ he
    split <;> exact mapped

end Cores

/-! ## What a retirement writes (R226, R342) -/

/-- A core whose scoreboard holds no entry of a command, and whose L1 holds no store of its own to some lines. -/
structure Core.Freed (cmd : Nat) (lines : List Nat) (c : Core) : Prop where
  sb : ∀ b ∈ c.sb, b.cmd ≠ cmd
  l1 : ∀ e ∈ c.l1, e.1 ∈ lines → e.2.own = 0

section Freed

variable {cmd : Nat} {lines : List Nat}

theorem Core.freed_init : Core.init.Freed cmd lines := ⟨fun _ h => absurd h List.not_mem_nil, fun _ h => absurd h List.not_mem_nil⟩

theorem Core.Freed.written {c : Core} (h : c.Freed cmd lines) (ls : List Nat) : (c.written none ls).Freed cmd lines :=
  ⟨h.sb, fun e he => h.l1 e (Core.mem_written he)⟩

variable {s : State} (h : s.AllCores (Core.Freed cmd lines))
include h

/-- Lines in which a core has stored nothing leave its L1, and no more comes of it. -/
theorem State.dropLines_of_freed (n : Nat) : s.dropLines n lines =
    s.modCore n (fun c => { c with l1 := c.l1.filter (fun e => !lines.contains e.1) }) := by
  have none_ : (s.core n).l1.filter (fun e => lines.contains e.1 && e.2.own != 0) = [] := List.filter_eq_nil_iff.mpr fun e he hc => by
    simp only [Bool.and_eq_true, List.contains_iff_mem, bne_iff_ne] at hc
    exact hc.2 ((h.core Core.freed_init n).l1 e he hc.1)
  rw [State.dropLines, State.writeBack, none_]
  rfl

theorem State.dropLines_frame (n : Nat) : (s.dropLines n lines).AllCores (Core.Freed cmd lines) ∧ (s.dropLines n lines).gist = s.gist ∧
    (s.dropLines n lines).mem = s.mem ∧ ∀ m, ((s.dropLines n lines).core m).cmds = (s.core m).cmds := by
  rw [State.dropLines_of_freed h]
  refine ⟨h.modCore Core.freed_init n fun c hc => ⟨hc.sb, fun e he => hc.l1 e (List.mem_filter.mp he).1⟩, rfl, rfl, fun m => ?_⟩
  rw [State.core_modCore]
  split
  · next hm => rw [hm]
  · rfl

theorem State.foldl_dropLines_frame (cores : List Nat) : let t := cores.foldl (fun s n => s.dropLines n lines) s
    t.AllCores (Core.Freed cmd lines) ∧ t.gist = s.gist ∧ t.mem = s.mem ∧ ∀ m, (t.core m).cmds = (s.core m).cmds := by
  induction cores generalizing s with
  | nil => exact ⟨h, rfl, rfl, fun _ => rfl⟩
  | cons n cores ih =>
    obtain ⟨freed, gist, mem, cmds⟩ := State.dropLines_frame h n
    obtain ⟨freed', gist', mem', cmds'⟩ := ih freed
    exact ⟨freed', gist'.trans gist, mem'.trans mem, fun m => (cmds' m).trans (cmds m)⟩

end Freed

theorem State.cmds_write (s : State) (cells : List (Nat × Byte)) (n : Nat) : ((s.write cells).core n).cmds = (s.core n).cmds := by
  cases cells with
  | nil => rfl
  | cons x l => rw [State.core_write]; rfl

/-- A command's bytes are written, and their lines leave the L1s of some cores. -/
def State.lay (s : State) (cells : List (Nat × Byte)) (cores : List Nat) : State :=
  cores.foldl (fun s n => s.dropLines n (linesOf cells)) (s.write cells)

theorem State.lay_frame {s : State} {cmd : Nat} {cells : List (Nat × Byte)} (h : s.AllCores (Core.Freed cmd (linesOf cells))) (cores : List Nat) :
    let t := s.lay cells cores
    t.AllCores (Core.Freed cmd (linesOf cells)) ∧ t.gist = s.gist ∧ (∀ a, t.byte a = s.byteAfter cells a) ∧
      ∀ m, (t.core m).cmds = (s.core m).cmds := by
  obtain ⟨freed, gist, mem, cmds⟩ := State.foldl_dropLines_frame (h.write (fun _ ls hc => hc.written ls) cells) cores
  exact ⟨freed, gist.trans (s.gist_write cells),
    fun a => (congrArg (fun m => Tab.get memDefault m a) mem).trans (s.byte_write_eq_byteAfter cells a),
    fun m => (cmds m).trans (s.cmds_write cells m)⟩

/-! ## Retirement (R226, R227) -/

section Retirement

variable {s : State} {core cmd : Nat} {kind : EngKind} {e : EngCmd}

/-- A command is gone from its core, and its entries are free. -/
def State.parted (s : State) (core cmd : Nat) (e : EngCmd) : State :=
  let t := (s.modCore core (fun k => { k with cmds := k.cmds.filter (fun x => x.id != cmd) })).freeSb e.id
  if t.fabs.any (fun b => !b.2.waiting.isEmpty) then t.soon (.fabricCommandComplete 0 0 false []) else t

/-- From s to t a command has retired, but for the result of its operation: its bytes are written, its entries are free, it has left its core,
and its words have landed in the cohorts that they name. -/
structure Retired (s t : State) (core cmd : Nat) (e : EngCmd) : Prop where
  byte : ∀ a, t.byte a = s.byteAfter e.writes a
  cmds : ∀ k ∈ (t.core core).cmds, k.id ≠ cmd
  sb : ∀ k ∈ t.cores, ∀ b ∈ k.2.sb, b.cmd ≠ e.id
  co : t.co.id = s.co.id
  cohorts : ∀ id, t.cohort? id = (s.cohort? id).map (fun c => c.takeRegs id e.regs)

theorem State.parted_frame (hc : Clean s (linesOf e.writes)) : let t := s.parted core cmd e
    t.AllCores (Core.Freed e.id (linesOf e.writes)) ∧ t.gist = s.gist ∧ t.mem = s.mem ∧ t.poison = s.poison ∧
      ∀ k ∈ (t.core core).cmds, k.id ≠ cmd := by
  let gone := s.modCore core (fun k => { k with cmds := k.cmds.filter (fun x => x.id != cmd) })
  have clean : gone.AllCores (fun c => ∀ x ∈ c.l1, x.1 ∈ linesOf e.writes → x.2.own = 0) :=
    State.AllCores.modCore (q := fun c => ∀ x ∈ c.l1, x.1 ∈ linesOf e.writes → x.2.own = 0) hc (fun _ h => absurd h List.not_mem_nil) core
      fun _ h => h
  have freed : (gone.freeSb e.id).AllCores (Core.Freed e.id (linesOf e.writes)) := by
    intro k hk
    obtain ⟨x, hx, rfl⟩ := List.mem_map.mp hk
    exact ⟨fun b hb => by simpa using (List.mem_filter.mp hb).2, clean x hx⟩
  have cmds : ((gone.freeSb e.id).core core).cmds = (s.core core).cmds.filter (fun x => x.id != cmd) := by
    refine (Tab.get_map_field Core.cmds
      (g := fun k => (k.1, { k.2 with sb := k.2.sb.filter (fun b => b.cmd != e.id) })) (fun _ => rfl) (fun _ => rfl) _ _ _).trans ?_
    exact congrArg Core.cmds ((State.core_modCore s core _ core).trans (if_pos rfl))
  have left : ∀ k ∈ ((gone.freeSb e.id).core core).cmds, k.id ≠ cmd := fun k hk => by
    rw [cmds] at hk
    simpa using (List.mem_filter.mp hk).2
  rw [State.parted]
  dsimp only
  split <;> exact ⟨freed, rfl, rfl, rfl, left⟩

theorem State.cohort?_of_gist {s t : State} (h : t.gist = s.gist) (id : Nat) : t.cohort? id = s.cohort? id := by
  have co := State.co_of_gist h
  have cohorts : t.cohorts = s.cohorts := (congrArg State.cohorts h :)
  rw [State.cohort?, State.cohort?, co, cohorts]

theorem State.foldl_landReg_frame (rs : List (Nat × Nat × Word)) (s : State) : let t := rs.foldl State.landReg s
    t.mem = s.mem ∧ t.cores = s.cores ∧ t.co.id = s.co.id := by
  induction rs generalizing s with
  | nil => exact ⟨rfl, rfl, rfl⟩
  | cons r rs ih =>
    obtain ⟨mem, cores, co⟩ := ih (s.landReg r)
    refine ⟨mem.trans (State.modCohort_mem _ _ _), cores.trans (State.modCohort_cores _ _ _), co.trans ?_⟩
    rw [State.landReg, State.modCohort]
    repeat' split
    all_goals rfl

/-- The status bits of a command, in the matrix status word of a core that its context holds. -/
def State.noteStatus (s : State) (core : Nat) (e : EngCmd) : State :=
  if e.status != 0 && (s.core core).claim = some e.ctx then s.modCore core (fun k => { k with mstat := k.mstat ||| e.status }) else s

theorem State.noteStatus_cases (s : State) (core : Nat) (e : EngCmd) :
    s.noteStatus core e = s ∨ s.noteStatus core e = s.modCore core (fun k => { k with mstat := k.mstat ||| e.status }) := by
  unfold State.noteStatus
  split
  · exact .inr rfl
  · exact .inl rfl

/-- The retirement of a command that read no poison and merges into none. -/
theorem State.retireCmd_of_clean (hf : (s.core core).cmds.find? (fun e => e.id == cmd && e.kind = kind) = some e) (hp : e.poison = none)
    (hm : s.poisonMerge e.writes = none) (hc : Clean s (linesOf e.writes)) : ∃ cores : List Nat,
    s.retireCmd core cmd kind = (((e.regs.foldl State.landReg ((s.parted core cmd e).lay e.writes cores))).noteStatus core e).modCohort e.co
      (fun c => c.completeAs e.op e.dest) := by
  have merge : (s.parted core cmd e).poisonMerge e.writes = none := by
    rw [← hm, State.poisonMerge, State.poisonMerge, (State.parted_frame (core := core) (cmd := cmd) hc).2.2.2.1]
  refine ⟨match ((s.parted core cmd e).write e.writes).cohort? e.co with
    | some c => c.teamCores
    | none => [core], ?_⟩
  rw [State.retireCmd, hf]
  dsimp only
  unfold State.parted at merge ⊢
  simp only [State.finish, hp, merge]
  rfl

theorem retired_of_clean (hc : Clean s (linesOf e.writes)) (cores : List Nat) :
    Retired s ((e.regs.foldl State.landReg ((s.parted core cmd e).lay e.writes cores)).noteStatus core e) core cmd e := by
  obtain ⟨freed, gist, mem, -, left⟩ := State.parted_frame (core := core) (cmd := cmd) hc
  obtain ⟨freed', gist', byte, cmds⟩ := State.lay_frame freed cores
  obtain ⟨mem', cores', co⟩ := State.foldl_landReg_frame e.regs ((s.parted core cmd e).lay e.writes cores)
  have gists := gist'.trans gist
  have landed : Retired s (e.regs.foldl State.landReg ((s.parted core cmd e).lay e.writes cores)) core cmd e := by
    refine ⟨fun a => ?_, fun k hk => ?_, fun k hk => ?_, co.trans (congrArg Cohort.id (State.co_of_gist gists)), fun id => ?_⟩
    · rw [State.byte, mem', ← State.byteAfter_congr mem]
      exact byte a
    · rw [State.core, cores', ← State.core, cmds] at hk
      exact left k hk
    · rw [cores'] at hk
      exact (freed' k hk).sb
    · rw [State.cohort?_landRegs, State.cohort?_of_gist gists]
  obtain ⟨byte, cmds, sb, co, cohorts⟩ := landed
  rcases State.noteStatus_cases (e.regs.foldl State.landReg ((s.parted core cmd e).lay e.writes cores)) core e with h | h <;> rw [h]
  · exact ⟨byte, cmds, sb, co, cohorts⟩
  · refine ⟨byte, fun k hk => cmds k ?_, ?_, co, cohorts⟩
    · rwa [State.core_modCore, if_pos rfl] at hk
    · exact State.AllCores.modCore (q := fun c => ∀ b ∈ c.sb, b.cmd ≠ e.id) sb (fun _ h => absurd h List.not_mem_nil) core fun _ h => h

/-- A retirement is what has come of it, and then the result of its operation. -/
theorem exec_retire_of_clean {i : Instr} (hi : exec i s = .next (s.retireCmd core cmd kind))
    (hf : (s.core core).cmds.find? (fun e => e.id == cmd && e.kind = kind) = some e) (hp : e.poison = none)
    (hm : s.poisonMerge e.writes = none) (hc : Clean s (linesOf e.writes)) : ∃ u, Retired s u core cmd e ∧
      exec i s = .next (u.modCohort e.co (fun c => c.completeAs e.op e.dest)) := by
  obtain ⟨cores, hr⟩ := State.retireCmd_of_clean hf hp hm hc
  exact ⟨_, retired_of_clean hc cores, hi.trans (congrArg _ hr)⟩

variable {u : State} (h : Retired s u core cmd e)
include h

theorem Retired.cohort? {id : Nat} {c : Cohort} (hc : s.cohort? id = some c) :
    (u.modCohort e.co (fun c => c.completeAs e.op e.dest)).cohort? id =
      some (if id = e.co then (c.takeRegs id e.regs).completeAs e.op e.dest else c.takeRegs id e.regs) := by
  rw [State.cohort?_modCohort_eq u (fun c => c.completeAs_id e.op e.dest), h.cohorts, hc]
  split <;> rfl

/-- A command with no result leaves what its words leave (R232). -/
theorem Retired.regs_of_no_result (hd : e.dest = []) {id : Nat} {c : Cohort} (hc : s.cohort? id = some c) :
    ∃ c', (u.modCohort e.co (fun c => c.completeAs e.op e.dest)).cohort? id = some c' ∧ ∀ key, Tab.get 0 c'.v.regs key =
      match (e.regs.filter (fun r => r.1 == id && r.2.1 == key && c.v.live.getLsbD (key % 64))).getLast? with
      | some r => r.2.2
      | none => Tab.get 0 c.v.regs key := by
  refine ⟨_, h.cohort? hc, fun key => ?_⟩
  rw [← c.get_takeRegs id e.regs key, hd]
  split
  · rw [Cohort.completeAs_nil_regs]
  · rfl

/-- A command that names no register of another cohort leaves what its result leaves (R234). -/
theorem Retired.regs_of_result (hr : e.regs = []) {c : Cohort} {o : Op} (hc : s.cohort? e.co = some c) (ho : c.op? e.op = some o)
    (hn : o.keys.Nodup) (hl : o.keys.length = e.dest.length) :
    ∃ c', (u.modCohort e.co (fun c => c.completeAs e.op e.dest)).cohort? e.co = some c' ∧
      (∀ key, key ∉ o.keys → Tab.get 0 c'.v.regs key = Tab.get 0 c.v.regs key) ∧
      ∀ n < o.keys.length, let key := o.keys.getD n 0
        c.v.live.getLsbD (key % 64) = true → (768 ≤ key → key < 1024 → c.mid = true ∧ o.clause = c.clause) →
        Tab.get 0 c'.v.regs key = (e.dest.map Prod.snd).getD n 0 := by
  have found := h.cohort? hc
  rw [if_pos rfl, hr, show c.takeRegs e.co [] = c from rfl, c.completeAs_of_op ho] at found
  have lengths : o.keys.length = (e.dest.map Prod.snd).length := by rw [List.length_map, hl]
  refine ⟨_, found, fun key hk => ?_, fun n hlt => ?_⟩
  · exact c.landAll_other _ _ fun x hx hxk => hk (hxk ▸ (List.of_mem_zip hx).1)
  · intro key hlive htemp
    have mem : (key, (e.dest.map Prod.snd).getD n 0) ∈ o.keys.zip (e.dest.map Prod.snd) := by
      have hz : n < (o.keys.zip (e.dest.map Prod.snd)).length := by rw [List.length_zip, ← lengths, min_self]; exact hlt
      have at_ := List.getElem_mem hz
      rw [List.getElem_zip] at at_
      simpa only [key, List.getD_eq_getElem _ 0 hlt, List.getD_eq_getElem _ 0 (lengths ▸ hlt)] using at_
    have nodup : ((o.keys.zip (e.dest.map Prod.snd)).map Prod.fst).Nodup := by rwa [List.map_fst_zip lengths.le]
    exact c.landAll_named nodup mem hlive fun ht => by
      simp only [isTemp, Bool.and_eq_true, decide_eq_true_eq] at ht
      exact htemp ht.1 ht.2

end Retirement

/-! ## SBQ (R237) -/

section Query

/-- The entries in use, as bits. -/
theorem testBit_foldl_slots (l : List SbEntry) (v i : Nat) :
    (l.foldl (fun n e => n ||| 2 ^ e.slot) v).testBit i = (v.testBit i || l.any (fun e => e.slot == i)) := by
  induction l generalizing v with
  | nil => simp
  | cons e l ih => rw [List.foldl_cons, ih, Nat.testBit_or, Nat.testBit_two_pow, List.any_cons, Bool.or_assoc]; rfl

theorem foldl_slots_lt {l : List SbEntry} (h : ∀ e ∈ l, e.slot < 16) : l.foldl (fun n e => n ||| 2 ^ e.slot) 0 < 2 ^ 16 := by
  refine Nat.lt_pow_two_of_testBit _ fun i hi => ?_
  rw [testBit_foldl_slots, Nat.zero_testBit, Bool.false_or, List.any_eq_false]
  intro e he
  have := h e he
  simp only [beq_iff_eq]
  omega

/-- A word of 16 bits and two more. -/
theorem getLsbD_bits_and_two {n : Nat} (h : n < 2 ^ 16) (x y : Bool) :
    let v := BitVec.ofNat 32 (n + (if x then 2 ^ 16 else 0) + (if y then 2 ^ 17 else 0))
    (∀ i < 16, v.getLsbD i = n.testBit i) ∧ v.getLsbD 16 = x ∧ v.getLsbD 17 = y := by
  have split_ : n + (if x then 2 ^ 16 else 0) + (if y then 2 ^ 17 else 0) = 2 ^ 16 * (x.toNat + 2 * y.toNat) + n := by
    cases x <;> cases y <;> simp <;> omega
  intro v
  have bit (i : Nat) (hi : i < 32) : v.getLsbD i = if i < 16 then n.testBit i else (x.toNat + 2 * y.toNat).testBit (i - 16) := by
    rw [BitVec.getLsbD_ofNat, decide_eq_true hi, Bool.true_and, split_, Nat.testBit_two_pow_mul_add _ h]
  refine ⟨fun i hi => by rw [bit i (by omega), if_pos hi], ?_, ?_⟩
  · rw [bit 16 (by decide)]
    cases x <;> cases y <;> rfl
  · rw [bit 17 (by decide)]
    cases x <;> cases y <;> rfl

end Query

/-- Settles O26: every kind of command retires alike, and SBQ reads the scoreboard as it stands. -/
theorem commandsRetireAndQuery : Obligations.CommandsRetireAndQuery := by
  unfold Obligations.CommandsRetireAndQuery
  refine ⟨fun s core cmd e => ?_, fun s d a => ?_⟩
  · intro retires
    have retired {i : Instr} {kind : EngKind} (hi : exec i s = .next (s.retireCmd core cmd kind)) : retires i kind := by
      intro hf hp hm hc
      obtain ⟨u, hu, hnext⟩ := exec_retire_of_clean hi hf hp hm hc
      refine ⟨_, hnext, fun a => ?_, ?_, ?_, fun hco => ?_, fun hd id c hc => hu.regs_of_no_result hd hc,
        fun hr c o hc ho hn hl => hu.regs_of_result hr hc ho hn hl⟩
      · rw [State.byte, State.modCohort_mem]
        exact hu.byte a
      · rw [State.core, State.modCohort_cores]
        exact hu.cmds
      · rw [State.modCohort_cores]
        exact hu.sb
      · rw [State.modCohort, if_pos (hu.co.trans hco.symm)]
        exact Cohort.op?_completeAs _ _ _
    exact ⟨retired rfl, retired rfl, retired rfl⟩
  · intro c x at_ hit hslots
    obtain ⟨entries, writes, reads⟩ := getLsbD_bits_and_two (foldl_slots_lt hslots) (hit true) (hit false)
    refine ⟨_, uniform_of_eq rfl rfl, fun n hn => (entries n hn).trans ?_, writes, reads⟩
    rw [testBit_foldl_slots, Nat.zero_testBit, Bool.false_or]

end Sys2Proof.Machine

/-!
Register writes to other cohorts, and bit planes (O25): the blocks of PLNX first, then where their bits lie, then the instructions.
-/

namespace Sys2Proof.Machine

open Sys2Proof.Claims

/-! ## The value of an element (R235) -/

section Values

/-- The number that a value is; none for a NaN or an infinity. -/
def FVal.rat : FVal → Option ℚ
  | .num neg n x => some (signedQ neg (n * 2 ^ x))
  | .nan _ _ | .inf _ => none

theorem FVal.rat_value {f : Fmt} (hf : f.Std) (c : Nat) : (f.value c).rat = if fNaN f c || fInf f c then none else some (fVal f c) := by
  rw [Fmt.value_eq_cases hf, fVal_eq]
  cases fNaN f c <;> cases fInf f c <;> rfl

theorem signedQ_natAbs (v : ℤ) : signedQ (decide (v < 0)) (v.natAbs * 2 ^ (0 : ℤ)) = v := by
  rw [signedQ, zpow_zero, mul_one, Nat.cast_natAbs]
  split
  · next h => rw [abs_of_neg (of_decide_eq_true h)]; push_cast; ring
  · next h => rw [abs_of_nonneg (by simpa using h)]

/-- The model's value of an element is that of the statement. -/
theorem rat_mvalue (ek : EKind) (c q : Nat) : (mvalue ek c q).rat = eVal ek q c := by
  cases ek with
  | b16 => exact FVal.rat_value (fType_std .b16) c
  | f16 => exact FVal.rat_value (fType_std .f16) c
  | f32 => exact FVal.rat_value (fType_std .f32) c
  | blk k =>
    rw [mvalue, eVal]
    dsimp only
    by_cases hs : k = .e2m1s ∧ c % 16 = 8
    · obtain ⟨rfl, hc⟩ := hs
      rw [if_pos ⟨rfl, hc⟩, blockValue, if_pos hc, FVal.rat, signedQ]
      simp only [beq_iff_eq, zpow_neg_one]
      split <;> congr 1 <;> ring
    · rw [if_neg hs]
      cases hk : blkFmt k with
      | inl f => rw [blockValue_of_fmt hk hs]; exact FVal.rat_value (blkFmt_std hk) c
      | inr n => rw [blockValue_of_int hk, FVal.rat, signedQ_natAbs]

end Values

/-! ## The window of a block, and its integers (R235) -/

section Blocks

variable {v : FVal} {r : ℚ}

theorem rat_eq_some (h : v.rat = some r) : ∃ neg n x, v = .num neg n x ∧ r = signedQ neg (n * 2 ^ x) := by
  cases v with
  | num neg n x => exact ⟨neg, n, x, rfl, (Option.some.inj h).symm⟩
  | nan | inf => cases h

theorem abs_signedQ (neg : Bool) {q : ℚ} (h : 0 ≤ q) : |signedQ neg q| = q := by
  cases neg <;> simp [signedQ, abs_of_nonneg h]

/-- The place of the leading bit of a number. -/
theorem topBit_spec (h : v.rat = some r) : match topBit v with
    | none => r = 0
    | some m => (2 : ℚ) ^ m ≤ |r| ∧ |r| < 2 ^ (m + 1) := by
  obtain ⟨neg, n, x, rfl, rfl⟩ := rat_eq_some h
  rw [topBit]
  by_cases h0 : n = 0
  · simp [h0, signedQ]
  have hlo : (2 : ℚ) ^ (Nat.log2 n : ℤ) ≤ n := by exact_mod_cast Nat.log2_self_le h0
  have hhi : (n : ℚ) < 2 ^ ((Nat.log2 n : ℤ) + 1) := by exact_mod_cast Nat.lt_log2_self
  rw [if_neg h0, abs_signedQ neg (by positivity)]
  refine ⟨?_, ?_⟩
  · rw [zpow_add₀ two_ne_zero]
    gcongr
  · rw [add_right_comm, zpow_add₀ two_ne_zero]
    gcongr

/-- A number cut to units of 2^w, towards zero. -/
def cut (w : ℤ) (r : ℚ) : ℤ := if 0 ≤ r then ⌊r * 2 ^ (-w)⌋ else ⌈r * 2 ^ (-w)⌉

theorem cut_signedQ (w : ℤ) (neg : Bool) (n : Nat) (x : ℤ) : let k := n * (pow2 (x - w)).1 / (pow2 (x - w)).2
    cut w (signedQ neg (n * 2 ^ x)) = if neg then -(k : ℤ) else k := by
  intro k
  have units : (n * 2 ^ x : ℚ) * 2 ^ (-w) = (n * (pow2 (x - w)).1 : ℕ) / ((pow2 (x - w)).2 : ℕ) := by
    rw [mul_assoc, ← zpow_add₀ two_ne_zero, ← sub_eq_add_neg, ← pow2_div, Nat.cast_mul, mul_div_assoc]
  have floor : ⌊(n * 2 ^ x : ℚ) * 2 ^ (-w)⌋ = k := by rw [units, Rat.floor_natCast_div_natCast]; rfl
  have hmag : (0 : ℚ) ≤ n * 2 ^ x := by positivity
  rw [cut]
  cases neg with
  | false => rw [signedQ, if_neg Bool.false_ne_true, if_pos hmag, floor]; rfl
  | true =>
    rw [signedQ, if_pos rfl, if_pos rfl, neg_mul, Int.ceil_neg, Int.floor_neg]
    split
    · next h =>
      have h0 : (n * 2 ^ x : ℚ) = 0 := by linarith
      rw [← floor, h0]
      simp
    · rw [floor]

/-- The model's integer of an element is its number cut, in two's complement; and it knows whether a bit was lost. -/
theorem planeInt_spec (P : Nat) (w : ℤ) (h : v.rat = some r) : (planeInt P w v).1 = (cut w r % 2 ^ P).toNat ∧
    ((planeInt P w v).2 = true ↔ (cut w r : ℚ) * 2 ^ w ≠ r) := by
  obtain ⟨neg, n, x, rfl, rfl⟩ := rat_eq_some h
  have units : (n * 2 ^ x : ℚ) = (n * (pow2 (x - w)).1 : ℕ) / ((pow2 (x - w)).2 : ℕ) * 2 ^ w := by
    rw [Nat.cast_mul, mul_div_assoc, pow2_div, mul_assoc, ← zpow_add₀ two_ne_zero, sub_add_cancel]
  rw [cut_signedQ, planeInt, units]
  have hq := (pow2_pos (x - w)).2
  dsimp only
  generalize n * (pow2 (x - w)).1 = a
  generalize (pow2 (x - w)).2 = b at *
  have hw : (2 : ℚ) ^ w ≠ 0 := zpow_ne_zero _ two_ne_zero
  have whole : a % b ≠ 0 ↔ ((a / b : ℕ) : ℚ) ≠ (a : ℚ) / b := by
    have hb : (b : ℚ) ≠ 0 := by exact_mod_cast hq.ne'
    rw [div_add_mod_div (a := a) hq.ne', ne_eq, ne_eq, left_eq_add, div_eq_zero_iff, or_iff_left hb, Nat.cast_eq_zero]
  have hP : (0 : ℤ) < 2 ^ P := by positivity
  constructor
  · have low : ((a / b % 2 ^ P : ℕ) : ℤ) = (a / b : ℕ) % 2 ^ P := by push_cast; rfl
    cases neg with
    | false => rw [if_neg Bool.false_ne_true, if_neg Bool.false_ne_true, ← low, Int.toNat_natCast]
    | true =>
      rw [if_pos rfl, if_pos rfl]
      have hlt : a / b % 2 ^ P < 2 ^ P := Nat.mod_lt _ (Nat.two_pow_pos P)
      have negated : ((2 ^ P - a / b % 2 ^ P : ℕ) : ℤ) % 2 ^ P = -((a / b : ℕ) : ℤ) % 2 ^ P := by
        have parts := Int.mul_ediv_add_emod ((a / b : ℕ) : ℤ) (2 ^ P)
        have turns : ((2 ^ P - a / b % 2 ^ P : ℕ) : ℤ) = -((a / b : ℕ) : ℤ) + 2 ^ P * (1 + ((a / b : ℕ) : ℤ) / 2 ^ P) := by
          rw [Nat.cast_sub hlt.le, low, Nat.cast_pow, Nat.cast_ofNat]
          linarith
        rw [turns, Int.add_mul_emod_self_left]
      rw [← negated]
      exact_mod_cast (Int.toNat_natCast _).symm
  · rw [bne_iff_ne, whole]
    cases neg with
    | false => rw [if_neg Bool.false_ne_true, signedQ, if_neg Bool.false_ne_true, Int.cast_natCast, ne_eq, ne_eq, mul_left_inj' hw]
    | true =>
      rw [if_pos rfl, signedQ, if_pos rfl, Int.cast_neg, Int.cast_natCast, neg_mul, ne_eq, ne_eq, neg_inj, mul_left_inj' hw]

/-- The window of a format whose window depends on the block. -/
theorem windows_general (P : Nat) {vs : List FVal} {rs : List ℚ} (h : vs.map FVal.rat = rs.map some) {w : ℤ}
    (hw : w = match vs.filterMap topBit with
      | [] => 0
      | m :: ms => max (ms.foldl max m - (P : ℤ) + 2) (-127)) :
    ((∀ r ∈ rs, r = 0) ∧ w = 0) ∨
      ∃ m : ℤ, (∃ r ∈ rs, 2 ^ m ≤ |r|) ∧ (∀ r ∈ rs, |r| < 2 ^ (m + 1)) ∧ w = max (m - P + 2) (-127) := by
  have number {r : ℚ} (hr : r ∈ rs) : ∃ v ∈ vs, v.rat = some r := List.mem_map.mp (h ▸ List.mem_map_of_mem hr)
  cases hb : vs.filterMap topBit with
  | nil =>
    rw [hb] at hw
    refine .inl ⟨fun r hr => ?_, hw⟩
    obtain ⟨v, hv, hvr⟩ := number hr
    have spec := topBit_spec hvr
    rwa [List.filterMap_eq_nil_iff.mp hb v hv] at spec
  | cons m ms =>
    rw [hb] at hw
    replace hw : w = max (ms.foldl max m - (P : ℤ) + 2) (-127) := hw
    have top : (m :: ms).max? = some (ms.foldl max m) := List.max?_cons'
    generalize ms.foldl max m = g at hw top
    rw [← hb] at top
    obtain ⟨mem, le⟩ := List.max?_eq_some_iff.mp top
    refine .inr ⟨g, ?_, fun r hr => ?_, hw⟩
    · obtain ⟨v, hv, hg⟩ := List.mem_filterMap.mp mem
      obtain ⟨r, hr, hvr⟩ := List.mem_map.mp (h ▸ List.mem_map_of_mem (f := FVal.rat) hv)
      have spec := topBit_spec hvr.symm
      rw [hg] at spec
      exact ⟨r, hr, spec.1⟩
    · obtain ⟨v, hv, hvr⟩ := number hr
      have spec := topBit_spec hvr
      cases ht : topBit v with
      | none =>
        rw [ht] at spec
        rw [show r = 0 from spec, abs_zero]
        positivity
      | some n =>
        rw [ht] at spec
        have hle := le n (List.mem_filterMap.mpr ⟨v, hv, ht⟩)
        exact spec.2.trans_le (zpow_le_zpow_right₀ one_le_two (by omega))

/-- The model's window is that of the statement. -/
theorem windows_windowByte (ek : EKind) {vs : List FVal} {rs : List ℚ} (h : vs.map FVal.rat = rs.map some) :
    Windows ek (planesOf ek) rs (windowByte ek vs) := by
  cases ek with
  | blk k =>
    cases k with
    | q8 | q4 | e2m1 | e2m1s | e2m3 => rfl
    | e4m3 | e5m2 | e3m2 => exact windows_general _ h rfl
  | b16 | f16 | f32 => exact windows_general _ h rfl

/-- Whether a block is a NaN block. -/
def nanBlock (ek : EKind) (codes : List Nat) (q : Nat) : Bool :=
  codes.any (fun c => (eVal ek q c).isNone) || (ek.block && q / 256 % 256 == 255)

theorem planeBlock_eq (ek : EKind) (codes : List Nat) (q : Nat) : planeBlock ek codes q =
    if nanBlock ek codes q = true then (codes.map (fun _ => 0), 0x80, false, true)
    else
      let vs := codes.map (fun c => mvalue ek c q)
      let is := vs.map (planeInt (planesOf ek) (windowByte ek vs))
      (is.map Prod.fst, (windowByte ek vs % 256).toNat, is.any Prod.snd, false) := by
  have specials {p : FVal → Bool} (hp : ∀ v, p v = v.rat.isNone) :
      (codes.map (fun c => mvalue ek c q)).any p = codes.any (fun c => (eVal ek q c).isNone) := by
    simp only [List.any_map, Function.comp_def, hp, rat_mvalue]
  unfold planeBlock
  dsimp only
  rw [specials]
  · rfl
  · intro v
    cases v <;> rfl

theorem length_planeBlock (ek : EKind) (codes : List Nat) (q : Nat) : (planeBlock ek codes q).1.length = codes.length := by
  rw [planeBlock_eq]
  split <;> simp

theorem window_planeBlock_lt (ek : EKind) (codes : List Nat) (q : Nat) : (planeBlock ek codes q).2.1 < 256 := by
  rw [planeBlock_eq]
  split
  · exact (by decide : 0x80 < 256)
  · dsimp only
    omega

/-- A block of the model is one of the statement. -/
theorem planes_planeBlock {ek : EKind} {code : Nat → Nat} {q n : Nat} {x : List Nat × Nat × Bool × Bool}
    (hx : x = planeBlock ek ((List.range n).map code) q) {ints : Nat → Nat} (hints : ∀ i < n, ints i = x.1.getD i 0) :
    Planes ek code q n ints x.2.1 x.2.2.1 x.2.2.2 := by
  have bad : ((List.range n).any (fun i => (eVal ek q (code i)).isNone) || (ek.block && q / 256 % 256 == 255)) =
      nanBlock ek ((List.range n).map code) q := by rw [nanBlock, List.any_map]; rfl
  rw [planeBlock_eq] at hx
  rw [Planes]
  dsimp only
  rw [bad]
  by_cases h : nanBlock ek ((List.range n).map code) q = true
  · rw [if_pos h] at hx ⊢
    subst hx
    exact ⟨rfl, rfl, rfl, fun i hi => by simp [hints i hi, hi]⟩
  · rw [if_neg h] at hx ⊢
    subst hx
    have value (i : Nat) (hi : i < n) : (mvalue ek (code i) q).rat = some ((eVal ek q (code i)).getD 0) := by
      rw [rat_mvalue]
      cases hv : eVal ek q (code i) with
      | some r => rfl
      | none =>
        refine absurd ?_ h
        rw [← bad, Bool.or_eq_true, List.any_eq_true]
        exact .inl ⟨i, List.mem_range.mpr hi, congrArg Option.isNone hv⟩
    have values : (((List.range n).map code).map (fun c => mvalue ek c q)).map FVal.rat =
        ((List.range n).map (fun i => (eVal ek q (code i)).getD 0)).map some := by
      simp only [List.map_map]
      exact List.map_congr_left fun i hi => value i (List.mem_range.mp hi)
    refine ⟨rfl, _, windows_windowByte ek values, rfl, fun i => cut _ ((eVal ek q (code i)).getD 0), fun i _ => rfl, fun i hi => ?_, ?_⟩
    · rw [hints i hi, ← (planeInt_spec (planesOf ek) _ (value i hi)).1]
      simp [hi]
    · simp only [List.any_map, List.any_eq_true, List.mem_range, Function.comp_apply]
      exact exists_congr fun i => and_congr_right fun hi => (planeInt_spec (planesOf ek) _ (value i hi)).2

end Blocks

/-! ## Where the bits of a row lie (R236) -/

section Layout

variable {α β : Type} {d : α}

theorem length_flatMap_const {l : List β} {f : β → List α} {m : Nat} (h : ∀ x ∈ l, (f x).length = m) : (l.flatMap f).length = l.length * m := by
  rw [List.length_flatMap, List.map_congr_left h, List.map_const', List.sum_replicate, smul_eq_mul]

/-- An element of lists of one length, one after another. -/
theorem getD_flatMap {l : List β} {f : β → List α} {m i j : Nat} (h : ∀ x ∈ l, (f x).length = m) (hi : i < l.length) (hj : j < m) :
    (l.flatMap f).getD (i * m + j) d = (f l[i]).getD j d := by
  induction l generalizing i with
  | nil => cases hi
  | cons x l ih =>
    have hx : (f x).length = m := h x List.mem_cons_self
    rw [List.flatMap_cons]
    cases i with
    | zero => rw [Nat.zero_mul, Nat.zero_add, List.getD_append _ _ _ _ (hx ▸ hj)]; rfl
    | succ i =>
      have place : (i + 1) * m + j = m + (i * m + j) := by ring
      rw [place, List.getD_append_right _ _ _ _ (by omega), hx, Nat.add_sub_cancel_left]
      exact ih (fun y hy => h y (List.mem_cons_of_mem _ hy)) (Nat.lt_of_succ_lt_succ hi)

theorem getD_flatMap_range {f : Nat → List α} {n m i j : Nat} (h : ∀ x < n, (f x).length = m) (hi : i < n) (hj : j < m) :
    ((List.range n).flatMap f).getD (i * m + j) d = (f i).getD j d := by
  rw [getD_flatMap (fun x hx => h x (List.mem_range.mp hx)) (by simpa using hi) hj, List.getElem_range]

theorem getD_map_range (f : Nat → α) {n i : Nat} (hi : i < n) : ((List.range n).map f).getD i d = f i := by
  simp [hi]

/-- A number put together bit by bit. -/
theorem testBit_foldl_bits (b : Nat → Bool) (n : Nat) :
    (List.range n).foldl (fun v i => v + (b i).toNat * 2 ^ i) 0 < 2 ^ n ∧
      ∀ i < n, ((List.range n).foldl (fun v i => v + (b i).toNat * 2 ^ i) 0).testBit i = b i := by
  induction n with
  | zero => exact ⟨Nat.one_pos, fun i hi => absurd hi (Nat.not_lt_zero i)⟩
  | succ n ih =>
    obtain ⟨hlt, hbit⟩ := ih
    rw [List.range_succ, List.foldl_append, List.foldl_cons, List.foldl_nil]
    generalize (List.range n).foldl _ 0 = v at *
    refine ⟨?_, fun i hi => ?_⟩
    · have := Bool.toNat_le (b n)
      rw [Nat.pow_succ]
      nlinarith
    · rw [Nat.add_comm, Nat.mul_comm, Nat.testBit_two_pow_mul_add _ hlt]
      split
      · next h => exact hbit i h
      · obtain rfl : i = n := by omega
        rw [Nat.sub_self]
        cases b i <;> rfl

theorem getLsbD_planeByte (p : Nat) (xs : List Nat) {i : Nat} (hi : i < 8) : (planeByte p xs).getLsbD i = (xs.getD i 0).testBit p := by
  have bits : (fun n i => n + xs.getD i 0 / 2 ^ p % 2 * 2 ^ i) = fun n i => n + ((xs.getD i 0).testBit p).toNat * 2 ^ i := by
    funext n i
    rw [Nat.toNat_testBit]
  rw [planeByte, bits, BitVec.getLsbD_ofNat, decide_eq_true hi, Bool.true_and]
  exact (testBit_foldl_bits (fun i => (xs.getD i 0).testBit p) 8).2 i hi

theorem length_rowPlanes (P K : Nat) (xs : List Nat) : (rowPlanes P K xs).length = P * (K / 8) := by
  rw [rowPlanes, length_flatMap_const (m := K / 8) (fun _ _ => by simp), List.length_range]

/-- Bit k of plane p of a row is bit p of its integer k. -/
theorem getLsbD_rowPlanes {P K p k : Nat} (xs : List Nat) (hp : p < P) (hk : k / 8 < K / 8) :
    ((rowPlanes P K xs).getD (p * (K / 8) + k / 8) 0).getLsbD (k % 8) = (xs.getD k 0).testBit p := by
  have hlt : k % 8 < 8 := Nat.mod_lt _ (by decide)
  rw [rowPlanes, getD_flatMap_range (m := K / 8) (fun _ _ => by simp) hp hk, getD_map_range _ hk, getLsbD_planeByte _ _ hlt]
  congr 1
  rw [List.getD_eq_getElem?_getD, List.getD_eq_getElem?_getD, List.getElem?_take_of_lt hlt, List.getElem?_drop, Nat.div_add_mod]

end Layout

/-! The bytes of M rows of nb blocks each: the planes of every row, and then the window bytes. -/

section Rows

/-- A block as the model forms it: its integers, its window byte, whether it lost a bit, whether it is a NaN block. -/
abbrev PlaneBlock := List Nat × Nat × Bool × Bool

/-- The blocks of M rows. -/
def planeRows (M nb : Nat) (B : Nat → Nat → PlaneBlock) : List (List PlaneBlock) := (List.range M).map (fun r => (List.range nb).map (B r))

def planesOfRows (P K M nb : Nat) (B : Nat → Nat → PlaneBlock) : List Byte :=
  (planeRows M nb B).flatMap (fun row => rowPlanes P K (row.flatMap (fun x => x.1)))

def windowsOfRows (M nb : Nat) (B : Nat → Nat → PlaneBlock) : List Byte :=
  (planeRows M nb B).flatMap (fun row => row.map (fun x => BitVec.ofNat 8 x.2.1))

variable {P K M nb bl : Nat} {B : Nat → Nat → PlaneBlock}

theorem length_planesOfRows : (planesOfRows P K M nb B).length = M * (P * (K / 8)) := by
  rw [planesOfRows, length_flatMap_const (fun _ _ => length_rowPlanes P K _)]
  simp [planeRows]

theorem length_windowsOfRows : (windowsOfRows M nb B).length = M * nb := by
  rw [windowsOfRows, planeRows, List.flatMap_map, length_flatMap_const (m := nb) (fun _ _ => by simp), List.length_range]

theorem any_planeRows (q : PlaneBlock → Bool) : (planeRows M nb B).any (fun row => row.any q) =
    (List.range M).any (fun r => (List.range nb).any (fun j => q (B r j))) := by
  simp only [planeRows, List.any_map, Function.comp_def]

/-- Plane p of row r holds bit p of each integer of the row. -/
theorem getLsbD_planesOfRows (hB : ∀ r j, (B r j).1.length = bl) (hK : K = nb * bl) (h8 : K % 8 = 0) {r k p : Nat} (hr : r < M) (hk : k < K)
    (hp : p < P) (ws : List Byte) : ((planesOfRows P K M nb B ++ ws).getD ((r * P + p) * (K / 8) + k / 8) 0).getLsbD (k % 8) =
      ((B r (k / bl)).1.getD (k % bl) 0).testBit p := by
  have hk8 : k / 8 < K / 8 := by omega
  have hbl : 0 < bl := Nat.pos_of_ne_zero fun h => by simp [hK, h] at hk
  have hj : k / bl < nb := Nat.div_lt_of_lt_mul (by rwa [Nat.mul_comm, ← hK])
  have place : (r * P + p) * (K / 8) + k / 8 = r * (P * (K / 8)) + (p * (K / 8) + k / 8) := by ring
  have inRow : p * (K / 8) + k / 8 < P * (K / 8) :=
    calc p * (K / 8) + k / 8 < (p + 1) * (K / 8) := by rw [Nat.add_mul, Nat.one_mul]; omega
      _ ≤ P * (K / 8) := Nat.mul_le_mul_right _ hp
  have inPlanes : r * (P * (K / 8)) + (p * (K / 8) + k / 8) < (planesOfRows P K M nb B).length := by
    rw [length_planesOfRows]
    calc r * (P * (K / 8)) + (p * (K / 8) + k / 8) < (r + 1) * (P * (K / 8)) := by rw [Nat.add_mul, Nat.one_mul]; omega
      _ ≤ M * (P * (K / 8)) := Nat.mul_le_mul_right _ hr
  rw [place, List.getD_append _ _ _ _ inPlanes, planesOfRows, planeRows, List.flatMap_map,
    getD_flatMap_range (fun _ _ => length_rowPlanes P K _) hr inRow, getLsbD_rowPlanes _ hp hk8, List.flatMap_map]
  have element := getD_flatMap_range (d := 0) (f := fun j => (B r j).1) (fun j _ => hB r j) hj (Nat.mod_lt k hbl)
  rw [Nat.div_add_mod'] at element
  rw [element]

/-- After the planes comes the window byte of each block. -/
theorem getD_windowsOfRows (hB : ∀ r j, (B r j).2.1 < 256) {r j : Nat} (hr : r < M) (hj : j < nb) :
    ((planesOfRows P K M nb B ++ windowsOfRows M nb B).getD (M * P * (K / 8) + r * nb + j) 0).toNat = (B r j).2.1 := by
  have after : M * P * (K / 8) + r * nb + j - (planesOfRows P K M nb B).length = r * nb + j := by
    rw [length_planesOfRows, Nat.mul_assoc, Nat.add_assoc, Nat.add_sub_cancel_left]
  rw [List.getD_append_right _ _ _ _ (by rw [length_planesOfRows, Nat.mul_assoc, Nat.add_assoc]; exact Nat.le_add_right _ _), after,
    windowsOfRows, planeRows, List.flatMap_map, getD_flatMap_range (m := nb) (fun _ _ => by simp) hr hj, List.map_map,
    getD_map_range _ hj]
  exact Nat.mod_eq_of_lt (hB r j)

end Rows

/-! ## The pieces of ranges (R224, R228) -/

section Pieces

variable {c : Cohort}

theorem allPieces_of_checkRanges {s t : State} {o : Own} {rs : List Rg} {ps : List (List Piece)} (h : checkRanges s c o rs = (t, .ok ps)) :
    allPieces c rs s = (t, .ok ps) := by
  unfold checkRanges at h
  split at h
  · cases h
  · split at h
    · cases h
    · next hp =>
      split at h
      · cases h
      · cases h; exact hp

/-- Each range has its pieces, as some state on the way gives them. -/
theorem pieces_of_allPieces {rs : List Rg} {s t : State} {ps : List (List Piece)} (h : allPieces c rs s = (t, .ok ps)) {i : Nat} {r : Rg}
    (hr : rs[i]? = some r) : ∃ u v, piecesOf u c r = (v, .ok (ps.getD i [])) := by
  induction rs generalizing s ps i with
  | nil => cases hr
  | cons x rs ih =>
    unfold allPieces at h
    split at h
    · cases h
    · next u first hx =>
      split at h
      · cases h
      · next v more hm =>
        cases h
        cases i with
        | zero => cases hr; exact ⟨_, _, hx⟩
        | succ i => exact ih hm hr

theorem length_piecePas_of_share {s t : State} {r : Rg} {ps : List Piece} (hr : r.share = true) (h : piecesOf s c r = (t, .ok ps)) :
    (piecePas ps).length = r.len := by
  unfold piecesOf Rg.place at h
  rw [if_pos hr] at h
  split at h
  · next h0 => cases h; exact h0.symm
  · cases h; simp [piecePas]

end Pieces

/-! ## CPYO (R232, R233) -/

section Remote

variable {s t : State} {x : Cohort} {f : Bool} {d a b : Reg} {ps : List (List Piece)}

theorem State.cpyoCohort_of_target {c : Cohort} {tw n : Nat} (h : s.cpyoTarget c tw n = .ok x) : s.cpyoCohort c tw = .ok x := by
  unfold State.cpyoTarget at h
  dsimp only at h
  split at h
  · cases h
  · next y hy =>
    split at h
    · cases h
    · split at h
      · cases h
      · cases h; exact hy

/-- What a CPYO of a cohort is to do: the words of its pieces, read in the state u, for n registers of the cohort x. -/
def State.remoteWords (u : State) (c x : Cohort) (first n : Nat) (from_ : List Piece) (e : EngCmd) : EngCmd :=
  { e with
    regs := (List.range (n * c.W)).map (fun q =>
      (x.id, indexKey x.S (first + q / c.W) (q % c.W), BitVec.ofNat 32 (leNat (((u.pieceBytes from_).drop (4 * q)).take 4))))
    poison := (u.poisonOf x.declPas).map (fun p => (p.2, 0x00F0000000000000 + p.1)) <|> u.piecePoison c.core from_
    reads := pieceLines from_
    pages := piecePages from_ }

theorem State.poison_remoteWords {u : State} {c : Cohort} {first n : Nat} {from_ : List Piece} {e : EngCmd} (h : u.poisonOf x.declPas = none) :
    (u.remoteWords c x first n from_ e).poison = u.piecePoison c.core from_ := by
  rw [State.remoteWords, h]
  rfl

theorem exec_cpyo_of_checked (ha : (s.co.ugetPair a).toNat % 4 = 0) (hn : (s.co.uget d).toNat ≠ 0) (htw : (s.co.uget b).toNat < 2 ^ 30)
    (hw : ∀ y, windowOf (s.co.ugetPair a).toNat ≠ .onchip y) (hx : s.cpyoTarget s.co (s.co.uget b).toNat (s.co.uget d).toNat = .ok x)
    (hd : s.heldBy x.declPas false = none) {rs : List Rg}
    (hrs : rs = [{ grp := 0, share := false, va := (s.co.ugetPair a).toNat, len := 4 * (s.co.uget d).toNat * s.co.W, wr := false }])
    (hc : checkRanges s s.co Own.plain rs = (t, .ok ps)) (ho : t.owned ps.flatten = none) :
    let first := bitsOf (s.co.uget b).toNat 21 9
    let n := (s.co.uget d).toNat
    let u := t.gather t.co ps.flatten []
    exec (.cpyo f d a b) s = s.accept u .copy f (claimsOf s.co rs ++ [{ slot := x.core, wr := true, lo := first, hi := first + n, co := some x.id }])
      [] 1 (u.remoteWords s.co x first n ps.flatten) := by
  subst hrs
  have own {chip : Bool} (h : chip = false) :
      ({ Own.plain with bad05 := decide ((s.co.uget d).toNat = 0) || (s.co.uget b).toNat / 2 ^ 30 != 0 || chip, mid := none } : Own) = Own.plain := by
    rw [h, decide_eq_false hn, Nat.div_eq_of_lt htw]
    rfl
  rw [exec_cpyo, execCpyo]
  dsimp only
  rw [misalignedOf_eq_none (by simp [ha]) (by simp)]
  simp only [State.cpyoCohort_of_target hx, hd, hx]
  rw [own]
  · simp only [hc, ho]
    rfl
  · cases h : windowOf (s.co.ugetPair a).toNat with
    | onchip y => exact absurd h (hw y)
    | loc | glob => rfl

end Remote

/-! ## PLNX (R234 to R236) -/

section PlaneJob

/-- The rows of a PLNX: how many, their elements, the block length, and the pitches of the rows and of their scale records. -/
structure PlaneJob where
  ek : EKind
  A : Nat
  B : Nat
  M : Nat
  K : Nat
  bl : Nat
  pitch : Nat
  sbase : Nat
  spitch : Nat

/-- The job that the operands of a PLNX name, of elements of a kind. -/
def Cohort.planeJob (c : Cohort) (a b : Reg) (p : PBlock) (ek : EKind) : PlaneJob :=
  { ek := ek, A := (c.uget a).toNat, B := (c.uget b).toNat, M := c.sub p.h0, K := c.sub p.h1, bl := 8 * 2 ^ bitsOf p.h2.toNat 4 2,
    pitch := p.h3.toNat, sbase := 16 * p.h4.toNat, spitch := p.h5.toNat }

/-- Operands of a PLNX that lie within their limits (R234). -/
structure PlaneFits (c : Cohort) (p : PBlock) (j : PlaneJob) : Prop where
  source : j.A % 16 = 0
  target : j.B % 16 = 0
  rows : 1 ≤ j.M ∧ j.M ≤ 128
  format : mfmt (p.h2.toNat % 16) = some j.ek
  block : bitsOf p.h2.toNat 4 2 ≠ 0
  upper : p.h2.toNat / 64 = 0
  elements : 16 ≤ j.K ∧ j.K ≤ 4096
  whole : j.K % j.bl = 0
  pitch : j.K * j.ek.nibs / 2 ≤ j.pitch
  scales : if j.ek.block then 2 * (j.K / j.bl) ≤ j.spitch else p.h4 = 0 ∧ p.h5 = 0
  zero : p.h6 = 0 ∧ p.h7 = 0

variable (j : PlaneJob)

def PlaneJob.nb : Nat := j.K / j.bl
def PlaneJob.P : Nat := planesOf j.ek

def PlaneJob.ranges : List Rg :=
  (List.range j.M).map (fun r => { grp := 0, share := true, va := j.A + r * j.pitch, len := j.K * j.ek.nibs / 2, wr := false }) ++
  [{ grp := 1, share := true, va := j.B, len := j.M * (j.P * j.K / 8 + j.nb), wr := true }] ++
  (if j.ek.block then
    (List.range j.M).map (fun r => { grp := 2, share := true, va := j.sbase + r * j.spitch, len := 2 * j.nb, wr := false })
  else [])

/-- The element k of row r, and the scale record of its block b, as the pieces of the job's ranges hold them. -/
def PlaneJob.code (ps : List (List Piece)) (u : State) (r k : Nat) : Nat := codeIn j.ek (u.pieceBytes ((ps.take j.M).getD r [])) 0 k
def PlaneJob.record (ps : List (List Piece)) (u : State) (r b : Nat) : Nat :=
  leNat (((u.pieceBytes ((ps.drop (j.M + 1)).getD r [])).drop (2 * b)).take 2)

/-- The block b of row r. -/
def PlaneJob.blockAt (ps : List (List Piece)) (u : State) (r b : Nat) : PlaneBlock :=
  planeBlock j.ek ((List.range j.bl).map (fun i => j.code ps u r (b * j.bl + i))) (j.record ps u r b)

/-- Whether a block of the job is as q says. -/
def PlaneJob.has (ps : List (List Piece)) (u : State) (q : PlaneBlock → Bool) : Bool :=
  (planeRows j.M j.nb (j.blockAt ps u)).any (fun row => row.any q)

/-- What a PLNX is to do, with its operands read in the state u. -/
def PlaneJob.planes (ps : List (List Piece)) (u : State) (core : Nat) (keys : List Nat) (e : EngCmd) : EngCmd :=
  let lost := j.has ps u (fun x => x.2.2.1)
  let nan := j.has ps u (fun x => x.2.2.2)
  { e with
    writes := (piecePas (ps.getD j.M [])).zip (planesOfRows j.P j.K j.M j.nb (j.blockAt ps u) ++ windowsOfRows j.M j.nb (j.blockAt ps u))
    dest := keys.map (fun k => (k, BitVec.ofNat 32 ((if lost then 1 else 0) + (if nan then 2 else 0))))
    dst := pieceMap (ps.getD j.M [])
    poison := u.piecePoison core ((ps.take j.M).flatten ++ (ps.drop (j.M + 1)).flatten)
    status := if lost then 1 else 0 }

variable {s t : State} {f : Bool} {d a b : Reg} {p : PBlock} {ek : EKind} {ps : List (List Piece)}

theorem exec_plnx_of_fits (h : PlaneFits s.co p (s.co.planeJob a b p ek))
    (hc : checkRanges s s.co Own.plain (s.co.planeJob a b p ek).ranges = (t, .ok ps)) : let u := t.drainWc s.co.core (some s.co.id)
    exec (.plnx f d a b p) s = s.accept u .copy f (claimsOf s.co (s.co.planeJob a b p ek).ranges) (s.co.keysOf d s.co.livel) 5
      ((s.co.planeJob a b p ek).planes ps u s.co.core (s.co.keysOf d s.co.livel)) := by
  obtain ⟨source, target, rows, format, block, upper, elements, whole, pitch, scales, zero⟩ := h
  unfold Cohort.planeJob at *
  dsimp only at *
  rw [exec_plnx, execPlnx]
  dsimp only
  rw [misalignedOf_eq_none (by simp [source, target]) (by simp), format]
  dsimp only [Option.getD_some, Option.isSome_some]
  have pitches : (if ek.block then decide (2 * (s.co.sub p.h1 / (8 * 2 ^ bitsOf p.h2.toNat 4 2)) ≤ p.h5.toNat) else p.h4 == 0 && p.h5 == 0) =
      true := by
    split at scales
    · next h => rw [if_pos h]; exact decide_eq_true scales
    · next h => rw [if_neg h, scales.1, scales.2]; rfl
  have own : ({ Own.plain with bad05 := !(decide (1 ≤ s.co.sub p.h0) && decide (s.co.sub p.h0 ≤ 128) && true && bitsOf p.h2.toNat 4 2 != 0 &&
      p.h2.toNat / 64 == 0 && decide (16 ≤ s.co.sub p.h1) && decide (s.co.sub p.h1 ≤ 4096) &&
      s.co.sub p.h1 % (8 * 2 ^ bitsOf p.h2.toNat 4 2) == 0 && decide (s.co.sub p.h1 * ek.nibs / 2 ≤ p.h3.toNat) &&
      (if ek.block then decide (2 * (s.co.sub p.h1 / (8 * 2 ^ bitsOf p.h2.toNat 4 2)) ≤ p.h5.toNat) else p.h4 == 0 && p.h5 == 0) &&
      p.h6 == 0 && p.h7 == 0) } : Own) = Own.plain := by
    rw [pitches, zero.1, zero.2, decide_eq_true rows.1, decide_eq_true rows.2, decide_eq_true elements.1, decide_eq_true elements.2,
      decide_eq_true pitch, upper, whole, bne_iff_ne.mpr block]
    rfl
  unfold PlaneJob.ranges PlaneJob.P PlaneJob.nb at hc
  dsimp only at hc
  simp only [own, hc]
  rfl

theorem PlaneJob.code_eq {u : State} {r : Nat} (hr : r < j.M) (k : Nat) :
    j.code ps u r k = codeIn j.ek (u.pieceBytes (ps.getD r [])) 0 k := by
  rw [PlaneJob.code, List.getD_eq_getElem?_getD, List.getElem?_take_of_lt hr, ← List.getD_eq_getElem?_getD]

theorem PlaneJob.length_blockAt (u : State) (r b : Nat) : (j.blockAt ps u r b).1.length = j.bl := by
  rw [PlaneJob.blockAt, length_planeBlock, List.length_map, List.length_range]

/-- The integers of row r. -/
def PlaneJob.ints (ps : List (List Piece)) (u : State) (r k : Nat) : Nat := (j.blockAt ps u r (k / j.bl)).1.getD (k % j.bl) 0

theorem PlaneJob.planes_blockAt {u : State} {r : Nat} (hr : r < j.M) (b : Nat) :
    Planes j.ek (fun i => codeIn j.ek (u.pieceBytes (ps.getD r [])) 0 (b * j.bl + i)) (j.record ps u r b) j.bl
      (fun i => j.ints ps u r (b * j.bl + i)) (j.blockAt ps u r b).2.1 (j.blockAt ps u r b).2.2.1 (j.blockAt ps u r b).2.2.2 := by
  have codes : (fun i => codeIn j.ek (u.pieceBytes (ps.getD r [])) 0 (b * j.bl + i)) = fun i => j.code ps u r (b * j.bl + i) :=
    funext fun i => (j.code_eq hr _).symm
  rw [codes]
  refine planes_planeBlock rfl fun i hi => ?_
  rw [PlaneJob.ints, Nat.mul_add_mod', Nat.mod_eq_of_lt hi, Nat.add_comm, Nat.add_mul_div_right _ _ (Nat.zero_lt_of_lt hi), Nat.div_eq_of_lt hi,
    Nat.zero_add]
  rfl

/-- The output range of a job has as many bytes as the job writes. -/
theorem PlaneJob.length_output {u : State} (h8 : j.K % 8 = 0) {c : Cohort} (h : allPieces c j.ranges s = (t, .ok ps)) :
    (piecePas (ps.getD j.M [])).length =
      (planesOfRows j.P j.K j.M j.nb (j.blockAt ps u) ++ windowsOfRows j.M j.nb (j.blockAt ps u)).length := by
  have out : j.ranges[j.M]? = some { grp := 1, share := true, va := j.B, len := j.M * (j.P * j.K / 8 + j.nb), wr := true } := by
    simp [PlaneJob.ranges]
  obtain ⟨v, w, hv⟩ := pieces_of_allPieces h out
  rw [length_piecePas_of_share rfl hv, List.length_append, length_planesOfRows, length_windowsOfRows, ← Nat.mul_add,
    Nat.mul_div_assoc _ (Nat.dvd_of_mod_eq_zero h8)]

theorem PlaneJob.fst_writes_planes {u : State} {core : Nat} {keys : List Nat} {e : EngCmd} (h8 : j.K % 8 = 0) {c : Cohort}
    (h : allPieces c j.ranges s = (t, .ok ps)) : (j.planes ps u core keys e).writes.map Prod.fst = piecePas (ps.getD j.M []) :=
  List.map_fst_zip (j.length_output h8 h).le

theorem PlaneJob.snd_writes_planes {u : State} {core : Nat} {keys : List Nat} {e : EngCmd} (h8 : j.K % 8 = 0) {c : Cohort}
    (h : allPieces c j.ranges s = (t, .ok ps)) : (j.planes ps u core keys e).writes.map Prod.snd =
      planesOfRows j.P j.K j.M j.nb (j.blockAt ps u) ++ windowsOfRows j.M j.nb (j.blockAt ps u) :=
  List.map_snd_zip (j.length_output h8 h).ge

theorem PlaneJob.has_eq (u : State) (q : PlaneBlock → Bool) :
    j.has ps u q = (List.range j.M).any (fun r => (List.range j.nb).any (fun b => q (j.blockAt ps u r b))) :=
  any_planeRows q

theorem PlaneJob.dest_planes (u : State) (core : Nat) (keys : List Nat) (e : EngCmd) : (j.planes ps u core keys e).dest =
    let some_ (q : PlaneBlock → Bool) : Bool := (List.range j.M).any (fun r => (List.range j.nb).any (fun b => q (j.blockAt ps u r b)))
    keys.map (fun k => (k, BitVec.ofNat 32 ((if some_ (fun x => x.2.2.1) then 1 else 0) + (if some_ (fun x => x.2.2.2) then 2 else 0)))) := by
  simp only [PlaneJob.planes, j.has_eq]

theorem PlaneJob.status_planes (u : State) (core : Nat) (keys : List Nat) (e : EngCmd) : (j.planes ps u core keys e).status =
    if (List.range j.M).any (fun r => (List.range j.nb).any (fun b => (j.blockAt ps u r b).2.2.1)) then 1 else 0 := by
  simp only [PlaneJob.planes, j.has_eq]

end PlaneJob

/-- Settles O25: the words of a CPYO go to the registers that its target word names; a PLNX forms its blocks as R235 has them, and lays
them out as R236 has them. -/
theorem remoteAndPlanesAccepted : Obligations.RemoteAndPlanesAccepted := by
  unfold Obligations.RemoteAndPlanesAccepted
  intro s t ps x ek f d a b p c
  refine ⟨?_, ?_⟩
  · intro n src tw rs u ha hn htw hw hx hd hc ho
    exact accepts_of_accept (exec_cpyo_of_checked ha hn htw hw hx hd rfl hc ho) (fun _ => ⟨rfl, rfl, rfl, rfl, rfl⟩)
      ⟨rfl, rfl, State.poison_remoteWords, rfl⟩
  · intro A B M K bl rowb nb P rs hA hB hM1 hM2 hf hblc hup hK1 hK2 hbl hrow hsc h6 h7 hc u code record
    have fits : PlaneFits c p (c.planeJob a b p ek) := ⟨hA, hB, ⟨hM1, hM2⟩, hf, hblc, hup, ⟨hK1, hK2⟩, hbl, hrow, hsc, ⟨h6, h7⟩⟩
    let j := c.planeJob a b p ek
    have pieces : allPieces c j.ranges s = (t, .ok ps) := allPieces_of_checkRanges hc
    have h8 : K % 8 = 0 := Nat.mod_eq_zero_of_dvd ((Nat.dvd_mul_right 8 _).trans (Nat.dvd_of_mod_eq_zero hbl))
    have whole : K = nb * bl := (Nat.div_mul_cancel (Nat.dvd_of_mod_eq_zero hbl)).symm
    refine accepts_of_accept (exec_plnx_of_fits fits hc) (fun _ => ⟨rfl, rfl, rfl, rfl, rfl⟩) ⟨j.ints ps u, fun r b => (j.blockAt ps u r b).2.1,
      fun r b => (j.blockAt ps u r b).2.2.1, fun r b => (j.blockAt ps u r b).2.2.2, fun r hr b _ => j.planes_blockAt hr b,
      j.fst_writes_planes h8 pieces, fun r hr k hk p hp => ?_, fun r hr b hb => ?_, ?_, ?_⟩
    · rw [j.snd_writes_planes h8 pieces]
      exact getLsbD_planesOfRows (j.length_blockAt u) whole h8 hr hk hp _
    · rw [j.snd_writes_planes h8 pieces]
      exact getD_windowsOfRows (fun _ _ => window_planeBlock_lt _ _ _) hr hb
    · exact j.dest_planes u c.core _ _
    · exact j.status_planes u c.core _ _

end Sys2Proof.Machine

/-!
Residency descriptors (O27): what a handle names, how a descriptor changes, and the five instructions.
-/

namespace Sys2Proof.Machine

open Sys2Proof.Claims

/-! ## Descriptors (R251, R257, R270) -/

theorem Cohort.uniform_idx (c : Cohort) (d : Reg) (w : Word) : (c.uniform d w).idx = c.idx := by
  rw [Cohort.uniform, Cohort.setLanes_frame]

/-- A uniform write, and the words of its instruction. -/
theorem Cohort.uniform_past (c : Cohort) (d : Reg) (w : Word) (n : Nat) : (c.uniform d w).past n = { c.uniform d w with idx := c.idx + n } := by
  rw [Cohort.past, Cohort.uniform_idx]

/-- Four results, and the words of their instruction (R271). -/
theorem Cohort.uniform_four_past (c : Cohort) (d : Reg) (w0 w1 w2 w3 : Word) (n : Nat) :
    ((((c.uniform d w0).uniform (d + 1) w1).uniform (d + 2) w2).uniform (d + 3) w3).past n =
      { (((c.uniform d w0).uniform (d + 1) w1).uniform (d + 2) w2).uniform (d + 3) w3 with idx := c.idx + n } := by
  rw [Cohort.uniform_past, Cohort.uniform_idx, Cohort.uniform_idx, Cohort.uniform_idx]

section Descriptors

variable (s : State)

/-- A descriptor of a core. -/
abbrev State.resAt (s : State) (core i : Nat) : Residency := Tab.get Residency.init (s.core core).res i

theorem State.resAt_modRes_self (core i : Nat) (f : Residency → Residency) : (s.modRes core i f).resAt core i = f (s.resAt core i) := by
  simp only [State.resAt, State.modRes, State.core_modCore, if_true, Tab.get_put]

/-- A handle names the descriptor at its index (R251). -/
theorem State.resAt_of_named {core ctx h i : Nat} {r : Residency} (hn : s.named core ctx h = some (i, r)) : s.resAt core i = r := by
  simp only [State.named] at hn
  split at hn
  · obtain ⟨rfl, rfl⟩ := Prod.mk.inj (Option.some.inj hn)
    rfl
  · cases hn

/-- A release frees the descriptor, whose serial stays (R251, R270). -/
theorem State.resAt_freeResidency (core i : Nat) :
    (s.freeResidency core i).resAt core i = { Residency.init with serial := (s.resAt core i).serial } := by
  unfold State.freeResidency
  dsimp only
  split <;> simp only [State.resAt, State.core_modCore, if_true, Tab.get_put]

/-- The units of a pinned descriptor return to its tenant (R257). -/
theorem State.ten_freeResidency (core i : Nat) : let r := s.resAt core i
    (s.freeResidency core i).ten r.tenant =
      if r.pinned then { s.ten r.tenant with used := (s.ten r.tenant).used - r.units } else s.ten r.tenant := by
  intro r
  rw [State.freeResidency]
  dsimp only
  by_cases h : r.pinned = true
  · rw [if_pos h, if_pos h]
    exact (State.ten_setTen _ _ _ _).trans (if_pos rfl)
  · rw [if_neg h, if_neg h]
    rfl

theorem State.freeResidency_frame (core i : Nat) : (s.freeResidency core i).co = s.co ∧ (s.freeResidency core i).mem = s.mem := by
  unfold State.freeResidency
  dsimp only
  split <;> exact ⟨rfl, rfl⟩

end Descriptors

/-! ## The instructions (R268 to R272) -/

section Instructions

variable {s : State} {d a : Reg} {i : Nat} {r : Residency}

/-- The descriptor that the word of RESA asks for (R268). -/
def Cohort.resaWants (c : Cohort) (q : Nat) : Residency := { Residency.init with
  state := .empty, ctx := c.ctx, tenant := c.tenant, fmt := q % 16, s := q / 16 % 16, policy := q / 256 % 2 == 1, pair := q / 512 % 2 == 1 }

theorem execResa_eq (d a : Reg) (s : State) : execResa d a s =
    let c := s.co
    let q := (c.uget a).toNat
    let r := c.resaWants q
    if c.follows then .next (s.raise (handleFault 4))
    else if 10 ≤ r.fmt || decide (64 / r.width ≤ r.s) || (r.pair && !c.pair) || q / 2 ^ 10 != 0 then .next (s.raise (handleFault 3))
    else if !(s.slotFree c.lead r && (!r.pair || s.slotFree (c.lead + 1) r)) then .next (s.raise (engFault (flt causeQuota 2)))
    else match (List.range 16).find? (fun i => (s.resAt c.lead i).state = .free) with
      | none => .next (s.raise (engFault (flt causeQuota 3)))
      | some i =>
        let serial := (s.resAt c.lead i).serial % 4095 + 1
        .next ((s.modRes c.lead i (fun _ => { r with serial := serial })).lane (fun c => c.uniform d (BitVec.ofNat 32 (serial * 16 + i))) 1) := by
  simp only [execResa, bitsOf, Nat.shiftRight_eq_div_pow]
  rfl

theorem exec_resa_of_free (hf : s.co.follows = false) (hr : s.co.resaWants (s.co.uget a).toNat = r) (hfmt : r.fmt < 10)
    (hs : r.s < 64 / r.width) (hp : r.pair = true → s.co.pair = true) (hlt : (s.co.uget a).toNat < 1024)
    (ha : s.slotFree s.co.lead r = true) (hb : r.pair = true → s.slotFree (s.co.lead + 1) r = true)
    (hi : (List.range 16).find? (fun j => (s.resAt s.co.lead j).state = .free) = some i) :
    let serial := (s.resAt s.co.lead i).serial % 4095 + 1
    exec (.resa d a) s = .next ((s.modRes s.co.lead i (fun _ => { r with serial := serial })).lane
      (fun c => c.uniform d (BitVec.ofNat 32 (serial * 16 + i))) 1) := by
  have limits : (10 ≤ r.fmt || decide (64 / r.width ≤ r.s) || (r.pair && !s.co.pair) || (s.co.uget a).toNat / 2 ^ 10 != 0) = false := by
    have high : (s.co.uget a).toNat / 2 ^ 10 = 0 := Nat.div_eq_of_lt hlt
    rw [high]
    cases hpair : r.pair
    · simp [hfmt, hs]
    · simp [hfmt, hs, hp hpair]
  have free : (s.slotFree s.co.lead r && (!r.pair || s.slotFree (s.co.lead + 1) r)) = true := by
    cases hpair : r.pair
    · simp [ha]
    · simp [ha, hb hpair]
  rw [exec_resa, execResa_eq]
  dsimp only
  rw [hr, hf, limits, free, hi]
  rfl

/-- A descriptor pinned, or not (R257). -/
def Residency.pin (p : Bool) (r : Residency) : Residency := { r with pinned := p }

theorem exec_respin_of_named (hf : s.co.follows = false) (hn : s.named s.co.lead s.co.ctx ((s.co.uget a).toNat % 65536) = some (i, r)) :
    exec (.respin a) s =
      if r.pinned then .next (s.lane id 1)
      else if (s.ten r.tenant).quota < (s.ten r.tenant).used + r.units then .next (s.raise (engFault (flt causeQuota 1)))
      else .next (((s.setTen r.tenant { s.ten r.tenant with used := (s.ten r.tenant).used + r.units }).modRes s.co.lead i
        (Residency.pin true)).lane id 1) := by
  rw [exec_respin, execRespin]
  dsimp only
  rw [hf, hn]
  rfl

theorem exec_respinUnpin_of_named (hf : s.co.follows = false)
    (hn : s.named s.co.lead s.co.ctx ((s.co.uget a).toNat % 65536) = some (i, r)) :
    exec (.respinUnpin a) s =
      if r.pinned then .next (((s.setTen r.tenant { s.ten r.tenant with used := (s.ten r.tenant).used - r.units }).modRes s.co.lead i
        (Residency.pin false)).lane id 1)
      else .next (s.lane id 1) := by
  rw [exec_respinUnpin, execRespinUnpin]
  dsimp only
  rw [hf, hn]
  rfl

theorem exec_resrel_of_named (hf : s.co.follows = false) (hn : s.named s.co.lead s.co.ctx ((s.co.uget a).toNat % 65536) = some (i, r))
    (hm : ∀ m ∈ (s.core s.co.lead).mq, m.uses i = false) : exec (.resrel a) s = .next ((s.freeResidency s.co.lead i).lane id 1) := by
  have unused : (s.core s.co.lead).mq.any (MtxCmd.uses i) = false := List.any_eq_false.mpr fun m hq => by simp [hm m hq]
  rw [exec_resrel, execResrel, hf, hn]
  exact (if_neg Bool.false_ne_true).trans (if_neg (by rw [unused]; exact Bool.false_ne_true))

/-- The four results of RESQ. -/
def State.fourResults (s : State) (d : Reg) (w0 w1 w2 w3 : Word) : State :=
  s.lane (fun c => (((c.uniform d w0).uniform (d + 1) w1).uniform (d + 2) w2).uniform (d + 3) w3) 1

theorem exec_resq_of_zero (h : (s.co.uget a).toNat % 65536 / 16 = 0) : exec (.resq d a) s =
    if (s.core s.co.core).claim = some s.co.ctx then
      .next ((s.setCore s.co.core { s.core s.co.core with mstat := 0 }).fourResults d (BitVec.ofNat 32 (s.core s.co.core).mstat) 0 0 0)
    else .next (s.fourResults d 0 0 0 0) := by
  rw [exec_resq, execResq]
  dsimp only
  rw [if_pos h]
  rfl

theorem exec_resq_of_none (h : (s.co.uget a).toNat % 65536 / 16 ≠ 0)
    (hn : s.named s.co.lead s.co.ctx ((s.co.uget a).toNat % 65536) = none) : exec (.resq d a) s = .next (s.fourResults d 0 0 0 0) := by
  rw [exec_resq, execResq]
  dsimp only
  rw [if_neg h, hn]
  rfl

theorem exec_resq_of_named (h : (s.co.uget a).toNat % 65536 / 16 ≠ 0)
    (hn : s.named s.co.lead s.co.ctx ((s.co.uget a).toNat % 65536) = some (i, r))
    (hm : ∀ m ∈ (s.core s.co.lead).mq, m.co = s.co.id → m.uses i = false) : exec (.resq d a) s =
      .next (s.fourResults d (BitVec.ofNat 32 (r.word0 ((s.co.uget a).toNat % 65536))) r.gload r.refreshes r.rebuilds) := by
  have unused : (s.core s.co.lead).mq.any (fun m => m.co == s.co.id && m.uses i) = false := List.any_eq_false.mpr fun m hq => by
    simpa using hm m hq
  rw [exec_resq, execResq]
  dsimp only
  rw [if_neg h, hn]
  dsimp only
  rw [unused]
  rfl

end Instructions

/-- Settles O27: each instruction goes its way by the descriptor that its handle names. -/
theorem residencies : Obligations.Residencies := by
  unfold Obligations.Residencies
  refine ⟨?_, ?_⟩
  · intro s d a i c q res r hf hfmt hs hp hlt ha hb hi hfree hfirst serial
    have first : (List.range 16).find? (fun j => (s.resAt s.co.lead j).state = .free) = some i :=
      List.find?_range_eq_some.mpr ⟨by simpa using hfree, by simpa using hi, fun j hj => by simpa using hfirst j hj⟩
    exact ⟨_, exec_resa_of_free hf rfl hfmt hs hp hlt ha hb first, c.uniform_past d _ 1, rfl,
      s.resAt_modRes_self c.lead i (fun _ => { r with serial := serial })⟩
  · intro s d a i r c h ten now on four
    have putsFour (t : State) (ht : t.co = s.co) (hm : t.mem = s.mem) (w0 w1 w2 w3 : Word) : four (t.fourResults d w0 w1 w2 w3) w0 w1 w2 w3 :=
      ⟨by rw [State.fourResults, State.lane_co, Cohort.uniform_four_past, ht], hm⟩
    refine ⟨fun h0 => ⟨fun hc => ?_, fun hc => ?_⟩, fun h0 hn => ⟨_, exec_resq_of_none h0 hn, putsFour s rfl rfl _ _ _ _⟩, fun hn => ?_⟩
    · refine ⟨_, (exec_resq_of_zero h0).trans (if_pos hc), putsFour _ rfl rfl _ _ _ _, ?_⟩
      rw [State.fourResults, State.core, State.lane_cores]
      exact congrArg Core.mstat ((State.core_setCore _ _ _ _).trans (if_pos rfl))
    · exact ⟨_, (exec_resq_of_zero h0).trans (if_neg hc), putsFour _ rfl rfl _ _ _ _⟩
    · have old : s.resAt c.lead i = r := s.resAt_of_named hn
      refine ⟨fun h0 hm => ⟨_, exec_resq_of_named h0 hn hm, putsFour _ rfl rfl _ _ _ _⟩, fun hf => ?_⟩
      have respin := exec_respin_of_named hf hn
      have unpin := exec_respinUnpin_of_named hf hn
      refine ⟨fun hp hu => ?_, fun hp => ?_, fun hp => ?_, fun hp => ?_, fun hm => ?_⟩
      · refine ⟨_, respin.trans ((if_neg (by simp [hp])).trans (if_neg (not_lt_of_ge hu))), ⟨rfl, rfl⟩, ?_, ?_⟩
        · exact (State.resAt_modRes_self _ _ _ (Residency.pin true)).trans (congrArg _ old)
        · exact (State.ten_setTen _ _ _ _).trans (if_pos rfl)
      · exact ⟨_, respin.trans (if_pos hp), ⟨rfl, rfl⟩, old, rfl⟩
      · refine ⟨_, unpin.trans (if_pos hp), ⟨rfl, rfl⟩, ?_, ?_⟩
        · exact (State.resAt_modRes_self _ _ _ (Residency.pin false)).trans (congrArg _ old)
        · exact (State.ten_setTen _ _ _ _).trans (if_pos rfl)
      · exact ⟨_, unpin.trans (if_neg (by simp [hp])), ⟨rfl, rfl⟩, old, rfl⟩
      · obtain ⟨co, mem⟩ := s.freeResidency_frame c.lead i
        have freed := s.resAt_freeResidency c.lead i
        have paid := s.ten_freeResidency c.lead i
        rw [old] at freed paid
        exact ⟨_, exec_resrel_of_named hf hn hm, ⟨congrArg (fun c => { c with idx := c.idx + 1 }) co, mem⟩, congrArg Residency.state freed,
          (congrArg Residency.serial freed :), paid⟩

end Sys2Proof.Machine

/-!
How contexts drain (O46), first part: what memory, its levels and the departure of teams leave of contexts, residencies and marks (R223, R254,
R309, R336, R362, R367).
-/

namespace Sys2Proof.Machine

/-! ## What a write leaves of a context and of a residency (R254) -/

theorem Tab.find_map_snd {α β : Type} (f : α → β) (t : Tab α) (n : Nat) :
    Tab.find (t.map (fun e => (e.1, f e.2))) n = (Tab.find t n).map f := by
  induction t with
  | nil => rfl
  | cons e t ih =>
    obtain ⟨k, v⟩ := e
    by_cases h : k = n <;> simp [Tab.find, h, ih]

/-- A context but for the place and the counters of its log, its allocations, and what writes count in its captured residencies. -/
def Ctx.firm (x : Ctx) : Ctx :=
  { x with drops := 0, logfault := false, logHead := 0, allocs := [], capture := x.capture.map (fun k => { k with res := [] }) }

/-- From x to y a context is the same but for what Ctx.firm leaves out; no allocation has come. -/
structure CtxKept (x y : Ctx) : Prop where
  firm : y.firm = x.firm
  allocs : x.allocs = [] → y.allocs = []

/-- From r to r' a residency keeps its registration and what it has loaded, and it stays evicted. -/
structure ResKept (r r' : Residency) : Prop where
  lines : r'.lines = r.lines
  codes : r'.codes = r.codes
  scales : r'.scales = r.scales
  evicted : r.state = .evicted → r'.state = .evicted

theorem CtxKept.refl (x : Ctx) : CtxKept x x := ⟨rfl, id⟩
theorem CtxKept.trans {x y z : Ctx} (h : CtxKept x y) (k : CtxKept y z) : CtxKept x z := ⟨k.firm.trans h.firm, k.allocs ∘ h.allocs⟩

section Fields

variable {x y : Ctx} (h : CtxKept x y)
include h

theorem CtxKept.state : y.state = x.state := (congrArg Ctx.state h.firm :)
theorem CtxKept.ending : y.ending = x.ending := (congrArg Ctx.ending h.firm :)
theorem CtxKept.short : y.short = x.short := (congrArg Ctx.short h.firm :)
theorem CtxKept.causeSet : y.causeSet = x.causeSet := (congrArg Ctx.causeSet h.firm :)
theorem CtxKept.launches : y.launches = x.launches := (congrArg Ctx.launches h.firm :)
theorem CtxKept.logBase : y.logBase = x.logBase := (congrArg Ctx.logBase h.firm :)
theorem CtxKept.msiAddr : y.msiAddr = x.msiAddr := (congrArg Ctx.msiAddr h.firm :)
theorem CtxKept.msiData : y.msiData = x.msiData := (congrArg Ctx.msiData h.firm :)
theorem CtxKept.savesz : y.savesz = x.savesz := (congrArg Ctx.savesz h.firm :)

theorem CtxKept.captured : y.capture.isSome = x.capture.isSome := by
  have same : (y.capture.map _).isSome = (x.capture.map _).isSome := congrArg (fun z => z.capture.isSome) h.firm
  rwa [Option.isSome_map, Option.isSome_map] at same

/-- The save area is that of R366 whatever its size. -/
theorem CtxKept.saveOk (size : Nat) : ({ y with savesz := size } : Ctx).saveOk = ({ x with savesz := size } : Ctx).saveOk := by
  have save : y.save = x.save := (congrArg Ctx.save h.firm :)
  have lim : y.savelim = x.savelim := (congrArg Ctx.savelim h.firm :)
  simp only [Ctx.saveOk, save, lim]

end Fields

theorem Ctx.kept_written (src : Option (Nat × Nat)) (lines : List Nat) (x : Ctx) : CtxKept x (x.written src lines) := by
  unfold Ctx.written
  split
  · exact .refl x
  · next k hk => exact ⟨by simp only [Ctx.firm, hk, Option.map_some], id⟩

theorem ResKept.refl (r : Residency) : ResKept r r := ⟨rfl, rfl, rfl, id⟩
theorem ResKept.trans {r q p : Residency} (h : ResKept r q) (k : ResKept q p) : ResKept r p :=
  ⟨k.lines.trans h.lines, k.codes.trans h.codes, k.scales.trans h.scales, k.evicted ∘ h.evicted⟩

theorem Residency.kept_written (src : Option (Nat × Nat)) (lines : List Nat) (r : Residency) : ResKept r (r.written src lines) := by
  unfold Residency.written
  dsimp only
  split
  · exact .refl r
  · split
    · exact .refl r
    · exact ⟨rfl, rfl, rfl, fun h => (if_neg (by rw [h]; decide)).trans h⟩

/-! ## States -/

/-- No sector is marked in memory, in an L1 or in a cluster's cache. -/
structure State.Unpoisoned (s : State) : Prop where
  home : s.poison = []
  l1 : ∀ n, ∀ e ∈ (s.core n).l1, e.2.bad = 0
  cc : ∀ n, ∀ e ∈ (s.cluster n).cc, e.2.bad = 0

/-- From s to t contexts and residencies are kept, no fabric command has come or gone, and no time has passed. -/
structure Keeps (s t : State) : Prop where
  ctx : ∀ n, CtxKept (s.ctx n) (t.ctx n)
  res : ∀ n i r, Tab.find (s.core n).res i = some r → ∃ r', Tab.find (t.core n).res i = some r' ∧ ResKept r r'
  fcmds : t.fcmds = s.fcmds
  tick : t.tick = s.tick

/-- Besides, no mark has come where there was none. -/
structure Drains (s t : State) : Prop extends Keeps s t where
  clean : s.Unpoisoned → t.Unpoisoned

theorem State.unpoisoned_of_unmarked {s : State} (h : s.unmarked = true) : s.Unpoisoned := by
  simp only [State.unmarked, Bool.and_eq_true, List.isEmpty_iff, List.all_eq_true, beq_iff_eq] at h
  obtain ⟨⟨home, cores⟩, clusters⟩ := h
  refine ⟨home, fun n e he => ?_, fun n e he => ?_⟩
  · rcases Tab.get_eq_or_mem (d := Core.init) s.cores n with hd | hm
    · rw [State.core, hd] at he; cases he
    · exact (cores _ hm).2 e he
  · rcases Tab.get_eq_or_mem (d := Cluster.init) s.clusters n with hd | hm
    · rw [State.cluster, hd] at he; cases he
    · exact clusters _ hm e he

section Relations

variable {s t u : State}

theorem Keeps.refl (s : State) : Keeps s s := ⟨fun _ => .refl _, fun _ _ r h => ⟨r, h, .refl r⟩, rfl, rfl⟩

theorem Keeps.trans (h : Keeps s t) (k : Keeps t u) : Keeps s u := by
  refine ⟨fun n => (h.ctx n).trans (k.ctx n), fun n i r hr => ?_, k.fcmds.trans h.fcmds, k.tick.trans h.tick⟩
  obtain ⟨r', hr', kept⟩ := h.res n i r hr
  obtain ⟨r'', hr'', kept'⟩ := k.res n i r' hr'
  exact ⟨r'', hr'', kept.trans kept'⟩

theorem Drains.refl (s : State) : Drains s s := ⟨.refl s, id⟩
theorem Drains.trans (h : Drains s t) (k : Drains t u) : Drains s u := ⟨h.toKeeps.trans k.toKeeps, k.clean ∘ h.clean⟩

theorem Keeps.foldl {α : Type} {f : State → α → State} (hf : ∀ s x, Keeps s (f s x)) (l : List α) (s : State) : Keeps s (l.foldl f s) := by
  induction l generalizing s with
  | nil => exact .refl s
  | cons x l ih => exact (hf s x).trans (ih _)

theorem Drains.foldl {α : Type} {f : State → α → State} (hf : ∀ s x, Drains s (f s x)) (l : List α) (s : State) : Drains s (l.foldl f s) := by
  induction l generalizing s with
  | nil => exact .refl s
  | cons x l ih => exact (hf s x).trans (ih _)

/-- A move that touches none of these parts. -/
theorem drains_of_same (hx : t.ctxs = s.ctxs) (hc : t.cores = s.cores) (hq : t.clusters = s.clusters) (hp : s.poison = [] → t.poison = [])
    (hf : t.fcmds = s.fcmds) (ht : t.tick = s.tick) : Drains s t := by
  have ctx (n : Nat) : t.ctx n = s.ctx n := congrArg (Tab.get Ctx.init · n) hx
  have core (n : Nat) : t.core n = s.core n := congrArg (Tab.get Core.init · n) hc
  have cluster (n : Nat) : t.cluster n = s.cluster n := congrArg (Tab.get Cluster.init · n) hq
  exact ⟨⟨fun n => ctx n ▸ .refl _, fun n i r h => ⟨r, by rwa [core], .refl r⟩, hf, ht⟩,
    fun h => ⟨hp h.home, fun n => (core n).symm ▸ h.l1 n, fun n => (cluster n).symm ▸ h.cc n⟩⟩

end Relations

section Moves

variable (s : State)

theorem drains_modCtx (n : Nat) (f : Ctx → Ctx) (hf : ∀ x, CtxKept x (f x)) : Drains s (s.modCtx n f) := by
  refine ⟨⟨fun m => ?_, fun _ _ r h => ⟨r, h, .refl r⟩, rfl, rfl⟩, fun h => ⟨h.home, h.l1, h.cc⟩⟩
  rw [State.ctx_modCtx]
  split
  · next hm => exact hm ▸ hf _
  · exact .refl _

theorem drains_modCore (n : Nat) (f : Core → Core) (hr : ∀ c, (f c).res = c.res)
    (hb : ∀ c, (∀ e ∈ c.l1, e.2.bad = 0) → ∀ e ∈ (f c).l1, e.2.bad = 0) : Drains s (s.modCore n f) := by
  refine ⟨⟨fun _ => .refl _, fun m i r h => ⟨r, ?_, .refl r⟩, rfl, rfl⟩, fun h => ⟨h.home, fun m => ?_, h.cc⟩⟩
  all_goals rw [State.core_modCore]; split
  · next hm => rwa [hr, ← hm]
  · exact h
  · next hm => exact hb _ (hm ▸ h.l1 m)
  · exact h.l1 m

theorem drains_modCluster (n : Nat) (f : Cluster → Cluster) (hb : ∀ q, (∀ e ∈ q.cc, e.2.bad = 0) → ∀ e ∈ (f q).cc, e.2.bad = 0) :
    Drains s (s.modCluster n f) := by
  refine ⟨⟨fun _ => .refl _, fun _ _ r h => ⟨r, h, .refl r⟩, rfl, rfl⟩, fun h => ⟨h.home, h.l1, fun m => ?_⟩⟩
  rw [State.cluster_modCluster]
  split
  · next hm => exact hb _ (hm ▸ h.cc m)
  · exact h.cc m

/-! Memory -/

theorem Cluster.bad_written {lines : List Nat} {q : Cluster} (h : ∀ e ∈ q.cc, e.2.bad = 0) : ∀ e ∈ (q.written lines).cc, e.2.bad = 0 := by
  unfold Cluster.written
  split
  · exact h
  · intro e he
    obtain ⟨x, hx, he⟩ := List.mem_filterMap.mp he
    have clean := h x hx
    split at he
    · split at he
      · cases he
      · cases he
        simp [clean]
    · cases he
      exact clean

theorem State.ctx_write (x : Nat × Byte) (l : List (Nat × Byte)) (n : Nat) :
    (s.write (x :: l)).ctx n = (s.ctx n).written none (linesOf (x :: l)) := by
  unfold State.write State.writeBy
  dsimp only
  rw [State.pokes_eq]
  refine (Tab.get_map_rel (R := fun a b : Ctx => b = a.written none (linesOf (x :: l))) rfl
    (g := fun e => (e.1, e.2.written none (linesOf (x :: l)))) (fun _ => rfl) (fun _ => rfl) _ n).trans ?_
  split <;> rfl

theorem State.poison_write (h : s.poison = []) (cells : List (Nat × Byte)) : (s.write cells).poison = [] := by
  cases cells with
  | nil => exact h
  | cons x l =>
    have quiet : s.poison.isEmpty = true := List.isEmpty_iff.mpr h
    simp only [State.write, State.writeBy, quiet, if_true]
    exact (congrArg State.poison (State.pokes_eq _ _)).trans h

theorem drains_write (cells : List (Nat × Byte)) : Drains s (s.write cells) := by
  cases cells with
  | nil => exact .refl s
  | cons x l =>
    have rest := s.rest_write (x :: l)
    refine ⟨⟨fun n => ?_, fun n i r h => ?_, (congrArg State.fcmds rest :), (congrArg State.tick rest :)⟩,
      fun h => ⟨s.poison_write h.home _, fun n e he => ?_, fun n => ?_⟩⟩
    · rw [State.ctx_write]
      exact Ctx.kept_written _ _ _
    · rw [State.core_write, Core.written]
      exact ⟨_, (Tab.find_map_snd _ _ _).trans (congrArg _ h), Residency.kept_written _ _ _⟩
    · rw [State.core_write] at he
      exact h.l1 n e (Core.mem_written he)
    · rw [State.cluster_write]
      exact Cluster.bad_written (h.cc n)

/-- A line's marks go with it; where there are none, none come. -/
theorem State.poison_markSectors (h : s.poison = []) (line : Nat) (m : BitVec 4) : (s.markSectors line m 0).poison = [] := by
  simp [State.markSectors, h]

theorem keeps_markSectors (line : Nat) (m bad : BitVec 4) : Keeps s (s.markSectors line m bad) :=
  ⟨fun _ => .refl _, fun _ _ r h => ⟨r, h, .refl r⟩, rfl, rfl⟩

theorem State.Unpoisoned.markSectors {s : State} (h : s.Unpoisoned) (line : Nat) (m : BitVec 4) : (s.markSectors line m 0).Unpoisoned :=
  ⟨s.poison_markSectors h.home line m, h.l1, h.cc⟩

/-! The cluster cache (R307 to R309) -/

theorem bad_of_mem_put {t : Tab CcLine} (h : ∀ e ∈ t, e.2.bad = 0) {n : Nat} {x : CcLine} (hx : x.bad = 0) : ∀ e ∈ t.put n x, e.2.bad = 0 := by
  intro e he
  rcases Tab.mem_of_mem_put he with rfl | he
  · exact hx
  · exact h e he

theorem drains_ownLine (cl line : Nat) : Drains s (s.ownLine cl line) := by
  unfold State.ownLine
  split
  · exact .refl s
  · next e he =>
    split
    · exact .refl s
    · have kept (q : State) : Keeps q (q.modCluster cl (fun q => { q with cc := Tab.put q.cc line { e with owned := true, data := [] } })) :=
        ⟨fun _ => .refl _, fun _ _ r h => ⟨r, h, .refl r⟩, rfl, rfl⟩
      refine ⟨((drains_write s _).toKeeps.trans (keeps_markSectors _ _ _ _)).trans (kept _), fun h => ?_⟩
      have clean : e.bad = 0 := h.cc cl _ (Tab.mem_of_find he)
      have marked := ((drains_write s (e.data.map (fun x => (64 * line + x.1, x.2)))).clean h).markSectors line
        (sectorBits (e.data.map Prod.fst))
      rw [clean]
      exact (drains_modCluster _ cl _ fun _ h => bad_of_mem_put h rfl).clean marked

theorem drains_ccRoom (cl line site : Nat) : Drains s (s.ccRoom cl line site) := by
  unfold State.ccRoom
  dsimp only
  split
  · exact .refl s
  · split
    · exact (drains_ownLine s _ _).trans (drains_modCluster _ _ _ fun _ h e he => h e (Tab.mem_of_mem_erase he))
    · exact .refl s

theorem drains_dropReg (cl : Nat) (lines : List Nat) : Drains s (s.dropReg cl lines) := by
  have kept (n : Nat) := Tab.get_map_rel (d := Core.init) (R := fun a b : Core => b.res = a.res ∧ ∀ e ∈ b.l1, e ∈ a.l1) ⟨rfl, fun _ h => h⟩
    (g := fun e => if clusterOf e.1 = cl then (e.1, { e.2 with l1 := e.2.l1.filter (fun l => !(l.2.reg && lines.contains l.1)) }) else e)
    (fun _ => by split <;> rfl) (fun e => by
      split
      · exact ⟨rfl, fun _ h => (List.mem_filter.mp h).1⟩
      · exact ⟨rfl, fun _ h => h⟩) s.cores n
  exact ⟨⟨fun _ => .refl _, fun n i r h => ⟨r, ((congrArg (Tab.find · i) (kept n).1).trans h :), .refl r⟩, rfl, rfl⟩,
    fun h => ⟨h.home, fun n e he => h.l1 n e ((kept n).2 e he), h.cc⟩⟩

theorem keeps_modCc (cl line : Nat) (f : CcLine → CcLine) : Keeps s (s.modCc cl line f) :=
  ⟨fun _ => .refl _, fun _ _ r h => ⟨r, h, .refl r⟩, rfl, rfl⟩

/-- A line of which every field but its marks is free. -/
theorem State.Unpoisoned.modCc {s : State} (h : s.Unpoisoned) (cl line : Nat) {x : CcLine} (hx : x.bad = 0) :
    (s.modCc cl line (fun _ => x)).Unpoisoned := by
  refine ⟨h.home, h.l1, fun n => ?_⟩
  rw [State.modCc, State.cluster_modCluster]
  split
  · exact bad_of_mem_put (h.cc cl) hx
  · exact h.cc n

theorem bad_get (cc : Tab CcLine) (h : ∀ e ∈ cc, e.2.bad = 0) (line : Nat) : (Tab.get CcLine.init cc line).bad = 0 := by
  rcases Tab.get_eq_or_mem (d := CcLine.init) cc line with hd | hm
  · rw [hd]; rfl
  · exact h _ hm

theorem keeps_ccTake (cl line : Nat) (cells : List (Nat × Byte)) (bad : BitVec 4) : Keeps s (s.ccTake cl line cells bad) := by
  unfold State.ccTake
  dsimp only
  refine (drains_ccRoom s cl line 7302).toKeeps.trans ?_
  split
  · exact ((drains_write _ _).toKeeps.trans (keeps_markSectors _ _ _ _)).trans (keeps_modCc _ _ _ _)
  · exact keeps_modCc _ _ _ _

theorem State.Unpoisoned.ccTake {s : State} (h : s.Unpoisoned) (cl line : Nat) (cells : List (Nat × Byte)) :
    (s.ccTake cl line cells 0).Unpoisoned := by
  have room := (drains_ccRoom s cl line 7302).clean h
  have held := bad_get _ (room.cc cl) line
  unfold State.ccTake
  dsimp only
  split
  · exact (((drains_write _ cells).clean room).markSectors line _).modCc cl line (by simp [held])
  · exact room.modCc cl line (by simp [held])

theorem keeps_ccAccept (cl : Nat) (cells : List (Nat × Byte)) (bad : Nat → BitVec 4) : Keeps s (s.ccAccept cl cells bad) :=
  (drains_dropReg s _ _).toKeeps.trans (.foldl (fun t _ => keeps_ccTake t _ _ _ _) _ _)

theorem State.Unpoisoned.ccAccept {s : State} (h : s.Unpoisoned) (cl : Nat) (cells : List (Nat × Byte)) {bad : Nat → BitVec 4}
    (hb : ∀ line, bad line = 0) : (s.ccAccept cl cells bad).Unpoisoned := by
  refine List.foldlRecOn (motive := State.Unpoisoned) _ _ ((drains_dropReg s cl (linesOf cells)).clean h) fun q hq line _ => ?_
  rw [hb]
  exact hq.ccTake cl line _

theorem drains_flushCluster (cl : Nat) : Drains s (s.flushCluster cl) := .foldl (fun t _ => drains_ownLine t _ _) _ _

/-! The first-level cache (R222, R223) -/

theorem State.bad_refreshed (cl line : Nat) {e : L1Line} (h : e.bad = 0) : (s.refreshed cl line e).bad = 0 := by
  simp [State.refreshed, h]

/-- Lines of an L1 change; a line without marks has none then. -/
theorem drains_mapL1 (n : Nat) (g : Nat × L1Line → Nat × L1Line) (hg : ∀ e, e.2.bad = 0 → (g e).2.bad = 0) :
    Drains s (s.modCore n (fun k => { k with l1 := k.l1.map g })) :=
  drains_modCore s n _ (fun _ => rfl) fun _ h e he => by
    obtain ⟨x, hx, rfl⟩ := List.mem_map.mp he
    exact hg x (h x hx)

theorem drains_writeBack (core : Nat) (lines : List Nat) : Drains s (s.writeBack core lines) := by
  unfold State.writeBack
  dsimp only
  split
  · exact .refl s
  · refine .trans (t := s.ccAccept _ _ _) ⟨keeps_ccAccept s _ _ _, fun h => h.ccAccept _ _ fun line => ?_⟩ (drains_mapL1 _ _ _ fun e he => ?_)
    · rcases Tab.get_eq_or_mem (d := L1Line.init) ((s.core core).l1.filter (fun e => lines.contains e.1 && e.2.own != 0)) line with hd | hm
      · rw [hd]; rfl
      · exact h.l1 core _ (List.mem_filter.mp hm).1
    · split
      · exact State.bad_refreshed _ _ _ he
      · exact he

theorem drains_dropLines (core : Nat) (lines : List Nat) : Drains s (s.dropLines core lines) :=
  (drains_writeBack s core lines).trans (drains_modCore _ core _ (fun _ => rfl) fun _ h e he => h e (List.mem_filter.mp he).1)

theorem drains_past (core : Nat) (lines : List Nat) : Drains s (s.past core lines) :=
  ((drains_writeBack s core lines).trans (.foldl (fun t _ => drains_ownLine t _ _) _ _)).trans (drains_dropLines _ core lines)

/-! The combining buffer (R345), releases (R336), and a context's stores (R362, R364) -/

theorem drains_drainLine (core : Nat) (w : WcLine) : Drains s (State.drainLine core s w) := (drains_past s core _).trans (drains_write _ _)

theorem drains_drainThose (core : Nat) (mine : WcLine → Bool) : Drains s (s.drainThose core mine) := by
  unfold State.drainThose
  dsimp only
  split
  · have taken := drains_modCore s core (fun c => { c with wc := c.wc.filter (fun w => !mine w) }) (fun _ => rfl) fun _ h => h
    exact taken.trans (.foldl (fun t w => drains_drainLine t core w) _ _)
  · exact .refl s

theorem drains_tagLines (core : Nat) (lines : List Nat) (r : Nat) : Drains s (s.tagLines core lines r) :=
  drains_mapL1 s core _ fun e he => by
    split
    · exact State.bad_refreshed _ _ _ he
    · exact he

theorem drains_release (c : Cohort) (sc : Scope) : Drains s (s.release c sc) := by
  unfold State.release
  dsimp only
  have drained : Drains s (s.drainWc c.core (some c.id)) := drains_drainThose s _ _
  have back := drained.trans (drains_writeBack _ c.core ((s.drainWc c.core (some c.id)).core c.core).dirtyLines)
  split
  · exact drained
  · split
    · exact back.trans (drains_tagLines _ _ _ _)
    · exact (back.trans (drains_flushCluster _ _)).trans (drains_tagLines _ _ _ _)

theorem drains_drainCtx (ctx : Nat) : Drains s (s.drainCtx ctx) := .foldl (fun t _ => drains_release t _ _) _ _
theorem backstage_drainCtx (ctx : Nat) : Backstage s (s.drainCtx ctx) := .foldl (fun t _ => backstage_release t _ _) _ _

/-! The departure of teams (R37, R217, R245, R311, R383) -/

theorem drains_clearShare (core b n : Nat) : Drains s (s.clearShare core b n) :=
  drains_of_same rfl rfl rfl (fun h => by simp [State.clearShare, State.clearRange, h]) rfl rfl

theorem drains_releaseClaim (core : Nat) : Drains s (s.releaseClaim core) := by
  unfold State.releaseClaim
  split
  · split
    · exact .refl s
    · exact drains_modCore s core _ (fun _ => rfl) fun _ h => h
  · exact .refl s

theorem drains_releaseCluster (ctx lid cl : Nat) : Drains s (s.releaseCluster ctx lid cl) := by
  unfold State.releaseCluster
  split
  · exact .refl s
  · exact drains_modCluster s cl _ fun _ h => h

theorem drains_reclaim (ctx : Nat) : Drains s (s.reclaim ctx) := by
  unfold State.reclaim
  split
  · exact .refl s
  · exact drains_modCtx s ctx _ fun x => ⟨rfl, fun h => List.filter_eq_nil_iff.mpr fun a ha => by rw [h] at ha; cases ha⟩

theorem drains_withoutTeam (t : Team) : Drains s (s.withoutTeam t) := by
  have left : Drains s (s.leaveArrivals t) := by
    unfold State.leaveArrivals
    exact drains_modCluster s _ _ fun _ h => h
  exact left.trans (drains_of_same rfl rfl rfl id rfl rfl)

theorem drains_sweepWalks (t : Team) : Drains s (s.sweepWalks t) := by
  unfold State.sweepWalks
  exact drains_modCluster s _ _ fun _ h => h

theorem drains_flushCore (core : Nat) : Drains s (s.flushCore core) := (drains_writeBack s core _).trans (drains_flushCluster _ _)

theorem drains_sweepCore (t : Team) (core : Nat) : Drains s (s.sweepCore t core) := by
  unfold State.sweepCore
  exact ((drains_drainThose s core _).trans (drains_flushCore _ core)).trans (drains_modCore _ core _ (fun _ => rfl) fun _ h => h)

theorem drains_yieldShare (t : Team) (core b : Nat) : Drains s (s.yieldShare t core b) :=
  (drains_clearShare s _ _ _).trans (drains_releaseClaim _ _)

theorem drains_departTeam (t : Team) : Drains s (s.departTeam t) := by
  have swept := ((drains_withoutTeam s t).trans (drains_sweepWalks _ t)).trans (drains_sweepCore _ t t.core)
  have last (q : State) := (drains_releaseCluster q t.ctx t.lid (clusterOf t.core)).trans (drains_reclaim _ t.ctx)
  cases hp : t.pair
  · rw [s.departTeam_of_single t hp]
    exact (swept.trans (drains_yieldShare _ t _ _)).trans (last _)
  · rw [s.departTeam_of_pair t hp]
    exact (((swept.trans (drains_sweepCore _ t _)).trans (drains_yieldShare _ t _ _)).trans (drains_yieldShare _ t _ _)).trans (last _)

theorem drains_dropTeams (ctx : Nat) : Drains s (s.dropTeams ctx) := .foldl (fun t _ => drains_departTeam t _) _ _

end Moves

end Sys2Proof.Machine

/-!
How contexts drain (O46), second part: what a record leaves, and what it writes (R348, R356 to R359, R364).
-/

namespace Sys2Proof.Machine

/-! ## The slot that a record takes (R348, R358) -/

/-- What A, and D for a write, add to the entry of a walk (R348). -/
def Walked.adds (w : Walked) (k : AccessKind) : Nat :=
  (if bitsOf w.pte 6 1 == 1 then 0 else 64) + (if bitsOf w.pte 7 1 == 1 || k != .write then 0 else 128)

/-- The cells that a walk writes back (R348, R422). -/
def State.adCells (s : State) (w : Walked) (k : AccessKind) : List (Nat × Byte) :=
  if w.adds k = 0 then []
  else if w.leaf.size = 1 then
    (List.range 16).flatMap (fun i =>
      let at_ := w.at_ / 128 * 128 + 8 * i
      if s.readN at_ 8 = w.pte then cellsFrom at_ (natLe 8 (w.pte + w.adds k)) else [])
  else cellsFrom w.at_ (natLe 8 (w.pte + w.adds k))

theorem setAD_eq_write (s : State) (w : Walked) (k : AccessKind) : setAD s w k = s.write (s.adCells w k) := by
  show (if w.adds k = 0 then s else if w.leaf.size = 1 then s.write _ else s.writeN _ _ _) = s.write (s.adCells w k)
  unfold State.adCells
  split
  · rfl
  · split <;> rfl

/-- The cells of A and D and the place of a slot, where it translates (R198, R358). -/
def State.slotOf (s : State) (ctx va : Nat) : Option (List (Nat × Byte) × Nat) :=
  match walkRoot s (s.ctx ctx).root va with
  | .error _ => none
  | .ok w =>
    if w.leaf.r && w.leaf.w && !w.leaf.u && w.leaf.normal && areaRam w.leaf.pa then
      some (s.adCells w .write, w.leaf.pa + va % 4096)
    else none

theorem State.slotAt_eq (s : State) (ctx va : Nat) :
    s.slotAt ctx va = (s.slotOf ctx va).map (fun p => (s.write p.1, p.2)) := by
  unfold State.slotAt State.slotOf
  cases walkRoot s (s.ctx ctx).root va with
  | error f => rfl
  | ok w =>
    dsimp only
    split
    · rw [setAD_eq_write]; rfl
    · rfl

section Walks

variable {s t : State} (hm : t.mem = s.mem) (hp : t.poison = s.poison)
include hm

theorem State.readN_congr (a n : Nat) : t.readN a n = s.readN a n := by
  simp only [State.readN, State.bytes, State.byte, hm]

theorem State.adCells_congr (w : Walked) (k : AccessKind) : t.adCells w k = s.adCells w k := by
  simp only [State.adCells, State.readN_congr hm]

include hp

/-- A walk reads memory and its marks alone. -/
theorem walkFrom_congr (cpu : Bool) (va level table : Nat) : walkFrom t cpu va level table = walkFrom s cpu va level table := by
  induction level generalizing table with
  | zero => simp only [walkFrom, State.readN_congr hm, State.poisonIn, hp]
  | succ l ih => simp only [walkFrom, State.readN_congr hm, State.poisonIn, hp, ih]

theorem walkRoot_congr (root : DWord) (va : Nat) : walkRoot t root va = walkRoot s root va := by
  simp only [walkRoot, walkOf, walkFrom_congr hm hp]

theorem State.slotOf_congr {ctx : Nat} (hr : (t.ctx ctx).root = (s.ctx ctx).root) (va : Nat) : t.slotOf ctx va = s.slotOf ctx va := by
  simp only [State.slotOf, hr, walkRoot_congr hm hp, State.adCells_congr hm]

end Walks

theorem leafOf_not_poison {cpu : Bool} {va at_ pte level : Nat} {f : WalkFail} (h : leafOf cpu va at_ pte level = .error f) :
    f.cause ≠ causePoison := by
  unfold leafOf at h
  dsimp only at h
  repeat' split at h
  all_goals cases h
  all_goals decide

theorem malformed_not_poison {f : WalkFail} (h : malformed = .error f) : f.cause ≠ causePoison := by
  cases h
  decide

/-- Where no sector is marked, no walk meets a mark. -/
theorem walkFrom_not_poison {s : State} (h : s.poison = []) (cpu : Bool) (va level table : Nat) {f : WalkFail}
    (hf : walkFrom s cpu va level table = .error f) : f.cause ≠ causePoison := by
  have clean (a n : Nat) : s.poisonIn a n = none := by simp [State.poisonIn, h]
  induction level generalizing table with
  | zero =>
    simp only [walkFrom, clean, ite_self] at hf
    split at hf
    · exact malformed_not_poison hf
    · split at hf
      · cases hf; decide
      · split at hf
        · exact malformed_not_poison hf
        · split at hf
          · exact malformed_not_poison hf
          · exact leafOf_not_poison hf
  | succ l ih =>
    simp only [walkFrom, clean] at hf
    split at hf
    · exact malformed_not_poison hf
    · split at hf
      · cases hf; decide
      · split at hf
        · exact malformed_not_poison hf
        · split at hf
          · split at hf <;> split at hf
            · exact malformed_not_poison hf
            · exact ih _ hf
            · exact malformed_not_poison hf
            · exact ih _ hf
          · exact leafOf_not_poison hf

theorem walkRoot_not_poison {s : State} (h : s.poison = []) {root : DWord} {va : Nat} {f : WalkFail} (hf : walkRoot s root va = .error f) :
    f.cause ≠ causePoison := by
  unfold walkRoot walkOf at hf
  split at hf
  · cases hf; decide
  · split at hf
    · cases hf; decide
    · exact walkFrom_not_poison h _ _ _ _ hf

theorem State.slotPoison_clean {s : State} (h : s.poison = []) (ctx : Nat) (vas : List Nat) : s.slotPoison ctx vas = none := by
  unfold State.slotPoison
  rw [Option.bind_eq_none_iff]
  intro va _
  split
  · next f hf => exact if_neg (walkRoot_not_poison h hf)
  · rfl

/-! ## What a record without diagnostics does (R358) -/

/-- A context's log takes no record. -/
def Ctx.logFull (x : Ctx) : Prop := x.logSize = 0 ∨ x.logBase = 0 ∨ 2 ^ x.logSize ≤ (x.logHead + 2 ^ 32 - x.logTail) % 2 ^ 32
/-- The address of the next slot. -/
def Ctx.slotVa (x : Ctx) : Nat := (x.logBase + 64 * (x.logHead % 2 ^ x.logSize)) % 2 ^ 64
/-- The context when a record is dropped; bad: for want of a translation. -/
def Ctx.dropped (bad : Bool) (x : Ctx) : Ctx := { x with drops := (x.drops + 1) % 2 ^ 32, logfault := x.logfault || bad }
/-- The context when a second record is dropped. -/
def Ctx.missed (x : Ctx) : Ctx := { x with drops := (x.drops + 1) % 2 ^ 32 }
/-- The context when its log has taken a record. -/
def Ctx.logged (x : Ctx) : Ctx := { x with logHead := (x.logHead + 1) % 2 ^ 32 }
/-- A record's bytes under the next sequence number, at a place. -/
def State.recCells (s : State) (r : FaultRec) (pa : Nat) : List (Nat × Byte) := cellsFrom pa { r with seq := s.seq }.toBytes

/-- Whether the context stands outside FREE and TERMINATED. -/
def Ctx.live (x : Ctx) : Bool := x.state != .free && x.state != .terminated

section Record

variable (s : State) (r : FaultRec)

/-- The sequence number is taken. -/
def State.numbered : State := s.nextSeq.2

/-- A record without diagnostics, once it has its number. -/
def State.putOne (s : State) (r : FaultRec) : State × Bool :=
  let x := s.ctx r.ctx
  let lost (bad : Bool) : State × Bool := (s.modCtx r.ctx (Ctx.dropped bad), false)
  if x.logSize = 0 || x.logBase = 0 then lost false
  else if 2 ^ x.logSize < (x.logHead + 2 ^ 32 - x.logTail) % 2 ^ 32 + 1 then lost false
  else match s.slotAt r.ctx x.slotVa with
    | none =>
      if (s.slotPoison r.ctx [x.slotVa]).isSome && x.state != .free && x.state != .terminated then
        (((lost true).1.modCtx r.ctx Ctx.missed).beginEnd r.ctx causePoison, false)
      else lost true
    | some (t, pa) => ((t.write (cellsFrom pa r.toBytes)).modCtx r.ctx Ctx.logged, true)

theorem State.logPut_eq : s.logPut r [] = s.numbered.putOne { r with seq := s.seq } := by
  have taken : s.nextSeq = (s.seq, s.numbered) := rfl
  unfold State.logPut
  rw [taken]
  generalize s.numbered = t
  unfold State.putOne
  dsimp only
  split
  · rfl
  · simp only [List.isEmpty_nil, Bool.not_true, Bool.false_and, Bool.false_eq_true, if_false, Nat.zero_add]
    split
    · rfl
    · have one (head : Nat) (ch : List Byte) : t.logSlots r.ctx head [ch] =
          (t.slotAt r.ctx (((t.ctx r.ctx).logBase + 64 * (head % 2 ^ (t.ctx r.ctx).logSize)) % 2 ^ 64)).map
            (fun p => p.1.write (cellsFrom p.2 ch)) := by
        unfold State.logSlots
        dsimp only
        cases t.slotAt r.ctx (((t.ctx r.ctx).logBase + 64 * (head % 2 ^ (t.ctx r.ctx).logSize)) % 2 ^ 64) <;> rfl
      rw [List.replicate_zero, List.nil_append, List.append_nil, one, ← Ctx.slotVa]
      cases t.slotAt r.ctx (t.ctx r.ctx).slotVa <;> rfl

theorem State.log_full (h : (s.ctx r.ctx).logFull) : s.log r [] = s.numbered.modCtx r.ctx (Ctx.dropped false) := by
  have put : s.logPut r [] = (s.numbered.modCtx r.ctx (Ctx.dropped false), false) := by
    rw [State.logPut_eq]
    unfold State.putOne
    dsimp only
    split
    · rfl
    · next none_ =>
      refine if_pos ?_
      rcases h with h | h | h
      · exact absurd (by rw [show (s.numbered.ctx r.ctx).logSize = 0 from h]; rfl) none_
      · exact absurd (by rw [show (s.numbered.ctx r.ctx).logBase = 0 from h]; simp) none_
      · exact Nat.lt_succ_of_le h
  unfold State.log
  rw [put]
  rfl

/-- A log that is not full has a slot for the record. -/
theorem State.putOne_of_room {s : State} {r : FaultRec} (h : ¬(s.ctx r.ctx).logFull) :
    s.putOne r = match s.slotAt r.ctx (s.ctx r.ctx).slotVa with
      | none =>
        if (s.slotPoison r.ctx [(s.ctx r.ctx).slotVa]).isSome && (s.ctx r.ctx).live then
          (((s.modCtx r.ctx (Ctx.dropped true)).modCtx r.ctx Ctx.missed).beginEnd r.ctx causePoison, false)
        else (s.modCtx r.ctx (Ctx.dropped true), false)
      | some (t, pa) => ((t.write (cellsFrom pa r.toBytes)).modCtx r.ctx Ctx.logged, true) := by
  simp only [Ctx.logFull, not_or, Nat.not_le] at h
  obtain ⟨size, base, room⟩ := h
  unfold State.putOne
  dsimp only
  rw [if_neg (by simp [size, base]), if_neg (Nat.not_lt.mpr room)]
  simp only [Ctx.live, Bool.and_assoc]
  rfl

/-- The slot of the record is that before its number was taken. -/
theorem State.slotAt_numbered (va : Nat) :
    s.numbered.slotAt r.ctx va = (s.slotOf r.ctx va).map (fun p => (s.numbered.write p.1, p.2)) := by
  have same : s.numbered.slotOf r.ctx va = s.slotOf r.ctx va := State.slotOf_congr (s := s) rfl rfl rfl va
  rw [State.slotAt_eq, same]

/-- A record that finds no translation of its slot. -/
theorem State.log_lost (h : ¬(s.ctx r.ctx).logFull) (ht : s.slotOf r.ctx (s.ctx r.ctx).slotVa = none) :
    s.log r [] = if (s.numbered.slotPoison r.ctx [(s.ctx r.ctx).slotVa]).isSome && (s.ctx r.ctx).live then
      ((s.numbered.modCtx r.ctx (Ctx.dropped true)).modCtx r.ctx Ctx.missed).beginEnd r.ctx causePoison
    else s.numbered.modCtx r.ctx (Ctx.dropped true) := by
  have slot : s.numbered.slotAt r.ctx (s.numbered.ctx r.ctx).slotVa = none :=
    (s.slotAt_numbered r _).trans (congrArg (Option.map _) ht)
  unfold State.log
  rw [State.logPut_eq, State.putOne_of_room (s := s.numbered) (r := { r with seq := s.seq }) h, slot]
  exact (apply_ite (fun p : State × Bool => if p.2 then p.1.ctxMsi r.ctx else p.1) _ _ _)

/-- The record stands in its slot; ad: the cells that the walk writes back. -/
def State.recorded (ad : List (Nat × Byte)) (pa : Nat) : State :=
  ((s.numbered.write ad).write (s.recCells r pa)).modCtx r.ctx Ctx.logged

/-- A record that its slot takes. -/
theorem State.log_taken (h : ¬(s.ctx r.ctx).logFull) {ad : List (Nat × Byte)} {pa : Nat}
    (ht : s.slotOf r.ctx (s.ctx r.ctx).slotVa = some (ad, pa)) :
    s.log r [] = (s.recorded r ad pa).ctxMsi r.ctx := by
  have slot : s.numbered.slotAt r.ctx (s.numbered.ctx r.ctx).slotVa = some (s.numbered.write ad, pa) :=
    (s.slotAt_numbered r _).trans (congrArg (Option.map _) ht)
  unfold State.log
  rw [State.logPut_eq, State.putOne_of_room (s := s.numbered) (r := { r with seq := s.seq }) h, slot]
  exact if_pos rfl

/-- Where no mark can stand in the way, a record without a slot is dropped. -/
theorem State.log_lost_quiet (h : ¬(s.ctx r.ctx).logFull) (ht : s.slotOf r.ctx (s.ctx r.ctx).slotVa = none)
    (quiet : s.poison = [] ∨ (s.ctx r.ctx).live = false) : s.log r [] = s.numbered.modCtx r.ctx (Ctx.dropped true) := by
  rw [s.log_lost r h ht]
  refine if_neg ?_
  rcases quiet with clean | ended
  · simp [State.slotPoison_clean (s := s.numbered) clean]
  · simp [ended]

end Record

/-! ## What a record leaves (R359, R364, R368) -/

/-- Besides, the teams are as they were. -/
structure Logs (s t : State) : Prop extends Drains s t where
  teams : t.teams = s.teams

theorem Logs.refl (s : State) : Logs s s := ⟨.refl s, rfl⟩
theorem Logs.trans {s t u : State} (h : Logs s t) (k : Logs t u) : Logs s u := ⟨h.toDrains.trans k.toDrains, k.teams.trans h.teams⟩

theorem Ctx.kept_dropped (bad : Bool) (x : Ctx) : CtxKept x (x.dropped bad) := ⟨rfl, id⟩
theorem Ctx.kept_missed (x : Ctx) : CtxKept x x.missed := ⟨rfl, id⟩
theorem Ctx.kept_logged (x : Ctx) : CtxKept x x.logged := ⟨rfl, id⟩

section Quiet

variable (s : State)

theorem logs_numbered : Logs s s.numbered := ⟨drains_of_same rfl rfl rfl id rfl rfl, rfl⟩
theorem logs_write (cells : List (Nat × Byte)) : Logs s (s.write cells) := ⟨drains_write s cells, (congrArg State.teams (s.rest_write cells) :)⟩
theorem logs_modCtx (n : Nat) (f : Ctx → Ctx) (hf : ∀ x, CtxKept x (f x)) : Logs s (s.modCtx n f) := ⟨drains_modCtx s n f hf, rfl⟩

theorem logs_sendMsi (addr data : Nat) : Logs s (s.sendMsi addr data) := by
  unfold State.sendMsi
  split
  · exact .refl s
  · split
    · exact logs_write s _
    · exact ⟨drains_of_same rfl rfl rfl id rfl rfl, rfl⟩

theorem logs_recorded (r : FaultRec) (ad : List (Nat × Byte)) (pa : Nat) : Logs s (s.recorded r ad pa) :=
  (((logs_numbered s).trans (logs_write _ ad)).trans (logs_write _ _)).trans (logs_modCtx _ r.ctx _ Ctx.kept_logged)

theorem State.poison_recorded (h : s.poison = []) (r : FaultRec) (ad : List (Nat × Byte)) (pa : Nat) : (s.recorded r ad pa).poison = [] := by
  have first : (s.numbered.write ad).poison = [] := State.poison_write s.numbered h _
  exact (State.modCtx_poison _ _ _).trans (State.poison_write _ first _)

/-- An MSI that meets no mark, or whose context has ended. -/
theorem logs_ctxMsi {n : Nat} (quiet : s.poison = [] ∨ (s.ctx n).msiAddr = 0 ∨ (s.ctx n).live = false) : Logs s (s.ctxMsi n) := by
  unfold State.ctxMsi
  dsimp only
  split
  · exact logs_sendMsi s _ _
  · next p hp =>
    split
    · exact .refl s
    · next live_ =>
      unfold State.msiPoison State.poisonIn at hp
      rcases quiet with clean | none_ | ended
      · simp [clean] at hp
      · simp [none_] at hp
      · simp only [Ctx.live, Bool.and_eq_false_iff, bne_eq_false_iff_eq] at ended
        exact absurd (by simpa using ended) live_

/-- A record that no mark can stop, or whose context has no log or has ended. -/
theorem logs_log (r : FaultRec) (quiet : s.poison = [] ∨ (s.ctx r.ctx).logBase = 0 ∨ (s.ctx r.ctx).live = false) : Logs s (s.log r []) := by
  by_cases full : (s.ctx r.ctx).logFull
  · rw [s.log_full r full]
    exact (logs_numbered s).trans (logs_modCtx _ _ _ (Ctx.kept_dropped _))
  · have quiet : s.poison = [] ∨ (s.ctx r.ctx).live = false := quiet.imp_right fun h => h.resolve_left fun h => full (.inr (.inl h))
    cases slot : s.slotOf r.ctx (s.ctx r.ctx).slotVa with
    | none =>
      rw [s.log_lost_quiet r full slot quiet]
      exact (logs_numbered s).trans (logs_modCtx _ _ _ (Ctx.kept_dropped _))
    | some p =>
      rw [s.log_taken r full slot]
      refine (logs_recorded s r p.1 p.2).trans (logs_ctxMsi _ ?_)
      rcases quiet with clean | ended
      · exact .inl (s.poison_recorded clean r _ _)
      · refine .inr (.inr ?_)
        rw [Ctx.live, ((logs_recorded s r p.1 p.2).ctx r.ctx).state]
        exact ended

theorem logs_logEvent {n : Nat} (code sub : Nat) (quiet : s.poison = [] ∨ (s.ctx n).logBase = 0 ∨ (s.ctx n).live = false) :
    Logs s (s.logEvent n code sub) := logs_log s _ quiet

end Quiet

end Sys2Proof.Machine

/-!
How contexts drain (O46), third part: the records of R356 to R358, the ends of PREEMPT, STOP and a termination (R259, R360 to R366).
-/

namespace Sys2Proof.Machine

/-! ## Records in memory (R356, R358) -/

theorem Ctx.written_logHead (src : Option (Nat × Nat)) (lines : List Nat) (x : Ctx) : (x.written src lines).logHead = x.logHead := by
  unfold Ctx.written
  split <;> rfl

theorem Ctx.written_drops (src : Option (Nat × Nat)) (lines : List Nat) (x : Ctx) : (x.written src lines).drops = x.drops := by
  unfold Ctx.written
  split <;> rfl

theorem State.logHead_write (s : State) (cells : List (Nat × Byte)) (n : Nat) : ((s.write cells).ctx n).logHead = (s.ctx n).logHead := by
  cases cells with
  | nil => rfl
  | cons x l => rw [State.ctx_write, Ctx.written_logHead]

theorem State.drops_write (s : State) (cells : List (Nat × Byte)) (n : Nat) : ((s.write cells).ctx n).drops = (s.ctx n).drops := by
  cases cells with
  | nil => rfl
  | cons x l => rw [State.ctx_write, Ctx.written_drops]

/-- A context without an address for it sends no MSI. -/
theorem State.ctxMsi_of_none {s : State} {n : Nat} (h : (s.ctx n).msiAddr = 0) : s.ctxMsi n = s := by
  simp [State.ctxMsi, State.msiPoison, State.sendMsi, h]

theorem FaultRec.toBytes_eq (r : FaultRec) : r.toBytes = natLe 8 r.seq ++ natLe 8 r.pc ++ natLe 8 r.addr ++ natLe 8 r.paddr ++
    natLe 1 r.ctx ++ natLe 1 r.tenant ++ natLe 1 r.cause ++ natLe 1 r.sub ++ natLe 1 r.die ++ natLe 1 r.cluster ++ natLe 1 r.core ++
    natLe 1 r.cohort ++ natLe 4 r.team ++ natLe 4 r.lid ++ natLe 1 r.skid ++ natLe 1 r.flags ++ natLe 2 r.waiters ++ natLe 12 0 := by
  simp [FaultRec.toBytes, natLe]

section Records

variable (s : State) (r : FaultRec)

theorem State.log_of_full (h : (s.ctx r.ctx).logFull) : (s.log r []).mem = s.mem ∧
    (s.log r []).ctx r.ctx = { s.ctx r.ctx with drops := ((s.ctx r.ctx).drops + 1) % 2 ^ 32 } := by
  rw [s.log_full r h]
  refine ⟨rfl, (State.ctx_modCtx _ _ _ _).trans ((if_pos rfl).trans ?_)⟩
  simp only [Ctx.dropped, Bool.or_false]
  rfl

theorem State.log_of_untranslated (h : ¬(s.ctx r.ctx).logFull) (ht : s.slotAt r.ctx (s.ctx r.ctx).slotVa = none) (hp : s.poison = []) :
    (s.log r []).mem = s.mem ∧
    (s.log r []).ctx r.ctx = { s.ctx r.ctx with drops := ((s.ctx r.ctx).drops + 1) % 2 ^ 32, logfault := true } := by
  rw [State.slotAt_eq, Option.map_eq_none_iff] at ht
  rw [s.log_lost_quiet r h ht (.inl hp)]
  refine ⟨rfl, (State.ctx_modCtx _ _ _ _).trans ((if_pos rfl).trans ?_)⟩
  simp only [Ctx.dropped, Bool.or_true]
  rfl

theorem State.log_of_translated (h : ¬(s.ctx r.ctx).logFull) {t : State} {pa : Nat}
    (ht : s.slotAt r.ctx (s.ctx r.ctx).slotVa = some (t, pa)) (hm : (s.ctx r.ctx).msiAddr = 0) :
    ((s.log r []).ctx r.ctx).logHead = ((s.ctx r.ctx).logHead + 1) % 2 ^ 32 ∧ ((s.log r []).ctx r.ctx).drops = (s.ctx r.ctx).drops ∧
      ∀ a, (s.log r []).byte a = t.byteAfter (s.recCells r pa) a := by
  rw [State.slotAt_eq, Option.map_eq_some_iff] at ht
  obtain ⟨⟨ad, pa'⟩, slot, heq⟩ := ht
  cases heq
  rw [s.log_taken r h slot, State.ctxMsi_of_none (((logs_recorded s r ad _).ctx r.ctx).msiAddr.trans hm)]
  unfold State.recorded
  refine ⟨?_, ?_, fun a => ?_⟩
  · rw [State.ctx_modCtx, if_pos rfl, Ctx.logged, State.logHead_write, State.logHead_write]
    rfl
  · rw [State.ctx_modCtx, if_pos rfl, Ctx.logged, State.drops_write, State.drops_write]
    rfl
  · have numbered : (s.numbered.write ad).mem = (s.write ad).mem := by
      rw [State.write_mem, State.write_mem]
      exact State.mem_pokes_congr (s := s) (t := s.numbered) rfl ad
    rw [State.byte, State.modCtx_mem, ← State.byte, State.byte_write_eq_byteAfter]
    simp only [State.byteAfter, State.byte, numbered]

end Records

/-! ## The memory that a record leaves, where no mark stands in its way -/

/-- An MSI that meets no mark. -/
theorem State.mem_ctxMsi_quiet {s : State} {n : Nat} (hp : s.poison = []) :
    (s.ctxMsi n).mem = (s.sendMsi (s.ctx n).msiAddr (s.ctx n).msiData).mem := State.mem_ctxMsi hp rfl rfl n

/-- The fields of a context that decide where its record goes. -/
def Ctx.logPlace (x : Ctx) : Nat × Nat × Nat × Nat × DWord × Nat × Nat :=
  (x.logSize, x.logBase, x.logHead, x.logTail, x.root, x.msiAddr, x.msiData)

theorem State.mem_recorded_congr {s t : State} (hm : t.mem = s.mem) (hs : t.seq = s.seq) (r : FaultRec) (ad : List (Nat × Byte)) (pa : Nat) :
    (t.recorded r ad pa).mem = (s.recorded r ad pa).mem := by
  have first : (t.numbered.write ad).mem = (s.numbered.write ad).mem := by
    rw [State.write_mem, State.write_mem]
    exact State.mem_pokes_congr (s := s.numbered) (t := t.numbered) hm ad
  unfold State.recorded State.recCells
  rw [State.modCtx_mem, State.modCtx_mem, State.write_mem, State.write_mem, hs]
  exact State.mem_pokes_congr first _

/-- What a record leaves in memory depends on memory, its number and the place of its context's log. -/
theorem State.mem_log_congr {s t : State} {r : FaultRec} (hm : t.mem = s.mem) (hp : t.poison = s.poison) (hs : t.seq = s.seq)
    (hx : (t.ctx r.ctx).logPlace = (s.ctx r.ctx).logPlace) (quiet : s.poison = [] ∨ (s.ctx r.ctx).logBase = 0) :
    (t.log r []).mem = (s.log r []).mem := by
  simp only [Ctx.logPlace, Prod.mk.injEq] at hx
  obtain ⟨size, base, head, tail, root, addr, data⟩ := hx
  have full : (t.ctx r.ctx).logFull ↔ (s.ctx r.ctx).logFull := by simp only [Ctx.logFull, size, base, head, tail]
  have slot : t.slotOf r.ctx (t.ctx r.ctx).slotVa = s.slotOf r.ctx (s.ctx r.ctx).slotVa := by
    rw [State.slotOf_congr hm hp root, Ctx.slotVa, Ctx.slotVa, size, base, head]
  by_cases h : (s.ctx r.ctx).logFull
  · rw [(t.log_of_full r (full.mpr h)).1, (s.log_of_full r h).1, hm]
  · have clean : s.poison = [] := quiet.resolve_right fun hb => h (.inr (.inl hb))
    cases hslot : s.slotOf r.ctx (s.ctx r.ctx).slotVa with
    | none =>
      rw [s.log_lost_quiet r h hslot (.inl clean), t.log_lost_quiet r (mt full.mp h) (slot.trans hslot) (.inl (hp.trans clean))]
      exact hm
    | some p =>
      have msi (u : State) : ((u.recorded r p.1 p.2).ctx r.ctx).msiAddr = (u.ctx r.ctx).msiAddr ∧
          ((u.recorded r p.1 p.2).ctx r.ctx).msiData = (u.ctx r.ctx).msiData :=
        have kept := (logs_recorded u r p.1 p.2).ctx r.ctx
        ⟨kept.msiAddr, kept.msiData⟩
      rw [s.log_taken r h hslot, t.log_taken r (mt full.mp h) (slot.trans hslot),
        State.mem_ctxMsi_quiet (t.poison_recorded (hp.trans clean) r _ _), State.mem_ctxMsi_quiet (s.poison_recorded clean r _ _),
        (msi s).1, (msi s).2, (msi t).1, (msi t).2, addr, data]
      exact State.mem_sendMsi_congr (State.mem_recorded_congr hm hs r _ _) _ _

/-- The clause of the records. -/
theorem recordsTakeSlots (s : State) (r : FaultRec) :
    let x := s.ctx r.ctx
    let q := s.log r []
    let size := 2 ^ x.logSize
    let used := (x.logHead + 2 ^ 32 - x.logTail) % 2 ^ 32
    let slot := s.slotAt r.ctx ((x.logBase + 64 * (x.logHead % size)) % 2 ^ 64)
    (x.logSize = 0 ∨ x.logBase = 0 ∨ size ≤ used → q.mem = s.mem ∧ q.ctx r.ctx = { x with drops := (x.drops + 1) % 2 ^ 32 }) ∧
    (x.logSize ≠ 0 → x.logBase ≠ 0 → used < size →
      (slot = none → s.poison = [] → q.mem = s.mem ∧ q.ctx r.ctx = { x with drops := (x.drops + 1) % 2 ^ 32, logfault := true }) ∧
      (∀ t pa, slot = some (t, pa) → x.msiAddr = 0 → (q.ctx r.ctx).logHead = (x.logHead + 1) % 2 ^ 32 ∧ (q.ctx r.ctx).drops = x.drops ∧
        ∀ a, q.byte a = t.byteAfter (cellsFrom pa { r with seq := s.seq }.toBytes) a)) := by
  refine ⟨s.log_of_full r, fun size base room => ?_⟩
  have open_ : ¬(s.ctx r.ctx).logFull := by
    rintro (h | h | h)
    · exact size h
    · exact base h
    · exact absurd room (Nat.not_lt.mpr h)
  exact ⟨s.log_of_untranslated r open_, fun t pa => s.log_of_translated r open_⟩

/-! ## A termination begins (R364) -/

/-- The context when its termination begins. -/
def Ctx.begun (cause : Nat) (x : Ctx) : Ctx :=
  { x with state := .terminated, ending := true, short := false, cause := if x.causeSet then x.cause else cause, causeSet := true }

/-- What the start of a termination leaves, but for the context itself. -/
structure Asks (n : Nat) (s t : State) : Prop where
  mem : t.mem = s.mem
  fcmds : t.fcmds = s.fcmds
  ctxs : t.ctxs = s.ctxs
  teams : ∀ e ∈ t.teams, e ∈ s.teams ∨ (e.2.ctx = n ∧ e.2.key = e.1)

theorem State.mem_teamsOf {s : State} {n : Nat} {t : Team} : t ∈ s.teamsOf n ↔ (∃ k, (k, t) ∈ s.teams) ∧ t.ctx = n := by
  simp [State.teamsOf, State.allTeams, Tab.vals]

theorem asks_halt {n : Nat} (s : State) {t : Team} (h : t.ctx = n) (st : TeamStatus) :
    Asks n s ((s.setTeam { t with status := st }).askTeam t.key) := by
  refine ⟨rfl, rfl, rfl, fun e he => ?_⟩
  rcases Tab.mem_of_mem_put (show e ∈ Tab.put s.teams t.key { t with status := st } from he) with rfl | old
  · exact .inr ⟨h, rfl⟩
  · exact .inl old

theorem Asks.ctx {n : Nat} {s t : State} (h : Asks n s t) (m : Nat) : t.ctx m = s.ctx m := congrArg (Tab.get Ctx.init · m) h.ctxs

theorem Asks.refl (n : Nat) (s : State) : Asks n s s := ⟨rfl, rfl, rfl, fun _ => .inl⟩
theorem Asks.trans {n : Nat} {s t u : State} (h : Asks n s t) (k : Asks n t u) : Asks n s u :=
  ⟨k.mem.trans h.mem, k.fcmds.trans h.fcmds, k.ctxs.trans h.ctxs, fun e he => (k.teams e he).elim (h.teams e) .inr⟩

theorem asks_beginEnd (s : State) (n cause : Nat) (h : (s.ctx n).live = true) : Asks n (s.modCtx n (Ctx.begun cause)) (s.beginEnd n cause) := by
  simp only [Ctx.live, Bool.and_eq_true, bne_iff_ne] at h
  unfold State.beginEnd
  dsimp only
  rw [if_neg (by simp [h])]
  refine List.foldlRecOn (motive := Asks n (s.modCtx n (Ctx.begun cause))) _ _ (.refl _ _) fun q hq t ht => hq.trans ?_
  have mine : t.ctx = n := (State.mem_teamsOf.mp ht).2
  split
  · exact .refl _ _
  all_goals exact asks_halt q mine _

theorem State.beginEnd_of_ended {s : State} {n : Nat} (h : (s.ctx n).live = false) (cause : Nat) : s.beginEnd n cause = s := by
  have ended : (s.ctx n).state = .free ∨ (s.ctx n).state = .terminated := by
    simpa [Ctx.live, bne_eq_false_iff_eq, ← Bool.not_eq_true, or_iff_not_imp_left] using h
  unfold State.beginEnd
  exact if_pos (by simpa using ended)

theorem State.ctx_beginEnd {s : State} {n : Nat} (h : (s.ctx n).live = true) (cause : Nat) :
    (s.beginEnd n cause).ctx n = (s.ctx n).begun cause := by
  rw [(asks_beginEnd s n cause h).ctx, State.ctx_modCtx, if_pos rfl]

/-! ## What others' records leave of a context (R298, R364) -/

/-- From s to t the context n is kept, no fabric command has come or gone, and no team of it has come. -/
structure Aside (n : Nat) (s t : State) : Prop where
  ctx : CtxKept (s.ctx n) (t.ctx n)
  fcmds : t.fcmds = s.fcmds
  teams : ∀ e ∈ t.teams, e ∈ s.teams ∨ (e.2.ctx ≠ n ∧ e.2.key = e.1)

theorem Logs.aside {s t : State} (h : Logs s t) (n : Nat) : Aside n s t := ⟨h.ctx n, h.fcmds, fun _ he => .inl (h.teams ▸ he)⟩

section Others

variable {n : Nat}

theorem Aside.refl (s : State) : Aside n s s := ⟨.refl _, rfl, fun _ => .inl⟩
theorem Aside.trans {s t u : State} (h : Aside n s t) (k : Aside n t u) : Aside n s u :=
  ⟨h.ctx.trans k.ctx, k.fcmds.trans h.fcmds, fun e he => (k.teams e he).elim (h.teams e) .inr⟩

theorem Aside.live {s t : State} (h : Aside n s t) (hs : (s.ctx n).live = false) : (t.ctx n).live = false := by
  rw [Ctx.live, h.ctx.state]
  exact hs

theorem aside_beginEnd (s : State) {m : Nat} (h : m ≠ n) (cause : Nat) : Aside n s (s.beginEnd m cause) := by
  cases hl : (s.ctx m).live with
  | false => rw [State.beginEnd_of_ended hl]; exact .refl s
  | true =>
    have asks := asks_beginEnd s m cause hl
    refine ⟨?_, asks.fcmds, fun e he => (asks.teams e he).imp_right fun he => ⟨fun hn => h (he.1.symm.trans hn), he.2⟩⟩
    rw [asks.ctx, State.ctx_modCtx, if_neg (Ne.symm h)]
    exact .refl _

/-- A record of another context. -/
theorem aside_logPut (s : State) {r : FaultRec} (h : r.ctx ≠ n) : Aside n s (s.logPut r []).1 := by
  rw [State.logPut_eq]
  refine ((logs_numbered s).aside n).trans ?_
  generalize s.numbered = t
  have lost (bad : Bool) : Aside n t (t.modCtx r.ctx (Ctx.dropped bad)) := (logs_modCtx t _ _ (Ctx.kept_dropped bad)).aside n
  unfold State.putOne
  dsimp only
  split
  · exact lost false
  · split
    · exact lost false
    · split
      · split
        · exact ((lost true).trans ((logs_modCtx _ _ _ Ctx.kept_missed).aside n)).trans (aside_beginEnd _ h _)
        · exact lost true
      · next u pa hu =>
        rw [State.slotAt_eq, Option.map_eq_some_iff] at hu
        obtain ⟨p, -, heq⟩ := hu
        cases heq
        exact (((logs_write t _).trans (logs_write _ _)).trans (logs_modCtx _ _ _ Ctx.kept_logged)).aside n

theorem aside_ctxMsi (s : State) {m : Nat} (h : m ≠ n) : Aside n s (s.ctxMsi m) := by
  unfold State.ctxMsi
  dsimp only
  split
  · exact (logs_sendMsi s _ _).aside n
  · split
    · exact .refl s
    · exact (aside_logPut s h).trans (aside_beginEnd _ h _)

/-- A record of any context, where this one has ended. -/
theorem aside_log (s : State) (r : FaultRec) (h : (s.ctx n).live = false) : Aside n s (s.log r []) := by
  by_cases hn : r.ctx = n
  · exact (logs_log s r (.inr (.inr (hn ▸ h)))).aside n
  · unfold State.log
    dsimp only
    split
    · exact (aside_logPut s hn).trans (aside_ctxMsi _ hn)
    · exact aside_logPut s hn

theorem aside_logOwnFaults (s : State) (t : Team) (h : (s.ctx n).live = false) : Aside n s (s.logOwnFaults t) := by
  unfold State.logOwnFaults
  refine List.foldlRecOn (motive := Aside n s) _ _ (.refl s) fun q hq c _ => hq.trans ?_
  have forgets (u : State) : Aside n u (u.modCohort c.id (fun c => { c with fault := none })) := by
    unfold State.modCohort
    split
    · exact ⟨.refl _, rfl, fun _ => .inl⟩
    · exact ⟨.refl _, rfl, fun _ => .inl⟩
  split
  · next g hg =>
    dsimp only
    refine .trans ?_ (forgets _)
    split
    · exact .refl q
    · exact aside_log q _ (hq.live h)
  · exact .refl q

end Others
end Sys2Proof.Machine

/-!
How contexts drain (O46), fourth part: the ends of PREEMPT, STOP and a termination (R259, R360 to R366).
-/

namespace Sys2Proof.Machine

open Sys2Proof.Claims

/-! ## The end of a termination (R364) -/

theorem Tab.ne_of_mem_erase {α : Type} {t : Tab α} {n : Nat} {e : Nat × α} (h : e ∈ t.erase n) : e.1 ≠ n := by
  induction t with
  | nil => cases h
  | cons a t ih =>
    obtain ⟨k, v⟩ := a
    by_cases hk : k = n
    · simp only [Tab.erase, hk, if_true] at h
      exact ih h
    · simp only [Tab.erase, hk, if_false, List.mem_cons] at h
      rcases h with rfl | h
      · exact hk
      · exact ih h

/-- A team that departs leaves the teams. -/
theorem State.teams_departTeam (s : State) (t : Team) : (s.departTeam t).teams = Tab.erase s.teams t.key := (backstage_departTeam s t).teams

theorem State.mem_teams_departTeams {s : State} {l : List Team} {e : Nat × Team} (h : e ∈ (l.foldl State.departTeam s).teams) :
    e ∈ s.teams ∧ ∀ t ∈ l, e.1 ≠ t.key := by
  induction l generalizing s with
  | nil => exact ⟨h, fun _ ht => nomatch ht⟩
  | cons t l ih =>
    obtain ⟨stays, others⟩ := ih h
    rw [State.teams_departTeam] at stays
    exact ⟨Tab.mem_of_mem_erase stays, List.forall_mem_cons.mpr ⟨Tab.ne_of_mem_erase stays, others⟩⟩

/-- No team of a context whose teams have departed is left. -/
theorem State.gone_dropTeams {s : State} {n : Nat} (h : ∀ e ∈ s.teams, e.2.ctx = n → e.2.key = e.1) :
    ∀ e ∈ (s.dropTeams n).teams, e.2.ctx ≠ n := fun e he hn => by
  obtain ⟨old, others⟩ := State.mem_teams_departTeams he
  exact others e.2 (State.mem_teamsOf.mpr ⟨⟨e.1, old⟩, hn⟩) (h e old hn).symm

/-- From s to t contexts, teams and fabric commands are as they were. -/
structure Keepsake (s t : State) : Prop where
  ctxs : t.ctxs = s.ctxs
  teams : t.teams = s.teams
  fcmds : t.fcmds = s.fcmds

theorem Keepsake.refl (s : State) : Keepsake s s := ⟨rfl, rfl, rfl⟩
theorem Keepsake.trans {s t u : State} (h : Keepsake s t) (k : Keepsake t u) : Keepsake s u :=
  ⟨k.ctxs.trans h.ctxs, k.teams.trans h.teams, k.fcmds.trans h.fcmds⟩
theorem Keepsake.foldl {α : Type} {f : State → α → State} (hf : ∀ s x, Keepsake s (f s x)) (l : List α) (s : State) :
    Keepsake s (l.foldl f s) := by
  induction l generalizing s with
  | nil => exact .refl s
  | cons x l ih => exact (hf s x).trans (ih _)

/-- What a capture charges returns to its tenants. -/
def State.uncharge (s : State) (k : Capture) : State :=
  k.res.foldl (fun (s : State) e =>
    if e.2.2.pinned then s.setTen e.2.2.tenant { s.ten e.2.2.tenant with used := (s.ten e.2.2.tenant).used - e.2.2.units } else s) s

/-- What the end of a termination discards besides teams: residencies, the capture's pins, the entries of fabric commands. -/
def State.dropHoldings (s : State) (n : Nat) : State :=
  let s := s.freeResidencies n
  let s := (s.ctx n).capture.elim s s.uncharge
  (s.fcmds.filter (fun f => f.ctx == n)).foldl (fun s f => s.freeSb f.id) s

/-- The context when its termination has ended (R364). -/
def Ctx.emptied (x : Ctx) : Ctx := { x with launches := [], capture := none, ending := false, drained := false, allocs := [] }

/-- The context holds nothing more: its fault records, triggers and fabric commands go. -/
def State.unlist (s : State) (n : Nat) : State :=
  let s := s.modCtx n Ctx.emptied
  { s with
    dies := s.dies.map (fun (e : Nat × Die) => (e.1, { e.2 with
      fbufs := e.2.fbufs.map (fun (b : Nat × FaultBuf) => if b.1 = n then (b.1, { b.2 with ents := List.replicate 8 none }) else b) }))
    fabs := s.fabs.map (fun (e : Nat × FabBlk) => if e.1 % 64 = n then (e.1, { e.2 with trigs := [], waiting := [] }) else e)
    fcmds := s.fcmds.filter (fun f => f.ctx != n) }

theorem State.ctx_unlist (s : State) (n : Nat) : (s.unlist n).ctx n = (s.ctx n).emptied :=
  (State.ctx_modCtx s n Ctx.emptied n).trans (if_pos rfl)

theorem keepsake_freeResidency (s : State) (core idx : Nat) : Keepsake s (s.freeResidency core idx) := by
  unfold State.freeResidency
  dsimp only
  split <;> exact ⟨rfl, rfl, rfl⟩

theorem keepsake_dropHoldings (s : State) (n : Nat) : Keepsake s (s.dropHoldings n) := by
  have freed : Keepsake s (s.freeResidencies n) := .foldl (fun t (p : Nat × Nat) => keepsake_freeResidency t p.1 p.2) _ _
  have uncharged (t : State) (k : Capture) : Keepsake t (t.uncharge k) := .foldl (fun u e => by
    split <;> exact ⟨rfl, rfl, rfl⟩) _ _
  unfold State.dropHoldings
  have unclaimed (t : State) (f : FabCmd) : Keepsake t (t.freeSb f.id) := ⟨rfl, rfl, rfl⟩
  refine (freed.trans ?_).trans (.foldl (fun t f => unclaimed t f) _ _)
  cases ((s.freeResidencies n).ctx n).capture with
  | none => exact .refl _
  | some k => exact uncharged _ k

/-- What a termination that ends leaves, before its event. -/
def State.endedCtx (s : State) (n : Nat) : State :=
  ((((((s.teamsOf n).foldl State.logOwnFaults s).drainCtx n).dropTeams n).dropHoldings n).unlist n)

theorem exec_contextTermination_of_ready {s : State} {n : Nat} (ending : (s.ctx n).ending = true)
    (halted : ∀ t ∈ s.teamsOf n, t.status = .halting .terminate ∧ s.teamQuiet t.key = true) (idle : s.ctxBusy n = false) :
    exec (.contextTermination n) s = .next
      (let t := (s.endedCtx n).logEvent n 0x82 ((s.endedCtx n).ctx n).cause
       if (s.ctx n).release then t.releaseCtx n else t) := by
  rw [exec_contextTermination]
  unfold execContextTermination
  refine if_pos ?_
  simpa [ending, idle, List.all_eq_true] using halted

/-- A context that has ended, with nothing left of it. -/
structure Over (n : Nat) (st : CtxState) (s : State) : Prop where
  state : (s.ctx n).state = st
  ending : (s.ctx n).ending = false
  launches : (s.ctx n).launches = []
  allocs : (s.ctx n).allocs = []
  teams : ∀ e ∈ s.teams, e.2.ctx ≠ n
  fcmds : ∀ f ∈ s.fcmds, f.ctx ≠ n

theorem Over.logs {n : Nat} {st : CtxState} {s t : State} (h : Over n st s) (k : Logs s t) : Over n st t :=
  have kept := k.ctx n
  ⟨kept.state.trans h.state, kept.ending.trans h.ending, kept.launches.trans h.launches, kept.allocs h.allocs,
    fun e he => h.teams e (k.teams ▸ he), fun f hf => h.fcmds f (k.fcmds ▸ hf)⟩

theorem over_endedCtx {s : State} {n : Nat} (state : (s.ctx n).state = .terminated) (keyed : ∀ e ∈ s.teams, e.2.key = e.1) :
    Over n .terminated (s.endedCtx n) := by
  have ended : (s.ctx n).live = false := by rw [Ctx.live, state]; rfl
  have logged : Aside n s ((s.teamsOf n).foldl State.logOwnFaults s) :=
    List.foldlRecOn (motive := Aside n s) _ _ (.refl s) fun q hq t _ => hq.trans (aside_logOwnFaults q t (hq.live ended))
  have mine : ∀ e ∈ (((s.teamsOf n).foldl State.logOwnFaults s).drainCtx n).teams, e.2.ctx = n → e.2.key = e.1 := fun e he hn => by
    rw [(backstage_drainCtx _ n).teams] at he
    exact (logged.teams e he).elim (keyed e) fun other => absurd hn other.1
  have gone := State.gone_dropTeams mine
  have kept := (logged.ctx.trans ((drains_drainCtx _ n).ctx n)).trans ((drains_dropTeams _ n).ctx n)
  have rest := keepsake_dropHoldings ((((s.teamsOf n).foldl State.logOwnFaults s).drainCtx n).dropTeams n) n
  unfold State.endedCtx
  generalize ((((s.teamsOf n).foldl State.logOwnFaults s).drainCtx n).dropTeams n) = t at gone kept rest
  have ctx : (t.dropHoldings n).ctx n = t.ctx n := congrArg (Tab.get Ctx.init · n) rest.ctxs
  refine ⟨?_, ?_, ?_, ?_, fun e he => gone e (rest.teams ▸ he), fun f hf => by simpa using (List.mem_filter.mp hf).2⟩
  all_goals rw [State.ctx_unlist, Ctx.emptied]
  rw [ctx]
  exact kept.state.trans state

/-- The context of a RELEASE (R365). -/
def Ctx.released (x : Ctx) : Ctx :=
  { x with
    state := .free, short := false, cause := 0, causeSet := false, savesz := 0, allocs := [], nextLid := 1, launches := []
    capture := none, ending := false, release := false, drained := false }

theorem State.ctx_releaseCtx (s : State) (n : Nat) : (s.releaseCtx n).ctx n = ((s.logEvent n 0x85 0).ctx n).released :=
  (State.ctx_modCtx (s.logEvent n 0x85 0) n Ctx.released n).trans (if_pos rfl)

theorem over_releaseCtx {s : State} {n : Nat} (h : Over n .terminated s) : Over n .free (s.releaseCtx n) := by
  have ended : (s.ctx n).live = false := by rw [Ctx.live, h.state]; rfl
  have logged := h.logs (logs_logEvent s 0x85 0 (.inr (.inr ended)))
  refine ⟨?_, ?_, ?_, ?_, logged.teams, logged.fcmds⟩
  all_goals rw [State.ctx_releaseCtx, Ctx.released]

/-- The clause of a termination's end. -/
theorem terminationEnds {s : State} {n : Nat} (state : (s.ctx n).state = .terminated) (ending : (s.ctx n).ending = true)
    (halted : ∀ t ∈ s.teamsOf n, t.status = .halting .terminate ∧ s.teamQuiet t.key = true) (idle : s.ctxBusy n = false)
    (keyed : ∀ e ∈ s.teams, e.2.key = e.1) :
    ∃ q, exec (.contextTermination n) s = .next q ∧ Over n (if (s.ctx n).release then .free else .terminated) q := by
  refine ⟨_, exec_contextTermination_of_ready ending halted idle, ?_⟩
  have ended := over_endedCtx state keyed
  have quiet : ((s.endedCtx n).ctx n).live = false := by rw [Ctx.live, ended.state]; rfl
  have logged := ended.logs (logs_logEvent _ 0x82 ((s.endedCtx n).ctx n).cause (.inr (.inr quiet)))
  dsimp only
  split
  · exact over_releaseCtx logged
  · exact logged

/-! ## The end of a PREEMPT (R259, R361) -/

/-- The unpinned residencies of a context are evicted. -/
def State.evictAll (s : State) (n : Nat) : State :=
  { s with cores := s.cores.map (fun (e : Nat × Core) => (e.1, { e.2 with
    res := e.2.res.map (fun (r : Nat × Residency) => if r.2.ctx = n then (r.1, r.2.evict) else r) })) }

/-- The context when it has left its cores. -/
def Ctx.preempted (x : Ctx) : Ctx := { x with state := .preempted }

theorem exec_preemptDrained_of_ready {s : State} {n : Nat} (state : (s.ctx n).state = .preempting) (away : s.teamsOf n = [])
    (idle : s.ctxBusy n = false) (none_ : ∀ f ∈ s.fcmds, f.ctx ≠ n) :
    exec (.preemptDrained n) s = .next (((s.evictAll n).modCtx n Ctx.preempted).logEvent n 0x81 0) := by
  rw [exec_preemptDrained]
  unfold execPreemptDrained
  refine if_pos ?_
  simpa [state, away, idle] using none_

theorem State.core_evictAll (s : State) (n core : Nat) : ((s.evictAll n).core core).res =
    (s.core core).res.map (fun r => if r.2.ctx = n then (r.1, r.2.evict) else r) :=
  Tab.get_map_rel (d := Core.init) (R := fun a b : Core => b.res = a.res.map (fun r => if r.2.ctx = n then (r.1, r.2.evict) else r)) rfl
    (g := fun e : Nat × Core => (e.1, { e.2 with res := e.2.res.map (fun r => if r.2.ctx = n then (r.1, r.2.evict) else r) }))
    (fun _ => rfl) (fun _ => rfl) s.cores core

theorem State.find_evictAll {s : State} {n core idx : Nat} {r : Residency} (h : Tab.find (s.core core).res idx = some r) (hn : r.ctx = n) :
    Tab.find ((s.evictAll n).core core).res idx = some r.evict := by
  have same : (fun e : Nat × Residency => if e.2.ctx = n then (e.1, e.2.evict) else e) =
      fun e => (e.1, if e.2.ctx = n then e.2.evict else e.2) := by
    funext e
    split <;> rfl
  rw [State.core_evictAll, same, Tab.find_map_snd (fun q : Residency => if q.ctx = n then q.evict else q), h, Option.map_some, if_pos hn]

/-- An unpinned residency that is loaded loses its cells. -/
theorem Residency.evict_of_loaded {r : Residency} (free_ : r.pinned = false) (loaded : r.state = .valid ∨ r.state = .stale) :
    r.evict = { r with state := .evicted, codes := [], scales := [] } := by
  unfold Residency.evict
  exact if_pos (by simpa [free_] using loaded)

/-- The clause of a PREEMPT's end. -/
theorem preemptEnds {s : State} {n : Nat} (state : (s.ctx n).state = .preempting) (away : s.teamsOf n = [])
    (idle : s.ctxBusy n = false) (none_ : ∀ f ∈ s.fcmds, f.ctx ≠ n) (quiet : s.poison = [] ∨ (s.ctx n).logBase = 0) :
    Reaches s (.preemptDrained n) (fun q => (q.ctx n).state = .preempted ∧
      q.mem = (s.log (FaultRec.blank n (s.ctx n).tenant 0x81 0) []).mem ∧
      ∀ core idx r, Tab.find (s.core core).res idx = some r → r.ctx = n → r.pinned = false → (r.state = .valid ∨ r.state = .stale) →
        ∃ r', Tab.find (q.core core).res idx = some r' ∧ r'.state = .evicted ∧ r'.lines = r.lines ∧ r'.codes = [] ∧ r'.scales = []) := by
  have there : ((s.evictAll n).modCtx n Ctx.preempted).ctx n = (s.ctx n).preempted := (State.ctx_modCtx _ _ _ _).trans (if_pos rfl)
  have logs := logs_logEvent ((s.evictAll n).modCtx n Ctx.preempted) (n := n) 0x81 0 (by
    rw [there]
    exact quiet.imp_right .inl)
  refine ⟨_, exec_preemptDrained_of_ready state away idle none_, ?_, ?_, fun core idx r hr hn free_ loaded => ?_⟩
  · rw [(logs.ctx n).state, there]
    rfl
  · rw [State.logEvent, there]
    refine State.mem_log_congr (s := s) (r := FaultRec.blank n (s.ctx n).tenant 0x81 0) rfl rfl rfl ?_ quiet
    exact (congrArg Ctx.logPlace there).trans rfl
  · obtain ⟨r', hr', kept⟩ := logs.res core idx _ (State.find_evictAll hr hn)
    rw [Residency.evict_of_loaded free_ loaded] at kept
    exact ⟨r', hr', kept.evicted rfl, kept.lines, kept.codes, kept.scales⟩

/-! ## The deadline (R360) -/

/-- The record of a context whose deadline has passed (log entry 58). -/
def State.deadlineRec (s : State) (n : Nat) : FaultRec :=
  match ((sortBy (fun (t : Team) => t.lid * 2 ^ 24 + t.teamid) (s.teamsOf n)).head?).bind (fun t =>
      (sortBy Cohort.cohid (s.cohortsOf t.key)).head?) with
  | some c => FaultRec.of { c with skid := false } 0 (flt causeDeadline 0)
  | none => FaultRec.blank n (s.ctx n).tenant causeDeadline 0

theorem exec_preemptDeadline_of_late {s : State} {n : Nat}
    (open_ : (s.ctx n).state = .preempting ∨ ((s.ctx n).state = .stopping ∧ (s.ctx n).drained = false)) (limit : (s.ctx n).deadline ≠ 0)
    (late : (s.ctx n).deadline ≤ (s.clk + 2 ^ 64 - (s.ctx n).since) % 2 ^ 64) :
    exec (.preemptDeadline n) s = .next (s.killWith (s.deadlineRec n) []) := by
  rw [exec_preemptDeadline]
  unfold execPreemptDeadline
  refine if_pos ?_
  simp only [Bool.and_eq_true, decide_eq_true_eq, Bool.or_eq_true, bne_iff_ne, Bool.not_eq_true']
  exact ⟨⟨open_, limit⟩, late⟩

/-- Where a context's cohorts name it, the record does so too, under the cause of R360. -/
theorem State.deadlineRec_names {s : State} {n : Nat} (mine : ∀ t ∈ s.teamsOf n, ∀ c ∈ s.cohortsOf t.key, c.ctx = n) :
    (s.deadlineRec n).ctx = n ∧ (s.deadlineRec n).cause = 0x13 := by
  unfold State.deadlineRec
  split
  · next c hc =>
    obtain ⟨t, ht, hc⟩ := Option.bind_eq_some_iff.mp hc
    exact ⟨mine t (mem_of_mem_sortBy _ (List.mem_of_head? ht)) c (mem_of_mem_sortBy _ (List.mem_of_head? hc)), rfl⟩
  · exact ⟨rfl, rfl⟩

/-- The clause of the deadline. -/
theorem deadlineEnds {s : State} {n : Nat}
    (open_ : (s.ctx n).state = .preempting ∨ ((s.ctx n).state = .stopping ∧ (s.ctx n).drained = false)) (limit : (s.ctx n).deadline ≠ 0)
    (fresh : (s.ctx n).causeSet = false) (late : (s.ctx n).deadline ≤ (s.clk + 2 ^ 64 - (s.ctx n).since) % 2 ^ 64)
    (mine : ∀ t ∈ s.teamsOf n, ∀ c ∈ s.cohortsOf t.key, c.ctx = n) (quiet : s.poison = [] ∨ (s.ctx n).logBase = 0) :
    Reaches s (.preemptDeadline n) (fun q => (q.ctx n).state = .terminated ∧ (q.ctx n).cause = 0x13 ∧ (q.ctx n).ending = true ∧
      q.mem = (s.log (s.deadlineRec n) []).mem) := by
  obtain ⟨hn, hc⟩ := State.deadlineRec_names mine
  have logs := logs_log s (s.deadlineRec n) (by rw [hn]; exact quiet.imp_right .inl)
  have live : (s.ctx n).live = true := by
    rcases open_ with h | ⟨h, -⟩ <;> rw [Ctx.live, h] <;> rfl
  have live' : ((s.log (s.deadlineRec n) []).ctx n).live = true := by
    rw [Ctx.live, (logs.ctx n).state]
    exact live
  have begun := State.ctx_beginEnd live' 0x13
  refine ⟨_, exec_preemptDeadline_of_late open_ limit late, ?_⟩
  unfold State.killWith
  rw [hn, hc]
  refine ⟨(congrArg Ctx.state begun :), (congrArg Ctx.cause begun).trans ?_, (congrArg Ctx.ending begun :),
    (asks_beginEnd _ n 0x13 live').mem⟩
  simp [Ctx.begun, (logs.ctx n).causeSet, fresh]

/-! ## The end of a STOP's drain (R362, R366) -/

/-- The context when its stores have drained: its save area is to have a size. -/
def Ctx.sized (size : Nat) (x : Ctx) : Ctx := { x with drained := true, savesz := size }
/-- The context when its save area does not suffice. -/
def Ctx.wanting (x : Ctx) : Ctx := { x with short := true }
/-- The context with its capture. -/
def Ctx.caught (k : Capture) (x : Ctx) : Ctx := { x with capture := some k, short := false }
/-- The context when it has stopped. -/
def Ctx.halt (x : Ctx) : Ctx := { x with state := .stopped, drained := false }

/-- A context whose stop has drained, where the machine's choices give the capture a size. -/
def State.drainedAt (s : State) (n : Nat) : State := (s.drainCtx n).modCtx n (Ctx.sized (Config.captureSize s.tick n % 2 ^ 40))

theorem exec_stopDrainEnd_of_ready {s : State} {n : Nat} (state : (s.ctx n).state = .stopping) (opening : (s.ctx n).drained = false)
    (still : ∀ t ∈ s.teamsOf n, t.still = true ∧ s.teamQuiet t.key = true) (idle : s.ctxBusy n = false)
    (none_ : ∀ f ∈ s.fcmds, f.ctx ≠ n ∧ ∀ m ∈ f.msgs, m.msg.ctx ≠ n) :
    exec (.stopDrainEnd n) s = .next
      (if ((s.drainedAt n).ctx n).saveOk then (s.drainedAt n).putCapture n else ((s.drainedAt n).modCtx n Ctx.wanting).ctxMsi n) := by
  have silent : s.fcmds.any (fun f => f.ctx == n || f.msgs.any (fun m => m.module == s.fabMod && m.msg.ctx == n && !m.done)) = false := by
    rw [List.any_eq_false]
    intro f hf
    obtain ⟨other, msgs⟩ := none_ f hf
    have quiet : f.msgs.any (fun m => m.module == s.fabMod && m.msg.ctx == n && !m.done) = false :=
      List.any_eq_false.mpr fun m hm => by simp [msgs m hm]
    simp [other, quiet]
  have same : Config.captureSize (s.drainCtx n).tick n = Config.captureSize s.tick n :=
    congrArg (Config.captureSize · n) (drains_drainCtx s n).tick
  rw [exec_stopDrainEnd]
  unfold execStopDrainEnd
  dsimp only
  rw [if_pos (by simpa [state, opening, idle, silent, List.all_eq_true] using still), same]
  exact (apply_ite Host.Outcome.next _ _ _).symm

/-- What a capture is of. -/
def State.captureAt (s : State) (n : Nat) : Capture :=
  { s.captureOf n (s.ctx n).savesz with image := (List.range (s.ctx n).savesz).map (fun i => Config.captureByte s.tick i) }

/-- The capture stands in the save area, and the context has left its cores. -/
def State.caughtAt (s : State) (n : Nat) : State :=
  ((s.write (cellsFrom (s.ctx n).save (s.captureAt n).image)).modCtx n (Ctx.caught (s.captureAt n))).dropTeams n

/-- The descriptors of a capture's residencies are free. -/
def State.unreserve (s : State) (k : Capture) : State :=
  k.res.foldl (fun (s : State) e => s.modRes e.1 e.2.1 (fun r => { Residency.init with serial := r.serial })) s

theorem State.putCapture_eq (s : State) (n : Nat) :
    s.putCapture n = (((s.caughtAt n).unreserve (s.captureAt n)).modCtx n Ctx.halt).logEvent n 0x80 0 := rfl

theorem State.unreserve_keeps (s : State) (k : Capture) : (s.unreserve k).ctxs = s.ctxs ∧ (s.unreserve k).poison = s.poison :=
  List.foldlRecOn (motive := fun q : State => q.ctxs = s.ctxs ∧ q.poison = s.poison) _ _ ⟨rfl, rfl⟩ fun _ h _ _ => h

theorem State.Unpoisoned.modCtx {s : State} (h : s.Unpoisoned) (n : Nat) (f : Ctx → Ctx) : (s.modCtx n f).Unpoisoned := ⟨h.home, h.l1, h.cc⟩

/-- A capture leaves its context STOPPED. -/
theorem State.ctx_putCapture {s : State} {n : Nat} (quiet : s.Unpoisoned ∨ (s.ctx n).logBase = 0) :
    ((s.putCapture n).ctx n).state = .stopped ∧ ((s.putCapture n).ctx n).capture.isSome = true := by
  have wrote := drains_write s (cellsFrom (s.ctx n).save (s.captureAt n).image)
  have left := drains_dropTeams ((s.write (cellsFrom (s.ctx n).save (s.captureAt n).image)).modCtx n (Ctx.caught (s.captureAt n))) n
  have caught : CtxKept (((s.write (cellsFrom (s.ctx n).save (s.captureAt n).image)).ctx n).caught (s.captureAt n)) ((s.caughtAt n).ctx n) := by
    have kept := left.ctx n
    rwa [State.ctx_modCtx, if_pos rfl] at kept
  have clean (h : s.Unpoisoned) : (s.caughtAt n).poison = [] := (left.clean ((wrote.clean h).modCtx n _)).home
  obtain ⟨ctxs, poison⟩ := (s.caughtAt n).unreserve_keeps (s.captureAt n)
  rw [State.putCapture_eq]
  generalize (s.caughtAt n).unreserve (s.captureAt n) = t at ctxs poison
  have there : (t.modCtx n Ctx.halt).ctx n = ((s.caughtAt n).ctx n).halt := by
    rw [State.ctx_modCtx, if_pos rfl]
    exact congrArg (fun l => (Tab.get Ctx.init l n).halt) ctxs
  have logs := logs_logEvent (t.modCtx n Ctx.halt) (n := n) 0x80 0 (by
    rw [there]
    exact quiet.imp (fun h => poison.trans (clean h)) fun h => .inl (caught.logBase.trans ((wrote.ctx n).logBase.trans h)))
  have kept := logs.ctx n
  rw [there] at kept
  exact ⟨kept.state, kept.captured.trans caught.captured⟩

/-- The clause of a STOP's end. -/
theorem stopEnds {s : State} {n : Nat} (state : (s.ctx n).state = .stopping) (opening : (s.ctx n).drained = false)
    (still : ∀ t ∈ s.teamsOf n, t.still = true ∧ s.teamQuiet t.key = true) (idle : s.ctxBusy n = false)
    (none_ : ∀ f ∈ s.fcmds, f.ctx ≠ n ∧ ∀ m ∈ f.msgs, m.msg.ctx ≠ n)
    (quiet : s.Unpoisoned ∨ ((s.ctx n).logBase = 0 ∧ (s.ctx n).msiAddr = 0)) :
    let size := Config.captureSize s.tick n % 2 ^ 40
    Reaches s (.stopDrainEnd n) (fun q =>
      (({ s.ctx n with savesz := size } : Ctx).saveOk = true → (q.ctx n).state = .stopped ∧ (q.ctx n).capture.isSome = true) ∧
      (({ s.ctx n with savesz := size } : Ctx).saveOk = false → (q.ctx n).state = .stopping ∧ (q.ctx n).short = true ∧
        (q.ctx n).savesz = size)) := by
  intro size
  have drained := drains_drainCtx s n
  have there : (s.drainedAt n).ctx n = ((s.drainCtx n).ctx n).sized size := (State.ctx_modCtx _ _ _ _).trans (if_pos rfl)
  have enough : ((s.drainedAt n).ctx n).saveOk = ({ s.ctx n with savesz := size } : Ctx).saveOk := by
    rw [there]
    exact (drained.ctx n).saveOk size
  have clean (h : s.Unpoisoned) : (s.drainedAt n).Unpoisoned := (drained.clean h).modCtx n _
  refine ⟨_, exec_stopDrainEnd_of_ready state opening still idle none_, fun ok => ?_, fun ok => ?_⟩
  · rw [if_pos (enough.trans ok)]
    refine State.ctx_putCapture (quiet.imp clean fun h => ?_)
    rw [there]
    exact (drained.ctx n).logBase.trans h.1
  · rw [if_neg (by rw [enough, ok]; decide)]
    have short : ((s.drainedAt n).modCtx n Ctx.wanting).ctx n = (((s.drainCtx n).ctx n).sized size).wanting := by
      rw [State.ctx_modCtx, if_pos rfl, there]
    have kept := (logs_ctxMsi ((s.drainedAt n).modCtx n Ctx.wanting) (n := n) (by
      rw [short]
      exact quiet.imp (fun h => (clean h).home) fun h => .inl ((drained.ctx n).msiAddr.trans h.2))).ctx n
    rw [short] at kept
    exact ⟨kept.state.trans ((drained.ctx n).state.trans state), kept.short, kept.savesz⟩

/-- Settles O46, by what each end performs, with what drains, departures and records leave of a context: each end's own lemma gives its
clause. -/
theorem contextsDrain : Obligations.ContextsDrain := by
  unfold Obligations.ContextsDrain
  intro s n x still sound
  have quiet (h : sound) : s.poison = [] ∨ x.logBase = 0 := h.imp_left fun h => (State.unpoisoned_of_unmarked h).home
  refine ⟨fun state away rest so => ?_, fun state opening stands rest so => ?_, fun open_ limit fresh late mine so => ?_,
    fun state ending halted idle keyed => ?_, fun r hr => ?_⟩
  · exact preemptEnds state away rest.1 (fun f hf => (rest.2 f hf).1) (quiet so)
  · exact stopEnds state opening stands rest.1 rest.2 (so.imp_left State.unpoisoned_of_unmarked)
  · obtain ⟨q, hq, ended, cause, ending, mem⟩ := deadlineEnds open_ limit fresh late mine (quiet so)
    refine ⟨q, hq, ended, cause, ending, fun none_ => ?_, fun t c ht hc => ?_⟩
    · rw [mem, State.deadlineRec, none_]
      rfl
    · rw [mem, State.deadlineRec, ht, Option.bind_some, hc]
      rfl
  · obtain ⟨q, hq, done⟩ := terminationEnds state ending halted idle keyed
    refine ⟨q, hq, done.state, done.ending, done.launches, done.allocs, ?_, done.fcmds⟩
    exact List.eq_nil_iff_forall_not_mem.mpr fun t ht => by
      obtain ⟨⟨k, hk⟩, hn⟩ := State.mem_teamsOf.mp ht
      exact done.teams _ hk hn
  · subst hr
    have records := recordsTakeSlots s r
    simp only [FaultRec.toBytes_eq] at records
    exact records

end Sys2Proof.Machine

/-!
Array commands (O30), first part: the order of summation of R246 and R247. A weight is an integer in its format's units; a block is rounded
once, and added.
-/

namespace Sys2Proof.Machine

open Sys2Proof.Claims

/-! ## Weights as integers (R247) -/

theorem fPow_ge (f : Fmt) (c : Nat) : 1 - (f.bias : Int) - f.m ≤ fPow f c := by
  unfold fPow
  split <;> omega

theorem Fmt.exp_ge {f : Fmt} (hf : f.Std) {c n : Nat} {neg : Bool} {x : Int} (h : f.value c = .num neg n x) :
    1 - (f.bias : Int) - f.m ≤ x := by
  rw [Fmt.value_eq_cases hf] at h
  split at h
  · cases h
  · split at h
    · cases h
    · cases h
      exact fPow_ge f c

theorem unitExp_of_fmt {k : BlkFmt} {f : Fmt} (h : blkFmt k = .inl f) : unitExp (.blk k) = 1 - (f.bias : Int) - f.m := by
  revert h
  cases k <;> rintro ⟨rfl⟩ <;> rfl

theorem unitExp_of_int {k : BlkFmt} {n : Nat} (h : blkFmt k = .inr n) : unitExp (.blk k) = 0 := by
  revert h
  cases k <;> rintro ⟨rfl⟩ <;> rfl

/-- No value of a format has a bit below its unit. -/
theorem unitExp_le {ek : EKind} {c q n : Nat} {neg : Bool} {x : Int} (h : mvalue ek c q = .num neg n x) : unitExp ek ≤ x := by
  cases ek with
  | b16 => exact Fmt.exp_ge (fType_std .b16) h
  | f16 => exact Fmt.exp_ge (fType_std .f16) h
  | f32 => exact Fmt.exp_ge (fType_std .f32) h
  | blk k =>
    rw [mvalue] at h
    by_cases hs : k = .e2m1s ∧ c % 16 = 8
    · obtain ⟨rfl, hc⟩ := hs
      rw [blockValue, if_pos hc] at h
      cases h
      decide
    · cases hk : blkFmt k with
      | inl f =>
        rw [blockValue_of_fmt hk hs] at h
        rw [unitExp_of_fmt hk]
        exact Fmt.exp_ge (blkFmt_std hk) h
      | inr w =>
        rw [blockValue_of_int hk] at h
        cases h
        exact (unitExp_of_int hk).le

theorem weightInt_isNone (ek : EKind) (c q : Nat) : (weightInt ek c q).isNone = (eVal ek q c).isNone := by
  rw [← rat_mvalue, weightInt]
  cases mvalue ek c q <;> rfl

/-- A weight in the units of its format; 0 for one without a value. -/
def weightUnits (ek : EKind) (c q : Nat) : Int := (weightInt ek c q).getD 0

theorem weightUnits_mul (ek : EKind) (c q : Nat) : (weightUnits ek c q : ℚ) * 2 ^ unitExp ek = (eVal ek q c).getD 0 := by
  rw [← rat_mvalue, weightUnits, weightInt]
  cases h : mvalue ek c q with
  | nan | inf => exact zero_mul _
  | num neg n x =>
    have units : ((n * 2 ^ (x - unitExp ek).toNat : ℕ) : ℚ) * 2 ^ unitExp ek = n * 2 ^ x := by
      have le := unitExp_le h
      push_cast
      rw [mul_assoc, ← zpow_natCast, ← zpow_add₀ two_ne_zero]
      congr 2
      omega
    rw [FVal.rat, Option.getD_some, Option.getD_some, ← units]
    cases neg <;> simp [signedQ]

/-! ## The sum of a block (R246) -/

/-- A term joins a sum that may have none. -/
def addTerm (weight : Nat → Option Int) (row : Nat → Int) (t : Option Int) (k : Nat) : Option Int :=
  match t, weight k with
  | some t, some x => some (t + x * row k)
  | _, _ => none

theorem foldl_addTerm_none (weight : Nat → Option Int) (row : Nat → Int) (ks : List Nat) : ks.foldl (addTerm weight row) none = none := by
  induction ks with
  | nil => rfl
  | cons k ks ih => exact ih

theorem foldl_addTerm (weight : Nat → Option Int) (row : Nat → Int) (ks : List Nat) (t : Int) :
    ks.foldl (addTerm weight row) (some t) =
      if ks.any (fun k => (weight k).isNone) then none else some (t + (ks.map (fun k => (weight k).getD 0 * row k)).sum) := by
  induction ks generalizing t with
  | nil => simp
  | cons k ks ih =>
    rw [List.foldl_cons, List.any_cons, List.map_cons, List.sum_cons]
    cases hk : weight k with
    | none => simp [addTerm, hk, foldl_addTerm_none]
    | some x => simp [addTerm, hk, ih, add_assoc]

/-- The reduction indices of a block. -/
def blockKs (bl b : Nat) : List Nat := (List.range bl).map (fun i => b * bl + i)

/-- The sum of a block in the units of the weights' format. -/
def blockUnits (ek : EKind) (codes : Nat → Nat) (q : Nat) (row : Nat → Int) (ks : List Nat) : Int :=
  (ks.map (fun k => weightUnits ek (codes k) q * row k)).sum

theorem blockUnits_mul (ek : EKind) (codes : Nat → Nat) (q : Nat) (row : Nat → Int) (ks : List Nat) :
    (blockUnits ek codes q row ks : ℚ) * 2 ^ unitExp ek = (ks.map (fun k => (eVal ek q (codes k)).getD 0 * row k)).sum := by
  unfold blockUnits
  induction ks with
  | nil => simp
  | cons k ks ih =>
    rw [List.map_cons, List.map_cons, List.sum_cons, List.sum_cons, ← ih, ← weightUnits_mul]
    push_cast
    ring

/-- The codes of a residency's column. -/
def Residency.column (r : Residency) (n k : Nat) : Nat := Tab.get 0 r.codes (n * 256 + k)
/-- The scale record of a block of a column. -/
def Residency.scale (r : Residency) (n b : Nat) : Nat := Tab.get 0 r.scales (n * 16 + b)
/-- The scale exponent of a record. -/
def weightExp (ek : EKind) (q : Nat) : Nat := if ek.block then q / 256 % 256 else 127

/-- A block without a sum: by its window, by a scale, or by a weight without a value. -/
def sumless (ek : EKind) (codes : Nat → Nat) (q : Nat) (window : Int) (ea : Nat) (ks : List Nat) : Bool :=
  window == -128 || ea == 255 || weightExp ek q == 255 || ks.any (fun k => (eVal ek q (codes k)).isNone)

/-- The addend of a block: its exact sum, rounded once. -/
theorem blockSum_eq (ek : EKind) (r : Residency) (a : ActRow) (bl n b : Nat) :
    let q := r.scale n b
    let d := blockUnits ek (r.column n) q (fun k => a.ints.getD k 0) (blockKs bl b)
    blockSum ek r a bl n b = if sumless ek (r.column n) q (a.wins.getD b 0) (a.exps.getD b 127) (blockKs bl b) then none
      else some (Fmt.f32.roundD .rn false (decide (d < 0)) d.natAbs
        (unitExp ek + a.wins.getD b 0 + ((weightExp ek q : Int) - 127) + ((a.exps.getD b 127 : Int) - 127)) 0) := by
  intro q d
  have sum := foldl_addTerm (fun k => weightInt ek (r.column n k) q) (fun k => a.ints.getD k 0) (blockKs bl b) 0
  simp only [weightInt_isNone, zero_add] at sum
  have shift : (List.range bl).foldl (fun t i => addTerm (fun k => weightInt ek (r.column n k) q) (fun k => a.ints.getD k 0) t (b * bl + i))
      (some 0) = (blockKs bl b).foldl (addTerm (fun k => weightInt ek (r.column n k) q) (fun k => a.ints.getD k 0)) (some 0) :=
    List.foldl_map.symm
  unfold blockSum
  show (if a.wins.getD b 0 = -128 || a.exps.getD b 127 = 255 || weightExp ek q = 255 then none else Option.map _
    ((List.range bl).foldl (fun t i => addTerm (fun k => weightInt ek (r.column n k) q) (fun k => a.ints.getD k 0) t (b * bl + i)) (some 0))) = _
  rw [shift, sum]
  unfold sumless
  by_cases flagged : (a.wins.getD b 0 == -128 || a.exps.getD b 127 == 255 || weightExp ek q == 255) = true
  · rw [flagged, Bool.true_or, if_pos rfl]
    exact if_pos (by simpa [← or_assoc] using flagged)
  · rw [if_neg (by simpa [← or_assoc] using flagged), Bool.eq_false_iff.mpr flagged, Bool.false_or]
    cases (blockKs bl b).any (fun k => (eVal ek q (r.column n k)).isNone) <;> rfl

/-! ## The accumulator after a block (R246) -/

/-- A magnitude that is rounded to nearest is no NaN. -/
theorem rounds_not_nan {neg : Bool} {x : ℚ} {draw c : Nat} (h : Rounds (fType .f32) .rn false neg x draw c) : fNaN (fType .f32) c = false := by
  obtain ⟨-, -, lo, hi, y, -, -, result⟩ := h
  split at result
  · exact result.1
  · have inf : fInf (fType .f32) c = true := result
    simp only [fInf, fNaN, fType, Bool.and_eq_true, beq_iff_eq] at inf ⊢
    simp [inf.2]

/-- The sum of two codes that are not NaN is NaN in one way only. -/
theorem adds_nan {a b y : Nat} (h : Adds (fType .f32) 0x7FC00000 a b y) (ha : fNaN (fType .f32) a = false) (hb : fNaN (fType .f32) b = false)
    (hy : fNaN (fType .f32) y = true) : y = 0x7FC00000 := by
  have none_ : firstNaN (fType .f32) [a, b] = none := firstNaN_eq_none_iff.mpr (by simp [ha, hb])
  have own {c : Nat} (hc : fNaN (fType .f32) c = false) : fNaN (fType .f32) (fOwn (fType .f32) c) = false :=
    (fields_fOwn _ c).1.trans hc
  rw [Adds, none_] at h
  dsimp only at h
  split at h
  · split at h
    · exact absurd hy (by rw [h, own ha]; decide)
    · exact h
  · split at h
    · exact absurd hy (by rw [h, own ha]; decide)
    · split at h
      · exact absurd hy (by rw [h, own hb]; decide)
      · exact absurd hy (by rw [rounds_not_nan h]; decide)

/-- A block's addend joins the accumulator. -/
theorem accAdd_some {acc x : Nat} (hx : fNaN (fType .f32) x = false) :
    (accAdd acc (some x)).1 = if fNaN (fType .f32) acc then 0x7FC00000 else Fmt.f32.add acc x := by
  have nan (c : Nat) : Fmt.f32.isNan c = fNaN (fType .f32) c := Fmt.isNan_eq c rfl
  unfold accAdd
  simp only [nan, hx, Bool.or_false]
  split
  · rfl
  · next ha =>
    split
    · next hy => exact (adds_nan (fadd_result .f32 acc x).1 (by simpa using ha) hx hy).symm
    · rfl

/-- Each turn of the loop of R246. -/
theorem accumulates_accAdd (ek : EKind) (r : Residency) (a : ActRow) (bl n b acc : Nat) :
    Accumulates ek (r.column n) (r.scale n b) (fun k => a.ints.getD k 0) (a.wins.getD b 0) (a.exps.getD b 127) (b * bl) bl acc
      (accAdd acc (blockSum ek r a bl n b)).1 := by
  have units := blockUnits_mul ek (r.column n) (r.scale n b) (fun k => a.ints.getD k 0) (blockKs bl b)
  rw [blockSum_eq]
  unfold Accumulates
  dsimp only
  rw [← blockKs, ← weightExp, ← sumless, ← units]
  generalize blockUnits ek (r.column n) (r.scale n b) (fun k => a.ints.getD k 0) (blockKs bl b) = d
  cases sumless ek (r.column n) (r.scale n b) (a.wins.getD b 0) (a.exps.getD b 127) (blockKs bl b) with
  | true => rfl
  | false =>
    rw [if_neg Bool.false_ne_true, Bool.false_or]
    have pos : (0 : ℚ) < 2 ^ unitExp ek := by positivity
    have sign : decide ((d : ℚ) * 2 ^ unitExp ek < 0) = decide (d < 0) := by
      rw [decide_eq_decide, ← zero_mul ((2 : ℚ) ^ unitExp ek), mul_lt_mul_iff_left₀ pos, Int.cast_lt_zero]
    have size (e : Int) : |(d : ℚ) * 2 ^ unitExp ek| * 2 ^ e = (d.natAbs : ℚ) * 2 ^ (unitExp ek + e) := by
      rw [abs_mul, abs_of_pos pos, zpow_add₀ two_ne_zero, ← mul_assoc, Nat.cast_natAbs, Int.cast_abs]
    have rounds (e : Int) : Rounds (fType .f32) .rn false (decide (d < 0)) (d.natAbs * 2 ^ e) 0
        (Fmt.f32.roundD .rn false (decide (d < 0)) d.natAbs e 0) := Fmt.rounds_roundD (fType_std .f32) (d := 0) d.natAbs e
    rw [accAdd_some (rounds_not_nan (rounds _)), sign, size, ← add_assoc, ← add_assoc]
    split
    · rfl
    · exact ⟨_, rounds _, (fadd_result .f32 _ _).1⟩

theorem accAdd_lt (acc : Nat) (x : Option Nat) : (accAdd acc x).1 < 2 ^ 32 := by
  unfold accAdd
  dsimp only
  split
  · decide
  · split
    · decide
    · split
      · decide
      · exact (fadd_result .f32 acc _).2

/-- The accumulator of a column after its first b blocks. -/
def accAfter (ek : EKind) (r : Residency) (a : ActRow) (bl n acc b : Nat) : Nat :=
  (List.range b).foldl (fun t b => (accAdd t (blockSum ek r a bl n b)).1) acc

section Column

variable (ek : EKind) (r : Residency) (a : ActRow) (bl n : Nat) {acc : Nat}

theorem accAfter_succ (b : Nat) :
    accAfter ek r a bl n acc (b + 1) = (accAdd (accAfter ek r a bl n acc b) (blockSum ek r a bl n b)).1 := by
  rw [accAfter, List.range_succ, List.foldl_append]
  rfl

theorem accAfter_lt (h : acc < 2 ^ 32) (b : Nat) : accAfter ek r a bl n acc b < 2 ^ 32 := by
  cases b with
  | zero => exact h
  | succ b =>
    rw [accAfter_succ]
    exact accAdd_lt _ _

theorem accColumn_fst : (accColumn ek r a bl n acc).1 = accAfter ek r a bl n acc (256 / bl) := by
  have first (bs : List Nat) (t : Nat × Nat) : (bs.foldl (fun t b =>
      let q := accAdd t.1 (blockSum ek r a bl n b)
      (q.1, t.2 ||| q.2)) t).1 = bs.foldl (fun t b => (accAdd t (blockSum ek r a bl n b)).1) t.1 := by
    induction bs generalizing t with
    | nil => rfl
    | cons b bs ih => exact ih _
  exact first _ _

end Column

/-! ## What the array reads of an activation row (R276) -/

theorem foldl_add_eq_sum (f : Nat → Nat) (l : List Nat) (t : Nat) : l.foldl (fun n p => n + f p) t = t + (l.map f).sum := by
  induction l generalizing t with
  | nil => rfl
  | cons p l ih => rw [List.foldl_cons, ih, List.map_cons, List.sum_cons, Nat.add_assoc]

/-- The integer that the planes hold is that of R236. -/
theorem planeVal_eq {bs : List Byte} {P k : Nat} (hP : 0 < P) {bit : Nat → Nat → Bool}
    (h : ∀ p < P, bit p k = (bs.getD (32 * p + k / 8) 0).getLsbD (k % 8)) : planeVal bs P k = rowInt P bit k := by
  have bits : (List.range P).foldl (fun n p => n + ((bs.getD (32 * p + k / 8) 0).toNat / 2 ^ (k % 8) % 2) * 2 ^ p) 0 =
      ((List.range P).map (fun p => (bit p k).toNat * 2 ^ p)).sum := by
    rw [foldl_add_eq_sum, Nat.zero_add]
    refine congrArg List.sum (List.map_congr_left fun p hp => ?_)
    rw [h p (List.mem_range.mp hp), BitVec.getLsbD, Nat.toNat_testBit]
  have small := (testBit_foldl_bits (fun p => bit p k) P).1
  rw [foldl_add_eq_sum, Nat.zero_add] at small
  have chosen : (fun p => if bit p k then 2 ^ p else 0) = fun p => (bit p k).toNat * 2 ^ p := by
    funext p
    cases bit p k <;> simp
  unfold planeVal rowInt
  dsimp only
  rw [bits, chosen]
  generalize ((List.range P).map (fun p => (bit p k).toNat * 2 ^ p)).sum = u at small
  have half : 2 ^ P = 2 * 2 ^ (P - 1) := by rw [← Nat.pow_succ', Nat.succ_eq_add_one, Nat.sub_add_cancel hP]
  rw [BitVec.toInt_eq_toNat_cond, BitVec.toNat_ofNat, Nat.mod_eq_of_lt small, half]
  split <;> split <;> omega

theorem sbyte_toNat (b : Byte) : sbyte b.toNat = b.toInt := by
  rw [sbyte, BitVec.toInt_eq_toNat_cond]
  have := b.isLt
  split <;> split <;> omega

theorem planesOf_pos (ek : EKind) : 0 < planesOf ek := by
  cases ek with
  | blk k => cases k <;> decide
  | b16 | f16 | f32 => decide

end Sys2Proof.Machine

/-!
Array commands (O30), second part: the passes of a multiply (R276, R278).
-/

namespace Sys2Proof.Machine

open Sys2Proof.Claims

/-! ## One accumulator of a row and a column -/

/-- A turn of the loop reads the integers of its own indices alone. -/
theorem accumulates_congr_row {ek : EKind} {codes : Nat → Nat} {q : Nat} {row row' : Nat → ℤ} {window : ℤ} {ea k0 n acc acc' : Nat}
    (h : Accumulates ek codes q row window ea k0 n acc acc') (same : ∀ i < n, row (k0 + i) = row' (k0 + i)) :
    Accumulates ek codes q row' window ea k0 n acc acc' := by
  have terms : ((List.range n).map (fun i => k0 + i)).map (fun k => (eVal ek q (codes k)).getD 0 * (row k : ℚ)) =
      ((List.range n).map (fun i => k0 + i)).map (fun k => (eVal ek q (codes k)).getD 0 * (row' k : ℚ)) := by
    rw [List.map_map, List.map_map]
    refine List.map_congr_left fun i hi => ?_
    simp only [Function.comp_apply, same i (List.mem_range.mp hi)]
  unfold Accumulates at h ⊢
  dsimp only at h ⊢
  rwa [terms] at h

/-- What decides the words of a multiply's passes, as the statement has it. -/
structure MmaShape where
  core  : Nat
  bl    : Nat
  mp    : Nat
  asoff : Nat
  plane : Nat
  s0    : Nat
  a0    : Nat
  ek    : EKind

/-- The accumulator of a row and a column. -/
def MmaShape.cell (g : MmaShape) (i n : Nat) : Nat := slotAddr (g.core + n / 256) (0x200000 + 1024 * (g.a0 + i) + 4 * (n % 256))
/-- Bit k of a plane of an activation row. -/
def MmaShape.bit (g : MmaShape) (s : State) (r p k : Nat) : Bool :=
  (s.byte (g.plane + 32 * (r * planesOf g.ek + p) + k / 8)).getLsbD (k % 8)
/-- The activation row that a row of the command reads. -/
def MmaShape.row (g : MmaShape) (s : State) (i : Nat) : ActRow :=
  s.actRow g.plane (slotAddr g.core (scaleOffset + 16 * g.asoff)) (planesOf g.ek) g.bl g.mp (g.s0 + i) g.ek.block
/-- The sum of a row and a column of a residency, as R246 has it. -/
def MmaShape.Gives (g : MmaShape) (s : State) (w : Residency) (i n x : Nat) : Prop :=
  ∃ acc : Nat → Nat, acc 0 = s.readN (g.cell i n) 4 ∧ acc (256 / g.bl) = x ∧ ∀ b < 256 / g.bl,
    Accumulates ((mfmt w.fmt).getD .b16) (fun k => Tab.get 0 w.codes (n * 256 + k)) (Tab.get 0 w.scales (n * 16 + b))
      (rowInt (planesOf g.ek) (g.bit s (g.s0 + i)))
      (s.byte (g.plane + 32 * g.mp * planesOf g.ek + (g.s0 + i) * (256 / g.bl) + b)).toInt
      (if g.ek.block then s.readN (slotAddr g.core (0x240000 + 16 * g.asoff + 2 * ((g.s0 + i) * (256 / g.bl) + b))) 2 / 256 else 127)
      (b * g.bl) g.bl (acc b) (acc (b + 1))

section Row

variable (g : MmaShape) (s : State) (i : Nat)

theorem MmaShape.ints_row {k : Nat} (hk : k < 256) : (g.row s i).ints.getD k 0 = rowInt (planesOf g.ek) (g.bit s (g.s0 + i)) k := by
  refine (getD_map_range _ hk).trans (planeVal_eq (planesOf_pos g.ek) fun p hp => ?_)
  have inside : 32 * p + k / 8 < 32 * planesOf g.ek := by omega
  rw [State.bytes, getD_map_range _ inside, MmaShape.bit]
  congr 2
  ring_nf

theorem MmaShape.wins_row {b : Nat} (hb : b < 256 / g.bl) :
    (g.row s i).wins.getD b 0 = (s.byte (g.plane + 32 * g.mp * planesOf g.ek + (g.s0 + i) * (256 / g.bl) + b)).toInt :=
  (getD_map_range _ hb).trans (sbyte_toNat _)

theorem MmaShape.exps_row {b : Nat} (hb : b < 256 / g.bl) : (g.row s i).exps.getD b 127 =
    if g.ek.block then s.readN (slotAddr g.core (0x240000 + 16 * g.asoff + 2 * ((g.s0 + i) * (256 / g.bl) + b))) 2 / 256 else 127 := by
  refine (getD_map_range _ hb).trans ?_
  have place (d : Nat) : slotAddr g.core (scaleOffset + 16 * g.asoff) + d = slotAddr g.core (0x240000 + 16 * g.asoff + d) := Nat.add_assoc _ _ d
  rw [place]

/-- The word that a row and a column get. -/
def MmaShape.sum (w : Residency) (n : Nat) : Nat := (accColumn ((mfmt w.fmt).getD .b16) w (g.row s i) g.bl n (s.readN (g.cell i n) 4)).1

theorem MmaShape.gives_sum (w : Residency) (n : Nat) : g.Gives s w i n (g.sum s i w n) := by
  refine ⟨accAfter ((mfmt w.fmt).getD .b16) w (g.row s i) g.bl n (s.readN (g.cell i n) 4), rfl, (accColumn_fst _ _ _ _ _).symm, fun b hb => ?_⟩
  have turn := accumulates_accAdd ((mfmt w.fmt).getD .b16) w (g.row s i) g.bl n b
    (accAfter ((mfmt w.fmt).getD .b16) w (g.row s i) g.bl n (s.readN (g.cell i n) 4) b)
  rw [g.wins_row s i hb, g.exps_row s i hb, ← accAfter_succ] at turn
  refine accumulates_congr_row turn fun j hj => g.ints_row s i ?_
  calc b * g.bl + j < (b + 1) * g.bl := by rw [Nat.add_mul, Nat.one_mul]; omega
    _ ≤ 256 / g.bl * g.bl := Nat.mul_le_mul_right _ hb
    _ ≤ 256 := Nat.div_mul_le_self _ _

theorem MmaShape.sum_lt (w : Residency) (n : Nat) : g.sum s i w n < 2 ^ 32 := by
  rw [MmaShape.sum, accColumn_fst]
  refine accAfter_lt _ _ _ _ _ ?_ _
  exact (leNat_lt _).trans_le (by rw [State.bytes, List.length_map, List.length_range]; decide)

end Row

/-! ## All rows and columns (R278) -/

theorem foldl_append_fst {α β : Type} {f : List β × Nat → α → List β × Nat} {h : α → List β} (hf : ∀ t x, (f t x).1 = t.1 ++ h x)
    (l : List α) (t : List β × Nat) : (l.foldl f t).1 = t.1 ++ l.flatMap h := by
  induction l generalizing t with
  | nil => exact (List.append_nil _).symm
  | cons x l ih => rw [List.foldl_cons, ih, hf, List.flatMap_cons, List.append_assoc]

/-- The accumulator words of a row. -/
def MmaShape.words (g : MmaShape) (s : State) (x : Nat × Nat) : List (Nat × Nat × Word) :=
  let w := Tab.get Residency.init (s.core g.core).res x.1
  (List.range w.cols).map (fun n => (g.core + n / 256, g.cell x.2 n, BitVec.ofNat 32 (g.sum s x.2 w n)))

theorem MmaShape.passes_fst (g : MmaShape) (s : State) (gs : List (Nat × Nat)) :
    (s.passes g.core g.plane g.ek g.bl g.mp g.asoff g.s0 g.a0 gs).1 =
      ((rowGroups gs).zip (List.range (rowGroups gs).length)).flatMap (g.words s) := by
  unfold State.passes
  dsimp only
  refine (foldl_append_fst (h := g.words s) (fun t x => ?_) _ _).trans (List.nil_append _)
  refine (foldl_append_fst (h := fun n => [(g.core + n / 256, g.cell x.2 n,
    BitVec.ofNat 32 (g.sum s x.2 (Tab.get Residency.init (s.core g.core).res x.1) n))]) (fun _ _ => rfl) _ _).trans ?_
  rw [← List.map_eq_flatMap]
  rfl

theorem mem_zip_range {α : Type} {l : List α} (d : α) {x : α × Nat} :
    x ∈ l.zip (List.range l.length) ↔ x.2 < l.length ∧ x.1 = l.getD x.2 d := by
  obtain ⟨a, i⟩ := x
  rw [List.mem_iff_getElem]
  simp only [List.getElem_zip, List.getElem_range, Prod.mk.injEq, List.length_zip, List.length_range, Nat.min_self]
  constructor
  · rintro ⟨j, hj, rfl, rfl⟩
    exact ⟨hj, (List.getD_eq_getElem _ _ hj).symm⟩
  · rintro ⟨hi, rfl⟩
    exact ⟨i, hi, (List.getD_eq_getElem _ _ hi).symm, rfl⟩

theorem MmaShape.mem_passes (g : MmaShape) (s : State) (gs : List (Nat × Nat)) (x : Nat × Nat × Word) :
    x ∈ (s.passes g.core g.plane g.ek g.bl g.mp g.asoff g.s0 g.a0 gs).1 ↔
      ∃ i < (rowGroups gs).length, ∃ n < (Tab.get Residency.init (s.core g.core).res ((rowGroups gs).getD i 0)).cols,
        x = (g.core + n / 256, g.cell i n, BitVec.ofNat 32 (g.sum s i (Tab.get Residency.init (s.core g.core).res ((rowGroups gs).getD i 0)) n)) := by
  rw [MmaShape.passes_fst, List.mem_flatMap]
  constructor
  · rintro ⟨⟨idx, i⟩, hx, hmem⟩
    obtain ⟨hi, hidx⟩ := (mem_zip_range 0).mp hx
    dsimp only at hi hidx
    subst hidx
    obtain ⟨n, hn, rfl⟩ := List.mem_map.mp hmem
    exact ⟨i, hi, n, List.mem_range.mp hn, rfl⟩
  · rintro ⟨i, hi, n, hn, rfl⟩
    exact ⟨(_, i), (mem_zip_range 0).mpr ⟨hi, rfl⟩, List.mem_map.mpr ⟨n, List.mem_range.mpr hn, rfl⟩⟩

end Sys2Proof.Machine

/-!
Array commands (O30), third part: the reads of a source where no core and no cluster holds a store that memory lacks (R307, R338, R345).
-/

namespace Sys2Proof.Machine

open Sys2Proof.Claims

/-- No core and no cluster holds a store that memory lacks. -/
def Calm (s : State) : Prop := ∀ core, Settled core s

theorem calm_of_allQuiet {s : State} (h : AllQuiet s) : Calm s := by
  obtain ⟨cores, clusters⟩ := h
  have core (n : Nat) : (∀ e ∈ (s.core n).l1, e.2.own = 0) ∧ (s.core n).wc = [] := by
    rcases Tab.get_eq_or_mem (d := Core.init) s.cores n with hd | hm
    · rw [State.core, hd]
      exact ⟨fun _ he => (nomatch he), rfl⟩
    · exact cores _ hm
  refine fun n => ⟨(core n).1, ?_, (core n).2⟩
  rcases Tab.get_eq_or_mem (d := Cluster.init) s.clusters (clusterOf n) with hd | hm
  · rw [State.cluster, hd]
    exact fun _ he => nomatch he
  · exact clusters _ hm

theorem Calm.cluster {s : State} (h : Calm s) (cl : Nat) : ∀ e ∈ (s.cluster cl).cc, e.2.data = [] := by
  have own : clusterOf (16 * cl) = cl := Nat.mul_div_cancel_left cl (by decide)
  exact own ▸ (h (16 * cl)).cc

/-- From s to t a read has gone through caches that were calm: memory, descriptors and array queues are as they were, and the caches are calm
still. -/
structure Reads (s t : State) : Prop where
  mem : t.mem = s.mem
  res : ∀ n, (t.core n).res = (s.core n).res
  mq : ∀ n, (t.core n).mq = (s.core n).mq
  calm : Calm t

section Moves

variable {s : State} (h : Calm s)
include h

theorem Reads.refl : Reads s s := ⟨rfl, fun _ => rfl, fun _ => rfl, h⟩

omit h in
theorem Reads.trans {s t u : State} (h : Reads s t) (k : Reads t u) : Reads s u :=
  ⟨k.mem.trans h.mem, fun n => (k.res n).trans (h.res n), fun n => (k.mq n).trans (h.mq n), k.calm⟩

theorem Reads.foldl {α : Type} {f : State → α → State} (hf : ∀ s x, Calm s → Reads s (f s x)) (l : List α) : Reads s (l.foldl f s) := by
  induction l generalizing s with
  | nil => exact .refl h
  | cons x l ih => exact (hf s x h).trans (ih (hf s x h).calm)

theorem reads_modCore (n : Nat) (f : Core → Core) (hl : ∀ c : Core, (∀ e ∈ c.l1, e.2.own = 0) → ∀ e ∈ (f c).l1, e.2.own = 0)
    (hk : ∀ c : Core, (f c).res = c.res ∧ (f c).mq = c.mq ∧ (f c).wc = c.wc) : Reads s (s.modCore n f) := by
  have kept (m : Nat) : ((s.modCore n f).core m).res = (s.core m).res ∧ ((s.modCore n f).core m).mq = (s.core m).mq ∧
      ((s.modCore n f).core m).wc = (s.core m).wc := by
    rw [State.core_modCore]
    split
    · next hm => exact hm ▸ hk _
    · exact ⟨rfl, rfl, rfl⟩
  refine ⟨rfl, fun m => (kept m).1, fun m => (kept m).2.1, fun m => ⟨?_, (h m).cc, (kept m).2.2.trans (h m).wc⟩⟩
  rw [State.core_modCore]
  split
  · next hm => exact hl _ (hm ▸ (h m).l1)
  · exact (h m).l1

theorem reads_modCluster (n : Nat) (f : Cluster → Cluster) (hd : ∀ q : Cluster, (∀ e ∈ q.cc, e.2.data = []) → ∀ e ∈ (f q).cc, e.2.data = []) :
    Reads s (s.modCluster n f) := by
  refine ⟨rfl, fun _ => rfl, fun _ => rfl, fun m => ⟨(h m).l1, ?_, (h m).wc⟩⟩
  rw [State.cluster_modCluster]
  split
  · next hm => exact hd _ (hm ▸ (h m).cc)
  · exact (h m).cc

/-! ## The cluster's cache (R307, R308) -/

theorem reads_ccRoom (cl line site : Nat) : Reads s (s.ccRoom cl line site) := by
  unfold State.ccRoom
  dsimp only
  split
  · exact .refl h
  · split
    · rw [State.ccEvict, s.ownLine_of_empty (h.cluster cl)]
      exact reads_modCluster h _ _ fun _ hq e he => hq e (Tab.mem_of_mem_erase he)
    · exact .refl h

theorem reads_ccShare (cl line : Nat) : Reads s (s.ccShare cl line) := by
  refine ⟨rfl, fun _ => rfl, fun _ => rfl, fun m => ⟨(h m).l1, ?_, (h m).wc⟩⟩
  refine Tab.get_map_rel (d := Cluster.init) (R := fun a b : Cluster => (∀ e ∈ a.cc, e.2.data = []) → ∀ e ∈ b.cc, e.2.data = []) id
    (g := fun e => if e.1 = cl then e
      else (e.1, { e.2 with cc := e.2.cc.map (fun l => if l.1 = line then (l.1, { l.2 with owned := false, dirty := 0 }) else l) }))
    (fun e => by split <;> rfl) (fun e hq => ?_) s.clusters (clusterOf m) (h m).cc
  split
  · exact hq
  · intro x hx
    obtain ⟨y, hy, rfl⟩ := List.mem_map.mp hx
    have empty := hq y hy
    split <;> exact empty

theorem reads_modCc (cl line : Nat) (f : CcLine → CcLine) (hf : ∀ e, (f e).data = e.data) : Reads s (s.modCc cl line f) :=
  reads_modCluster h cl _ fun q hq e he => by
    rcases Tab.mem_of_mem_put he with rfl | he
    · refine (hf _).trans ?_
      rcases Tab.get_eq_or_mem (d := CcLine.init) q.cc line with hd | hm
      · rw [hd]; rfl
      · exact hq _ hm
    · exact hq e he

theorem reads_ccFill (cl line : Nat) (sectors : BitVec 4) (low : Bool) : Reads s (s.ccFill cl line sectors low) := by
  have room := reads_ccRoom h cl line 7301
  have shared := room.trans (reads_ccShare room.calm cl line)
  exact shared.trans (reads_modCc shared.calm cl line _ fun _ => rfl)

theorem reads_fillRuns (cl : Nat) (runs : List (Nat × Nat)) : Reads s (s.fillRuns cl runs) :=
  .foldl h (fun _ _ ht => .foldl ht (fun _ _ hu => reads_ccFill hu _ _ _ _) _) _

/-! ## Releases and acquires (R336, R337) -/

theorem State.flushCluster_of_calm (cl : Nat) : s.flushCluster cl = s := by
  unfold State.flushCluster
  induction (s.cluster cl).cc.map Prod.fst with
  | nil => rfl
  | cons line lines ih => rw [List.foldl_cons, s.ownLine_of_empty (h.cluster cl), ih]

theorem reads_mapL1 (n : Nat) (g : Nat × L1Line → Nat × L1Line) (hg : ∀ e, e.2.own = 0 → (g e).2.own = 0) :
    Reads s (s.modCore n (fun k => { k with l1 := k.l1.map g })) :=
  reads_modCore h n _ (fun _ hl e he => by
    obtain ⟨x, hx, rfl⟩ := List.mem_map.mp he
    exact hg x (hl x hx)) fun _ => ⟨rfl, rfl, rfl⟩

theorem reads_tagLines (core : Nat) (lines : List Nat) (r : Nat) : Reads s (s.tagLines core lines r) :=
  reads_mapL1 h core _ fun e he => by split <;> exact he

theorem reads_release (c : Cohort) (sc : Scope) : Reads s (s.release c sc) := by
  unfold State.release
  dsimp only
  rw [State.drainWc, s.drainThose_of_empty _ (h c.core).wc, s.writeBack_of_clean _ (h c.core).l1, State.flushCluster_of_calm h, ite_self]
  split
  · exact .refl h
  · exact reads_tagLines h _ _ _

theorem reads_ticket : Reads s s.ticket := ⟨rfl, fun _ => rfl, fun _ => rfl, fun n => (h n).ticket⟩

theorem reads_acquire (c : Cohort) (sc : Scope) : Reads s (s.acquire c sc) := by
  unfold State.acquire
  refine reads_modCore h c.core _ (fun k hl e he => ?_) fun _ => ⟨rfl, rfl, rfl⟩
  obtain ⟨x, hx, he⟩ := List.mem_filterMap.mp he
  have clean := hl x hx
  split at he
  · split at he
    · cases he
    · cases he; exact clean
  · cases he; exact clean

theorem reads_readSrc (core co : Nat) (m : MtxSrc) : Reads s (s.readSrc core co m) := by
  have fills {t : State} (k : Reads s t) : Reads s (t.fillRuns (clusterOf core) m.near) := k.trans (reads_fillRuns k.calm _ _)
  unfold State.readSrc
  dsimp only
  refine fills ?_
  split
  · split
    · next c hc =>
      have released := reads_release h c .pkg
      have numbered := released.trans (reads_ticket released.calm)
      exact numbered.trans (reads_acquire numbered.calm c .pkg)
    · exact reads_ticket h
  · exact .refl h

end Moves

end Sys2Proof.Machine

/-!
Array commands (O30), fourth part: a command starts (R240, R275, R278), and retires (R241, R253).
-/

namespace Sys2Proof.Machine

open Sys2Proof.Claims

section Start

variable {s t : State} {core : Nat} {m : MtxCmd} {rest : List MtxCmd} (hq : (s.core core).mq = m :: rest)
include hq

theorem exec_matrixCommandStart_of_blocked (h : s.canStart core m = false) : exec (.matrixCommandStart core) s = .next s := by
  rw [exec_matrixCommandStart]
  unfold execMatrixCommandStart
  simp only [hq, h, Bool.not_false, if_true]

theorem exec_matrixCommandStart_of_ready (h : s.canStart core m = true) (hs : s.startMtx core m = (t, none)) :
    exec (.matrixCommandStart core) s = .next t := by
  rw [exec_matrixCommandStart]
  unfold execMatrixCommandStart
  simp only [hq, h, Bool.not_true, Bool.false_eq_true, if_false, hs]

theorem exec_matrixCommandRetire_of_idle (h : m.started = false) : exec (.matrixCommandRetire core) s = .next s := by
  rw [exec_matrixCommandRetire]
  unfold execMatrixCommandRetire
  simp only [hq, h, Bool.not_false, if_true]

/-- The queue when its head has changed. -/
theorem State.mq_setHead (m' : MtxCmd) : ((s.setHead core m').core core).mq = m' :: rest := by
  rw [State.setHead, State.core_modCore, if_pos rfl, hq]
  rfl

end Start

theorem State.resAt_setHead (s : State) (core : Nat) (m : MtxCmd) (i : Nat) : (s.setHead core m).resAt core i = s.resAt core i := by
  rw [State.resAt, State.setHead, State.core_modCore, if_pos rfl]

/-! ## A load starts (R275) -/

/-- The value that a table lists under a key, or its default where it lists none. -/
theorem Tab.get_eq_of_listed {α : Type} {d v : α} {t : Tab α} {n : Nat} (h : ∀ w, (n, w) ∈ t → w = v) (hv : (n, v) ∈ t ∨ v = d) :
    Tab.get d t n = v := by
  induction t with
  | nil => exact (hv.resolve_left List.not_mem_nil).symm
  | cons e t ih =>
    obtain ⟨k, w⟩ := e
    by_cases hk : k = n
    · rw [Tab.get, if_pos hk]
      exact h w (hk ▸ List.mem_cons_self)
    · rw [Tab.get, if_neg hk]
      refine ih (fun w hw => h w (List.mem_cons_of_mem _ hw)) (hv.imp_left fun hm => ?_)
      exact (List.mem_cons.mp hm).resolve_left fun heq => hk (congrArg Prod.fst heq).symm

theorem State.get_loadCodes (s : State) (ek : EKind) (v : FView) (n0 k0 : Nat) (src : MtxSrc) {n k : Nat} (hn : n < src.cols.length)
    (hk : k < 256) : Tab.get 0 (s.loadCodes ek v n0 k0 src) (n * 256 + k) =
      codeIn ek (s.runBytes (src.cols.getD n [])) (tileJ v n0 k0 n) (tileJ v n0 k0 n + k) := by
  refine Tab.get_eq_of_listed (fun w hw => ?_) ?_
  · obtain ⟨x, hx, hw⟩ := List.mem_flatMap.mp hw
    obtain ⟨j, hj, hw⟩ := List.mem_filterMap.mp hw
    dsimp only at hw
    split at hw
    · cases hw
    · simp only [Option.some.injEq, Prod.mk.injEq] at hw
      obtain ⟨key, rfl⟩ := hw
      have hj := List.mem_range.mp hj
      obtain ⟨rfl, rfl⟩ : x.2 = n ∧ j = k := by omega
      rw [((mem_zip_range []).mp hx).2]
  · by_cases zero : codeIn ek (s.runBytes (src.cols.getD n [])) (tileJ v n0 k0 n) (tileJ v n0 k0 n + k) = 0
    · exact .inr zero
    · refine .inl (List.mem_flatMap.mpr ⟨(src.cols.getD n [], n), (mem_zip_range []).mpr ⟨hn, rfl⟩,
        List.mem_filterMap.mpr ⟨k, List.mem_range.mpr hk, ?_⟩⟩)
      exact if_neg zero

theorem State.get_sramScales (s : State) (core soff bl cols : Nat) {n b : Nat} (hn : n < cols) (hbl : 16 ≤ bl) (hb : b < 256 / bl) :
    Tab.get 0 (s.sramScales core soff bl cols) (n * 16 + b) =
      s.readN (slotAddr (core + n / 256) (0x240000 + 16 * soff + 2 * (n % 256 * (256 / bl) + b))) 2 := by
  have few : 256 / bl ≤ 16 := Nat.div_le_of_le_mul (by omega)
  refine Tab.get_eq_of_listed (fun w hw => ?_) (.inl ?_)
  · obtain ⟨i, hi, hw⟩ := List.mem_flatMap.mp hw
    obtain ⟨j, hj, hw⟩ := List.mem_map.mp hw
    have hj := List.mem_range.mp hj
    simp only [Prod.mk.injEq] at hw
    obtain ⟨key, rfl⟩ := hw
    obtain ⟨rfl, rfl⟩ : i = n ∧ j = b := by omega
    rfl
  · exact List.mem_flatMap.mpr ⟨n, List.mem_range.mpr hn, List.mem_map.mpr ⟨b, List.mem_range.mpr hb, rfl⟩⟩

/-- What a load names besides its descriptor (R268, R275). -/
structure LoadShape where
  ebase  : Nat
  sbase  : Nat
  spitch : Nat
  rowlen : Nat
  n0     : Nat
  k0     : Nat
  soff   : Nat
  bl     : Nat

def LoadShape.view (g : LoadShape) : FView := { ebase := g.ebase, sbase := g.sbase, rowlen := g.rowlen, spitch := g.spitch, rsv := 0 }

/-- The descriptor of a load that has started. -/
def LoadShape.begun (g : LoadShape) (s : State) (core : Nat) (src : MtxSrc) (r : Residency) : Residency :=
  let ek := (mfmt r.fmt).getD .b16
  { r with
    state := .loading, ebase := g.ebase, sbase := g.sbase, spitch := g.spitch, rowlen := g.rowlen, n0 := g.n0, k0 := g.k0, bl := g.bl
    gload := r.gsrc, lines := src.lines, gains := [], codes := s.loadCodes ek g.view g.n0 g.k0 src
    scales := if ek.block then s.sramScales core g.soff g.bl r.cols else [] }

/-- The source of a load. -/
def MtxCmd.source (m : MtxCmd) (idx : Nat) : MtxSrc := m.srcs.headD { idx := idx, near := [], so := false, cols := [], recs := [] }

theorem State.startMtx_of_load {s : State} {core idx : Nat} {m : MtxCmd} {g : LoadShape} (hp : m.poison = none) (hh : m.hold = false)
    (hk : m.kind = .resl idx g.ebase g.sbase g.spitch g.rowlen g.n0 g.k0 g.soff g.bl) :
    let u := s.readSrc core m.co (m.source idx)
    ∃ m', m'.started = true ∧ m'.kind = m.kind ∧
      s.startMtx core m = ((u.modRes core idx (fun _ => g.begun u core (m.source idx) (u.resAt core idx))).setHead core m', none) := by
  intro u
  unfold State.startMtx
  simp only [hp, hk, Option.isSome_none, Bool.false_eq_true, if_false, State.unhold, hh]
  exact ⟨_, rfl, rfl, rfl⟩

theorem State.runBytes_of_mem {s t : State} (h : t.mem = s.mem) (rs : List (Nat × Nat × Nat)) : t.runBytes rs = s.runBytes rs := by
  simp only [State.runBytes, State.bytes_of_mem h]

/-- What a load leaves that has started: its descriptor, and the head of its queue. -/
theorem loadStarts {s : State} {core idx : Nat} {m : MtxCmd} {rest : List MtxCmd} {g : LoadShape} (hq : (s.core core).mq = m :: rest)
    (ready : s.canStart core m = true) (hp : m.poison = none) (hh : m.hold = false)
    (hk : m.kind = .resl idx g.ebase g.sbase g.spitch g.rowlen g.n0 g.k0 g.soff g.bl) (quiet : AllQuiet s) :
    ∃ u, Reads s u ∧ Reaches s (.matrixCommandStart core) (fun t => t.mem = s.mem ∧
      t.resAt core idx = g.begun u core (m.source idx) (s.resAt core idx) ∧
      ∃ m', (t.core core).mq = m' :: rest ∧ m'.started = true ∧ m'.kind = m.kind) := by
  have reads := reads_readSrc (calm_of_allQuiet quiet) core m.co (m.source idx)
  obtain ⟨m', started, kind, start⟩ := s.startMtx_of_load (core := core) hp hh hk
  refine ⟨_, reads, _, exec_matrixCommandStart_of_ready hq ready start, reads.mem, ?_, m', State.mq_setHead (m := m) ?_ m', started, kind⟩
  · rw [State.resAt_setHead, State.resAt_modRes_self, State.resAt, reads.res]
  · rw [State.modRes, State.core_modCore, if_pos rfl]
    exact (reads.mq core).trans hq

/-! ## A multiply starts (R278) -/

/-- A residency that is as its source has it needs no test (R256). -/
theorem State.testLoad_of_fresh {s : State} {core co idx : Nat} {srcs : List MtxSrc} (state : (s.resAt core idx).state ≠ .evicted)
    (gen : (s.resAt core idx).gsrc = (s.resAt core idx).gload) : s.testLoad core co idx srcs = (s, false, none) := by
  unfold State.testLoad
  dsimp only
  rw [if_neg state, if_pos (by simp [gen])]

theorem State.testAll_of_fresh {s : State} {core co : Nat} {srcs : List MtxSrc} {l : List (Nat × Nat × Nat)}
    (h : ∀ x ∈ l, x.2.2 ≠ 0 → (s.resAt core x.2.1).state ≠ .evicted ∧ (s.resAt core x.2.1).gsrc = (s.resAt core x.2.1).gload) :
    State.testAll core co srcs l s = (s, none, none) := by
  induction l with
  | nil => rfl
  | cons x l ih =>
    obtain ⟨i, idx, n⟩ := x
    have later := ih fun y hy => h y (List.mem_cons_of_mem _ hy)
    by_cases hn : n = 0
    · rw [State.testAll, if_pos hn]
      exact later
    · obtain ⟨state, gen⟩ := h _ List.mem_cons_self hn
      rw [State.testAll, if_neg hn, State.testLoad_of_fresh state gen]
      exact later

theorem State.startMtx_of_fresh {s : State} {core fmt : Nat} {m : MtxCmd} {g : MmaShape} {gs : List (Nat × Nat)} (hcore : g.core = core)
    (hp : m.poison = none) (hh : m.hold = false) (hk : m.kind = .mma fmt g.bl g.mp g.asoff g.plane g.s0 g.a0 gs) (he : mfmt fmt = some g.ek)
    (fresh : ∀ x ∈ gs, x.2 ≠ 0 → (s.resAt core x.1).state ≠ .evicted ∧ (s.resAt core x.1).gsrc = (s.resAt core x.1).gload) :
    ∃ m', m'.started = true ∧ m'.accs = (s.passes g.core g.plane g.ek g.bl g.mp g.asoff g.s0 g.a0 gs).1 ∧
      s.startMtx core m = (s.setHead core m', none) := by
  have tested : State.testAll core m.co m.srcs ((List.range gs.length).zip gs) s = (s, none, none) :=
    State.testAll_of_fresh fun x hx hn => fresh x.2 (List.of_mem_zip hx).2 hn
  subst hcore
  unfold State.startMtx
  simp only [hp, hk, Option.isSome_none, Bool.false_eq_true, if_false, tested, he, Option.getD_some, State.unhold, hh]
  exact ⟨_, rfl, rfl, rfl⟩

/-- What a multiply leaves that has started: a word for each row and each column, which is their sum. -/
theorem multiplyStarts {s : State} {core fmt : Nat} {m : MtxCmd} {rest : List MtxCmd} {g : MmaShape} {gs : List (Nat × Nat)}
    (hcore : g.core = core) (hq : (s.core core).mq = m :: rest) (ready : s.canStart core m = true) (hp : m.poison = none) (hh : m.hold = false)
    (hk : m.kind = .mma fmt g.bl g.mp g.asoff g.plane g.s0 g.a0 gs) (he : mfmt fmt = some g.ek)
    (fresh : ∀ x ∈ gs, x.2 ≠ 0 → (s.resAt core x.1).state ≠ .evicted ∧ (s.resAt core x.1).gsrc = (s.resAt core x.1).gload) :
    let w (i : Nat) := s.resAt core ((rowGroups gs).getD i 0)
    Reaches s (.matrixCommandStart core) (fun t => t.mem = s.mem ∧ ∃ m', (t.core core).mq = m' :: rest ∧ m'.started = true ∧
      (∀ i < (rowGroups gs).length, ∀ n < (w i).cols, ∃ x ∈ m'.accs, x.2.1 = g.cell i n ∧ g.Gives s (w i) i n x.2.2.toNat) ∧
      (∀ x ∈ m'.accs, ∃ i < (rowGroups gs).length, ∃ n < (w i).cols, x.2.1 = g.cell i n ∧ g.Gives s (w i) i n x.2.2.toNat)) := by
  intro w
  obtain ⟨m', started, accs, start⟩ := State.startMtx_of_fresh hcore hp hh hk he fresh
  have word (i n : Nat) : g.Gives s (w i) i n (BitVec.ofNat 32 (g.sum s i (w i) n)).toNat := by
    rw [BitVec.toNat_ofNat, Nat.mod_eq_of_lt (g.sum_lt s i (w i) n)]
    exact g.gives_sum s i (w i) n
  have words := g.mem_passes s gs
  rw [← accs, hcore] at words
  refine ⟨_, exec_matrixCommandStart_of_ready hq ready start, rfl, m', State.mq_setHead hq m', started, fun i hi n hn => ?_, fun x hx => ?_⟩
  · exact ⟨_, (words _).mpr ⟨i, hi, n, hn, rfl⟩, rfl, word i n⟩
  · obtain ⟨i, hi, n, hn, rfl⟩ := (words x).mp hx
    exact ⟨i, hi, n, hn, rfl, word i n⟩

/-! ## A command retires (R241, R253, R272) -/

/-- A started command leaves its queue, and its scoreboard entries go. -/
def State.unqueue (s : State) (core : Nat) (m : MtxCmd) : State := (s.freeSb m.id).modCore core (fun k => { k with mq := k.mq.drop 1 })

/-- The residencies that a command has loaded are valid, or stale when their source was written meanwhile. -/
def State.loadedBy (s : State) (core : Nat) (m : MtxCmd) : State :=
  match m.kind with
  | .resl idx _ _ _ _ _ _ _ _ => s.modRes core idx Residency.loaded
  | .mma _ _ _ _ _ _ _ gs => gs.foldl (fun (s : State) (g : Nat × Nat) => if g.2 = 0 then s else s.modRes core g.1 Residency.loaded) s

/-- The cells of a command's accumulators. -/
def MtxCmd.cells (m : MtxCmd) : List (Nat × Byte) := m.accs.flatMap (fun x => cellsFrom x.2.1 (natLe 4 x.2.2.toNat))

/-- What a command leaves when it has retired. -/
def State.retired (s : State) (core : Nat) (m : MtxCmd) : State :=
  ((((((s.unqueue core m).loadedBy core m).write m.cells).orStatus core m.ctx (m.status % 8)).orStatus (core + 1) m.ctx
    (m.status / 16 % 8)).modCohort m.co (fun c => c.complete m.op []))

theorem exec_matrixCommandRetire_of_started {s : State} {core : Nat} {m : MtxCmd} {rest : List MtxCmd} (hq : (s.core core).mq = m :: rest)
    (started : m.started = true) (hp : m.poison = none) : exec (.matrixCommandRetire core) s = .next (s.retired core m) := by
  rw [exec_matrixCommandRetire]
  unfold execMatrixCommandRetire
  simp only [hq, started, Bool.not_true, Bool.false_eq_true, if_false, hp]
  rfl

section Retire

variable (s : State) (core : Nat) (m : MtxCmd)

theorem State.core_freeSb (cmd n : Nat) : ((s.freeSb cmd).core n).res = (s.core n).res ∧ ((s.freeSb cmd).core n).mq = (s.core n).mq :=
  Tab.get_map_rel (d := Core.init) (R := fun a b : Core => b.res = a.res ∧ b.mq = a.mq) ⟨rfl, rfl⟩
    (g := fun e : Nat × Core => (e.1, { e.2 with sb := e.2.sb.filter (fun b => b.cmd != cmd) })) (fun _ => rfl) (fun _ => ⟨rfl, rfl⟩) s.cores n

theorem State.core_unqueue : ((s.unqueue core m).core core).res = (s.core core).res ∧
    ((s.unqueue core m).core core).mq = (s.core core).mq.drop 1 := by
  obtain ⟨res, mq⟩ := s.core_freeSb m.id core
  rw [State.unqueue, State.core_modCore, if_pos rfl]
  exact ⟨res, congrArg (List.drop 1) mq⟩

/-- A residency is loaded at once; queues, memory and cohorts are as they were. -/
structure Settles (core : Nat) (s t : State) : Prop where
  mem : t.mem = s.mem
  co : t.co = s.co
  mq : (t.core core).mq = (s.core core).mq

theorem settles_modRes (idx : Nat) (f : Residency → Residency) : Settles core s (s.modRes core idx f) := by
  refine ⟨rfl, rfl, ?_⟩
  rw [State.modRes, State.core_modCore, if_pos rfl]

theorem settles_loadedBy : Settles core s (s.loadedBy core m) := by
  unfold State.loadedBy
  split
  · exact settles_modRes s core _ _
  · next gs _ =>
    refine List.foldlRecOn (motive := Settles core s) _ _ ⟨rfl, rfl, rfl⟩ fun q hq x _ => ?_
    split
    · exact hq
    · have step := settles_modRes q core x.1 Residency.loaded
      exact ⟨step.mem.trans hq.mem, step.co.trans hq.co, step.mq.trans hq.mq⟩

theorem State.mq_write (cells : List (Nat × Byte)) (n : Nat) : ((s.write cells).core n).mq = (s.core n).mq := by
  cases cells with
  | nil => rfl
  | cons x l => rw [State.core_write]; rfl

/-- Status bits change no descriptor, no queue and no byte. -/
theorem State.orStatus_keeps (c ctx bits : Nat) : (s.orStatus c ctx bits).mem = s.mem ∧ (s.orStatus c ctx bits).co = s.co ∧
    ∀ n, ((s.orStatus c ctx bits).core n).mq = (s.core n).mq ∧ ((s.orStatus c ctx bits).core n).res = (s.core n).res := by
  unfold State.orStatus
  split
  · refine ⟨rfl, rfl, fun n => ?_⟩
    rw [State.core_modCore]
    split
    · next h => exact h ▸ ⟨rfl, rfl⟩
    · exact ⟨rfl, rfl⟩
  · exact ⟨rfl, rfl, fun _ => ⟨rfl, rfl⟩⟩

theorem State.modCohort_keeps (id : Nat) (f : Cohort → Cohort) : (s.modCohort id f).mem = s.mem ∧ (s.modCohort id f).cores = s.cores := by
  unfold State.modCohort
  split <;> exact ⟨rfl, rfl⟩

theorem Cohort.op?_complete (c : Cohort) (op : Nat) (ws : List (Nat × Word)) : (c.complete op ws).op? op = none := by
  cases h : c.op? op with
  | none => rw [Cohort.complete, h]; exact h
  | some o => rw [c.complete_of_op h]; exact Cohort.op?_dropOp _ _

/-- Statuses and the end of its cohort's operation aside, a retirement leaves what the command has loaded and written. -/
theorem State.retired_keeps : let u := ((s.unqueue core m).loadedBy core m).write m.cells
    (s.retired core m).mem = u.mem ∧ ((s.retired core m).core core).mq = (u.core core).mq ∧
      ((s.retired core m).core core).res = (u.core core).res := by
  intro u
  obtain ⟨mem1, -, core1⟩ := u.orStatus_keeps core m.ctx (m.status % 8)
  obtain ⟨mem2, -, core2⟩ := (u.orStatus core m.ctx (m.status % 8)).orStatus_keeps (core + 1) m.ctx (m.status / 16 % 8)
  obtain ⟨mem3, cores⟩ := ((u.orStatus core m.ctx (m.status % 8)).orStatus (core + 1) m.ctx (m.status / 16 % 8)).modCohort_keeps m.co
    (fun c => c.complete m.op [])
  have last : (s.retired core m).core core = ((u.orStatus core m.ctx (m.status % 8)).orStatus (core + 1) m.ctx (m.status / 16 % 8)).core core :=
    congrArg (Tab.get Core.init · core) cores
  rw [last, (core2 core).1, (core2 core).2, (core1 core).1, (core1 core).2]
  exact ⟨(mem3.trans mem2).trans mem1, rfl, rfl⟩

theorem State.mq_retired {rest : List MtxCmd} (hq : (s.core core).mq = m :: rest) : ((s.retired core m).core core).mq = rest := by
  rw [(s.retired_keeps core m).2.1, State.mq_write, (settles_loadedBy _ core m).mq, (s.core_unqueue core m).2, hq]
  rfl

theorem State.op?_retired (h : m.co = s.co.id) : (s.retired core m).co.op? m.op = none := by
  have same : ((((s.unqueue core m).loadedBy core m).write m.cells).orStatus core m.ctx (m.status % 8)).co = s.co := by
    rw [(State.orStatus_keeps _ _ _ _).2.1, State.write_co, (settles_loadedBy _ core m).co]
    rfl
  have same' := (State.orStatus_keeps _ (core + 1) m.ctx (m.status / 16 % 8)).2.1.trans same
  rw [State.retired, State.modCohort, if_pos ((congrArg Cohort.id same').trans h.symm)]
  exact Cohort.op?_complete _ _ _

theorem State.byte_retired (a : Nat) : (s.retired core m).byte a = s.byteAfter m.cells a := by
  have before : ((s.unqueue core m).loadedBy core m).mem = s.mem := (settles_loadedBy _ core m).mem
  rw [State.byte, (s.retired_keeps core m).1, ← State.byte, State.byte_write_eq_byteAfter]
  simp only [State.byteAfter, State.byte, before]

/-- A command without accumulators leaves memory as it was. -/
theorem State.mem_retired_of_none (h : m.accs = []) : (s.retired core m).mem = s.mem := by
  rw [(s.retired_keeps core m).1, MtxCmd.cells, h]
  exact (settles_loadedBy _ core m).mem

/-- The descriptor of a load that has retired. -/
theorem State.resAt_retired {idx ebase sbase spitch rowlen n0 k0 soff bl : Nat} (hk : m.kind = .resl idx ebase sbase spitch rowlen n0 k0 soff bl)
    (h : m.accs = []) : (s.retired core m).resAt core idx = (s.resAt core idx).loaded := by
  have none_ : ((s.unqueue core m).loadedBy core m).write m.cells = (s.unqueue core m).modRes core idx Residency.loaded := by
    rw [MtxCmd.cells, h, State.loadedBy, hk]
    rfl
  rw [State.resAt, (s.retired_keeps core m).2.2, none_]
  refine (State.resAt_modRes_self _ core idx _).trans ?_
  rw [State.resAt, (s.core_unqueue core m).1]

end Retire

/-- Settles O30: a load and a multiply start by their own lemmas, and what retirement leaves is read off the machine it gives. -/
theorem arrayCommandsRun : Obligations.ArrayCommandsRun := by
  unfold Obligations.ArrayCommandsRun
  intro s core m rest hq now
  refine ⟨exec_matrixCommandStart_of_blocked hq, exec_matrixCommandRetire_of_idle hq, fun _ ready hp => ⟨?_, ?_⟩, fun started hp => ?_⟩
  · intro idx ebase sbase spitch rowlen n0 k0 soff bl hk hh quiet ek
    let g : LoadShape := { ebase := ebase, sbase := sbase, spitch := spitch, rowlen := rowlen, n0 := n0, k0 := k0, soff := soff, bl := bl }
    obtain ⟨u, reads, t, exec_, mem, res, queue⟩ := loadStarts (g := g) hq ready hp hh hk quiet
    refine ⟨t, exec_, mem, ?_⟩
    have here : now t idx = g.begun u core (m.source idx) (now s idx) := res
    rw [here]
    refine ⟨rfl, rfl, rfl, rfl, rfl, rfl, rfl, rfl, rfl, fun src hs => ?_, fun plain => if_neg (by simp [ek, plain]), ?_, ?_, queue⟩
    · simp [LoadShape.begun, MtxCmd.source, hs]
    · intro block hbl n hn b hb
      have scales : (g.begun u core (m.source idx) (now s idx)).scales = u.sramScales core soff bl (now s idx).cols := if_pos block
      rw [scales, u.get_sramScales core soff bl _ hn hbl hb, State.readN_of_mem reads.mem]
    · intro src hs n hn k hk j0
      have source : m.source idx = src := by simp [MtxCmd.source, hs]
      rw [source]
      refine (u.get_loadCodes ek g.view n0 k0 src hn hk).trans ?_
      rw [State.runBytes_of_mem reads.mem]
      rfl
  · intro fmt bl mp asoff plane s0 a0 gs ek hk hh he fresh
    let g : MmaShape := { core := core, bl := bl, mp := mp, asoff := asoff, plane := plane, s0 := s0, a0 := a0, ek := ek }
    exact multiplyStarts (g := g) rfl hq ready hp hh hk he fresh
  · refine ⟨_, exec_matrixCommandRetire_of_started hq started hp, s.mq_retired core m hq, s.op?_retired core m, ?_, s.byte_retired core m⟩
    intro idx ebase sbase spitch rowlen n0 k0 soff bl hk none_
    refine ⟨s.mem_retired_of_none core m none_, fun loading => ?_⟩
    have res : now (s.retired core m) idx = (now s idx).loaded := s.resAt_retired core m hk none_
    rw [res, Residency.loaded, if_pos loading]

end Sys2Proof.Machine
